-- ==== Sys2Proof/Word.lean ====
section
/-! DEFINITION. The word types: bytes, 64-bit register and table words. -/
namespace Sys2Proof

/-- One byte of a frame, an image or host memory. -/
abbrev Byte := BitVec 8
/-- A register value or one word of a table slot. -/
abbrev W64 := BitVec 64

end Sys2Proof
end

