-- ==== Sys2Proof/Syntax.lean ====
section
/-! DEFINITION. The commands of the block: one constructor per row of spec/opcode_table.json. What the row's summary
leaves to the outside (bytes on the wire or in host memory, a reading, the unit concerned) is an operand. -/
namespace Sys2Proof

/-- The commands. -/
inductive Instr where
  /-- FRAME_HEAD_RECEIVED (R12): the lane; the bytes received up to the parse depth, or all of a shorter frame, which `whole` tells; the place of the SFD's PCS stamp in the nanosecond in 2^−16 ns; the occupancy of the quad's ingress FIFO, and whether it is full; the frame comes as fragments of the MAC merge -/
  | frameHeadReceived (lane : Fin 64) (bytes : List Byte) (whole : Bool) (sub : BitVec 16) (fifo : Nat) (full : Bool) (pmac : Bool)
  /-- FRAME_TAIL_RECEIVED (R193): the lane; the bytes after those of the head; a PCS error in the frame; FEC codewords corrected and uncorrected; 0 for an express frame, else 1 reassembled, 2 assembly error, 3 SMD error -/
  | frameTailReceived (lane : Fin 64) (rest : List Byte) (codeError : Bool) (corrected : Nat) (uncorrected : Nat) (merge : Fin 4)
  /-- PAUSE_FRAME_RECEIVED (R82): the whole frame, FCS included -/
  | pauseFrameReceived (lane : Fin 64) (frame : List Byte)
  /-- PFC_FRAME_RECEIVED (R82): the whole frame, FCS included -/
  | pfcFrameReceived (lane : Fin 64) (frame : List Byte)
  /-- PAUSE_QUANTA_EXPIRY (R82) -/
  | pauseQuantaExpiry (lane : Fin 64)
  /-- PAUSE_REPEAT (R82) -/
  | pauseRepeat (lane : Fin 64)
  /-- PRESTATE_DEPART (R196): the Cellar way that the probe reads is uncorrectable -/
  | prestateDepart (quad : Fin 16) (wayBad : Bool)
  /-- DEEP_READ_COMPLETE (R217): the symbols in error on the pins, with the bits that are wrong -/
  | deepReadComplete (ch : Fin 64) (errors : List (Fin 32 × BitVec 16))
  /-- CASK_INSERT (R175): the ledger entry -/
  | caskInsert (tag : Fin 16384)
  /-- CASK_LOCK_TIMEOUT (R203) -/
  | caskLockTimeout
  /-- CASK_COMMIT (R194): the ledger entry -/
  | caskCommit (tag : Fin 16384)
  /-- CASK_INS_WINDOW_CLOSE (R179): the row pair, by its region and lower row -/
  | caskInsWindowClose (region : Fin 8) (row : Nat)
  /-- CASK_READS_PERIOD (R185) -/
  | caskReadsPeriod
  /-- CASK_AGE_SCAN (R208): the line that the scan reaches -/
  | caskAgeScan (line : BitVec 32)
  /-- TASK_DISPATCH (R267): the quarter -/
  | taskDispatch (quarter : Fin 4)
  /-- NODE_ISSUE (R258): the cell; what fails its parity on the fetch: 0 the node record, 1 to 3 the constant that A, B or C names -/
  | nodeIssue (cell : Fin 256) (bad : Option (Fin 4))
  /-- LOOKUP_NODE_COMPLETE (R259) -/
  | lookupNodeComplete
  /-- RUN_TIMEOUT (R277) -/
  | runTimeout
  /-- RUN_QUEUE_DEPART (R264): the quad -/
  | runQueueDepart (quad : Fin 16)
  /-- RECIRCULATION_REENTRY (R263) -/
  | recirculationReentry
  /-- ITEM_DISPATCH (R282): the Cellar way that the probe meets is uncorrectable -/
  | itemDispatch (wayBad : Bool)
  /-- QUARTER_QUIESCE_TIMEOUT (R279) -/
  | quarterQuiesceTimeout
  /-- COPY_VOQ_ENTER (R298): the ingress port (64 the host, 65 the device itself), the class and the Lode output -/
  | copyVoqEnter (ingress : Fin 66) (cls : Fin 64) (output : Fin 18)
  /-- LODE_CELL_TIME (R302): the plane and the cell time measured, in 1/16 ns; for the inputs whose launched cell is read from an uncorrectable line, its Mere cell number and the wrong payload bytes; the slices in which a line read was corrected -/
  | lodeCellTime (plane : Fin 4) (time : BitVec 12) (bad : List (Fin 18 × Nat × List (Nat × BitVec 8))) (corrected : List (Fin 16))
  /-- LODE_CELL_ARRIVE (R309): the plane and the output; the HCRC fails -/
  | lodeCellArrive (plane : Fin 4) (output : Fin 18) (hcrcBad : Bool)
  /-- RESEQ_TIMEOUT (R310) -/
  | reseqTimeout
  /-- PLANE_DRAINED (R307): the plane -/
  | planeDrained (plane : Fin 4)
  /-- LODE_CFG_WRITE (R307): the value written -/
  | lodeCfgWrite (value : BitVec 32)
  /-- EGRESS_CELLS_WRITE (R295): the register and the value written -/
  | egressCellsWrite (quad : Fin 16) (value : BitVec 32)
  /-- TRANSMISSION_SELECT (R329): the place of the SFD in the nanosecond in 2^−16 ns; how many bytes of the copy in transmission are on the wire, should it be preempted; the Mere cell that is uncorrectable when the copy is read, with the wrong bytes of the frame -/
  | transmissionSelect (port : Fin 64) (sub : BitVec 16) (sent : Nat) (bad : Option (Nat × List (Nat × BitVec 8)))
  /-- TRANSMIT_COMPLETE (R12): the port -/
  | transmitComplete (port : Fin 64)
  /-- CT_UNDERRUN (R314): the port, and how many bytes of the copy are on the wire -/
  | ctUnderrun (port : Fin 64) (sent : Nat)
  /-- EGRESS_FIFO_UNDERRUN (R18): the port, and how many bytes of the copy are on the wire -/
  | egressFifoUnderrun (port : Fin 64) (sent : Nat)
  /-- LINK_DOWN_TIMEOUT (R327): the port -/
  | linkDownTimeout (port : Fin 64)
  /-- HOLD_TIMEOUT (R333) -/
  | holdTimeout
  /-- GATE_ENTRY_CHANGE (R335): the port -/
  | gateEntryChange (port : Fin 64)
  /-- SET_AND_HOLD_ASSERT (R340): the port -/
  | setAndHoldAssert (port : Fin 64)
  /-- GCL_CONFIG_CHANGE (R337): the port -/
  | gclConfigChange (port : Fin 64)
  /-- GCL_CONFIG_START (R337): the port -/
  | gclConfigStart (port : Fin 64)
  /-- PREEMPT_VERIFY_DONE (R338): the port, and whether verify has succeeded -/
  | preemptVerifyDone (port : Fin 64) (ok : Bool)
  /-- SG_CONFIG_CHANGE (R343): the stream gate -/
  | sgConfigChange (gate : Fin 256)
  /-- SG_ENTRY_CHANGE (R343): the stream gate -/
  | sgEntryChange (gate : Fin 256)
  /-- AUTH_JOB_COMPLETE (R362): the core; the parity of the key slot fails -/
  | authJobComplete (core : Fin 8) (parityBad : Bool)
  /-- LOAD_CLEAR (R371) -/
  | loadClear
  /-- LOAD_WRAPPED (R371) -/
  | loadWrapped
  /-- KEY_ERASE (R373) -/
  | keyErase
  /-- READ_POLICY (R371) -/
  | readPolicy
  /-- KEY_CMD_COMPLETE (R373) -/
  | keyCmdComplete
  /-- AUTH_HJ_TAIL_WRITE (R376): the value written -/
  | authHjTailWrite (value : BitVec 32)
  /-- HJ_GMAC_GENERATE (R376): the descriptor as fetched, and the bytes at its ADDR -/
  | hjGmacGenerate (desc : List Byte) (data : List Byte)
  /-- HJ_GMAC_VERIFY (R376): the descriptor as fetched, and the bytes at its ADDR -/
  | hjGmacVerify (desc : List Byte) (data : List Byte)
  /-- HJ_CMAC_GENERATE (R376): the descriptor as fetched, and the bytes at its ADDR -/
  | hjCmacGenerate (desc : List Byte) (data : List Byte)
  /-- HJ_CMAC_VERIFY (R376): the descriptor as fetched, and the bytes at its ADDR -/
  | hjCmacVerify (desc : List Byte) (data : List Byte)
  /-- HJ_HMAC_GENERATE (R376): the descriptor as fetched, and the bytes at its ADDR -/
  | hjHmacGenerate (desc : List Byte) (data : List Byte)
  /-- HJ_HMAC_VERIFY (R376): the descriptor as fetched, and the bytes at its ADDR -/
  | hjHmacVerify (desc : List Byte) (data : List Byte)
  /-- HJ_SAVE (R375): the descriptor as fetched -/
  | hjSave (desc : List Byte) (data : List Byte)
  /-- HJ_RESTORE (R375): the descriptor as fetched, and the bytes at its ADDR -/
  | hjRestore (desc : List Byte) (data : List Byte)
  /-- TIME_RATE_WRITE (R383): the rate word written -/
  | timeRateWrite (value : BitVec 32)
  /-- TIME_SET (R384): the dword written to TIME_CMD -/
  | timeSet (value : BitVec 32)
  /-- TIME_ADJUST (R384): the dword written to TIME_CMD -/
  | timeAdjust (value : BitVec 32)
  /-- TIME_SNAP_READ (R385) -/
  | timeSnapRead
  /-- TREF_LOST (R386) -/
  | trefLost
  /-- TREF_RESTORED (R386): the lock time in µs -/
  | trefRestored (lockUs : Nat)
  /-- SYNC_TIMEOUT (R399) -/
  | syncTimeout (port : Fin 64)
  /-- SERVO_TIMEOUT (R399) -/
  | servoTimeout
  /-- RESIDENCE_TIMEOUT (R395) -/
  | residenceTimeout
  /-- TXTS_POP (R398) -/
  | txtsPop
  /-- LDELAY_MEASUREMENT (R400): the measurement in 2^-16 ns -/
  | ldelayMeasurement (port : Fin 64) (meas : BitVec 48)
  /-- TOUT_ARM (R402) -/
  | toutArm (n : Fin 16)
  /-- TOUT_DISARM (R402) -/
  | toutDisarm (n : Fin 16)
  /-- TOUT_EDGE (R401) -/
  | toutEdge (n : Fin 16)
  /-- TCAP_EDGE (R403): the edge's direction -/
  | tcapEdge (n : Fin 8) (falling : Bool)
  /-- TCAP_POP (R403) -/
  | tcapPop (n : Fin 8)
  /-- PPS_EDGE (R403) -/
  | ppsEdge
  /-- PPS_TIMEOUT (R403) -/
  | ppsTimeout
  /-- BATCH_BOUNDARY (R20) -/
  | batchBoundary
  /-- BOOT_LOAD (R40) -/
  | bootLoad
  /-- FULL_LOAD_HOST (R40) -/
  | fullLoadHost
  /-- FULL_LOAD_FLASH (R40) -/
  | fullLoadFlash
  /-- AMENDMENT_LOAD (R44) -/
  | amendmentLoad
  /-- RESTAGE_ORPHAN (R48) -/
  | restageOrphan
  /-- DISCARD_AMENDMENT (R50) -/
  | discardAmendment
  /-- FIRST_PASS_COMPLETE (R41): the bytes that the source gave in the first pass, and in the second pass of an amendment -/
  | firstPassComplete (image : List Byte) (again : List Byte)
  /-- INSTALL_COMPLETE (R42): the bytes that the source gave in the second pass -/
  | installComplete (again : List Byte)
  /-- BILL_FETCH_ERROR (R582) -/
  | billFetchError
  /-- CALIBRATION_PERIOD_END (R62): per region: real handshakes of the period and throughput in 1/256 of its requirement, as measured -/
  | calibrationPeriodEnd (readings : List (Nat × Nat × Nat))
  /-- PROBE_OFFSET_STEP (R61): per region: handshakes and mismatches at the offset that ends, as measured -/
  | probeOffsetStep (counts : List (Nat × Nat × Nat))
  /-- DELAY_CODE_APPLY (R63) -/
  | delayCodeApply (region : Fin 101)
  /-- HANDSHAKE_REPLAY (R64) -/
  | handshakeReplay (region : Fin 101)
  /-- FORCED_RECAL_START (R72): the dword written to CORE_RECAL_CMD -/
  | forcedRecalStart (value : BitVec 32)
  /-- FORCED_RECAL_COMPLETE (R73): the margin measured at each code, code 0 first -/
  | forcedRecalComplete (margins : List Nat)
  /-- LINK_UP (R79) -/
  | linkUp (lane : Fin 64)
  /-- NEGOTIATION_COMPLETE (R79): the result negotiated -/
  | negotiationComplete (lane : Fin 64) (result : BitVec 64)
  /-- LINK_DOWN (R83): SIGNAL and LOCK after the loss, and the bytes of the frame in transmission that are on the wire -/
  | linkDown (lane : Fin 64) (signal : Bool) (lock : Bool) (sent : Nat)
  /-- REMOTE_FAULT_RECEIVED (R83): the bytes of the frame in transmission that are on the wire -/
  | remoteFaultReceived (lane : Fin 64) (sent : Nat)
  /-- HIGH_BER (R94) -/
  | highBer (lane : Fin 64)
  /-- SGMII_SPEED_CHANGE (R80): the speed of the PHY's control word, as SPEED of PORT_LANEl_STATUS codes it, and the bytes of the frame in transmission that are on the wire -/
  | sgmiiSpeedChange (lane : Fin 64) (speed : Fin 3) (sent : Nat)
  /-- QUAD_REFCLK_LOST (R94) -/
  | quadRefclkLost (quad : Fin 16)
  /-- AN_RESTART (R79) -/
  | anRestart (lane : Fin 64)
  /-- LANE_CTRL_WRITE (R79): the value written, and the bytes of the frame in transmission that are on the wire -/
  | laneCtrlWrite (lane : Fin 64) (value : BitVec 32) (sent : Nat)
  /-- EQ_ADAPT_STEP (R88): port lane 0 to 63 or twin lane 64 to 79, and the direction in which each tap moves, CTLE first -/
  | eqAdaptStep (lane : Fin 80) (moves : List Int)
  /-- EYE_MEASURE (R89): the opening measured, in 2 mV and 1/64 UI -/
  | eyeMeasure (lane : Fin 64) (height : BitVec 8) (width : BitVec 8)
  /-- MDIO_ADDRESS (R90): the dword written to PORT_MDIOm_CMD -/
  | mdioAddress (bus : Fin 4) (value : BitVec 32)
  /-- MDIO_WRITE (R90): the dword written to PORT_MDIOm_CMD -/
  | mdioWrite (bus : Fin 4) (value : BitVec 32)
  /-- MDIO_READ (R90): the dword written to PORT_MDIOm_CMD -/
  | mdioRead (bus : Fin 4) (value : BitVec 32)
  /-- MDIO_READ_INC (R90): the dword written to PORT_MDIOm_CMD -/
  | mdioReadInc (bus : Fin 4) (value : BitVec 32)
  /-- MDIO_COMPLETE (R90): what a PHY answered; none when it is absent -/
  | mdioComplete (bus : Fin 4) (data : Option (BitVec 16))
  /-- I2C_READ (R91): the dword written to PORT_I2Cq_CMD -/
  | i2cRead (bus : Fin 16) (value : BitVec 32)
  /-- I2C_WRITE (R91): the dword written to PORT_I2Cq_CMD -/
  | i2cWrite (bus : Fin 16) (value : BitVec 32)
  /-- I2C_COMPLETE (R91): whether the target refused, and the bytes it sent -/
  | i2cComplete (bus : Fin 16) (nack : Bool) (data : List Byte)
  /-- I2C_TIMEOUT (R91) -/
  | i2cTimeout (bus : Fin 16)
  /-- COUNTER_LOW_READ (R93) -/
  | counterLowRead (lane : Fin 64) (k : Fin 22)
  /-- GRIST_CLSEL_WRITE (R580) -/
  | gristClselWrite (index : Fin 1024) (value : BitVec 32)
  /-- WINDOW_CAS (R136): BAR2 offset, compare and swap values -/
  | windowCas (addr : BitVec 32) (compare : BitVec 64) (swap : BitVec 64)
  /-- WINDOW_WRITE (R136): BAR2 offset and the bytes of one write transaction -/
  | windowWrite (addr : BitVec 32) (data : List Byte)
  /-- CASK_WINDOW_LOCK (R202): the slot of the cask aperture, the compare value and the swap value -/
  | caskWindowLock (slot : Fin 33554432) (compare : BitVec 64) (swap : BitVec 64)
  /-- CASK_WINDOW_READ (R201): the slot of the cask aperture, the offset in it and the length read -/
  | caskWindowRead (slot : Fin 33554432) (off : Nat) (len : Nat)
  /-- LOCK_HOLD_LIMIT_EXPIRY (R136) -/
  | lockHoldLimitExpiry
  /-- FWD_LOCK_TIMEOUT (R138) -/
  | fwdLockTimeout
  /-- FWD_PARITY_SCAN (R141): the entry that the scan reaches, and whether its parity is wrong -/
  | fwdParityScan (t : Fin 8) (slot : Nat) (bad : Bool)
  /-- INS_WINDOW_CLOSE (R129): the bucket group -/
  | insWindowClose (group : Fin 128)
  /-- FDB_REHASH_START (R130) -/
  | fdbRehashStart
  /-- FDB_REHASH_COMPLETE (R130) -/
  | fdbRehashComplete
  /-- FDB_AGE_SCAN (R131): the slot that the scan reaches -/
  | fdbAgeScan (slot : Fin 524288)
  /-- LPM_ROUTE_ENTERED (R133) -/
  | lpmRouteEntered
  /-- LEARN_REANNOUNCE (R128): the entry's slot -/
  | learnReannounce (slot : Fin 524288)
  /-- FWD_TBL_READ (R142) -/
  | fwdTblRead (t : Fin 8)
  /-- FWD_TBL_WRITE (R142) -/
  | fwdTblWrite (t : Fin 8)
  /-- FWD_TBL_INSERT (R142) -/
  | fwdTblInsert (t : Fin 8)
  /-- FWD_TBL_DELETE (R142) -/
  | fwdTblDelete (t : Fin 8)
  /-- FWD_TBL_SEARCH (R142) -/
  | fwdTblSearch (t : Fin 8)
  /-- FWD_TBL_CMD_COMPLETE (R143) -/
  | fwdTblCmdComplete (t : Fin 8)
  /-- LAUTER_READ (R148) -/
  | lauterRead
  /-- LAUTER_WRITE (R157) -/
  | lauterWrite
  /-- LAUTER_INSERT (R160) -/
  | lauterInsert
  /-- LAUTER_DELETE (R163) -/
  | lauterDelete
  /-- LAUTER_SEARCH (R153) -/
  | lauterSearch
  /-- LAUTER_STEP (R164) -/
  | lauterStep
  /-- LAUTER_ENTRY_MOVE (R161): the parity of the copied entry is wrong -/
  | lauterEntryMove (bad : Bool)
  /-- LAUTER_INSERT_COMPLETE (R160) -/
  | lauterInsertComplete
  /-- LAUTER_STEP_COMPLETE (R164) -/
  | lauterStepComplete
  /-- LAUTER_LOCK_TIMEOUT (R158) -/
  | lauterLockTimeout
  /-- LAUTER_PARITY_SCAN (R165): the slot that the scan reaches, and whether its parity is wrong -/
  | lauterParityScan (slot : Fin 65536) (bad : Bool)
  /-- CASK_CMD_READ (R206) -/
  | caskCmdRead
  /-- CASK_CMD_WRITE (R206) -/
  | caskCmdWrite
  /-- CASK_CMD_INSERT (R206) -/
  | caskCmdInsert
  /-- CASK_CMD_DELETE (R206) -/
  | caskCmdDelete
  /-- CASK_CMD_SEARCH (R206) -/
  | caskCmdSearch
  /-- CASK_CMD_PIN (R183) -/
  | caskCmdPin
  /-- CASK_CMD_UNPIN (R183) -/
  | caskCmdUnpin
  /-- CASK_CMD_FLUSH (R206) -/
  | caskCmdFlush
  /-- CASK_CMD_REPACK (R180) -/
  | caskCmdRepack
  /-- CASK_CMD_READ_ROW (R206) -/
  | caskCmdReadRow
  /-- CASK_CMD_COMPLETE (R207) -/
  | caskCmdComplete
  /-- DRAM_COMMAND_SLOT (R223): the demands of R223, by order number, that the timing parameters of R245 do not allow in this slot -/
  | dramCommandSlot (ch : Fin 64) (blocked : List Nat)
  /-- ROW_HOLD_TIMEOUT (R224): bank 8 × rank + bank -/
  | rowHoldTimeout (ch : Fin 64) (bank : Fin 16)
  /-- HINT_EXPIRY (R225): bank 8 × rank + bank -/
  | hintExpiry (ch : Fin 64) (bank : Fin 16)
  /-- REFRESH_DUE (R227) -/
  | refreshDue (ch : Fin 64) (rank : Fin 2)
  /-- MR4_POLL (R226): what MR4 reads -/
  | mr4Poll (ch : Fin 64) (rank : Fin 2) (value : BitVec 8)
  /-- CATCHUP_COMPLETE (R228) -/
  | catchupComplete (ch : Fin 64) (rank : Fin 2)
  /-- NR_RESEED (R230) -/
  | nrReseed (ch : Fin 64)
  /-- DEEP_CORR_WINDOW (R217) -/
  | deepCorrWindow (ch : Fin 64)
  /-- DQS_OSC_READ (R238): the count read, and the change of the write DQ delay, in steps, that the change of count converts into -/
  | dqsOscRead (ch : Fin 64) (rank : Fin 2) (count : BitVec 16) (shift : Int)
  /-- PROBE_WINDOW_END (R239) -/
  | probeWindowEnd (ch : Fin 64)
  /-- ZQ_START (R242) -/
  | zqStart (ch : Fin 64) (rank : Fin 2)
  /-- ZQ_LATCH (R242) -/
  | zqLatch (ch : Fin 64) (rank : Fin 2)
  /-- DEEP_RETRAIN (R243): the dword written to DEEP_CHc_CMD -/
  | deepRetrain (ch : Fin 64) (value : BitVec 32)
  /-- DEEP_ZQ_NOW (R248): the dword written to DEEP_CHc_CMD -/
  | deepZqNow (ch : Fin 64) (value : BitVec 32)
  /-- DEEP_READ_MR (R248): the dword written to DEEP_CHc_CMD, and what the mode register reads -/
  | deepReadMr (ch : Fin 64) (value : BitVec 32) (data : BitVec 8)
  /-- RETRAIN_COMPLETE (R244): per 16 × rank + pin: the margins left and right, the read centre and the write delay found -/
  | retrainComplete (ch : Fin 64) (eyes : List (Nat × Nat × Nat × Nat))
  /-- INITIAL_TRAINING_COMPLETE (R237): the step and pin of R237 at which training failed (step 0: the density read differs); else the eyes found, and the oscillator baseline of each rank -/
  | initialTrainingComplete (ch : Fin 64) (failed : Option (Fin 9 × Fin 16)) (eyes : List (Nat × Nat × Nat × Nat)) (counts : List (BitVec 16))
  /-- SR_QUEUES_EMPTY (R234) -/
  | srQueuesEmpty (ch : Fin 64)
  /-- SR_PRECHARGE_COMPLETE (R234) -/
  | srPrechargeComplete (ch : Fin 64)
  /-- SR_EXIT_COMPLETE (R234) -/
  | srExitComplete (ch : Fin 64)
  /-- DELTA_RX (R421): the twin frame with its trailer; the sequence numbers of deltas that find no free way, each with its Cellar set -/
  | deltaRx (lane : Fin 16) (frame : List Byte) (noWay : List (Nat × Nat))
  /-- COPY_RX (R437): the twin frame with its trailer; the sequence numbers of lines that find no free way, each with its Cellar set -/
  | copyRx (lane : Fin 16) (frame : List Byte) (noWay : List (Nat × Nat))
  /-- SEAL_RX (R422): the twin frame with its trailer -/
  | sealRx (lane : Fin 16) (frame : List Byte)
  /-- SEAL_CHECK (R422) -/
  | sealCheck
  /-- SEAL_ACK_RX (R423): the twin frame with its trailer -/
  | sealAckRx (lane : Fin 16) (frame : List Byte)
  /-- HEARTBEAT_RX (R426): the twin frame with its trailer -/
  | heartbeatRx (lane : Fin 16) (frame : List Byte)
  /-- HELLO_RX (R428): the twin frame with its trailer -/
  | helloRx (lane : Fin 16) (frame : List Byte)
  /-- JOIN_START_RX (R428): the twin frame with its trailer -/
  | joinStartRx (lane : Fin 16) (frame : List Byte)
  /-- JOIN_REFUSE_RX (R428): the twin frame with its trailer -/
  | joinRefuseRx (lane : Fin 16) (frame : List Byte)
  /-- COPY_DONE_RX (R428): the twin frame with its trailer -/
  | copyDoneRx (lane : Fin 16) (frame : List Byte)
  /-- DETACH_RX (R428): the twin frame with its trailer -/
  | detachRx (lane : Fin 16) (frame : List Byte)
  /-- AMEND_DATA_RX (R48): the twin frame with its trailer -/
  | amendDataRx (lane : Fin 16) (frame : List Byte)
  /-- AMEND_RESULT_RX (R48): the twin frame with its trailer -/
  | amendResultRx (lane : Fin 16) (frame : List Byte)
  /-- PROMOTED_RX (R428): the twin frame with its trailer -/
  | promotedRx (lane : Fin 16) (frame : List Byte)
  /-- TWIN_FRAME_TRANSMIT (R412): the lane with the fewest bytes queued, and how many deltas the frame may take -/
  | twinFrameTransmit (lane : Fin 16) (count : Nat)
  /-- TWIN_GAP_TIMEOUT (R421) -/
  | twinGapTimeout
  /-- IMAGE_DRAIN (R424) -/
  | imageDrain
  /-- HEARTBEAT_SEND (R426) -/
  | heartbeatSend
  /-- HEARTBEAT_MISS (R426) -/
  | heartbeatMiss
  /-- TWIN_LEAD (R434) -/
  | twinLead
  /-- TWIN_FOLLOW (R434) -/
  | twinFollow
  /-- TWIN_PROMOTE (R432): the fields of TWIN_CMD -/
  | twinPromote (fence : Bool) (fenced : Bool) (force : Bool)
  /-- TWIN_ALONE (R434) -/
  | twinAlone
  /-- TWIN_STOP (R434) -/
  | twinStop
  /-- TWIN_ADMIT (R434) -/
  | twinAdmit
  /-- TWIN_UNFENCE (R431) -/
  | twinUnfence
  /-- FENCE_WAIT_EXPIRY (R432) -/
  | fenceWaitExpiry
  /-- TW_FENCE_IN_CHANGE (R431): the level that has held for 100 ns, and for each port how many bytes of the frame in transmission have left -/
  | twFenceInChange (level : Bool) (sent : List Nat)
  /-- JOIN_ADMIT_TIMEOUT (R428) -/
  | joinAdmitTimeout
  /-- COPY_CURSOR_STEP (R437) -/
  | copyCursorStep
  /-- TWIN_LANE_UP (R409) -/
  | twinLaneUp (lane : Fin 16)
  /-- TWIN_LANE_DOWN (R412) -/
  | twinLaneDown (lane : Fin 16)
  /-- TWIN_EYE_MEASURE (R413): eye height in mV, and codewords corrected and not since the last measurement -/
  | twinEyeMeasure (lane : Fin 16) (height : BitVec 8) (corrected : Nat) (uncorrected : Nat)
  /-- FEN_LEARN_RX (R444): the frame with its FCS -/
  | fenLearnRx (port : Fin 64) (frame : List Byte)
  /-- FEN_HEARTBEAT_RX (R448): the frame with its FCS -/
  | fenHeartbeatRx (port : Fin 64) (frame : List Byte)
  /-- FEN_RESYNC_REQ_RX (R449): the frame with its FCS -/
  | fenResyncReqRx (port : Fin 64) (frame : List Byte)
  /-- FEN_DIGEST_RX (R449): the frame with its FCS -/
  | fenDigestRx (port : Fin 64) (frame : List Byte)
  /-- FEN_LEARN_SEND (R443) -/
  | fenLearnSend
  /-- FEN_DIGEST_SEND (R449) -/
  | fenDigestSend
  /-- FEN_HEARTBEAT_SEND (R448) -/
  | fenHeartbeatSend
  /-- FEN_MEMBER_LAPSE (R448) -/
  | fenMemberLapse
  /-- FEN_RESYNC (R449) -/
  | fenResync
  /-- FEN_MEMBER_CFG_WRITE (R441) -/
  | fenMemberCfgWrite (index : Fin 1024) (value : BitVec 64)
  /-- TICK_CLOSE (R456): the level of PMB_ALERT_N is low -/
  | tickClose (pmbAlert : Bool)
  /-- EVENT_RECORD_WRITE (R465) -/
  | eventRecordWrite
  /-- EVENT_RING_HEAD_WRITE (R465) -/
  | eventRingHeadWrite (value : BitVec 32)
  /-- EVENT_CFG_WRITE (R465) -/
  | eventCfgWrite (value : BitVec 32)
  /-- EVENT_ROUTE_WRITE (R464) -/
  | eventRouteWrite (source : Fin 4096) (value : BitVec 32)
  /-- EVENT_SOFT_WRITE (R472) -/
  | eventSoftWrite (value : BitVec 64)
  /-- VECTOR_HOLDOFF_EXPIRY (R471) -/
  | vectorHoldoffExpiry (vector : Fin 256)
  /-- PERF_SNAP (R479) -/
  | perfSnap
  /-- PERF_CLEAR_ALL (R478) -/
  | perfClearAll
  /-- PERF_CNT_VALUE_WRITE (R478) -/
  | perfCntValueWrite (index : Fin 1024) (value : BitVec 64)
  /-- PERF_CNT_CTL_WRITE (R478) -/
  | perfCntCtlWrite (index : Fin 1024) (value : BitVec 32)
  /-- BW_WINDOW_END (R481) -/
  | bwWindowEnd
  /-- PERF_BW_WINDOW_WRITE (R482) -/
  | perfBwWindowWrite (value : BitVec 32)
  /-- SAMPLE_RECORD_WRITE (R485) -/
  | sampleRecordWrite
  /-- HUMMOCK_IDLE_EXPIRY (R491) -/
  | hummockIdleExpiry (h : Fin 40)
  /-- POWER_SLEEP (R493) -/
  | powerSleep (h : Fin 40)
  /-- POWER_WAKE (R493) -/
  | powerWake (h : Fin 40)
  /-- POWER_SELFTEST (R497) -/
  | powerSelftest (h : Fin 40)
  /-- PREPARE_VOTE (R493) -/
  | prepareVote (h : Fin 40)
  /-- PREPARE_LIMIT_EXPIRY (R493) -/
  | prepareLimitExpiry (h : Fin 40)
  /-- ROLLBACK_RESUME_ACK (R493) -/
  | rollbackResumeAck (h : Fin 40)
  /-- POWER_GATED (R493) -/
  | powerGated (h : Fin 40)
  /-- WAKE_COMPLETE (R493) -/
  | wakeComplete (h : Fin 40)
  /-- SELFTEST_COMPLETE (R497): the first failing memory of the march test -/
  | selftestComplete (h : Fin 40) (firstFail : Option (BitVec 8))
  /-- FEN_WATCH_WINDOW (R495): what the window measured on lanes 0 to 3: amplitude in 2 mV, or valid code groups or sync headers -/
  | fenWatchWindow (quad : Fin 16) (readings : List Nat)
  /-- REGISTER_WRITE (R10): the BAR (0 BAR0, 1 BAR2, 2 BAR4), the offset, the bytes, whether the byte enables cover every dword, and for each port how many bytes of the frame in transmission are on the wire -/
  | registerWrite (bar : Fin 3) (addr : BitVec 32) (data : List Byte) (full : Bool) (sent : List Nat)
  /-- ATOMICOP_UNSUPPORTED (R509): the BAR (0 BAR0, 1 BAR2, 2 BAR4) and the offset -/
  | atomicopUnsupported (bar : Fin 3) (addr : BitVec 32)
  /-- HOST_ACC_STATUS_READ (R510) -/
  | hostAccStatusRead
  /-- RING_ENABLE (R515): the ring by its engine code of R528 (TX 0 to 15, RX 16 to 31, command queue 32 to 35), and the value written to its CFG -/
  | ringEnable (ring : Fin 36) (value : BitVec 32)
  /-- TX_RING_TAIL (R515): the value written -/
  | txRingTail (ring : Fin 16) (value : BitVec 32)
  /-- TX_DESCRIPTOR (R516): the descriptor that HEAD names, as fetched -/
  | txDescriptor (ring : Fin 16) (desc : List Byte)
  /-- TX_FRAME_CONSUMED (R517): the bytes at its ADDR -/
  | txFrameConsumed (ring : Fin 16) (data : List Byte)
  /-- RX_RING_TAIL (R519): the value written -/
  | rxRingTail (ring : Fin 16) (value : BitVec 32)
  /-- RX_FRAME_DELIVER (R518): the descriptors from HEAD on, as fetched -/
  | rxFrameDeliver (ring : Fin 16) (descs : List (List Byte))
  /-- CQ_TAIL (R521): the value written -/
  | cqTail (queue : Fin 4) (value : BitVec 32)
  /-- CQ_WRITE (R522): the command that HEAD names, as fetched -/
  | cqWrite (queue : Fin 4) (cmd : List Byte)
  /-- CQ_READ (R522): the command that HEAD names, as fetched -/
  | cqRead (queue : Fin 4) (cmd : List Byte)
  /-- CQ_WAIT (R522): the command that HEAD names, as fetched -/
  | cqWait (queue : Fin 4) (cmd : List Byte)
  /-- CQ_WAIT_POLL (R522) -/
  | cqWaitPoll (queue : Fin 4)
  /-- PCIE_LINK_DOWN (R525) -/
  | pcieLinkDown
  /-- PCIE_LINK_UP (R528): SPEED and WIDTH as HOST_LINK codes them -/
  | pcieLinkUp (speed : BitVec 3) (width : BitVec 4)
  /-- FUNCTION_LEVEL_RESET (R526) -/
  | functionLevelReset
  /-- DMA_READ_ERROR (R527): the engine code of R528; 0 timeout, 1 Unsupported Request, 2 Completer Abort, 3 poisoned data -/
  | dmaReadError (engine : Fin 52) (kind : Fin 4)
  /-- POWER_ON_RESET (R536) -/
  | powerOnReset
  /-- CHIP_RESET (R536): the level of PWRGOOD; for each port, how many bytes of the frame in transmission have left -/
  | chipReset (pwrgood : Bool) (sent : List Nat)
  /-- PCIE_FUNDAMENTAL_RESET (R536) -/
  | pcieFundamentalReset
  /-- JTAG_RESET (R536) -/
  | jtagReset
  /-- RESET_RELEASE (R542): the strap BOOT_SRC; TREF_IN is present; for each region the margins of codes 0 to 63 that boot calibration measured -/
  | resetRelease (bootHost : Bool) (tref : Bool) (margins : List (List Nat))
  /-- FUSE_PROG (R540): the data register, and the junction temperature in 0.25 °C -/
  | fuseProg (field : BitVec 8) (value : BitVec 256) (tj : BitVec 12)
  /-- FUSE_STATUS (R540) -/
  | fuseStatus
  /-- FUSE_PROGRAM_COMPLETE (R540) -/
  | fuseProgramComplete
  /-- TJ_SAMPLE (R570): the hottest sensor in 0.25 °C, two's complement -/
  | tjSample (tj : BitVec 12)
  /-- REGISTER_READ (R10): the BAR (0 BAR0, 1 BAR2, 2 BAR4), the offset and the length -/
  | registerRead (bar : Fin 3) (addr : BitVec 32) (len : Nat)
  /-- QUAD_REFCLK_RESTORED (R95) -/
  | quadRefclkRestored (quad : Fin 16)
deriving DecidableEq, Repr

end Sys2Proof
end

