-- ==== Sys2Proof/Config.lean ====
section
/-! DEFINITION. What the spec leaves open: constants without a body, so that no proof can see a value of theirs. -/
namespace Sys2Proof.Config

/-- A value the spec leaves open, drawn with a counter of the state that each use advances (assumption 2). -/
opaque freeNat : Nat → Nat

/-- How the 108 state bytes of a saved context (R375) spell a chaining state, and how they are read back; the spec gives
their place only (assumption 13). -/
opaque ctxImage : Nat → Nat
opaque ctxValue : Nat → Nat

/-- The code of an algorithm in bytes 0 and 1 of a saved context: 1 GMAC, 2 CMAC, 3 HMAC (assumption 13). -/
opaque ctxAlg : Nat → Nat

/-- The IV of an IEC 62351-6 AES-GMAC value, by the bytes of the PDU and its extension (assumption 14). -/
opaque pduIv : Nat → Nat

/-- Cells of the egress part of Lode output 17 (R296 gives no size), and the limit of the CPU port's queue in cells (R320
names it without a value) (assumption 15). -/
opaque recircCells : Nat
opaque cpuQueueLimit : Nat

end Sys2Proof.Config
end

