-- ==== Sys2Proof/Machine/Regs.lean ====
section
/-! DEFINITION. The register map of BAR0 (R504): one row per register or register array, written from the
register tables of the chapters, and the address of every register under the spec's own name. -/
namespace Sys2Proof.Machine

/-- One row of the register map (R10, R504): first address, dimensions of an array as (count, stride) with the
larger stride first, width in bytes, reset value, the bits of each access type of R10, and for the fields
that have reserved encodings (R11) the field's bits and the value ranges that are not reserved. -/
structure RegRow where
  base : Nat
  dims : List (Nat × Nat) := []
  width : Nat := 4
  reset : Nat := 0
  rw : Nat := 0
  ro : Nat := 0
  rc : Nat := 0
  w1s : Nat := 0
  w1c : Nat := 0
  wo : Nat := 0
  valid : List (Nat × Nat × List (Nat × Nat)) := []
deriving DecidableEq, Repr

namespace Reg

def CHIP_ID : Nat := 0x0
def CHIP_REV : Nat := 0x4
def CHIP_ORDER : Nat := 0x8
def CHIP_SERIAL : Nat := 0x10
def CHIP_STRAPS : Nat := 0x18
def CHIP_RST_CAUSE : Nat := 0x1c
def CHIP_TJ : Nat := 0x20
def CHIP_TJ_LIMIT : Nat := 0x24
def CHIP_ALERT : Nat := 0x28
def CHIP_SCRATCHn (n : Nat) : Nat := 0x40 + 0x4 * n
def BILL_CMD : Nat := 0x100000
def BILL_STATUS : Nat := 0x100004
def BILL_DETAIL : Nat := 0x100008
def BILL_SRC_ADDR : Nat := 0x100010
def BILL_SRC_LEN : Nat := 0x100018
def BILL_FLASH_OFFSET : Nat := 0x10001c
def BILL_TARGET_BATCH : Nat := 0x100020
def BILL_GEN : Nat := 0x100028
def BILL_COMPILER : Nat := 0x10002c
def BILL_KEYS : Nat := 0x100030
def BILL_REFUSALS : Nat := 0x100034
def BILL_HASHn (n : Nat) : Nat := 0x100040 + 0x4 * n
def CORE_CFG : Nat := 0x200000
def CORE_STATUS : Nat := 0x200004
def CORE_HEADROOM_THRESH : Nat := 0x200008
def CORE_ORDER : Nat := 0x20000c
def CORE_RECAL_CMD : Nat := 0x200010
def CORE_RECAL_STATUS : Nat := 0x200014
def CORE_REPLAY_LIMIT : Nat := 0x200018
def CORE_PERIODS : Nat := 0x20001c
def CORE_SLACKd (d : Nat) : Nat := 0x200040 + 0x4 * d
def CORE_REGn_STATUS (n : Nat) : Nat := 0x201000 + 0x10 * n
def CORE_REGn_REPLAYS (n : Nat) : Nat := 0x201004 + 0x10 * n
def CORE_REGn_HANDSHAKES (n : Nat) : Nat := 0x201008 + 0x10 * n
def CORE_REGn_THROUGHPUT (n : Nat) : Nat := 0x20100c + 0x10 * n
def PORT_Qq_STATUS (q : Nat) : Nat := 0x400000 + 0x10000 * q
def PORT_Qq_EYE_THRESH (q : Nat) : Nat := 0x400004 + 0x10000 * q
def PORT_Qq_PAUSE_QUANTA (q : Nat) : Nat := 0x400008 + 0x10000 * q
def PORT_Qq_IFIFO_PEAK (q : Nat) : Nat := 0x40000c + 0x10000 * q
def PORT_LANEl_CTRL (l : Nat) : Nat := 0x400100 + 0x10000 * (l / 4) + 0x100 * (l % 4)
def PORT_LANEl_STATUS (l : Nat) : Nat := 0x400104 + 0x10000 * (l / 4) + 0x100 * (l % 4)
def PORT_LANEl_EYE (l : Nat) : Nat := 0x400108 + 0x10000 * (l / 4) + 0x100 * (l % 4)
def PORT_LANEl_TXEQ (l : Nat) : Nat := 0x40010c + 0x10000 * (l / 4) + 0x100 * (l % 4)
def PORT_LANEl_MAX_LEN (l : Nat) : Nat := 0x400110 + 0x10000 * (l / 4) + 0x100 * (l % 4)
def PORT_LANEl_TS_RX (l : Nat) : Nat := 0x400114 + 0x10000 * (l / 4) + 0x100 * (l % 4)
def PORT_LANEl_TS_TX (l : Nat) : Nat := 0x400118 + 0x10000 * (l / 4) + 0x100 * (l % 4)
def PORT_LANEl_CNTk (l k : Nat) : Nat := 0x400800 + 0x10000 * (l / 4) + 0x100 * (l % 4) + 0x8 * k
def PORT_MDIOm_CFG (m : Nat) : Nat := 0x500000 + 0x20 * m
def PORT_MDIOm_CMD (m : Nat) : Nat := 0x500004 + 0x20 * m
def PORT_MDIOm_DATA (m : Nat) : Nat := 0x500008 + 0x20 * m
def PORT_I2Cq_CFG (q : Nat) : Nat := 0x500100 + 0x40 * q
def PORT_I2Cq_CMD (q : Nat) : Nat := 0x500104 + 0x40 * q
def PORT_I2Cq_STATUS (q : Nat) : Nat := 0x500108 + 0x40 * q
def PORT_I2Cq_DATAn (q n : Nat) : Nat := 0x500120 + 0x40 * q + 0x4 * n
def GRIST_SEED : Nat := 0x800000
def GRIST_FOLD_VALID : Nat := 0x800004
def GRIST_Qq_PROFILE (q : Nat) : Nat := 0x801000 + 0x100 * q
def GRIST_Qq_ENABLES (q : Nat) : Nat := 0x801004 + 0x100 * q
def GRIST_Qq_PORTS (q : Nat) : Nat := 0x801008 + 0x100 * q
def GRIST_Qq_RGOOSE (q : Nat) : Nat := 0x80100c + 0x100 * q
def GRIST_Qq_DEPTH_CNT (q : Nat) : Nat := 0x801010 + 0x100 * q
def GRIST_Qq_LENCONF_CNT (q : Nat) : Nat := 0x801014 + 0x100 * q
def GRIST_Qq_ANOM_DROP (q : Nat) : Nat := 0x801018 + 0x100 * q
def GRIST_Qq_ANOM_TRAP (q : Nat) : Nat := 0x80101c + 0x100 * q
def GRIST_Qq_UNFOLDED (q : Nat) : Nat := 0x801020 + 0x100 * q
def GRIST_Qq_HDR_PEAK (q : Nat) : Nat := 0x801024 + 0x100 * q
def GRIST_CLSELi (i : Nat) : Nat := 0x804000 + 0x4 * i
def FWD_CFG : Nat := 0xa00000
def FWD_LOCK_TIMEOUT : Nat := 0xa00004
def FWD_LOCK_HOLD_LIMIT : Nat := 0xa00008
def FWD_MOVE_DAMP : Nat := 0xa0000c
def FWD_LEARN_MARGIN : Nat := 0xa00010
def FWD_FDB_AGE : Nat := 0xa00014
def FWD_INS_THRESH : Nat := 0xa00018
def FWD_INS_WINDOW : Nat := 0xa0001c
def FWD_ROUTER_MAC : Nat := 0xa00020
def FWD_FDB_SEED0 : Nat := 0xa00030
def FWD_FDB_SEED1 : Nat := 0xa00034
def FWD_FDB_SEED2 : Nat := 0xa00038
def FWD_FDB_SEED3 : Nat := 0xa0003c
def FWD_FDB_SEED_NEXTw (w : Nat) : Nat := 0xa00040 + 0x4 * w
def FWD_FDB_REHASH : Nat := 0xa00050
def FWD_FDB_REHASH_STUCK : Nat := 0xa00054
def FWD_FDB_COUNT : Nat := 0xa00058
def FWD_LPM_PENDING : Nat := 0xa0005c
def FWD_INS_FAIL : Nat := 0xa00060
def FWD_MOVE_CONFLICTS : Nat := 0xa00064
def FWD_MOVES_DAMPED : Nat := 0xa00068
def FWD_STALE_LEARN : Nat := 0xa0006c
def FWD_LEARN_LOCKED : Nat := 0xa00070
def FWD_LOCK_TIMEOUTS : Nat := 0xa00074
def FWD_CHECK_FAILS : Nat := 0xa00078
def FWD_UNLOCKED_WR : Nat := 0xa0007c
def FWD_PARITY_ERRS : Nat := 0xa00080
def FWD_AGED : Nat := 0xa00084
def FWD_INGRESS_DROP : Nat := 0xa00088
def FWD_ECMP_EMPTY : Nat := 0xa0008c
def FWD_NH_DROPS : Nat := 0xa00090
def FWD_PORTp_CFG (p : Nat) : Nat := 0xa00100 + 0x4 * p
def FWD_TBLt_DATAw (t w : Nat) : Nat := 0xa01000 + 0x80 * t + 0x8 * w
def FWD_TBLt_CMD (t : Nat) : Nat := 0xa01040 + 0x80 * t
def FWD_TBLt_STATUS (t : Nat) : Nat := 0xa01044 + 0x80 * t
def FWD_TBLt_INDEX (t : Nat) : Nat := 0xa01048 + 0x80 * t
def LAUTER_CFG : Nat := 0xc00000
def LAUTER_LOCK_TIMEOUT : Nat := 0xc00004
def LAUTER_LOCK_HOLD_LIMIT : Nat := 0xc00008
def LAUTER_COUNT : Nat := 0xc0000c
def LAUTER_SCAN_PASSES : Nat := 0xc00010
def LAUTER_MOVE_CURSOR : Nat := 0xc00014
def LAUTER_PARITY_ERRS : Nat := 0xc00020
def LAUTER_LOCK_TIMEOUTS : Nat := 0xc00024
def LAUTER_CHECK_FAILS : Nat := 0xc00028
def LAUTER_UNLOCKED_WR : Nat := 0xc0002c
def LAUTER_TIES : Nat := 0xc00030
def LAUTER_INS_FULL : Nat := 0xc00034
def LAUTER_STEP_ADDR : Nat := 0xc00040
def LAUTER_STEP_MAX : Nat := 0xc00048
def LAUTER_STEP_COUNT : Nat := 0xc0004c
def LAUTER_DATAw (w : Nat) : Nat := 0xc00100 + 0x8 * w
def LAUTER_KEYw (w : Nat) : Nat := 0xc00180 + 0x8 * w
def LAUTER_PROF : Nat := 0xc001a8
def LAUTER_CMD : Nat := 0xc001c0
def LAUTER_CMD_STATUS : Nat := 0xc001c4
def LAUTER_INDEX : Nat := 0xc001c8
def CASK_LEDGER_CFG : Nat := 0x1000000
def CASK_CFG : Nat := 0x1000004
def CASK_LOCK_TIMEOUT : Nat := 0x1000008
def CASK_LOCK_HOLD_LIMIT : Nat := 0x100000c
def CASK_ORDER : Nat := 0x1000010
def CASK_SPILL_SHIFT : Nat := 0x1000014
def CASK_APERTURE_BASE : Nat := 0x1000018
def CASK_PIN_WAYS : Nat := 0x100001c
def CASK_INS_THRESH : Nat := 0x1000020
def CASK_INS_WINDOW : Nat := 0x1000024
def CASK_DISP_MAX : Nat := 0x1000028
def CASK_AGE_PERIOD : Nat := 0x100002c
def CASK_AGE_PERIOD_EFF : Nat := 0x1000030
def CASK_READS_LIMIT : Nat := 0x1000034
def CASK_LEDGER_STATUS : Nat := 0x1000040
def CASK_LEDGER_PEAK : Nat := 0x1000044
def CASK_DRAM_READS : Nat := 0x1000048
def CASK_PIN_COUNT : Nat := 0x100004c
def CASK_CELLAR_DIRTY : Nat := 0x1000050
def CASK_SPILL_ROWS : Nat := 0x1000054
def CASK_POISON_LAST : Nat := 0x1000058
def CASK_OPS : Nat := 0x1000060
def CASK_LINE_READS : Nat := 0x1000068
def CASK_CELLAR_HITS : Nat := 0x1000070
def CASK_CREATES : Nat := 0x1000078
def CASK_INS_FAIL : Nat := 0x1000080
def CASK_LOCK_TIMEOUTS : Nat := 0x1000084
def CASK_LOCK_READONLY : Nat := 0x1000088
def CASK_LOCK_REFUSED : Nat := 0x100008c
def CASK_CHECK_FAILS : Nat := 0x1000090
def CASK_UNLOCKED_WR : Nat := 0x1000094
def CASK_POISON_OPS : Nat := 0x1000098
def CASK_AGED_REMOVED : Nat := 0x100009c
def CASK_AGED_REPORTED : Nat := 0x10000a0
def CASK_VERDICT_DISCARDS : Nat := 0x10000a4
def CASK_PIN_REFUSED : Nat := 0x10000a8
def CASK_LOCKWAIT_REFUSED : Nat := 0x10000ac
def CASK_SECONDARY : Nat := 0x10000b0
def CASK_SPILLED : Nat := 0x10000b4
def CASK_SET_OVER : Nat := 0x10000b8
def CASK_DATAw (w : Nat) : Nat := 0x1000200 + 0x8 * w
def CASK_LINE : Nat := 0x1000280
def CASK_CMD : Nat := 0x1000288
def CASK_CMD_STATUS : Nat := 0x100028c
def CASK_BULK_ADDR : Nat := 0x1000290
def CASK_PSQq_STATUS (q : Nat) : Nat := 0x1001000 + 0x40 * q
def CASK_PSQq_PEAK (q : Nat) : Nat := 0x1001004 + 0x40 * q
def CASK_PSQq_FULL_DROP (q : Nat) : Nat := 0x1001008 + 0x40 * q
def CASK_PSQq_PRESSURE_DROP (q : Nat) : Nat := 0x100100c + 0x40 * q
def CASK_PSQq_PAUSES (q : Nat) : Nat := 0x1001010 + 0x40 * q
def CASK_PSQq_CLASSc (q c : Nat) : Nat := 0x1004000 + 0x100 * q + 0x4 * c
def DEEP_CHc_STATUS (c : Nat) : Nat := 0x1400000 + 0x10000 * c
def DEEP_CHc_CMD (c : Nat) : Nat := 0x1400004 + 0x10000 * c
def DEEP_CHc_CMD_STATUS (c : Nat) : Nat := 0x1400008 + 0x10000 * c
def DEEP_CHc_MR4 (c : Nat) : Nat := 0x140000c + 0x10000 * c
def DEEP_CHc_DEBT (c : Nat) : Nat := 0x1400010 + 0x10000 * c
def DEEP_CHc_QUEUE (c : Nat) : Nat := 0x1400014 + 0x10000 * c
def DEEP_CHc_QPEAK (c : Nat) : Nat := 0x1400018 + 0x10000 * c
def DEEP_CHc_EYEl (c l : Nat) : Nat := 0x140001c + 0x10000 * c + 0x4 * l
def DEEP_CHc_DQSOSC (c : Nat) : Nat := 0x1400024 + 0x10000 * c
def DEEP_CHc_ABORTS (c : Nat) : Nat := 0x1400028 + 0x10000 * c
def DEEP_CHc_CORRECTED (c : Nat) : Nat := 0x1400040 + 0x10000 * c
def DEEP_CHc_CORR_SYMBOLS (c : Nat) : Nat := 0x1400048 + 0x10000 * c
def DEEP_CHc_UNCORRECTABLE (c : Nat) : Nat := 0x1400050 + 0x10000 * c
def DEEP_CHc_READS (c : Nat) : Nat := 0x1400058 + 0x10000 * c
def DEEP_CHc_WRITES (c : Nat) : Nat := 0x1400060 + 0x10000 * c
def DEEP_CHc_ACTIVATES (c : Nat) : Nat := 0x1400068 + 0x10000 * c
def DEEP_CHc_ROW_HITS (c : Nat) : Nat := 0x1400070 + 0x10000 * c
def DEEP_CHc_RAW_FWD (c : Nat) : Nat := 0x1400078 + 0x10000 * c
def DEEP_CHc_NR_ISSUED (c : Nat) : Nat := 0x1400080 + 0x10000 * c
def DEEP_CHc_REFRESHES (c : Nat) : Nat := 0x1400088 + 0x10000 * c
def DEEP_CHc_AGE_CAPPED (c : Nat) : Nat := 0x1400090 + 0x10000 * c
def DEEP_CHc_NR_DROPPED (c : Nat) : Nat := 0x14000a0 + 0x10000 * c
def DEEP_CHc_PRED_BROKEN (c : Nat) : Nat := 0x14000a4 + 0x10000 * c
def DEEP_CHc_CATCHUPS (c : Nat) : Nat := 0x14000a8 + 0x10000 * c
def DEEP_CHc_PROBE_REREADS (c : Nat) : Nat := 0x14000ac + 0x10000 * c
def DEEP_CHc_PINi_CORR (c i : Nat) : Nat := 0x1400100 + 0x10000 * c + 0x4 * i
def DEEP_CHc_PINi_EYE (c i : Nat) : Nat := 0x1400180 + 0x10000 * c + 0x4 * i
def DEEP_CHc_PREDb (c b : Nat) : Nat := 0x1400200 + 0x10000 * c + 0x4 * b
def DEEP_CFG : Nat := 0x1408000
def DEEP_ORDER : Nat := 0x1408004
def DEEP_EYE_THRESH : Nat := 0x1408008
def DEEP_CORR_THRESH : Nat := 0x140800c
def DEEP_MAP : Nat := 0x1408010
def DEEP_FAILED : Nat := 0x1408018
def DEEP_ASLEEP : Nat := 0x1408020
def FERM_CFG : Nat := 0x1800000
def FERM_RUN_TIMEOUT : Nat := 0x1800004
def FERM_SLOT_CFG : Nat := 0x1800008
def FERM_QUIESCE : Nat := 0x180000c
def FERM_GRAPH_FREE : Nat := 0x1800010
def FERM_CONST_FREE : Nat := 0x1800014
def FERM_SLOTS_USED : Nat := 0x1800018
def FERM_SLOTS_PEAK : Nat := 0x180001c
def FERM_RUNS : Nat := 0x1800020
def FERM_OPS : Nat := 0x1800028
def FERM_TIMEOUTS : Nat := 0x1800040
def FERM_OVERFLOWS : Nat := 0x1800044
def FERM_PARITY_ERRS : Nat := 0x1800048
def FERM_RECIRC_DROPS : Nat := 0x180004c
def FERM_ITEM_DROPS : Nat := 0x1800050
def FERM_VERDICT_ABORTS : Nat := 0x1800054
def FERM_TRAPS : Nat := 0x1800058
def FERM_Qq_STATUS (q : Nat) : Nat := 0x1801000 + 0x100 * q
def FERM_Qq_READY (q : Nat) : Nat := 0x1801004 + 0x100 * q
def FERM_Qq_OPS (q : Nat) : Nat := 0x1801008 + 0x100 * q
def FERM_SQq_STATUS (q : Nat) : Nat := 0x1802000 + 0x10 * q
def FERM_SQq_DROPS (q : Nat) : Nat := 0x1802004 + 0x10 * q
def FERM_CELLn_STATUS (n : Nat) : Nat := 0x1804000 + 0x4 * n
def FERM_DOMd_CFG (d : Nat) : Nat := 0x1808000 + 0x4 * d
def FERM_ITEM_CLASSc (c : Nat) : Nat := 0x1808400 + 0x4 * c
def FERM_EVT_ITEMi (i : Nat) : Nat := 0x1808500 + 0x4 * i
def FERM_EVT_ITEM_EN : Nat := 0x1808540
def FERM_ITEM_STATUS : Nat := 0x1808544
def FERM_GRAPHg (g : Nat) : Nat := 0x1809000 + 0x8 * g
def FERM_NODEi (i : Nat) : Nat := 0x1900000 + 0x10 * i
def FERM_CONSTk (k : Nat) : Nat := 0x1a00000 + 0x8 * k
def FERM_CNTk_PACKETS (k : Nat) : Nat := 0x1a80000 + 0x10 * k
def FERM_CNTk_BYTES (k : Nat) : Nat := 0x1a80008 + 0x10 * k
def MERE_CFG : Nat := 0x1c00000
def MERE_POLICY : Nat := 0x1c00004
def MERE_DESC_FREE : Nat := 0x1c00008
def MERE_COPY_FREE : Nat := 0x1c0000c
def MERE_DESC_DROPS : Nat := 0x1c00010
def MERE_UNCORR_FRAMES : Nat := 0x1c00014
def MERE_SAMPLE_DROPS : Nat := 0x1c00018
def MERE_RECIRC_DROPS : Nat := 0x1c0001c
def MERE_PARTIAL_MC : Nat := 0x1c00020
def MERE_PORTp_CFG (p : Nat) : Nat := 0x1c00100 + 0x4 * p
def MERE_PORTp_SAMPLE (p : Nat) : Nat := 0x1c00200 + 0x4 * p
def MERE_PORTp_COPY_DROPS (p : Nat) : Nat := 0x1c00300 + 0x4 * p
def MERE_Qq_EGRESS_CELLS (q : Nat) : Nat := 0x1c01000 + 0x100 * q
def MERE_Qq_RX_RESERVE (q : Nat) : Nat := 0x1c01004 + 0x100 * q
def MERE_Qq_RESERVED (q : Nat) : Nat := 0x1c01008 + 0x100 * q
def MERE_Qq_FREE (q : Nat) : Nat := 0x1c0100c + 0x100 * q
def MERE_Qq_SHARED_FREE (q : Nat) : Nat := 0x1c01010 + 0x100 * q
def MERE_Qq_PEAK (q : Nat) : Nat := 0x1c01014 + 0x100 * q
def MERE_Qq_ADM_DROPS (q : Nat) : Nat := 0x1c01018 + 0x100 * q
def MERE_Qq_CORRECTED (q : Nat) : Nat := 0x1c0101c + 0x100 * q
def MERE_Qq_UNCORRECTABLE (q : Nat) : Nat := 0x1c01020 + 0x100 * q
def MERE_Qq_CT_STOMPED (q : Nat) : Nat := 0x1c01024 + 0x100 * q
def MERE_Qq_CT_UNDERRUN (q : Nat) : Nat := 0x1c01028 + 0x100 * q
def MERE_USEp_c (p c : Nat) : Nat := 0x1d00000 + 0x100 * p + 0x4 * c
def LODE_CFG : Nat := 0x1e00000
def LODE_STATUS : Nat := 0x1e00004
def LODE_ORDER : Nat := 0x1e00008
def LODE_RESEQ_TIMEOUT : Nat := 0x1e0000c
def LODE_PLANEp_CELLTIME (p : Nat) : Nat := 0x1e00010 + 0x4 * p
def LODE_PLANEp_MISSING (p : Nat) : Nat := 0x1e00020 + 0x4 * p
def LODE_PLANEp_HCRC_ERRS (p : Nat) : Nat := 0x1e00030 + 0x4 * p
def LODE_RESEQ_FULL : Nat := 0x1e00040
def LODE_RESEQ_PEAK : Nat := 0x1e00044
def LODE_INi_CELLS (i : Nat) : Nat := 0x1e00100 + 0x8 * i
def LODE_OUTo_CELLS (o : Nat) : Nat := 0x1e00200 + 0x8 * o
def LODE_PLp_GPTRo (p o : Nat) : Nat := 0x1e00400 + 0x100 * p + 0x4 * o
def LODE_PLp_APTRi (p i : Nat) : Nat := 0x1e00480 + 0x100 * p + 0x4 * i
def EGRESS_CFG : Nat := 0x2000000
def EGRESS_HOLD_TIMEOUT : Nat := 0x2000004
def EGRESS_DOWN_TIMEOUT : Nat := 0x2000008
def EGRESS_HELD : Nat := 0x200000c
def EGRESS_HELD_PEAK : Nat := 0x2000010
def EGRESS_HOLD_TIMEOUTS : Nat := 0x2000020
def EGRESS_TTL_EXPIRED : Nat := 0x2000024
def EGRESS_EDIT_FAILS : Nat := 0x2000028
def EGRESS_RCV_DUPLICATES : Nat := 0x200002c
def EGRESS_RCV_ROGUE : Nat := 0x2000030
def EGRESS_RCV_RESETS : Nat := 0x2000034
def EGRESS_RCV_NO_RECORD : Nat := 0x2000038
def EGRESS_PSFP_DROPS : Nat := 0x200003c
def EGRESS_CLASSc_RCV (c : Nat) : Nat := 0x2000400 + 0x4 * c
def EGRESS_PORTp_CFG (p : Nat) : Nat := 0x2010000 + 0x400 * p
def EGRESS_PORTp_SCHED (p : Nat) : Nat := 0x2010004 + 0x400 * p
def EGRESS_PORTp_PSHAPE (p : Nat) : Nat := 0x2010008 + 0x400 * p
def EGRESS_PORTp_STATUS (p : Nat) : Nat := 0x2010010 + 0x400 * p
def EGRESS_PORTp_ADMIN_GATES (p : Nat) : Nat := 0x2010014 + 0x400 * p
def EGRESS_PORTp_QCFGk (p k : Nat) : Nat := 0x2010040 + 0x400 * p + 0x10 * k
def EGRESS_PORTp_QBURSTk (p k : Nat) : Nat := 0x2010048 + 0x400 * p + 0x10 * k
def EGRESS_PORTp_GCL_BASE_S (p : Nat) : Nat := 0x2010100 + 0x400 * p
def EGRESS_PORTp_GCL_BASE_NS (p : Nat) : Nat := 0x2010108 + 0x400 * p
def EGRESS_PORTp_GCL_CYCLE (p : Nat) : Nat := 0x201010c + 0x400 * p
def EGRESS_PORTp_GCL_EXT (p : Nat) : Nat := 0x2010110 + 0x400 * p
def EGRESS_PORTp_GCL_LEN (p : Nat) : Nat := 0x2010114 + 0x400 * p
def EGRESS_PORTp_GCL_CMD (p : Nat) : Nat := 0x2010118 + 0x400 * p
def EGRESS_PORTp_TX_OVERRUN (p : Nat) : Nat := 0x2010200 + 0x400 * p
def EGRESS_PORTp_FRAG_TX (p : Nat) : Nat := 0x2010204 + 0x400 * p
def EGRESS_PORTp_HOLDS (p : Nat) : Nat := 0x2010208 + 0x400 * p
def EGRESS_PORTp_ASSY_OK (p : Nat) : Nat := 0x201020c + 0x400 * p
def EGRESS_PORTp_ASSY_ERR (p : Nat) : Nat := 0x2010210 + 0x400 * p
def EGRESS_PORTp_SMD_ERR (p : Nat) : Nat := 0x2010214 + 0x400 * p
def EGRESS_PORTp_DOWN_DROPS (p : Nat) : Nat := 0x2010218 + 0x400 * p
def EGRESS_PORTp_OVERSIZE (p : Nat) : Nat := 0x201021c + 0x400 * p
def EGRESS_PORTp_WRONG_LAN (p : Nat) : Nat := 0x2010220 + 0x400 * p
def EGRESS_PORTp_HELD_DISCARDS (p : Nat) : Nat := 0x2010224 + 0x400 * p
def EGRESS_PORTp_ADMINi (p i : Nat) : Nat := 0x2100000 + 0x4000 * p + 0x8 * i
def EGRESS_PORTp_OPERi (p i : Nat) : Nat := 0x2102000 + 0x4000 * p + 0x8 * i
def EGRESS_SFh (h : Nat) : Nat := 0x2200000 + 0x8 * h
def EGRESS_SFh_PASSED (h : Nat) : Nat := 0x2210000 + 0x10 * h
def EGRESS_SFh_DROPPED (h : Nat) : Nat := 0x2210008 + 0x10 * h
def EGRESS_SGg_BASE_S (g : Nat) : Nat := 0x2220000 + 0x40 * g
def EGRESS_SGg_BASE_NS (g : Nat) : Nat := 0x2220008 + 0x40 * g
def EGRESS_SGg_CYCLE (g : Nat) : Nat := 0x222000c + 0x40 * g
def EGRESS_SGg_LEN (g : Nat) : Nat := 0x2220010 + 0x40 * g
def EGRESS_SGg_CMD (g : Nat) : Nat := 0x2220014 + 0x40 * g
def EGRESS_SGg_ENTRYi (g i : Nat) : Nat := 0x2240000 + 0x200 * g + 0x8 * i
def EGRESS_FMm_CIR (m : Nat) : Nat := 0x2280000 + 0x20 * m
def EGRESS_FMm_CBS (m : Nat) : Nat := 0x2280004 + 0x20 * m
def EGRESS_FMm_EIR (m : Nat) : Nat := 0x2280008 + 0x20 * m
def EGRESS_FMm_EBS (m : Nat) : Nat := 0x228000c + 0x20 * m
def EGRESS_FMm_CFG (m : Nat) : Nat := 0x2280010 + 0x20 * m
def AUTH_CFG : Nat := 0x2400000
def AUTH_PN_GUARD : Nat := 0x2400008
def AUTH_PN_WARN : Nat := 0x2400010
def AUTH_HOST_SHARE : Nat := 0x2400014
def AUTH_STATUS : Nat := 0x2400018
def AUTH_HJ_BASE : Nat := 0x2400020
def AUTH_HC_BASE : Nat := 0x2400028
def AUTH_HJ_SIZE : Nat := 0x2400030
def AUTH_HJ_TAIL : Nat := 0x2400034
def AUTH_HJ_HEAD : Nat := 0x2400038
def AUTH_VERIFY_OK : Nat := 0x2400040
def AUTH_FAIL_ICV : Nat := 0x2400048
def AUTH_FAIL_NO_TAG : Nat := 0x240004c
def AUTH_FAIL_NO_SA : Nat := 0x2400050
def AUTH_FAIL_SA_UNUSED : Nat := 0x2400054
def AUTH_FAIL_REPLAY : Nat := 0x2400058
def AUTH_FAIL_CONF : Nat := 0x240005c
def AUTH_FAIL_KEY : Nat := 0x2400060
def AUTH_FAIL_PN : Nat := 0x2400064
def AUTH_FAIL_TRUNC : Nat := 0x2400068
def AUTH_FAIL_ABORTED : Nat := 0x240006c
def AUTH_FAIL_BUSY : Nat := 0x2400070
def AUTH_CHECK_PASSED : Nat := 0x2400074
def AUTH_CT_STOMPED : Nat := 0x2400078
def AUTH_TX_NO_SA : Nat := 0x240007c
def AUTH_COREn_JOBS (n : Nat) : Nat := 0x2400100 + 0x20 * n
def AUTH_COREn_BYTES (n : Nat) : Nat := 0x2400108 + 0x20 * n
def AUTH_COREn_STATUS (n : Nat) : Nat := 0x2400110 + 0x20 * n
def AUTH_KEY_DATAw (w : Nat) : Nat := 0x2400200 + 0x4 * w
def AUTH_KEY_SLOT : Nat := 0x2400260
def AUTH_KEY_POLICY : Nat := 0x2400264
def AUTH_KEY_CMD : Nat := 0x2400268
def AUTH_KEY_STATUS : Nat := 0x240026c
def AUTH_CLASSc_CFG (c : Nat) : Nat := 0x2400400 + 0x4 * c
def AUTH_SAs_CFG (s : Nat) : Nat := 0x2410000 + 0x40 * s
def AUTH_SAs_SSCI (s : Nat) : Nat := 0x2410004 + 0x40 * s
def AUTH_SAs_SALTn (s n : Nat) : Nat := 0x2410008 + 0x40 * s + 0x4 * n
def AUTH_SAs_NEXT_PN (s : Nat) : Nat := 0x2410018 + 0x40 * s
def AUTH_SAs_WINDOW (s : Nat) : Nat := 0x2410020 + 0x40 * s
def AUTH_SAs_SCI (s : Nat) : Nat := 0x2410028 + 0x40 * s
def AUTH_RXSCi_SCI (i : Nat) : Nat := 0x2430000 + 0x10 * i
def AUTH_RXSCi_SA (i : Nat) : Nat := 0x2430008 + 0x10 * i
def AUTH_PORTp_TX (p : Nat) : Nat := 0x2434000 + 0x8 * p
def TIME_CFG : Nat := 0x2600000
def TIME_STATUS : Nat := 0x2600004
def TIME_RATE : Nat := 0x2600008
def TIME_SNAP_S : Nat := 0x2600010
def TIME_SNAP_NS : Nat := 0x2600018
def TIME_SNAP_SUBNS : Nat := 0x260001c
def TIME_SNAP_TICK : Nat := 0x2600020
def TIME_SET_S : Nat := 0x2600028
def TIME_SET_NS : Nat := 0x2600030
def TIME_SET_SUBNS : Nat := 0x2600034
def TIME_ADJ : Nat := 0x2600038
def TIME_CMD : Nat := 0x2600040
def TIME_SYNC_TIMEOUT : Nat := 0x2600044
def TIME_SERVO_TIMEOUT : Nat := 0x2600048
def TIME_FU_TIMEOUT : Nat := 0x260004c
def TIME_LDELAY_TOL : Nat := 0x2600050
def TIME_SLACK_THRESH : Nat := 0x2600054
def TIME_RES_USED : Nat := 0x2600058
def TIME_PPS_S : Nat := 0x2600060
def TIME_PPS_NS : Nat := 0x2600068
def TIME_PPS_SUBNS : Nat := 0x260006c
def TIME_TXTS_HEAD0 : Nat := 0x2600070
def TIME_TXTS_HEAD1 : Nat := 0x2600078
def TIME_TXTS_POP : Nat := 0x2600080
def TIME_TXTS_LEVEL : Nat := 0x2600084
def TIME_ONESTEP : Nat := 0x2600090
def TIME_ONESTEP_SKIP : Nat := 0x2600094
def TIME_RES_RECORDED : Nat := 0x2600098
def TIME_RES_ADDED : Nat := 0x260009c
def TIME_RES_MISS : Nat := 0x26000a0
def TIME_RES_FULL : Nat := 0x26000a4
def TIME_TXTS_OVF : Nat := 0x26000a8
def TIME_PORTp_CFG (p : Nat) : Nat := 0x2601000 + 0x40 * p
def TIME_PORTp_BRD_RX (p : Nat) : Nat := 0x2601004 + 0x40 * p
def TIME_PORTp_BRD_TX (p : Nat) : Nat := 0x2601008 + 0x40 * p
def TIME_PORTp_ASYM (p : Nat) : Nat := 0x260100c + 0x40 * p
def TIME_PORTp_LDELAY (p : Nat) : Nat := 0x2601010 + 0x40 * p
def TIME_PORTp_LDELAY_MEAS (p : Nat) : Nat := 0x2601018 + 0x40 * p
def TIME_PORTp_STATUS (p : Nat) : Nat := 0x2601020 + 0x40 * p
def TIME_PORTp_GM (p : Nat) : Nat := 0x2601028 + 0x40 * p
def TIME_TOUTn_CFG (n : Nat) : Nat := 0x2604000 + 0x40 * n
def TIME_TOUTn_START_S (n : Nat) : Nat := 0x2604008 + 0x40 * n
def TIME_TOUTn_START_NS (n : Nat) : Nat := 0x2604010 + 0x40 * n
def TIME_TOUTn_PERIOD (n : Nat) : Nat := 0x2604018 + 0x40 * n
def TIME_TOUTn_WIDTH (n : Nat) : Nat := 0x2604020 + 0x40 * n
def TIME_TOUTn_OFFSET (n : Nat) : Nat := 0x2604024 + 0x40 * n
def TIME_TOUTn_CMD (n : Nat) : Nat := 0x2604028 + 0x40 * n
def TIME_TOUTn_STATUS (n : Nat) : Nat := 0x260402c + 0x40 * n
def TIME_TCAPn_CFG (n : Nat) : Nat := 0x2605000 + 0x40 * n
def TIME_TCAPn_DELAY (n : Nat) : Nat := 0x2605004 + 0x40 * n
def TIME_TCAPn_HEAD_S (n : Nat) : Nat := 0x2605008 + 0x40 * n
def TIME_TCAPn_HEAD_NS (n : Nat) : Nat := 0x2605010 + 0x40 * n
def TIME_TCAPn_HEAD_SUBNS (n : Nat) : Nat := 0x2605014 + 0x40 * n
def TIME_TCAPn_POP (n : Nat) : Nat := 0x2605018 + 0x40 * n
def TIME_TCAPn_LEVEL (n : Nat) : Nat := 0x260501c + 0x40 * n
def TIME_TCAPn_OVF (n : Nat) : Nat := 0x2605020 + 0x40 * n
def TWIN_CFG : Nat := 0x2800000
def TWIN_ORDER : Nat := 0x2800004
def TWIN_CMD : Nat := 0x2800008
def TWIN_CMD_STATUS : Nat := 0x280000c
def TWIN_STATUS : Nat := 0x2800010
def TWIN_BATCH : Nat := 0x2800018
def TWIN_SEALED : Nat := 0x2800020
def TWIN_PEER_HASH : Nat := 0x2800028
def TWIN_GRACE : Nat := 0x2800030
def TWIN_LOSS_LIMIT : Nat := 0x2800034
def TWIN_FENCE_WAIT : Nat := 0x2800038
def TWIN_GAP_TIMEOUT : Nat := 0x280003c
def TWIN_SEAL_LAT : Nat := 0x2800040
def TWIN_SEAL_LAT_PEAK : Nat := 0x2800044
def TWIN_DSTORE : Nat := 0x2800048
def TWIN_DSTORE_PEAK : Nat := 0x280004c
def TWIN_STAGE : Nat := 0x2800050
def TWIN_COPY_CURSOR : Nat := 0x2800058
def TWIN_EYE_THRESH : Nat := 0x2800060
def TWIN_DELTAS_TX : Nat := 0x2800080
def TWIN_DELTAS_RX : Nat := 0x2800088
def TWIN_NAKS : Nat := 0x2800090
def TWIN_REPLAYS : Nat := 0x2800094
def TWIN_CRC_FAILS : Nat := 0x2800098
def TWIN_CMAC_FAILS : Nat := 0x280009c
def TWIN_DSTORE_STALLS : Nat := 0x28000a0
def TWIN_STAGE_OVF : Nat := 0x28000a4
def TWIN_FOLLOWER_DROPS : Nat := 0x28000a8
def TWIN_LANEl_CTRL (l : Nat) : Nat := 0x2801000 + 0x40 * l
def TWIN_LANEl_STATUS (l : Nat) : Nat := 0x2801004 + 0x40 * l
def TWIN_LANEl_FEC_CORR (l : Nat) : Nat := 0x2801008 + 0x40 * l
def TWIN_LANEl_FEC_UNCORR (l : Nat) : Nat := 0x2801010 + 0x40 * l
def TWIN_LANEl_FRAMES (l : Nat) : Nat := 0x2801018 + 0x40 * l
def FEN_CFG : Nat := 0x2a00000
def FEN_DEV_ID : Nat := 0x2a00004
def FEN_SRC_MAC : Nat := 0x2a00008
def FEN_GROUP_MAC : Nat := 0x2a00010
def FEN_VID : Nat := 0x2a00018
def FEN_HB_PERIOD : Nat := 0x2a0001c
def FEN_HB_LAPSE : Nat := 0x2a00020
def FEN_RATE : Nat := 0x2a00024
def FEN_HOP_LIMIT : Nat := 0x2a00028
def FEN_CMD : Nat := 0x2a0002c
def FEN_STATUS : Nat := 0x2a00030
def FEN_TX_SEQ : Nat := 0x2a00034
def FEN_KEY : Nat := 0x2a00038
def FEN_TX_MSGS : Nat := 0x2a00040
def FEN_RX_MSGS : Nat := 0x2a00044
def FEN_RX_AUTH_FAIL : Nat := 0x2a00048
def FEN_RX_REPLAY : Nat := 0x2a0004c
def FEN_RX_UNKNOWN : Nat := 0x2a00050
def FEN_RX_DUP : Nat := 0x2a00054
def FEN_RELAYED : Nat := 0x2a00058
def FEN_RATE_DROPS : Nat := 0x2a0005c
def FEN_MEMBERi_CFG (i : Nat) : Nat := 0x2a10000 + 0x10 * i
def FEN_MEMBERi_STATE (i : Nat) : Nat := 0x2a10008 + 0x10 * i
def EVENT_CFG : Nat := 0x2c00000
def EVENT_RING_BASE : Nat := 0x2c00008
def EVENT_RING_SIZE : Nat := 0x2c00010
def EVENT_RING_HEAD : Nat := 0x2c00014
def EVENT_RING_TAIL : Nat := 0x2c00018
def EVENT_TAIL_WB_ADDR : Nat := 0x2c00020
def EVENT_SEQ : Nat := 0x2c00028
def EVENT_STAGE : Nat := 0x2c0002c
def EVENT_STAGE_PEAK : Nat := 0x2c00030
def EVENT_STAGE_THRESH : Nat := 0x2c00034
def EVENT_LOST : Nat := 0x2c00038
def EVENT_RING_FULL_TICKS : Nat := 0x2c0003c
def EVENT_FORMED : Nat := 0x2c00040
def EVENT_SOFT : Nat := 0x2c00048
def EVENT_VECv_CFG (v : Nat) : Nat := 0x2c01000 + 0x4 * v
def EVENT_VECv_PEND (v : Nat) : Nat := 0x2c01400 + 0x4 * v
def EVENT_SRCs_ROUTE (s : Nat) : Nat := 0x2c04000 + 0x4 * s
def EVENT_SRCs_COUNT (s : Nat) : Nat := 0x2c08000 + 0x4 * s
def PERF_CFG : Nat := 0x2e00000
def PERF_CMD : Nat := 0x2e00004
def PERF_SNAP_TICK : Nat := 0x2e00008
def PERF_SNAP_SEQ : Nat := 0x2e00010
def PERF_BW_WINDOW : Nat := 0x2e00020
def PERF_OVFw (w : Nat) : Nat := 0x2e00100 + 0x4 * w
def PERF_PS_CFG : Nat := 0x2e00400
def PERF_PS_N : Nat := 0x2e00404
def PERF_PS_RING_BASE : Nat := 0x2e00408
def PERF_PS_RING_SIZE : Nat := 0x2e00410
def PERF_PS_RING_HEAD : Nat := 0x2e00414
def PERF_PS_RING_TAIL : Nat := 0x2e00418
def PERF_PS_TAIL_WB_ADDR : Nat := 0x2e00420
def PERF_PS_LEVEL : Nat := 0x2e00428
def PERF_PS_LOST : Nat := 0x2e0042c
def PERF_PS_TAKEN : Nat := 0x2e00430
def PERF_CNTi_CTL (i : Nat) : Nat := 0x2e10000 + 0x10 * i
def PERF_CNTi_VALUE (i : Nat) : Nat := 0x2e10008 + 0x10 * i
def PERF_SNAPi (i : Nat) : Nat := 0x2e20000 + 0x8 * i
def PERF_BWp_CFG (p : Nat) : Nat := 0x2e30000 + 0x40 * p
def PERF_BWp_WINDOW_NO (p : Nat) : Nat := 0x2e30004 + 0x40 * p
def PERF_BWp_RX_BYTES (p : Nat) : Nat := 0x2e30008 + 0x40 * p
def PERF_BWp_TX_BYTES (p : Nat) : Nat := 0x2e30010 + 0x40 * p
def PERF_BWp_RX_FRAMES (p : Nat) : Nat := 0x2e30018 + 0x40 * p
def PERF_BWp_TX_FRAMES (p : Nat) : Nat := 0x2e30020 + 0x40 * p
def PERF_BWp_END_NS (p : Nat) : Nat := 0x2e30028 + 0x40 * p
def PERF_BWp_FLAGS (p : Nat) : Nat := 0x2e30030 + 0x40 * p
def POWER_PREPARE_LIMIT : Nat := 0x3000000
def POWER_ASLEEP : Nat := 0x3000008
def POWER_LAST_REFUSER : Nat := 0x3000010
def POWER_Hh_TEST (h : Nat) : Nat := 0x3000800 + 0x4 * h
def POWER_Hh_TEST_BUSY (h : Nat) : Nat := 0x3000900 + 0x4 * h
def POWER_Hh_CFG (h : Nat) : Nat := 0x3000100 + 0x20 * h
def POWER_Hh_IDLE (h : Nat) : Nat := 0x3000104 + 0x20 * h
def POWER_Hh_FW (h : Nat) : Nat := 0x3000108 + 0x20 * h
def POWER_Hh_CMD (h : Nat) : Nat := 0x300010c + 0x20 * h
def POWER_Hh_STATUS (h : Nat) : Nat := 0x3000110 + 0x20 * h
def POWER_Hh_REFUSED (h : Nat) : Nat := 0x3000114 + 0x20 * h
def POWER_Hh_ABORTED (h : Nat) : Nat := 0x3000118 + 0x20 * h
def POWER_Hh_ENTRIES (h : Nat) : Nat := 0x300011c + 0x20 * h
def HOST_CFG : Nat := 0x3200000
def HOST_ACC_STATUS : Nat := 0x3200010
def HOST_ACC_ADDR : Nat := 0x3200018
def HOST_LINK : Nat := 0x3200030
def HOST_LINK_LOSSES : Nat := 0x3200034
def HOST_VEC_AUTH : Nat := 0x3200038
def HOST_CPU_CELLS : Nat := 0x320003c
def HOST_RXSELc (c : Nat) : Nat := 0x3200100 + 0x4 * c
def HOST_TXt_BASE (t : Nat) : Nat := 0x3201000 + 0x40 * t
def HOST_TXt_HEAD_WB (t : Nat) : Nat := 0x3201010 + 0x40 * t
def HOST_TXt_CFG (t : Nat) : Nat := 0x3201018 + 0x40 * t
def HOST_TXt_TAIL (t : Nat) : Nat := 0x320101c + 0x40 * t
def HOST_TXt_HEAD (t : Nat) : Nat := 0x3201020 + 0x40 * t
def HOST_TXt_FRAMES (t : Nat) : Nat := 0x3201028 + 0x40 * t
def HOST_TXt_BAD (t : Nat) : Nat := 0x3201030 + 0x40 * t
def HOST_TXt_DROPS (t : Nat) : Nat := 0x3201034 + 0x40 * t
def HOST_RXr_BASE (r : Nat) : Nat := 0x3202000 + 0x40 * r
def HOST_RXr_CMPL (r : Nat) : Nat := 0x3202008 + 0x40 * r
def HOST_RXr_CFG (r : Nat) : Nat := 0x3202018 + 0x40 * r
def HOST_RXr_TAIL (r : Nat) : Nat := 0x320201c + 0x40 * r
def HOST_RXr_HEAD (r : Nat) : Nat := 0x3202020 + 0x40 * r
def HOST_RXr_FRAMES (r : Nat) : Nat := 0x3202028 + 0x40 * r
def HOST_RXr_NOBUF (r : Nat) : Nat := 0x3202030 + 0x40 * r
def HOST_CQq_BASE (q : Nat) : Nat := 0x3203000 + 0x40 * q
def HOST_CQq_CMPL (q : Nat) : Nat := 0x3203008 + 0x40 * q
def HOST_CQq_CFG (q : Nat) : Nat := 0x3203018 + 0x40 * q
def HOST_CQq_TAIL (q : Nat) : Nat := 0x320301c + 0x40 * q
def HOST_CQq_HEAD (q : Nat) : Nat := 0x3203020 + 0x40 * q
def HOST_CQq_CMDS (q : Nat) : Nat := 0x3203028 + 0x40 * q
def HOST_CQq_FAILS (q : Nat) : Nat := 0x3203030 + 0x40 * q
def HOST_MSIXv_ADDR (v : Nat) : Nat := 0x3300000 + 0x10 * v
def HOST_MSIXv_DATA (v : Nat) : Nat := 0x3300008 + 0x10 * v
def HOST_MSIXv_CTL (v : Nat) : Nat := 0x330000c + 0x10 * v
def HOST_MSIX_PBAw (w : Nat) : Nat := 0x3301000 + 0x8 * w

end Reg

/-- The registers of block CHIP (R530(19),R570(22)). -/
def rowsChip : List RegRow := [
  { base := 0x0, reset := 0x57496416, ro := 0xffffffff },
  { base := 0x4, reset := 0xb0, ro := 0xff },
  { base := 0x8, ro := 0x1 },
  { base := 0x10, width := 8, ro := 0xffffffffffffffff },
  { base := 0x18, ro := 0x1 },
  { base := 0x1c, rc := 0x7 },
  { base := 0x20, ro := 0xfff },
  { base := 0x24, reset := 0x1b8, rw := 0xfff },
  { base := 0x28, ro := 0x3 },
  { base := 0x40, dims := [(4, 0x4)], rw := 0xffffffff }]

/-- The registers of block BILL (R53(02)). -/
def rowsBill : List RegRow := [
  { base := 0x100000, wo := 0xf, valid := [(3, 0, [(0, 5)])] },
  { base := 0x100004, ro := 0xffff3f },
  { base := 0x100008, ro := 0xffffffff },
  { base := 0x100010, width := 8, rw := 0xffffffffffffffff },
  { base := 0x100018, rw := 0xffffffff },
  { base := 0x10001c, rw := 0xffffffff },
  { base := 0x100020, width := 8, rw := 0xffffffffffff },
  { base := 0x100028, ro := 0xffff },
  { base := 0x10002c, ro := 0xffffffff },
  { base := 0x100030, ro := 0xf },
  { base := 0x100034, rc := 0xffffffff },
  { base := 0x100040, dims := [(8, 0x4)], ro := 0xffffffff }]

/-- The registers of block CORE (R74(03)). -/
def rowsCore : List RegRow := [
  { base := 0x200000, reset := 0x463, rw := 0x7ff, valid := [(3, 0, [(1, 15)]), (7, 4, [(1, 15)]), (9, 8, [(0, 2)])] },
  { base := 0x200004, ro := 0x1ff0fff },
  { base := 0x200008, reset := 0x10d, rw := 0xfff },
  { base := 0x20000c, rw := 0x1 },
  { base := 0x200010, wo := 0x8000007f, valid := [(6, 0, [(0, 100)])] },
  { base := 0x200014, ro := 0x3f03ff },
  { base := 0x200018, reset := 0x10, rw := 0xffffffff },
  { base := 0x20001c, ro := 0xffffffff },
  { base := 0x200040, dims := [(5, 0x4)], ro := 0x80ffffff },
  { base := 0x201000, dims := [(101, 0x10)], reset := 0x20, ro := 0xf0f3f, rc := 0xf000 },
  { base := 0x201004, dims := [(101, 0x10)], rc := 0xffffffff },
  { base := 0x201008, dims := [(101, 0x10)], ro := 0xffffffff },
  { base := 0x20100c, dims := [(101, 0x10)], ro := 0xfff }]

/-- The registers of block PORT (R95(04)). -/
def rowsPort : List RegRow := [
  { base := 0x400000, dims := [(16, 0x10000)], ro := 0x3 },
  { base := 0x400004, dims := [(16, 0x10000)], reset := 0xf, rw := 0xff },
  { base := 0x400008, dims := [(16, 0x10000)], reset := 0xffff, rw := 0xffff },
  { base := 0x40000c, dims := [(16, 0x10000)], rc := 0x1ff },
  { base := 0x400100, dims := [(16, 0x10000), (4, 0x100)], rw := 0x77, w1s := 0x8 },
  { base := 0x400104, dims := [(16, 0x10000), (4, 0x100)], reset := 0xc0, ro := 0xfff },
  { base := 0x400108, dims := [(16, 0x10000), (4, 0x100)], ro := 0xffff },
  { base := 0x40010c, dims := [(16, 0x10000), (4, 0x100)], reset := 0x2000, rw := 0x3f3f3f },
  { base := 0x400110, dims := [(16, 0x10000), (4, 0x100)], reset := 0x5ee, rw := 0x3fff, valid := [(13, 0, [(1518, 9216)])] },
  { base := 0x400114, dims := [(16, 0x10000), (4, 0x100)], rw := 0xffffff },
  { base := 0x400118, dims := [(16, 0x10000), (4, 0x100)], rw := 0xffffff },
  { base := 0x400800, dims := [(16, 0x10000), (4, 0x100), (22, 0x8)], width := 8, ro := 0xffffffffffffffff },
  { base := 0x500000, dims := [(4, 0x20)], reset := 0x13, rw := 0x3f, valid := [(5, 0, [(3, 63)])] },
  { base := 0x500004, dims := [(4, 0x20)], rw := 0x1fff, w1s := 0x80000000 },
  { base := 0x500008, dims := [(4, 0x20)], rw := 0xffff },
  { base := 0x500100, dims := [(16, 0x40)], rw := 0x1 },
  { base := 0x500104, dims := [(16, 0x40)], rw := 0x13fffff, w1s := 0x80000000, valid := [(21, 16, [(1, 32)])] },
  { base := 0x500108, dims := [(16, 0x40)], rc := 0x3 },
  { base := 0x500120, dims := [(16, 0x40), (8, 0x4)], rw := 0xffffffff }]

/-- The registers of block GRIST (R119(05)). -/
def rowsGrist : List RegRow := [
  { base := 0x800000, ro := 0xffffffff },
  { base := 0x800004, ro := 0x1ffff },
  { base := 0x801000, dims := [(16, 0x100)], ro := 0xf },
  { base := 0x801004, dims := [(16, 0x100)], ro := 0xffffffff },
  { base := 0x801008, dims := [(16, 0x100)], ro := 0xffffffff },
  { base := 0x80100c, dims := [(16, 0x100)], ro := 0xffff },
  { base := 0x801010, dims := [(16, 0x100)], rc := 0xffffffff },
  { base := 0x801014, dims := [(16, 0x100)], rc := 0xffffffff },
  { base := 0x801018, dims := [(16, 0x100)], rc := 0xffffffff },
  { base := 0x80101c, dims := [(16, 0x100)], rc := 0xffffffff },
  { base := 0x801020, dims := [(16, 0x100)], rc := 0xffffffff },
  { base := 0x801024, dims := [(16, 0x100)], rc := 0x7f1f },
  { base := 0x804000, dims := [(1024, 0x4)], rw := 0x77f }]

/-- The registers of block FWD (R146(06)). -/
def rowsFwd : List RegRow := [
  { base := 0xa00000, reset := 0x3, rw := 0xf },
  { base := 0xa00004, reset := 0x1f4, rw := 0x3ffff, valid := [(17, 0, [(1, 250000)])] },
  { base := 0xa00008, reset := 0x3e8, rw := 0xfffff },
  { base := 0xa0000c, reset := 0x3e8, rw := 0xfffff },
  { base := 0xa00010, reset := 0x10, rw := 0xffff },
  { base := 0xa00014, reset := 0x1012c, rw := 0x1ffff, valid := [(15, 0, [(1, 65535)])] },
  { base := 0xa00018, reset := 0x10, rw := 0xffff },
  { base := 0xa0001c, reset := 0x64, rw := 0xffff },
  { base := 0xa00020, width := 8, rw := 0xffffffffffff },
  { base := 0xa00030, reset := 0x1d870a03, rw := 0xffffffff },
  { base := 0xa00034, reset := 0x6b52f11c, rw := 0xffffffff },
  { base := 0xa00038, reset := 0xc4093e65, rw := 0xffffffff },
  { base := 0xa0003c, reset := 0x8ae65db7, rw := 0xffffffff },
  { base := 0xa00040, dims := [(4, 0x4)], rw := 0xffffffff },
  { base := 0xa00050, ro := 0x2, w1s := 0x1 },
  { base := 0xa00054, ro := 0xffffffff },
  { base := 0xa00058, ro := 0xfffff },
  { base := 0xa0005c, ro := 0x7ffff },
  { base := 0xa00060, dims := [(13, 0x4)], rc := 0xffffffff },
  { base := 0xa00100, dims := [(64, 0x4)], reset := 0x30001, rw := 0x3ffff },
  { base := 0xa01000, dims := [(8, 0x80), (8, 0x8)], width := 8, rw := 0xffffffffffffffff },
  { base := 0xa01040, dims := [(8, 0x80)], rw := 0x7, w1s := 0x80000000, valid := [(2, 0, [(0, 5)])] },
  { base := 0xa01044, dims := [(8, 0x80)], ro := 0xf1 },
  { base := 0xa01048, dims := [(8, 0x80)], rw := 0xfffff }]

/-- The registers of block LAUTER (R167(07)). -/
def rowsLauter : List RegRow := [
  { base := 0xc00000, reset := 0x4, rw := 0x7 },
  { base := 0xc00004, reset := 0x1f4, rw := 0x3ffff, valid := [(17, 0, [(1, 250000)])] },
  { base := 0xc00008, reset := 0x3e8, rw := 0xfffff },
  { base := 0xc0000c, ro := 0x1ffff },
  { base := 0xc00010, ro := 0xffffffff },
  { base := 0xc00014, ro := 0x1ffff },
  { base := 0xc00020, dims := [(6, 0x4)], rc := 0xffffffff },
  { base := 0xc00040, width := 8, rw := 0xffffffffffffffff },
  { base := 0xc00048, rw := 0x1ffff, valid := [(16, 0, [(1, 65536)])] },
  { base := 0xc0004c, ro := 0x8001ffff },
  { base := 0xc00100, dims := [(16, 0x8)], width := 8, rw := 0xffffffffffffffff },
  { base := 0xc00180, dims := [(5, 0x8)], width := 8, rw := 0xffffffffffffffff },
  { base := 0xc001a8, rw := 0x3f },
  { base := 0xc001c0, rw := 0x7, w1s := 0x80000000, valid := [(2, 0, [(0, 6)])] },
  { base := 0xc001c4, ro := 0x3f1 },
  { base := 0xc001c8, rw := 0xffff }]

/-- The registers of block CASK (R213(08)). -/
def rowsCask : List RegRow := [
  { base := 0x1000000, reset := 0x40100400, rw := 0xff1f3fff, valid := [(20, 16, [(1, 31)]), (31, 24, [(1, 255)])] },
  { base := 0x1000004, reset := 0x6, rw := 0x7 },
  { base := 0x1000008, reset := 0x1f4, rw := 0x3ffff, valid := [(17, 0, [(1, 250000)])] },
  { base := 0x100000c, reset := 0x3e8, rw := 0xfffff },
  { base := 0x1000010, rw := 0x1 },
  { base := 0x1000014, ro := 0x3 },
  { base := 0x1000018, rw := 0xfe000000 },
  { base := 0x100001c, reset := 0xc, rw := 0xf, valid := [(3, 0, [(1, 15)])] },
  { base := 0x1000020, reset := 0x10, rw := 0xffff },
  { base := 0x1000024, reset := 0x64, rw := 0xffff },
  { base := 0x1000028, reset := 0x8, rw := 0x1f, valid := [(4, 0, [(1, 16)])] },
  { base := 0x100002c, reset := 0x40, rw := 0xffff, valid := [(15, 0, [(1, 65535)])] },
  { base := 0x1000030, ro := 0xffff },
  { base := 0x1000034, reset := 0x87, rw := 0x3ff },
  { base := 0x1000040, ro := 0x7fff },
  { base := 0x1000044, rc := 0x7fff },
  { base := 0x1000048, ro := 0x1fff },
  { base := 0x100004c, ro := 0x1fffff },
  { base := 0x1000050, ro := 0x1fffff },
  { base := 0x1000054, ro := 0x1ffffff },
  { base := 0x1000058, width := 8, ro := 0x1ffffffff },
  { base := 0x1000060, dims := [(4, 0x8)], width := 8, ro := 0xffffffffffffffff },
  { base := 0x1000080, dims := [(15, 0x4)], rc := 0xffffffff },
  { base := 0x1000200, dims := [(16, 0x8)], width := 8, rw := 0xffffffffffffffff },
  { base := 0x1000280, rw := 0xffffffff },
  { base := 0x1000288, rw := 0xf, w1s := 0x80000000, valid := [(3, 0, [(0, 10)])] },
  { base := 0x100028c, ro := 0xf1 },
  { base := 0x1000290, width := 8, rw := 0xffffffffffffffff },
  { base := 0x1001000, dims := [(16, 0x40)], ro := 0xfff },
  { base := 0x1001004, dims := [(16, 0x40)], rc := 0xfff },
  { base := 0x1001008, dims := [(16, 0x40)], rc := 0xffffffff },
  { base := 0x100100c, dims := [(16, 0x40)], rc := 0xffffffff },
  { base := 0x1001010, dims := [(16, 0x40)], rc := 0xffffffff },
  { base := 0x1004000, dims := [(16, 0x100), (64, 0x4)], ro := 0x10fff }]

/-- The registers of block DEEP (R248(09)). -/
def rowsDeep : List RegRow := [
  { base := 0x1400000, dims := [(64, 0x10000)], ro := 0xfffff },
  { base := 0x1400004, dims := [(64, 0x10000)], rw := 0x3f0f, w1s := 0x80000000, valid := [(2, 0, [(0, 3)])] },
  { base := 0x1400008, dims := [(64, 0x10000)], ro := 0xff0f },
  { base := 0x140000c, dims := [(64, 0x10000)], ro := 0xffff },
  { base := 0x1400010, dims := [(64, 0x10000)], ro := 0x7f7fffff },
  { base := 0x1400014, dims := [(64, 0x10000)], ro := 0x7f7f },
  { base := 0x1400018, dims := [(64, 0x10000)], rc := 0x7f7f },
  { base := 0x140001c, dims := [(64, 0x10000), (2, 0x4)], ro := 0x8000003f },
  { base := 0x1400024, dims := [(64, 0x10000)], ro := 0xffffffff },
  { base := 0x1400028, dims := [(64, 0x10000)], rc := 0xffffffff },
  { base := 0x1400040, dims := [(64, 0x10000), (11, 0x8)], width := 8, ro := 0xffffffffffffffff },
  { base := 0x14000a0, dims := [(64, 0x10000), (4, 0x4)], rc := 0xffffffff },
  { base := 0x1400100, dims := [(64, 0x10000), (16, 0x4)], rc := 0xffffffff },
  { base := 0x1400180, dims := [(64, 0x10000), (16, 0x4)], ro := 0x7f7f3f3f },
  { base := 0x1400200, dims := [(64, 0x10000), (16, 0x4)], reset := 0x100, ro := 0x3ff },
  { base := 0x1408000, reset := 0x36a, rw := 0x3ff, valid := [(4, 0, [(6, 16)]), (7, 6, [(1, 2)])] },
  { base := 0x1408004, rw := 0x1 },
  { base := 0x1408008, reset := 0x6, rw := 0x3f },
  { base := 0x140800c, reset := 0x400, rw := 0xfffff },
  { base := 0x1408010, ro := 0xff77 },
  { base := 0x1408018, width := 8, ro := 0xffffffffffffffff },
  { base := 0x1408020, width := 8, ro := 0xffffffffffffffff }]

/-- The registers of block FERM (R287(10)). -/
def rowsFerm : List RegRow := [
  { base := 0x1800000, rw := 0x7 },
  { base := 0x1800004, reset := 0xfa0, rw := 0xffff, valid := [(15, 0, [(1, 65535)])] },
  { base := 0x1800008, reset := 0x1000, rw := 0x7fff, valid := [(14, 0, [(0, 16384)])] },
  { base := 0x180000c, reset := 0x64, rw := 0xffff },
  { base := 0x1800010, reset := 0x10000, ro := 0x1ffff },
  { base := 0x1800014, reset := 0x4000, ro := 0x7fff },
  { base := 0x1800018, ro := 0xffff },
  { base := 0x180001c, rc := 0xffff },
  { base := 0x1800020, dims := [(2, 0x8)], width := 8, ro := 0xffffffffffffffff },
  { base := 0x1800040, dims := [(7, 0x4)], rc := 0xffffffff },
  { base := 0x1801000, dims := [(4, 0x100)], ro := 0xffff },
  { base := 0x1801004, dims := [(4, 0x100)], ro := 0x3fff },
  { base := 0x1801008, dims := [(4, 0x100)], width := 8, ro := 0xffffffffffffffff },
  { base := 0x1802000, dims := [(16, 0x10)], ro := 0x1ff },
  { base := 0x1802004, dims := [(16, 0x10)], rc := 0xffffffff },
  { base := 0x1804000, dims := [(1024, 0x4)], ro := 0x1f },
  { base := 0x1808000, dims := [(256, 0x4)], rw := 0x77, valid := [(5, 4, [(0, 2)])] },
  { base := 0x1808400, dims := [(64, 0x4)], rw := 0x7ff },
  { base := 0x1808500, dims := [(16, 0x4)], rw := 0xffffffff },
  { base := 0x1808540, rw := 0xffff },
  { base := 0x1808544, ro := 0x1fff },
  { base := 0x1809000, dims := [(4096, 0x8)], width := 8, ro := 0x81ffffff01ffffff },
  { base := 0x1900000, dims := [(65536, 0x10)], width := 16, ro := 0xffffffffffffffffffffffffffffffff },
  { base := 0x1a00000, dims := [(16384, 0x8)], width := 8, ro := 0xffffffffffffffff },
  { base := 0x1a80000, dims := [(16384, 0x10), (2, 0x8)], width := 8, ro := 0xffffffffffffffff }]

/-- The registers of block MERE (R325(11)). -/
def rowsMere : List RegRow := [
  { base := 0x1c00000, reset := 0x3, rw := 0x3 },
  { base := 0x1c00004, ro := 0x1 },
  { base := 0x1c00008, reset := 0x20000, ro := 0x3ffff },
  { base := 0x1c0000c, reset := 0x40000, ro := 0x7ffff },
  { base := 0x1c00010, dims := [(5, 0x4)], rc := 0xffffffff },
  { base := 0x1c00100, dims := [(64, 0x4)], reset := 0x1, rw := 0x1 },
  { base := 0x1c00200, dims := [(64, 0x4)], rw := 0x7ffffff },
  { base := 0x1c00300, dims := [(64, 0x4)], rc := 0xffffffff },
  { base := 0x1c01000, dims := [(16, 0x100)], reset := 0x1800, rw := 0x3fff, valid := [(13, 0, [(2048, 8192)])] },
  { base := 0x1c01004, dims := [(16, 0x100)], ro := 0x3fff },
  { base := 0x1c01008, dims := [(16, 0x100)], ro := 0x3fff },
  { base := 0x1c0100c, dims := [(16, 0x100)], reset := 0x3000, ro := 0x3fff },
  { base := 0x1c01010, dims := [(16, 0x100)], ro := 0x3fff },
  { base := 0x1c01014, dims := [(16, 0x100)], rc := 0x3fff },
  { base := 0x1c01018, dims := [(16, 0x100), (5, 0x4)], rc := 0xffffffff },
  { base := 0x1d00000, dims := [(64, 0x100), (64, 0x4)], ro := 0x3fff },
  { base := 0x1e00000, reset := 0xf, rw := 0xf, valid := [(3, 0, [(1, 15)])] },
  { base := 0x1e00004, reset := 0xf, ro := 0xff },
  { base := 0x1e00008, reset := 0x1000, rw := 0xff01, valid := [(15, 8, [(1, 255)])] },
  { base := 0x1e0000c, reset := 0x3e8, rw := 0xffff, valid := [(15, 0, [(100, 65535)])] },
  { base := 0x1e00010, dims := [(4, 0x4)], ro := 0xfff },
  { base := 0x1e00020, dims := [(4, 0x4)], rc := 0xffffffff },
  { base := 0x1e00030, dims := [(4, 0x4)], rc := 0xffffffff },
  { base := 0x1e00040, rc := 0xffffffff },
  { base := 0x1e00044, rc := 0x3ff },
  { base := 0x1e00100, dims := [(18, 0x8)], width := 8, ro := 0xffffffffffffffff },
  { base := 0x1e00200, dims := [(18, 0x8)], width := 8, ro := 0xffffffffffffffff },
  { base := 0x1e00400, dims := [(4, 0x100), (18, 0x4)], ro := 0x1f1f },
  { base := 0x1e00480, dims := [(4, 0x100), (18, 0x4)], ro := 0x1f1f }]

/-- The registers of block EGRESS (R357(12)). -/
def rowsEgress : List RegRow := [
  { base := 0x2000000, rw := 0x3 },
  { base := 0x2000004, reset := 0x7d0, rw := 0xffff, valid := [(15, 0, [(1, 65535)])] },
  { base := 0x2000008, reset := 0x3e8, rw := 0xffff },
  { base := 0x200000c, ro := 0x3ffff },
  { base := 0x2000010, rc := 0x3ffff },
  { base := 0x2000020, dims := [(8, 0x4)], rc := 0xffffffff },
  { base := 0x2000400, dims := [(64, 0x4)], ro := 0xffff0fff },
  { base := 0x2010000, dims := [(64, 0x400)], reset := 0xff1400, rw := 0xfffff7, valid := [(15, 9, [(1, 127)])] },
  { base := 0x2010004, dims := [(64, 0x400)], reset := 0xff, rw := 0xff },
  { base := 0x2010008, dims := [(64, 0x400)], width := 8, rw := 0xffffff00ffffff },
  { base := 0x2010010, dims := [(64, 0x400)], ro := 0x3ff1fff },
  { base := 0x2010014, dims := [(64, 0x400)], reset := 0xff, rw := 0xff },
  { base := 0x2010040, dims := [(64, 0x400), (8, 0x10)], width := 8, reset := 0x05ee0400, rw := 0xffffffffff3fff },
  { base := 0x2010048, dims := [(64, 0x400), (8, 0x10)], rw := 0xffffff },
  { base := 0x2010100, dims := [(64, 0x400)], width := 8, rw := 0xffffffffffff },
  { base := 0x2010108, dims := [(64, 0x400)], rw := 0x3fffffff, valid := [(29, 0, [(0, 999999999)])] },
  { base := 0x201010c, dims := [(64, 0x400)], reset := 0xf4240, rw := 0xffffffff },
  { base := 0x2010110, dims := [(64, 0x400)], rw := 0xffffffff },
  { base := 0x2010114, dims := [(64, 0x400)], rw := 0x7ff },
  { base := 0x2010118, dims := [(64, 0x400)], w1s := 0x1 },
  { base := 0x2010200, dims := [(64, 0x400), (10, 0x4)], rc := 0xffffffff },
  { base := 0x2100000, dims := [(64, 0x4000), (1024, 0x8)], width := 8, rw := 0x3ffffffffff, valid := [(41, 40, [(0, 2)])] },
  { base := 0x2102000, dims := [(64, 0x4000), (1024, 0x8)], width := 8, ro := 0x3ffffffffff },
  { base := 0x2200000, dims := [(2048, 0x8)], width := 8, rw := 0xfffffffffb, w1c := 0x4 },
  { base := 0x2210000, dims := [(2048, 0x10), (2, 0x8)], width := 8, ro := 0xffffffffffffffff },
  { base := 0x2220000, dims := [(256, 0x40)], width := 8, rw := 0xffffffffffff },
  { base := 0x2220008, dims := [(256, 0x40)], rw := 0x3fffffff, valid := [(29, 0, [(0, 999999999)])] },
  { base := 0x222000c, dims := [(256, 0x40)], rw := 0xffffffff },
  { base := 0x2220010, dims := [(256, 0x40)], rw := 0x7ff },
  { base := 0x2220014, dims := [(256, 0x40)], rw := 0x2, ro := 0xf00, w1s := 0x1, w1c := 0x4 },
  { base := 0x2240000, dims := [(256, 0x200), (64, 0x8)], width := 8, rw := 0x1fffffffff },
  { base := 0x2280000, dims := [(2048, 0x20)], rw := 0xffffff },
  { base := 0x2280004, dims := [(2048, 0x20)], rw := 0xffffff },
  { base := 0x2280008, dims := [(2048, 0x20)], rw := 0xffffff },
  { base := 0x228000c, dims := [(2048, 0x20)], rw := 0xffffff },
  { base := 0x2280010, dims := [(2048, 0x20)], rw := 0x7, w1c := 0x8 }]

/-- The registers of block AUTH (R381(13)). -/
def rowsAuth : List RegRow := [
  { base := 0x2400000, rw := 0x3 },
  { base := 0x2400008, width := 8, reset := 0x100000, rw := 0xffffffffffffffff },
  { base := 0x2400010, reset := 0x1000000, rw := 0xffffffff },
  { base := 0x2400014, reset := 0x20, rw := 0xff },
  { base := 0x2400018, ro := 0x1fffff },
  { base := 0x2400020, width := 8, rw := 0xffffffffffffffff },
  { base := 0x2400028, width := 8, rw := 0xffffffffffffffff },
  { base := 0x2400030, rw := 0xffff },
  { base := 0x2400034, rw := 0xffff },
  { base := 0x2400038, ro := 0x8000ffff },
  { base := 0x2400040, width := 8, ro := 0xffffffffffffffff },
  { base := 0x2400048, dims := [(14, 0x4)], rc := 0xffffffff },
  { base := 0x2400100, dims := [(8, 0x20)], width := 8, ro := 0xffffffffffffffff },
  { base := 0x2400108, dims := [(8, 0x20)], width := 8, ro := 0xffffffffffffffff },
  { base := 0x2400110, dims := [(8, 0x20)], ro := 0x1fff },
  { base := 0x2400200, dims := [(18, 0x4)], wo := 0xffffffff },
  { base := 0x2400260, rw := 0xfff },
  { base := 0x2400264, rw := 0x1fff, ro := 0x80000000 },
  { base := 0x2400268, rw := 0x7, w1s := 0x80000000, valid := [(2, 0, [(1, 4)])] },
  { base := 0x240026c, ro := 0xffffff0f },
  { base := 0x2400400, dims := [(64, 0x4)], rw := 0x3ffff, valid := [(1, 0, [(0, 2)])] },
  { base := 0x2410000, dims := [(2048, 0x40)], rw := 0x3ffff },
  { base := 0x2410004, dims := [(2048, 0x40)], rw := 0xffffffff },
  { base := 0x2410008, dims := [(2048, 0x40), (3, 0x4)], rw := 0xffffffff },
  { base := 0x2410018, dims := [(2048, 0x40)], width := 8, reset := 1, rw := 0xffffffffffffffff },
  { base := 0x2410020, dims := [(2048, 0x40)], rw := 0xffffffff },
  { base := 0x2410028, dims := [(2048, 0x40)], width := 8, rw := 0xffffffffffffffff },
  { base := 0x2430000, dims := [(512, 0x10)], width := 8, rw := 0xffffffffffffffff },
  { base := 0x2430008, dims := [(512, 0x10)], width := 8, rw := 0x1fffffffffff },
  { base := 0x2434000, dims := [(64, 0x8)], width := 8, rw := 0x7fff }]

/-- The registers of block TIME (R408(14)). -/
def rowsTime : List RegRow := [
  { base := 0x2600000, reset := 0x1, rw := 0x1 },
  { base := 0x2600004, reset := 0x100, ro := 0x73f },
  { base := 0x2600008, rw := 0xffffffff },
  { base := 0x2600010, width := 8, ro := 0xffffffffffff },
  { base := 0x2600018, ro := 0x3fffffff },
  { base := 0x260001c, ro := 0xffff },
  { base := 0x2600020, width := 8, ro := 0xffffffffffffffff },
  { base := 0x2600028, width := 8, rw := 0xffffffffffff },
  { base := 0x2600030, rw := 0x3fffffff, valid := [(29, 0, [(0, 999999999)])] },
  { base := 0x2600034, rw := 0xffff },
  { base := 0x2600038, width := 8, rw := 0xffffffffffffffff },
  { base := 0x2600040, w1s := 0x3 },
  { base := 0x2600044, reset := 0xbb8, rw := 0xffff, valid := [(15, 0, [(1, 65535)])] },
  { base := 0x2600048, reset := 0x7d0, rw := 0xffff, valid := [(15, 0, [(1, 65535)])] },
  { base := 0x260004c, reset := 0x2710, rw := 0xffffff, valid := [(23, 0, [(1, 16777215)])] },
  { base := 0x2600050, reset := 0x10, rw := 0xff },
  { base := 0x2600054, reset := 0x4, rw := 0xff },
  { base := 0x2600058, ro := 0x1fff },
  { base := 0x2600060, width := 8, ro := 0xffffffffffff },
  { base := 0x2600068, ro := 0x3fffffff },
  { base := 0x260006c, ro := 0xffff },
  { base := 0x2600070, width := 8, ro := 0x803fffffffffffff },
  { base := 0x2600078, width := 8, ro := 0xffffffff3fffffff },
  { base := 0x2600080, w1s := 0x1 },
  { base := 0x2600084, ro := 0x1ff },
  { base := 0x2600090, dims := [(7, 0x4)], rc := 0xffffffff },
  { base := 0x2601000, dims := [(64, 0x40)], rw := 0xff0f },
  { base := 0x2601004, dims := [(64, 0x40)], rw := 0xffffffff },
  { base := 0x2601008, dims := [(64, 0x40)], rw := 0xffffffff },
  { base := 0x260100c, dims := [(64, 0x40)], rw := 0xffffffff },
  { base := 0x2601010, dims := [(64, 0x40)], width := 8, rw := 0xffffffffffff },
  { base := 0x2601018, dims := [(64, 0x40)], width := 8, wo := 0xffffffffffff },
  { base := 0x2601020, dims := [(64, 0x40)], reset := 0xff00, ro := 0x1ff01 },
  { base := 0x2601028, dims := [(64, 0x40)], width := 8, ro := 0xffffffffffffffff },
  { base := 0x2604000, dims := [(16, 0x40)], rw := 0x7, valid := [(1, 0, [(0, 2)])] },
  { base := 0x2604008, dims := [(16, 0x40)], width := 8, rw := 0xffffffffffff },
  { base := 0x2604010, dims := [(16, 0x40)], rw := 0x3fffffff, valid := [(29, 0, [(0, 999999999)])] },
  { base := 0x2604018, dims := [(16, 0x40)], width := 8, reset := 0x3b9aca00, rw := 0x3fffffffffffffff, valid := [(61, 0, [(100, 4294967296000000000)])] },
  { base := 0x2604020, dims := [(16, 0x40)], reset := 0x64, rw := 0xffffffff },
  { base := 0x2604024, dims := [(16, 0x40)], rw := 0xffffffff },
  { base := 0x2604028, dims := [(16, 0x40)], w1s := 0x3 },
  { base := 0x260402c, dims := [(16, 0x40)], ro := 0xff07 },
  { base := 0x2605000, dims := [(8, 0x40)], rw := 0x3 },
  { base := 0x2605004, dims := [(8, 0x40)], rw := 0xffffffff },
  { base := 0x2605008, dims := [(8, 0x40)], width := 8, ro := 0xc000ffffffffffff },
  { base := 0x2605010, dims := [(8, 0x40)], ro := 0x3fffffff },
  { base := 0x2605014, dims := [(8, 0x40)], ro := 0xffff },
  { base := 0x2605018, dims := [(8, 0x40)], w1s := 0x1 },
  { base := 0x260501c, dims := [(8, 0x40)], ro := 0x1f },
  { base := 0x2605020, dims := [(8, 0x40)], rc := 0xffffffff }]

/-- The registers of block TWIN (R452(15)). -/
def rowsTwin : List RegRow := [
  { base := 0x2800000, rw := 0xf },
  { base := 0x2800004, rw := 0x3 },
  { base := 0x2800008, rw := 0x70f, w1s := 0x80000000, valid := [(3, 0, [(0, 7)])] },
  { base := 0x280000c, ro := 0xf1 },
  { base := 0x2800010, ro := 0xffff3fff },
  { base := 0x2800018, width := 8, ro := 0xffffffffffff },
  { base := 0x2800020, width := 8, ro := 0xffffffffffff },
  { base := 0x2800028, width := 8, ro := 0xffffffffffffffff },
  { base := 0x2800030, reset := 0x3e8, rw := 0xffff },
  { base := 0x2800034, reset := 0x3, rw := 0xf, valid := [(3, 0, [(2, 15)])] },
  { base := 0x2800038, reset := 0x64, rw := 0xffff, valid := [(15, 0, [(1, 65535)])] },
  { base := 0x280003c, reset := 0x7d0, rw := 0xffff, valid := [(15, 0, [(100, 65535)])] },
  { base := 0x2800040, ro := 0xffff },
  { base := 0x2800044, rc := 0xffff },
  { base := 0x2800048, ro := 0x3ffff },
  { base := 0x280004c, rc := 0x3ffff },
  { base := 0x2800050, ro := 0x1fffff },
  { base := 0x2800058, width := 8, ro := 0x80000007ffffffff },
  { base := 0x2800060, reset := 0xc, rw := 0xff },
  { base := 0x2800080, dims := [(2, 0x8)], width := 8, ro := 0xffffffffffffffff },
  { base := 0x2800090, dims := [(7, 0x4)], rc := 0xffffffff },
  { base := 0x2801000, dims := [(16, 0x40)], rw := 0x1, w1s := 0x2 },
  { base := 0x2801004, dims := [(16, 0x40)], ro := 0xff07 },
  { base := 0x2801008, dims := [(16, 0x40)], width := 8, ro := 0xffffffffffffffff },
  { base := 0x2801010, dims := [(16, 0x40)], rc := 0xffffffff },
  { base := 0x2801018, dims := [(16, 0x40)], width := 8, ro := 0xffffffffffffffff }]

/-- The registers of block FEN (R453(15)). -/
def rowsFen : List RegRow := [
  { base := 0x2a00000, rw := 0x7 },
  { base := 0x2a00004, ro := 0x3ff },
  { base := 0x2a00008, width := 8, ro := 0xffffffffffff },
  { base := 0x2a00010, width := 8, ro := 0xffffffffffff },
  { base := 0x2a00018, ro := 0xfff },
  { base := 0x2a0001c, reset := 0xa, rw := 0xffff, valid := [(15, 0, [(1, 65535)])] },
  { base := 0x2a00020, reset := 0x3, rw := 0xff, valid := [(7, 0, [(2, 255)])] },
  { base := 0x2a00024, reset := 0x14, rw := 0xffff, valid := [(15, 0, [(1, 65535)])] },
  { base := 0x2a00028, reset := 0x4, rw := 0xf, valid := [(3, 0, [(1, 15)])] },
  { base := 0x2a0002c, w1s := 0x1 },
  { base := 0x2a00030, ro := 0x3fff07ff },
  { base := 0x2a00034, ro := 0xffffffff },
  { base := 0x2a00038, ro := 0xfff },
  { base := 0x2a00040, dims := [(8, 0x4)], rc := 0xffffffff },
  { base := 0x2a10000, dims := [(1024, 0x10)], width := 8, rw := 0x3fffffffffffffff },
  { base := 0x2a10008, dims := [(1024, 0x10)], width := 8, ro := 0x3ffffffff }]

/-- The registers of block EVENT (R473(16)). -/
def rowsEvent : List RegRow := [
  { base := 0x2c00000, rw := 0x3 },
  { base := 0x2c00008, width := 8, rw := 0xffffffffffffffff },
  { base := 0x2c00010, reset := 0xa, rw := 0x1f, valid := [(4, 0, [(6, 20)])] },
  { base := 0x2c00014, rw := 0xfffff },
  { base := 0x2c00018, ro := 0x800fffff },
  { base := 0x2c00020, width := 8, rw := 0xffffffffffffffff },
  { base := 0x2c00028, ro := 0xffffffff },
  { base := 0x2c0002c, ro := 0x3fff },
  { base := 0x2c00030, rc := 0x3fff },
  { base := 0x2c00034, reset := 0x1000, rw := 0x3fff, valid := [(13, 0, [(1, 8192)])] },
  { base := 0x2c00038, rc := 0xffffffff },
  { base := 0x2c0003c, rc := 0xffffffff },
  { base := 0x2c00040, width := 8, ro := 0xffffffffffffffff },
  { base := 0x2c00048, width := 8, wo := 0xffffffffffffffff },
  { base := 0x2c01000, dims := [(256, 0x4)], rw := 0xffff },
  { base := 0x2c01400, dims := [(256, 0x4)], ro := 0x1 },
  { base := 0x2c04000, dims := [(4096, 0x4)], rw := 0x3ff, ro := 0xf000, valid := [(9, 8, [(0, 2)])] },
  { base := 0x2c08000, dims := [(4096, 0x4)], rc := 0xffffffff }]

/-- The registers of block PERF (R488(17)). -/
def rowsPerf : List RegRow := [
  { base := 0x2e00000, rw := 0x1 },
  { base := 0x2e00004, w1s := 0x3 },
  { base := 0x2e00008, width := 8, ro := 0xffffffffffffffff },
  { base := 0x2e00010, ro := 0xffffffff },
  { base := 0x2e00020, reset := 0xf4240, rw := 0xffffffff, valid := [(31, 0, [(1000, 4294967295)])] },
  { base := 0x2e00100, dims := [(32, 0x4)], ro := 0xffffffff },
  { base := 0x2e00400, rw := 0x1ffff, valid := [(1, 0, [(0, 2)])] },
  { base := 0x2e00404, reset := 0x400, rw := 0x1ffffff, valid := [(24, 0, [(1, 16777216)])] },
  { base := 0x2e00408, width := 8, rw := 0xffffffffffffffff },
  { base := 0x2e00410, reset := 0xc, rw := 0x1f, valid := [(4, 0, [(6, 20)])] },
  { base := 0x2e00414, rw := 0xfffff },
  { base := 0x2e00418, ro := 0x800fffff },
  { base := 0x2e00420, width := 8, rw := 0xffffffffffffffff },
  { base := 0x2e00428, ro := 0x1ffff },
  { base := 0x2e0042c, rc := 0xffffffff },
  { base := 0x2e00430, width := 8, ro := 0xffffffffffffffff },
  { base := 0x2e10000, dims := [(1024, 0x10)], rw := 0x7fffff, w1c := 0x800000, valid := [(17, 16, [(0, 2)]), (19, 18, [(0, 2)])] },
  { base := 0x2e10008, dims := [(1024, 0x10)], width := 8, rw := 0xffffffffffff },
  { base := 0x2e20000, dims := [(1024, 0x8)], width := 8, ro := 0xffffffffffff },
  { base := 0x2e30000, dims := [(64, 0x40)], rw := 0x1 },
  { base := 0x2e30004, dims := [(64, 0x40)], ro := 0xffffffff },
  { base := 0x2e30008, dims := [(64, 0x40), (5, 0x8)], width := 8, ro := 0xffffffffffffffff },
  { base := 0x2e30030, dims := [(64, 0x40)], ro := 0x1 }]

/-- The registers of block POWER (R500(18)). -/
def rowsPower : List RegRow := [
  { base := 0x3000000, reset := 0xc8, rw := 0xffff, valid := [(15, 0, [(1, 65535)])] },
  { base := 0x3000008, width := 8, ro := 0xffffffffff },
  { base := 0x3000010, ro := 0xffff003f },
  { base := 0x3000800, dims := [(40, 0x4)], ro := 0xff03 },
  { base := 0x3000900, dims := [(40, 0x4)], rc := 0xffffffff },
  { base := 0x3000100, dims := [(40, 0x20)], rw := 0x1f },
  { base := 0x3000104, dims := [(40, 0x20)], rw := 0xffffffff, valid := [(31, 0, [(0, 0), (10, 4294967295)])] },
  { base := 0x3000108, dims := [(40, 0x20)], reset := 0x64, rw := 0xff03ff },
  { base := 0x300010c, dims := [(40, 0x20)], rw := 0x3, w1s := 0x80000000 },
  { base := 0x3000110, dims := [(40, 0x20)], ro := 0xffff00ff },
  { base := 0x3000114, dims := [(40, 0x20)], rc := 0xffffffff },
  { base := 0x3000118, dims := [(40, 0x20)], rc := 0xffffffff },
  { base := 0x300011c, dims := [(40, 0x20)], rc := 0xffffffff }]

/-- The registers of block HOST (R529(19)). -/
def rowsHost : List RegRow := [
  { base := 0x3200000, rw := 0xf },
  { base := 0x3200010, rc := 0xffff007f },
  { base := 0x3200018, width := 8, ro := 0xffffffffffffffff },
  { base := 0x3200030, ro := 0xff },
  { base := 0x3200034, rc := 0xffffffff },
  { base := 0x3200038, rw := 0xff },
  { base := 0x320003c, ro := 0xfff, rc := 0xfff0000 },
  { base := 0x3200100, dims := [(64, 0x4)], rw := 0xf },
  { base := 0x3201000, dims := [(16, 0x40)], width := 8, rw := 0xffffffffffffffff },
  { base := 0x3201010, dims := [(16, 0x40)], width := 8, rw := 0xffffffffffffffff },
  { base := 0x3201018, dims := [(16, 0x40)], rw := 0xff7f, valid := [(6, 2, [(6, 16)])] },
  { base := 0x320101c, dims := [(16, 0x40)], rw := 0xffff },
  { base := 0x3201020, dims := [(16, 0x40)], ro := 0xc000ffff },
  { base := 0x3201028, dims := [(16, 0x40)], width := 8, ro := 0xffffffffffffffff },
  { base := 0x3201030, dims := [(16, 0x40), (2, 0x4)], rc := 0xffffffff },
  { base := 0x3202000, dims := [(16, 0x40)], width := 8, rw := 0xffffffffffffffff },
  { base := 0x3202008, dims := [(16, 0x40)], width := 8, rw := 0xffffffffffffffff },
  { base := 0x3202018, dims := [(16, 0x40)], rw := 0x1ffff7f, valid := [(6, 2, [(6, 16)]), (24, 16, [(4, 256)])] },
  { base := 0x320201c, dims := [(16, 0x40)], rw := 0xffff },
  { base := 0x3202020, dims := [(16, 0x40)], ro := 0xc000ffff },
  { base := 0x3202028, dims := [(16, 0x40)], width := 8, ro := 0xffffffffffffffff },
  { base := 0x3202030, dims := [(16, 0x40)], rc := 0xffffffff },
  { base := 0x3203000, dims := [(4, 0x40)], width := 8, rw := 0xffffffffffffffff },
  { base := 0x3203008, dims := [(4, 0x40)], width := 8, rw := 0xffffffffffffffff },
  { base := 0x3203018, dims := [(4, 0x40)], rw := 0xff7d, valid := [(6, 2, [(6, 16)])] },
  { base := 0x320301c, dims := [(4, 0x40)], rw := 0xffff },
  { base := 0x3203020, dims := [(4, 0x40)], ro := 0xc000ffff },
  { base := 0x3203028, dims := [(4, 0x40)], width := 8, ro := 0xffffffffffffffff },
  { base := 0x3203030, dims := [(4, 0x40)], rc := 0xffffffff },
  { base := 0x3300000, dims := [(256, 0x10)], width := 8, rw := 0xffffffffffffffff },
  { base := 0x3300008, dims := [(256, 0x10)], rw := 0xffffffff },
  { base := 0x330000c, dims := [(256, 0x10)], reset := 1, rw := 0x1 },
  { base := 0x3301000, dims := [(4, 0x8)], width := 8, ro := 0xffffffffffffffff }]

/-- BAR0 by block: the block's first and last offset and its registers (R504). -/
def regMap : List (Nat × Nat × List RegRow) := [
  (0x0, 0xfffff, rowsChip),
  (0x100000, 0x1fffff, rowsBill),
  (0x200000, 0x3fffff, rowsCore),
  (0x400000, 0x7fffff, rowsPort),
  (0x800000, 0x9fffff, rowsGrist),
  (0xa00000, 0xbfffff, rowsFwd),
  (0xc00000, 0xffffff, rowsLauter),
  (0x1000000, 0x13fffff, rowsCask),
  (0x1400000, 0x17fffff, rowsDeep),
  (0x1800000, 0x1bfffff, rowsFerm),
  (0x1c00000, 0x1ffffff, rowsMere),
  (0x2000000, 0x23fffff, rowsEgress),
  (0x2400000, 0x25fffff, rowsAuth),
  (0x2600000, 0x27fffff, rowsTime),
  (0x2800000, 0x29fffff, rowsTwin),
  (0x2a00000, 0x2bfffff, rowsFen),
  (0x2c00000, 0x2dfffff, rowsEvent),
  (0x2e00000, 0x2ffffff, rowsPerf),
  (0x3000000, 0x31fffff, rowsPower),
  (0x3200000, 0x3ffffff, rowsHost)]

end Sys2Proof.Machine
end

