-- ==== Sys2Proof/Machine/State.lean ====
section
/-! DEFINITION. The state of the block as plain data, the reasons a step can stop, and the state after reset. -/
namespace Sys2Proof.Machine

/-- Why the machine stops with a fault. -/
inductive Fault where
  /-- never raised: no command of this block ends in a fault (assumption 1); kept so that the type is inhabited.
  Safe: nothing raises it. -/
  | none
deriving DecidableEq, Repr

/-- Why a command has no meaning. -/
inductive Refusal where
  /-- raised by the dispatch for a command that is not modelled yet; safe -/
  | notModelled (mnemonic : String)
deriving DecidableEq, Repr

/-- The DRAM commands the controller issues (R215 to R245). -/
inductive DramCmd where
  | activate | precharge | read | write | refreshBank | refreshAll | selfRefreshEntry | selfRefreshExit
  | modeRead | zqStart | zqLatch
deriving DecidableEq, Repr

/-- What leaves the device, in the order in which it leaves (R513 for the host side): the model's own record of
the device's outputs (assumption 4). -/
inductive Out where
  /-- a DMA write to host memory -/
  | hostWrite (addr : Nat) (bytes : List Byte)
  /-- an MSI-X message: its vector, and the address and data of the vector's table entry -/
  | msix (vector addr data : Nat)
  /-- the data returned to a host read or AtomicOp, little-endian (R9) -/
  | readData (bytes : List Byte)
  /-- an AtomicOp completed with Unsupported Request (R509) -/
  | unsupported
  /-- a frame or frame fragment on a port, with its egress stamp; `stomped` when its FCS is stomped -/
  | frame (port : Nat) (bytes : List Byte) (stomped : Bool)
  /-- a PAUSE or PFC frame of the MAC: the priorities it names and their quanta (R82) -/
  | pause (port : Nat) (pfc : Bool) (prios : Nat) (quanta : Nat)
  /-- a twin frame on a twin lane (R412) -/
  | twin (lane : Nat) (bytes : List Byte)
  /-- an MDIO frame (R90): bus, clause 22, operation, port address, device or register address, data -/
  | mdio (bus : Nat) (cl22 : Bool) (op phy dev data : Nat)
  /-- an I2C transfer (R91): bus, address, register (if sent), bytes written or number of bytes asked -/
  | i2c (bus addr : Nat) (read : Bool) (reg : Option Nat) (bytes : List Byte) (len : Nat)
  /-- a DRAM command of a channel (R215 to R245) -/
  | dram (channel rank : Nat) (cmd : DramCmd) (bank row col : Nat)
  /-- an edge of a timed output (R401) -/
  | tout (n : Nat) (level : Bool)
  /-- the value of the JTAG register FUSE_STATUS (R540) -/
  | jtag (value : Nat)
deriving DecidableEq, Repr

/-- One occurrence of an event in the open ticks (R456): source, detail words and the tick it belongs to. -/
structure Occ where
  source : Nat
  d0 : Nat
  d1 : Nat
  tick : Nat
deriving DecidableEq, Repr

/-- An event record (R461), without its ring phase, and the vector of its route when its MODE is 2. -/
structure Rec where
  source : Nat
  cls : Nat
  rep : Nat
  seq : Nat
  tick : Nat
  d0 : Nat
  d1 : Nat
  vec : Option Nat
deriving DecidableEq, Repr

/-- The event unit (R456 to R472) beside its registers. -/
structure EventUnit where
  /-- occurrences of the ticks not yet closed, oldest first -/
  occ : List Occ := []
  /-- the tick that closes next -/
  openTick : Nat := 0
  /-- the staging buffer, oldest first -/
  stage : List Rec := []
  /-- records lost since the last 0xFC0, SEQ of the first of them, and how many were of classes 0 and 1 -/
  lost : Nat := 0
  firstLost : Nat := 0
  lostHigh : Nat := 0
  /-- event 0xFC2 may be raised -/
  stageArmed : Bool := true
  /-- the ring was full at the last look, and for how many ticks it has been -/
  ringFull : Bool := false
  fullTicks : Nat := 0
  /-- the ring stopped being full and 0xFC1 is due -/
  unfull : Bool := false
  /-- values written to EVENT_SOFT whose event falls in the next tick, with the tick of the write -/
  soft : List (Nat × Nat) := []
  /-- routes still in force although rewritten: tick of the write, source, value in force (R464) -/
  routeHold : List (Nat × Nat × W64) := []
  /-- time of the last raise by the event unit, per vector -/
  lastRaise : List (Nat × Nat) := []
deriving DecidableEq, Repr

/-- An entry of the residence table (R395): port, message key and value recorded, with the time of writing. -/
structure Residence where
  port : Nat
  identity : List Byte
  domain : Nat
  seqId : Nat
  value : Int
  written : Nat
deriving DecidableEq, Repr

/-- An entry of the egress stamp FIFO (R398): time in 2^−16 ns, port and cookie. -/
structure TxStamp where
  time16 : Nat
  port : Nat
  cookie : Nat
deriving DecidableEq, Repr

/-- A captured edge (R403): time in 2^−16 ns and whether it fell. -/
structure Capture where
  time16 : Nat
  fall : Bool
deriving DecidableEq, Repr

/-- A timed output beside its registers (R401, R402): the next leading edge while armed, in 2^−32 ns of time, the end
of the pulse in progress in elapsed ns, and a disarm that waits for the pulse to end. -/
structure Tout where
  next : Option Int := none
  pulseEnd : Option Nat := none
  disarm : Bool := false
deriving DecidableEq, Repr

/-- The time unit (R382 to R403) beside its registers. -/
structure TimeUnit where
  /-- elapsed cycles of the 1 GHz clock -/
  cycles : Nat := 0
  /-- time in 2^−32 ns -/
  acc : Nat := 0
  /-- tick number before the modulus of R387; it never decreases (R388) -/
  tick : Nat := 0
  /-- forward jumps of the tick number that the event unit has not passed yet: from, to -/
  jumps : List (Nat × Nat) := []
  /-- when TIME_RATE was last written, and whether 0x083 has been raised since -/
  rateAt : Nat := 0
  rateTold : Bool := false
  /-- when a watched port last received a Sync -/
  lastSync : List (Nat × Nat) := []
  /-- the last 64 link delay measurements of a port, newest first -/
  measured : List (Nat × List Nat) := []
  residence : List Residence := []
  txts : List TxStamp := []
  tcap : List (Nat × List Capture) := []
  tout : List (Nat × Tout) := []
  /-- PPS_EN of section 0x0B and the time of the last PPS_IN edge -/
  ppsEn : Bool := false
  ppsAt : Option Nat := none
deriving DecidableEq, Repr

/-- A selected unit being timed or a record waiting for the sample ring (R483 to R485): the record's fields. -/
structure Sample where
  kind : Nat
  tag : Nat
  seq : Nat
  tick : Nat
  w16 : Nat
  b20 : Nat
  b21 : Nat
  h22 : Nat
  w24 : Nat
  w28 : Nat
deriving DecidableEq, Repr

/-- Counts of one port's bandwidth window in progress (R481): bytes and frames received and transmitted. -/
structure BwCount where
  rxBytes : Nat := 0
  txBytes : Nat := 0
  rxFrames : Nat := 0
  txFrames : Nat := 0
deriving DecidableEq, Repr

/-- Counters, bandwidth windows and precise sampling (R474 to R485) beside their registers. -/
structure Perf where
  /-- occurrences in the open tick, by selector -/
  tally : List (Nat × Nat) := []
  /-- selectors of conditions that were true in the last tick -/
  conds : List Nat := []
  /-- SNAP and CLEAR_ALL wait for the next tick close -/
  snap : Bool := false
  clear : Bool := false
  /-- PERF_CNTi_VALUE writes that wait for the next tick close -/
  values : List (Nat × Nat) := []
  /-- PERF_CNTi_CTL values still in force although rewritten: tick of the write, counter, value in force -/
  ctlHold : List (Nat × Nat × W64) := []
  /-- bandwidth counts of the window in progress, by port, and whether time was stepped in it -/
  bw : List (Nat × BwCount) := []
  stepped : Bool := false
  /-- the number of the window in progress: floor(N / W) -/
  bwIndex : Nat := 0
  /-- precise sampling: the down-counter, the sample sequence number, records that wait for the ring -/
  psCount : Nat := 0
  psSeq : Nat := 0
  psBuf : List Sample := []
deriving DecidableEq, Repr

/-- A region of the self-timed core (R59 to R73) beside its registers. -/
structure Region where
  /-- handshakes and mismatches counted at each probe offset of the period, offset 0 first -/
  counts : List (Nat × Nat) := []
  /-- replays in the period -/
  replays : Nat := 0
  /-- consecutive stale periods -/
  staleRun : Nat := 0
  /-- period ends until WAKE_GUARD clears, the partial one included -/
  guardLeft : Nat := 0
  /-- a changed code that has not taken effect yet -/
  nextCode : Option Nat := none
  /-- lowest margin of the valid periods since CORE_REGn_STATUS was last read -/
  minMargin : Option Nat := none
deriving DecidableEq, Repr

/-- The core's calibrator and slack monitor (R59 to R74). -/
structure CoreCal where
  /-- the probe offset in use -/
  offset : Nat := 0
  regions : List (Nat × Region) := []
  /-- the region in forced recalibration -/
  recal : Option Nat := none
  /-- event 0x023 has been raised and HEADROOM has not recovered -/
  headLow : Bool := false
  /-- margins of the slack domains: domain × 65,536 + unit, with margin and threshold (R70) -/
  slack : List (Nat × Nat × Nat) := []
deriving DecidableEq, Repr

/-- A host access held while its hummock wakes (R493, R494, R496): BAR as HOST_ACC_STATUS codes it, offset, bytes and, for a
write, its data. -/
structure HeldAccess where
  bar : Nat
  addr : Nat
  len : Nat
  data : Option (List Byte)
  /-- a compare-and-swap: compare and swap values -/
  cas : Option (W64 × W64) := none
deriving DecidableEq, Repr

/-- A hummock (R489 to R497) beside its registers; its state is POWER_Hh_STATUS.STATE. -/
structure Hummock where
  /-- how many blocks of the prepare order have agreed -/
  agreed : Nat := 0
  /-- the prepare phase serves a self-test -/
  test : Bool := false
  /-- when PREPARE began, or the block now asked was asked -/
  asked : Nat := 0
  /-- since when the idle timer runs -/
  idleSince : Nat := 0
  /-- the refuser that a rollback names, and the blocks it had to resume -/
  refuser : Nat := 0
  resumed : Nat := 0
  /-- OP = WAKE was given in COMMIT -/
  wakeNext : Bool := false
  /-- cause of the wake in progress -/
  cause : Nat := 0
  /-- entries since reset -/
  entries : Nat := 0
  /-- the last fen watch window had a match -/
  matched : Bool := false
  /-- when the last fen watch window ended -/
  watchAt : Nat := 0
  held : List HeldAccess := []
deriving DecidableEq, Repr

/-- A node record of the Fermenter (R255). -/
structure Node where
  opc : Nat
  fn : Nat
  pred : Nat
  exp : Option Nat
  a : Nat
  b : Nat
  c : Nat
  imm : Nat
deriving DecidableEq, Repr

/-- A graph (R249, R254): tasks as (mask, first, count), its nodes, its constants, and the generation of the bill that
brought it. -/
structure Graph where
  born : Nat := 0
  item : Bool := false
  tasks : List (Nat × Nat × Nat) := []
  nodes : List Node := []
  consts : List Nat := []
deriving DecidableEq, Repr

/-- What a generation of the bill binds to a frame (R47): the class map and the graphs. -/
structure Gen where
  classes : List Byte := []
  graphs : List (Nat × Graph) := []
deriving DecidableEq, Repr

/-- An image under check, staged or orphaned (R41, R46, R48): its bytes, whether it is an amendment, whether it was
accepted under the all-zero key, and the target batch. -/
structure Image where
  bytes : List Byte
  amend : Bool
  zeroKey : Bool := false
  target : Nat := 0
  /-- staged while the device led a twin: the amendment applies with the seal that names the new generation -/
  mirrored : Bool := false
  /-- the counter of free values with which the trial placement of section 0x09 began (R582) -/
  trial : Nat := 0
deriving DecidableEq, Repr

/-- The structure bill (R33 to R53) beside its registers: the section bodies in force, the effective bill hash, the
generations that frames are still bound to, and the image in hand. -/
structure Bill where
  sections : List (Nat × List Byte) := []
  hash : List Byte := []
  gens : List (Nat × Gen) := []
  /-- the command of the load in progress (0 = boot load, 1 to 3 = OP) -/
  op : Nat := 0
  /-- the image that the first pass accepted, or that is staged or orphaned -/
  image : Option Image := none
  /-- the amendment waits for the follower's acknowledgement of the whole image (R48) -/
  waitFollower : Bool := false
deriving DecidableEq, Repr

/-- An equaliser (R88): tap positions, CTLE first, and when they last moved. -/
structure Equaliser where
  taps : List Int := [0, 0, 0, 0, 0, 0, 0, 0, 0]
  moved : Option Nat := none
deriving DecidableEq, Repr

/-- A port lane (R75 to R95) beside its registers. -/
structure Lane where
  eq : Equaliser := {}
  /-- event 6 has been raised and HEIGHT has not recovered (R89) -/
  eyeLow : Bool := false
  /-- end of a received PAUSE, and of a received PFC pause of each priority, in elapsed ns (R82) -/
  pauseEnd : Nat := 0
  pfcEnd : List (Nat × Nat) := []
  /-- pause conditions that hold, with the time of the last frame sent: priority 0 to 7, or 8 for PAUSE (R82) -/
  sent : List (Nat × Nat) := []
  /-- counter words latched by a read of the low word (R93) -/
  latch : List (Nat × Nat) := []
  /-- since when the port has been down for R327 -/
  downAt : Option Nat := none
  /-- frames sent in PCS near-end loopback that have not been received yet -/
  loop : List (List Byte) := []
deriving DecidableEq, Repr

/-- A learning as a fen record (R442), and as a learning that waits for the delta store (R418). -/
structure Learning where
  fid : Nat
  mac : Nat
  tick : Nat
  prec : Nat
  originPort : Nat
  srcDev : Nat
  /-- the port on which the frame or the message arrived -/
  dest : Nat
  /-- learned from another fen member -/
  remote : Bool := false
  /-- a learning message follows when the learning counts (R128) -/
  announce : Bool := false
  /-- when it was queued as a record -/
  queued : Nat := 0
deriving DecidableEq, Repr

/-- What is known of a fen member (R444, R448) beside FEN_MEMBERi_STATE: the newest MSG_SEQ, those seen of the 64 that end
with it, and when its last heartbeat came. -/
structure Member where
  last : Nat := 0
  window : List Nat := []
  beat : Option Nat := none
  /-- records of the digest being received -/
  recs : Nat := 0
deriving DecidableEq, Repr

/-- The fen (R441 to R450) beside its registers. -/
structure FenUnit where
  pendingRecs : List Learning := []
  /-- the token bucket: tokens taken since `bucketAt`, in units of 10^−6 -/
  tokens : Nat := 0
  bucketAt : Nat := 0
  members : List (Nat × Member) := []
  /-- a digest is being sent: the next slot; a further digest is queued -/
  digest : Option Nat := none
  again : Bool := false
  /-- members whose entries the ageing scan removes, with the tick of their lapse -/
  flush : List (Nat × Nat) := []
  lastBeat : Nat := 0
  /-- a RESYNC_REQ waits to be sent -/
  resync : Bool := false
deriving DecidableEq, Repr

/-- A lock on a table slot (R136): the staged words, whether one was written since the lock, since when it is held, and
whether its hold limit has been reported. -/
structure SlotLock where
  staged : List W64
  written : Bool := false
  since : Nat
  told : Bool := false
  /-- the clearing write has come and waits for room in the delta store (R418) -/
  clearing : Bool := false
deriving DecidableEq, Repr

/-- A slot of tables 0 to 7 or of the Lauter array (R121): the published words without the flags of word 0 that are
not stored ([63], [61:59]), the lock, and the marks of the device. -/
structure Slot where
  words : List W64 := []
  lock : Option SlotLock := none
  suspect : Bool := false
  /-- Lauter: the entry being moved, or the slot reserved (R162) -/
  inMotion : Bool := false
deriving DecidableEq, Repr

/-- A command of a table command set in progress (R142): operation, index and data when GO was written. -/
structure TblCmd where
  op : Nat
  index : Nat
  data : List W64
deriving DecidableEq, Repr

/-- A window of insertion failures (R129, R179): the group, when it opened, the failures in it, and whether the
rehash request has been raised. -/
structure InsWindow where
  opened : Nat
  failures : Nat
  told : Bool := false
deriving DecidableEq, Repr

/-- Forwarding tables (R120 to R146) beside the registers. Slots are kept by 2^20 × t + index. -/
structure FwdUnit where
  slots : List (Nat × Slot) := []
  /-- the route set that lookups use (R133): words by slot key, and the routes published and not yet entered -/
  lpm : List (Nat × List W64) := []
  lpmPending : List (Nat × List W64) := []
  windows : List (Nat × InsWindow) := []
  cmds : List (Nat × TblCmd) := []
  /-- entries moved by the rehash in progress -/
  moved : Nat := 0
  /-- when a domain-scope entry was last announced, by slot: elapsed ns and tick (R128) -/
  announced : List (Nat × Nat × Nat) := []
  /-- learnings that wait for room in the delta store (R418), oldest first -/
  learnWait : List Learning := []
deriving DecidableEq, Repr

/-- The Lauter array's INSERT in progress (R160): p, f, the images, and the entries that have yet to move, as
(from, to), the next first. -/
structure LauterMove where
  p : Nat
  f : Nat
  todo : List (Nat × Nat)
  even : List W64
  odd : List W64
deriving DecidableEq, Repr

/-- The Lauter array (R147 to R167) beside its slots, which are kept under t = 8. -/
structure LauterUnit where
  cmd : Option TblCmd := none
  move : Option LauterMove := none
  /-- the records latched by STEP (R164), best first, and where they are written; none when no STEP runs -/
  step : Option (List (List Byte) × Nat) := none
deriving DecidableEq, Repr

/-- A delta (R415): space, address and the words it carries, in ascending order; its batch and sequence number; whether
it has been transmitted, and whether it is a line of a COPY row, with the line's poison bit. -/
structure Delta where
  space : Nat
  addr : Nat
  words : List (Nat × W64)
  batch : Nat
  seq : Nat
  sent : Bool := false
  copy : Bool := false
  poison : Bool := false
deriving DecidableEq, Repr

/-- A seal that the lead has queued or that waits for its acknowledgement (R420, R423). -/
structure Seal where
  batch : Nat
  prev : Nat
  count : Nat
  digest : Nat
  genNext : Nat
  hashNext : Nat
  closeTick : Nat
  closedAt : Nat
  sent : Bool := false
  replayed : Bool := false
deriving DecidableEq, Repr

/-- A batch at the follower (R421, R422): images staged so far, merged deltas, the digest input, the reorder buffer, the
mark it carries, and its seal once received. -/
structure StagedBatch where
  merged : Nat := 0
  digest : List Byte := []
  images : List Delta := []
  reorder : List Delta := []
  /-- 0 none, 1 MISSING, 4 STAGE_FULL -/
  mark : Nat := 0
  /-- since when a gap is open -/
  gapAt : Option Nat := none
  sealMsg : Option Seal := none
deriving DecidableEq, Repr

/-- The twin (R409 to R438) beside its registers. -/
structure TwinUnit where
  /-- the batch that is open -/
  openBatch : Nat := 0
  /-- the last sealed batch (lead) or acknowledged batch (follower), if any -/
  lastSealed : Option Nat := none
  /-- delta store, oldest first, and the next sequence number of the open batch -/
  deltas : List Delta := []
  nextSeq : Nat := 0
  seals : List Seal := []
  /-- batches that closed while the device was alone without SELF_SEAL -/
  closed : List Nat := []
  /-- staging at the follower: batches not yet sealed, and sealed images not yet drained, oldest first -/
  staged : List (Nat × StagedBatch) := []
  sealed : List Delta := []
  /-- time of the last valid frame from the peer or of the last MISSED increment; when the last HEARTBEAT was sent -/
  heardAt : Nat := 0
  beatAt : Nat := 0
  /-- the first copy batch named by JOIN_START: a lead mirrors nothing until it opens -/
  joinBatch : Option Nat := none
  /-- the HELLO that waits for ADMIT: hash and when it came -/
  waitAdmit : Option (Nat × Nat) := none
  /-- the copy: next line, whether the scan has ended, the batch of the last COPY frame, and lines copied -/
  copyNext : Option Nat := none
  copyBatch : Nat := 0
  copyDone : Option Nat := none
  copyLines : Nat := 0
  /-- promotion in progress: since when it waits for the fence, and the arguments of the command -/
  fenceSince : Option Nat := none
  promoteArg : Nat := 0
  /-- the level of TW_FENCE_IN -/
  fenceIn : Bool := true
  /-- frames to send, in order: body with header, without trailer -/
  queue : List (List Byte) := []
  /-- the amendment image being received from the lead, by offset, with the length announced -/
  amendIn : List (Nat × List Byte) := []
  amendLen : Nat := 0
  /-- lanes whose eye is below the threshold -/
  eyeLow : List Nat := []
  /-- SA and fen sequence changed in the open batch -/
  snChanged : List Nat := []
  fenChanged : Bool := false
deriving DecidableEq, Repr

/-- A directive (R261) with its place in the list: task, index in the task, FN, operands and IMM. -/
structure Directive where
  task : Nat
  idx : Nat
  fn : Nat
  a : W64
  b : W64
  imm : Nat
deriving DecidableEq, Repr


/-- What a TX descriptor says of the frame it injects (R516): ring, timestamp modes, cookie, ingress stamp in 2^−16 ns. -/
structure Inject where
  ring : Nat
  mode : Nat
  record : Bool
  cookie : Nat
  stamp : Nat
deriving DecidableEq, Repr

/-- The headers that the Grist parser recognises (R96). -/
inductive HdrKind where
  | eth | ctag | stag | sectag | hsr | rtag | mpls | ipv4 | ipv6 | ext | udp | tcp | sctp | vxlan | gre | geneve
  | goose | sv | ptp | rgoose | rsv
deriving DecidableEq, Repr

/-- An accepted header: where it starts, its length, its layer (R97), and for an IP header whether the packet is a
fragment: 1 the first, 2 a later one. -/
structure Hdr where
  kind : HdrKind
  off : Nat
  len : Nat
  layer : Nat
  frag : Nat := 0
deriving DecidableEq, Repr

/-- What the parser produced (R100 to R102): accepted headers, the flags, and what the tail still has to show: where
headers and IP payloads must end (header offset, end), and the LSDU size of an HSR tag. -/
structure Parsed where
  hdrs : List Hdr := []
  depth : Bool := false
  conflict : Bool := false
  ends : List (Nat × Nat) := []
  ipEnds : List (Nat × Nat) := []
  lsdu : Option (Nat × Nat) := none
deriving DecidableEq, Repr

/-- The flow key (R111): context, endpoints A and B, and whether it is wide (AF 3). -/
structure Key where
  ctx : Nat := 0
  a : Nat := 0
  b : Nat := 0
  wide : Bool := false
deriving DecidableEq, Repr

/-- A forwarding result (R123) in the FWD encoding of R257, with a device trap of reason 0x07, and why a frame is
discarded: 1 absent next hop, 2 empty ECMP group, 3 unknown multicast. -/
structure Fwd where
  dest : Nat := 65
  nh : Nat := 0
  routed : Bool := false
  fdbHit : Bool := false
  trap : Bool := false
  why : Nat := 0
deriving DecidableEq, Repr

/-- A frame in the device, from its head to its last copy. -/
structure Frame where
  port : Nat := 0
  /-- the bytes received so far, FCS included -/
  bytes : List Byte := []
  /-- the tail has arrived -/
  done : Bool := false
  /-- ingress stamp in 2^−16 ns at the device ball, and its tick (R15) -/
  stamp : Nat := 0
  tick : Nat := 0
  parsed : Parsed := {}
  ftype : Nat := 0
  cls : Nat := 0
  /-- the generation bound (R47) -/
  gen : Nat := 0
  vid : Nat := 0
  fid : Nat := 0
  key : Key := {}
  h1 : Nat := 0
  h2 : Nat := 0
  fwd : Fwd := {}
  /-- the LAUTER word of R257 of the class's lookup -/
  lauter : W64 := 0
  /-- the lookups of step 4 are complete; else since when they wait, and for which slot -/
  looked : Bool := false
  waitAt : Option (Nat × Nat × Nat) := none
  /-- the frame length that a lookup at the head would see (assumption 2: the tail has not arrived) -/
  lenGuess : Nat := 0
  /-- tail verdict (R193) -/
  verdict : Option Bool := none
  /-- recirculation: pass number and PASS_VALUE -/
  pass : Nat := 0
  passValue : W64 := 0
  /-- AUTH word of R257, and the outcome that decides the verdict under Strict mode (R365) -/
  auth : Nat := 0
  /-- cells of the body in the ingress part of the slice, and the copies that still refer to it (R293, R318) -/
  cells : Nat := 0
  refs : Nat := 0
  /-- stream filtering (R342): dropped; the queue the gate gives; DEI is set -/
  psfpDrop : Bool := false
  ipv : Option Nat := none
  dei : Bool := false
  /-- the stream gate was closed at the ingress stamp; the checks of R342 have been made -/
  gateShut : Bool := false
  psfpDone : Bool := false
  /-- recovery (R345): not yet decided, duplicate or rogue -/
  rcvWait : Bool := false
  rcvBad : Bool := false
  /-- the anomaly policy already decided at parse -/
  anomaly : Bool := false
  /-- the disposition that a policy has given in place of its graph's: drop, or trap with a reason -/
  fate : Option (Option Nat) := none
  /-- the body has been admitted under R293; the frame takes part in the order of R298 -/
  admitted : Bool := false
  /-- its copies may enter their VOQs although its tail verdict is bad (R104, R365) -/
  goes : Bool := false
  /-- the disposition has been decided (R262): CAUSE and REASON of R520, destination in the FWD encoding, egress queue and
  the next hop that the editor writes -/
  disposed : Bool := false
  cause : Nat := 0
  reason : Nat := 0
  dest : Nat := 65
  queue : Nat := 0
  nextHop : Option Nat := none
  /-- what its run leaves it: directives in list order, ledger tag, whether the run held a record, the generated check value,
  the first byte and length of the span of its FN 1 job, and the tick of the run's end -/
  dirs : List Directive := []
  tag : Option Nat := none
  hit : Bool := false
  icv : List Byte := []
  span : Nat × Nat := (0, 0)
  endTick : Nat := 0
  /-- batch of the commit (R332) -/
  commitBatch : Option Nat := none
  /-- the receive SA whose NEXT_PN follows a good tail verdict, and the value it takes (R366) -/
  pnNext : Option (Nat × Nat) := none
  /-- a frame that the host injected, or that the device originates (Lode inputs 16 and 17) -/
  inject : Option Inject := none
  own : Bool := false
  /-- it comes in fragments of the MAC merge (R338); the MAC discards it whole (R18) -/
  pmac : Bool := false
  lost : Bool := false
deriving DecidableEq, Repr

/-- A line of the Deep Store (R168, R210): its seven words (none listed = zeros), and the symbol errors, as (symbol,
XOR), that make every read of it uncorrectable until it is written. -/
structure Line where
  words : List W64 := []
  bad : List (Nat × Nat) := []
deriving DecidableEq, Repr

/-- A way of the Cellar (R181): the deep-store line it caches, the record's words (7, or 14 for a wide record, which
takes two ways), and whether it is dirty or poisoned. -/
structure Way where
  line : Nat
  words : List W64
  dirty : Bool := false
  poisoned : Bool := false
deriving DecidableEq, Repr

/-- A host operation on a cask that holds a ledger entry (R187, R201): 0 window read, 1 window CAS, 2 window write,
3 command, 4 ageing scan; with the BAR2 offset, length and bytes of a window access. -/
structure HostOp where
  kind : Nat
  /-- BAR2 offset within the slot -/
  addr : Nat := 0
  len : Nat := 0
  data : List Byte := []
  /-- the two values of a CAS -/
  compare : W64 := 0
  swap : W64 := 0
deriving DecidableEq, Repr

/-- A ledger entry (R187 to R194). -/
structure Entry where
  /-- state of R192: 1 PROBE, 2 CHAINED, 3 FETCH, 4 INSERT, 5 SERVE, 6 LOCKWAIT, 7 COMMIT -/
  st : Nat := 1
  host : Option HostOp := none
  /-- the run that the operation belongs to -/
  run : Nat := 0
  /-- context and endpoints of the key as record words (R170), layout, hash, class and generation -/
  keyw : List W64 := []
  lay : Nat := 0
  h1 : Nat := 0
  h2 : Nat := 0
  cls : Nat := 0
  gen : Nat := 0
  admitted : Nat := 0
  /-- the entry it is chained behind -/
  pred : Option Nat := none
  /-- the insertion it waits for under the row interlock (R176), and whether its own insertion moves records -/
  inter : Option Nat := none
  moving : Bool := false
  wantInsert : Bool := false
  /-- the line of the record, or the line that the host operation is on -/
  line : Option Nat := none
  /-- the record delivered -/
  got : Option (List W64) := none
  created : Bool := false
  readOnly : Bool := false
  /-- its run was aborted or its frame's verdict is bad -/
  dropped : Bool := false
  /-- FETCH: candidates still to read, lines outstanding, lines read of the candidate, an uncorrectable line met -/
  todo : List Nat := []
  outstanding : List Nat := []
  have_ : List (Nat × List W64) := []
  badLine : Option Nat := none
deriving DecidableEq, Repr

/-- The Cask store (R168 to R213) beside its registers. -/
structure CaskUnit where
  /-- the Deep Store, by line number -/
  lines : List (Nat × Line) := []
  /-- the Cellar, by set, least recently used first -/
  cellar : List (Nat × List Way) := []
  /-- locks on cask slots, by the line that governs -/
  locks : List (Nat × SlotLock) := []
  /-- newest committed versions held in the ledger for a chain (R188), by line -/
  copies : List (Nat × List W64) := []
  /-- batch number of the last commit, by line (R200) -/
  batches : List (Nat × Nat) := []
  /-- spill-map bits that are set, and those under which the pass in progress has found a spilled record (R177) -/
  spill : List Nat := []
  spillSeen : List Nat := []
  /-- pre-state queues: 64 × quad + class, oldest first; round-robin places by 2 × quad + urgent -/
  psq : List (Nat × List Nat) := []
  psqNext : List (Nat × Nat) := []
  ledger : List (Nat × Entry) := []
  windows : List (Nat × InsWindow) := []
  /-- pinned lines that a full set keeps from residence (R183) -/
  pinWait : List Nat := []
  /-- line reads that wait for room in a read queue (R221): line, tag and hint -/
  readWait : List (Nat × Nat × Bool) := []
  /-- CASK_OPS and CASK_LINE_READS at the start of the 100 µs period (R185), and its start -/
  periodOps : Nat := 0
  periodReads : Nat := 0
  periodAt : Nat := 0
  /-- the command in progress: operation, line and data when GO was written, and its RESULT once it has run -/
  cmd : Option TblCmd := none
  result : Option Nat := none
deriving DecidableEq, Repr

/-- A request in a channel queue (R221): the line, its entry time, for a read the ledger tag it serves and the
write-back hint of R225, for a write the seven words. -/
structure DeepReq where
  line : Nat
  at_ : Nat
  tag : Nat := 0
  hint : Bool := false
  words : List W64 := []
  /-- its row has been activated for it: the burst is committed -/
  committed : Bool := false
  /-- its bank had another row open when it was first served; it is the repeat of R240 -/
  conflict : Bool := false
  again : Bool := false
  /-- the sequence number of its sample, when it was selected (R483) -/
  sample : Option Nat := none
deriving DecidableEq, Repr

/-- A bank of a rank (R224, R225, R232) beside its DEEP_CHc_PREDb. -/
structure Bank where
  row : Option Nat := none
  /-- the last decision: row, and whether it was kept open -/
  decided : Option (Nat × Bool) := none
  /-- time of the last column access to the open row -/
  used : Nat := 0
  /-- end of the hint on the open row, and the line whose write it waits for -/
  hint : Option (Nat × Nat) := none
  /-- pending neighbour refreshes: the activated rows -/
  nr : List Nat := []
  /-- rows of the neighbour refresh in progress that have yet to be activated -/
  nrRows : List Nat := []
deriving DecidableEq, Repr

/-- A rank (R226 to R228, R238, R242) beside its fields of the channel's registers. -/
structure Rank where
  /-- the bank refreshed next -/
  next : Nat := 0
  /-- when debt last rose -/
  dueAt : Nat := 0
  /-- a catch-up: when it began, N, REFab issued, the limit that follows -/
  catchup : Option (Nat × Nat × Nat × Nat) := none
  mr4At : Nat := 0
  oscAt : Nat := 0
  oscBase : Option Nat := none
  zqAt : Nat := 0
  /-- ZQCAL start has been given and the latch is due -/
  zqDue : Option Nat := none
deriving DecidableEq, Repr

/-- A channel of the Deep Store (R214 to R248) beside its registers. -/
structure Chan where
  reads : List DeepReq := []
  writes : List DeepReq := []
  /-- write-backs that wait for room in the write queue -/
  writeWait : List DeepReq := []
  /-- reads issued to the DRAM whose line has not returned, oldest first -/
  inflight : List DeepReq := []
  /-- by 8 × rank + bank -/
  banks : List (Nat × Bank) := []
  ranks : List (Nat × Rank) := []
  /-- writes issued since write mode was entered -/
  issued : Nat := 0
  /-- the neighbour-refresh generator and when it was last seeded -/
  gen : Nat := 0
  seededAt : Nat := 0
  /-- corrected lines in the window of 1 ms, its start -/
  corrected : Nat := 0
  corrAt : Nat := 0
  /-- probe: rank × 16 + pin, window start, probed reads and errors on the left and the right, reads until it resumes -/
  probe : Nat := 0
  probeAt : Nat := 0
  probeCount : Nat × Nat × Nat × Nat := (0, 0, 0, 0)
  probeStop : Nat := 0
  /-- by 16 × rank + pin: left and right margin estimates, read centre, write delay (R239) -/
  eyes : List (Nat × (Nat × Nat × Nat × Nat)) := []
  /-- byte lanes whose margin event has been raised -/
  below : List Nat := []
  /-- retraining: since when; when AUTO_RETRAIN last started one -/
  retrain : Option Nat := none
  autoAt : Option Nat := none
  /-- a pending command that the next slots carry out: mode register read, ZQ -/
  cmd : Option (Nat × Nat × Nat) := none
  /-- self-refresh: since when the present state lasts -/
  since : Nat := 0
deriving DecidableEq, Repr

/-- The event of an event item (R257): source, tick and detail words. -/
structure ItemEvent where
  source : Nat
  tick : Nat
  d0 : Nat
  d1 : Nat
deriving DecidableEq, Repr

/-- A copy of a graph in the graph store: its number, the generation it came with, where its nodes and constants lie and
how many it has. -/
structure Placed where
  graph : Nat
  born : Nat
  first : Nat
  nodes : Nat
  cfirst : Nat
  consts : Nat
deriving DecidableEq, Repr

/-- A task slot (R266): state 0 WAIT, 1 READY, 2 RESIDENT, 3 ENDED; its cell; results of the nodes issued, by index in
the task; nodes whose lookup waits for its result (index, since when, locked slot). -/
structure Task where
  st : Nat := 0
  cell : Nat := 0
  /-- when it became READY -/
  readyAt : Nat := 0
  done : List (Nat × W64) := []
  looking : List (Nat × Nat × Nat) := []
deriving DecidableEq, Repr

/-- A run (R250 to R253): one execution of a graph for a frame or an item. -/
structure Run where
  /-- the graph bound, its number, class and generation; an empty graph has no task -/
  graph : Graph := {}
  graphNo : Nat := 0xFFFF
  cls : Nat := 0
  gen : Nat := 0
  quarter : Nat := 0
  urgent : Bool := false
  /-- order of creation, and when it was created -/
  order : Nat := 0
  created : Nat := 0
  tick : Nat := 0
  batch : Nat := 0
  /-- the ledger tag it was given, and whether that entry is still open -/
  tag : Option Nat := none
  held : Bool := false
  flags : Nat := 1
  words : List W64 := [0, 0, 0, 0, 0, 0, 0, 0]
  tasks : List Task := []
  dirs : List Directive := []
  /-- graph counter increments: counter, bytes -/
  counts : List (Nat × Nat) := []
  /-- the copy of the record, when the run holds one; a CWR changed a state word; FN 3 deletes it; this operation created it -/
  record : Option (List W64) := none
  wrote : Bool := false
  delete : Bool := false
  isNew : Bool := false
  /-- item mode: its domain, and for an event item the event -/
  domain : Option Nat := none
  event : Option ItemEvent := none
  /-- a recovery operation (R345): the frame it is for -/
  recovery : Option Nat := none
  /-- the check-value job of its AUTH node, and its end: the AUTH word of R257 -/
  job : Option Nat := none
  auth : Nat := 0
  /-- all tasks have ended, or the run was ended; it has been committed, or is over; it was aborted (R252) -/
  ended : Bool := false
  committed : Bool := false
  aborted : Bool := false
deriving DecidableEq, Repr

/-- The Fermenter (R249 to R287) beside its registers. -/
structure FermUnit where
  /-- runs by the number of their frame or item, and the number of the next run in order of creation -/
  runs : List (Nat × Run) := []
  order : Nat := 0
  /-- run queues of the quads, oldest first (R264) -/
  queues : List (Nat × List Nat) := []
  /-- item queues by domain, oldest first: a frame's number, or an event item -/
  items : List (Nat × List (Nat × Option ItemEvent)) := []
  /-- round-robin place of each priority, and items started and not yet finished, by domain, in arrival order -/
  domNext : List (Nat × Nat) := []
  started : List (Nat × List Nat) := []
  /-- the copies in the graph store -/
  placed : List Placed := []
deriving DecidableEq, Repr

/-- A key slot (R371): the key bytes, TYPE to CTX_CLEAR as AUTH_KEY_POLICY [12:0], and SUSPECT. -/
structure KeySlot where
  key : List Byte
  policy : Nat
  suspect : Bool := false
deriving DecidableEq, Repr

/-- A chaining context (R374): algorithm (1 GMAC, 2 CMAC, 3 HMAC), key slot, bytes processed, the message so far from which
the accumulator follows, and the GMAC IV. -/
structure ChainCtx where
  alg : Nat
  slot : Nat
  count : Nat
  state : List Byte
deriving DecidableEq, Repr

/-- Who submits a check-value job. -/
inductive JobUser where
  | frame | graph | host
deriving DecidableEq, Repr

/-- A host job descriptor (R376) with the bytes at ADDR. -/
structure HostJob where
  op : Nat
  flags : Nat
  slot : Nat
  ctx : Nat
  tagLen : Nat
  addr : Nat
  len : Nat
  cookie : Nat
  data : List Byte
deriving DecidableEq, Repr

/-- A check-value job (R361): its user, the core that serves it, the key slot it was admitted against, the bytes it counts
for, the frame or run, and for a graph job FN and B. -/
structure Job where
  user : JobUser
  core : Nat
  slot : Nat
  bytes : Nat
  owner : Nat := 0
  fn : Nat := 0
  b : W64 := 0
  host : Option HostJob := none
deriving DecidableEq, Repr

/-- A key command (R371) that waits for the jobs admitted against the slot before it: operation, slot, key and policy. -/
structure KeyCmd where
  op : Nat
  slot : Nat
  key : List Byte
  policy : Nat
  jobs : List Nat
deriving DecidableEq, Repr

/-- The check-value engine (R358 to R381) beside its registers. -/
structure AuthUnit where
  slots : List (Nat × KeySlot) := []
  contexts : List (Nat × ChainCtx) := []
  /-- jobs by number, in order of admission, and the number of the next -/
  jobs : List (Nat × Job) := []
  next : Nat := 0
  /-- the key command that waits -/
  cmd : Option KeyCmd := none
  /-- transmit SAs for which 0xF03 has been raised -/
  warned : List Nat := []
  /-- entry of the next completion of a host job -/
  done : Nat := 0
deriving DecidableEq, Repr

/-- A copy of a frame (R297): destination port (64 the CPU port, 65 recirculation), queue and class; cut-through; for a
sample copy SEL and TRUNC. -/
structure Copy where
  frame : Nat
  port : Nat
  queue : Nat
  cls : Nat
  ct : Bool := false
  sample : Option (Nat × Nat) := none
  /-- 0 not yet in its VOQ, 1 crossing or at the output, 3 in transmission, 4 preempted (2 is not used) -/
  st : Nat := 0
  /-- the crossing that serves it -/
  xing : Nat := 0
  /-- a hold on it has been reported (R333) -/
  told : Bool := false
  /-- fixed when transmission starts: egress stamp in 2^−16 ns, one-step term, SA and PN, and, of a preempted copy, the bytes
  sent in fragments -/
  stamp : Nat := 0
  correction : Int := 0
  pn : Option (Nat × Nat) := none
  sent : Nat := 0
  /-- it ends with the stomped FCS -/
  stomp : Bool := false
deriving DecidableEq, Repr

/-- A crossing (R300): a header and a frame body in a class stream, for the copies that share it. -/
structure Crossing where
  frame : Nat
  input : Nat
  output : Nat
  queue : Nat
  cls : Nat
  ports : Nat
  ct : Bool
  /-- bytes that cross, header included, when it is a truncated sample -/
  limit : Option Nat := none
  /-- stream bytes launched, and delivered to the output -/
  sent : Nat := 0
  arrived : Nat := 0
  /-- order and time of the first delivery -/
  place : Nat := 0
  outAt : Nat := 0
  /-- bytes lost in a gap; an uncorrectable line was met, and the errors it left as (frame byte, XOR) -/
  lost : Bool := false
  poison : Bool := false
  errs : List (Nat × Byte) := []
deriving DecidableEq, Repr

/-- A Lode cell (R300, R301): its header fields, and its payload as (crossing, from, to) of the stream bytes. -/
structure Cell where
  seq : Nat
  input : Nat
  output : Nat
  cls : Nat
  queue : Nat
  urgent : Bool
  first : Nat
  poison : Bool
  pp : Nat
  plane : Nat
  segs : List (Nat × Nat × Nat)
deriving DecidableEq, Repr

/-- The resequencer of a stream (R309, R310): next expected SEQ, cells held with the time since which the gap is open, and the
cells lost in it. -/
structure Reseq where
  expect : Nat := 0
  held : List Cell := []
  since : Nat := 0
  lost : List Cell := []
deriving DecidableEq, Repr

/-- The Mere and the Lode (R288 to R325) beside their registers. -/
structure MereUnit where
  copies : List (Nat × Copy) := []
  nextCopy : Nat := 0
  xings : List (Nat × Crossing) := []
  nextXing : Nat := 0
  nextPlace : Nat := 0
  /-- down-counters of R320: by port, and by 64 + 64 × quad + class -/
  sampling : List (Nat × Nat) := []
  /-- match of each plane for its next cell time, as (input, output) -/
  matched : List (Nat × List (Nat × Nat)) := []
  flying : List Cell := []
  /-- by (18 × input + output) × 64 + class: next SEQ, and the plane of the previous one -/
  seqs : List (Nat × (Nat × Nat)) := []
  reseq : List (Nat × Reseq) := []
  /-- next queue of R305, by (18 × input + output) × 4 + plane -/
  queueNext : List (Nat × Nat) := []
  /-- times of missing cells of a plane within 1 ms -/
  misses : List (Nat × List Nat) := []
  /-- planes that the standing order of R307 drains or has taken out of service -/
  ordered : List Nat := []
deriving DecidableEq, Repr

/-- A gate list machine (R335 to R337, R343) of a port or of a stream gate: the operational cycle's start, length,
the entry in force and when the next takes over; the start of the pending list. -/
structure GateList where
  running : Bool := false
  cycle : Nat := 0
  len : Nat := 0
  cycleStart : Nat := 0
  entry : Nat := 0
  nextAt : Nat := 0
  pending : Option Nat := none
deriving DecidableEq, Repr

/-- A port's egress (R326 to R340) beside its registers: the copy in transmission and since when, a preempted copy, DWRR
deficits and the queue last served, shapers as (10^−6 bytes, as of) by queue and 8 for the port, gate list. -/
structure EgressPort where
  cur : Option Nat := none
  since : Nat := 0
  preempted : Option Nat := none
  deficit : List (Nat × Int) := []
  last : Nat := 7
  buckets : List (Nat × (Int × Nat)) := []
  gates : GateList := {}
deriving DecidableEq, Repr

/-- A flow meter (R341): committed and excess bucket in 10^−6 bytes, as of. -/
structure Meter where
  c : Nat := 0
  e : Nat := 0
  at_ : Nat := 0
  started : Bool := false
deriving DecidableEq, Repr

/-- Egress (R326 to R357) beside its registers. -/
structure EgressUnit where
  ports : List (Nat × EgressPort) := []
  sgates : List (Nat × GateList) := []
  soper : List (Nat × W64) := []
  meters : List (Nat × Meter) := []
  /-- frames whose recovery operation waits for a ledger entry -/
  rcvWait : List Nat := []
deriving DecidableEq, Repr

/-- Reset, fuses and JTAG (R536 to R542, R570) beside the CHIP registers. -/
structure ChipUnit where
  /-- programmed fuse fields by the codes of R539 -/
  fuses : List (Nat × Nat) := []
  /-- the ordering grade and the serial number that Welonarix programs -/
  grade : Nat := 0
  serial : Nat := 0
  /-- the field being programmed, and bits 6 and 7 of FUSE_STATUS -/
  prog : Option (Nat × Nat) := none
  fuseAgain : Bool := false
  fuseRefused : Bool := false
  /-- the instruction in the JTAG instruction register, if one of R540 -/
  tap : Option Nat := none
  /-- the levels of CHIP_RST_N and PWRGOOD -/
  rstN : Bool := false
  pwrgood : Bool := true
  /-- event 0x032 may be raised -/
  tjArmed : Bool := true
deriving DecidableEq, Repr

/-- A frame being fetched from a TX ring (R516, R517): what its descriptor says. -/
structure TxFetch where
  len : Nat
  fcsIn : Bool
  irq : Bool
  cls : Nat
  dest : Nat
  queue : Nat
  inj : Inject
deriving DecidableEq, Repr

/-- A command of a command queue in progress (R521, R522): its bytes, accesses completed, values read, and for a WAIT since
when it polls and when it last did. -/
structure CqCmd where
  queue : Nat
  bytes : List Byte
  done : Nat := 0
  reads : List Nat := []
  since : Nat := 0
  polled : Nat := 0
deriving DecidableEq, Repr

/-- The host interface (R501 to R529) beside its registers. -/
structure HostUnit where
  /-- low dwords staged, by register (R507) -/
  staged : List (Nat × Nat) := []
  /-- the frame being fetched, by TX ring -/
  fetch : List (Nat × TxFetch) := []
  /-- the copy being written to an RX ring, and how many of its bytes have been -/
  rxPart : List (Nat × (Nat × Nat)) := []
  /-- the queues of the commands admitted and not completed, in order of admission (R522) -/
  admitted : List Nat := []
  /-- queues whose head, a command with FENCE, waits -/
  fenced : List Nat := []
  /-- the command queue served last, and the command in progress -/
  last : Nat := 3
  cur : Option CqCmd := none
  /-- while an access of a command queue runs: the first code of R510 it met, 0 for none -/
  probe : Option Nat := none
deriving DecidableEq, Repr

/-- The state of the block: the waiting commands and everything the spec gives it. -/
structure State where
  /-- the commands that wait, first in, first out -/
  pending : List Instr := []
  /-- the model's own counter of free values drawn (assumption 2) -/
  free : Nat := 0
  /-- what has left the device, newest first -/
  out : List Out := []
  /-- the BAR0 register file: the registers that do not hold their reset value, by address -/
  regs : List (Nat × W64) := []
  /-- event unit -/
  ev : EventUnit := {}
  /-- time unit -/
  time : TimeUnit := {}
  /-- counters and sampling -/
  perf : Perf := {}
  /-- calibration of the core and the slack monitor -/
  core : CoreCal := {}
  /-- the hummocks, by number -/
  hummocks : List (Nat × Hummock) := []
  /-- the structure bill -/
  bill : Bill := {}
  /-- the port lanes, by number -/
  lanes : List (Nat × Lane) := []
  /-- forwarding tables -/
  fwd : FwdUnit := {}
  /-- Lauter array -/
  lauter : LauterUnit := {}
  /-- twin mirroring -/
  twin : TwinUnit := {}
  /-- the frames in the device, by the model's own number -/
  frames : List (Nat × Frame) := []
  /-- the number of the next frame -/
  nextFrame : Nat := 0
  /-- the fen -/
  fen : FenUnit := {}
  /-- Cask store -/
  cask : CaskUnit := {}
  /-- the channels of the Deep Store, by number -/
  deep : List (Nat × Chan) := []
  /-- Fermenter -/
  ferm : FermUnit := {}
  /-- check-value engine -/
  auth : AuthUnit := {}
  /-- Mere and Lode -/
  mere : MereUnit := {}
  /-- egress -/
  egress : EgressUnit := {}
  /-- reset, fuses and JTAG -/
  chip : ChipUnit := {}
  /-- host interface -/
  host : HostUnit := {}
deriving DecidableEq, Repr

/-- The device right after power-on reset has been applied (R536): every register at its reset value, every
queue and table empty, and CHIP_RST_CAUSE (0x01C) naming power-on. What the fuses and pins hold is a choice of the model
(assumption 9). -/
def State.reset : State := { regs := [(0x01C, 1)] }

end Sys2Proof.Machine
end

