-- ==== Sys2Proof/Machine/Ops.lean ====
section
/-! DEFINITION. Named operations over the state: bit fields, byte orders, keyed tables, the register file,
free values and the record of what leaves the device. -/
namespace Sys2Proof.Machine

/-! ### Bit fields and byte orders (R8, R9) -/

/-- Bits [hi:lo] of a number. -/
def natFld (v hi lo : Nat) : Nat := (v >>> lo) % 2 ^ (hi + 1 - lo)

/-- Bits [hi:lo] of a word. -/
def fld (v : W64) (hi lo : Nat) : Nat := natFld v.toNat hi lo

/-- Bit i of a word. -/
def bitOf (v : W64) (i : Nat) : Bool := v.getLsbD i

/-- The mask of bits [hi:lo]. -/
def maskOf (hi lo : Nat) : W64 := BitVec.ofNat 64 ((2 ^ (hi + 1 - lo) - 1) * 2 ^ lo)

/-- A word with bits [hi:lo] replaced. -/
def setFld (v : W64) (hi lo n : Nat) : W64 :=
  (v &&& ~~~ maskOf hi lo) ||| (BitVec.ofNat 64 (n % 2 ^ (hi + 1 - lo) * 2 ^ lo))

/-- 1 for true. -/
def b2n (b : Bool) : Nat := if b then 1 else 0

/-- A w-bit number read as two's complement. -/
def signed (w n : Nat) : Int := if n % 2 ^ w < 2 ^ (w - 1) then (n % 2 ^ w : Nat) else (n % 2 ^ w : Nat) - (2 ^ w : Nat)

/-- The w-bit two's complement of an integer. -/
def unsigned (w : Nat) (i : Int) : Nat := (i % (2 ^ w : Nat)).toNat

/-- Bytes as a number, most significant first. -/
def beNat (bs : List Byte) : Nat := bs.foldl (fun a b => a * 256 + b.toNat) 0

/-- Bytes as a number, least significant first. -/
def leNat (bs : List Byte) : Nat := bs.foldr (fun b a => b.toNat + 256 * a) 0

/-- The n low bytes of a number, least significant first. -/
def toLE : Nat → Nat → List Byte
  | 0, _ => []
  | n + 1, v => BitVec.ofNat 8 v :: toLE n (v / 256)

/-- The n low bytes of a number, most significant first. -/
def toBE (n v : Nat) : List Byte := (toLE n v).reverse

/-- The bytes [off, off + len) of a string of bytes. -/
def slice (bs : List Byte) (off len : Nat) : List Byte := (bs.drop off).take len

/-- A little-endian field of a string of bytes. -/
def leAt (bs : List Byte) (off len : Nat) : Nat := leNat (slice bs off len)

/-- A big-endian field of a string of bytes. -/
def beAt (bs : List Byte) (off len : Nat) : Nat := beNat (slice bs off len)

/-- One byte of a string of bytes, as a number; 0 past its end. -/
def byteAt (bs : List Byte) (off : Nat) : Nat := (bs.getD off 0).toNat

/-- A string of bytes with a part overwritten. -/
def overwrite (bs : List Byte) (off : Nat) (new : List Byte) : List Byte :=
  bs.take off ++ new ++ bs.drop (off + new.length)

/-- Saturating addition within w bits. -/
def satAdd (w a b : Nat) : Nat := min (a + b) (2 ^ w - 1)

/-! ### Keyed tables: lists of (key, value) with strictly rising keys -/

/-- The entry under a key. -/
def tabFind {α : Type} : List (Nat × α) → Nat → Option α
  | [], _ => none
  | (k, v) :: t, a => if k = a then some v else tabFind t a

/-- The entry under a key, or what an unlisted key reads as. -/
def tabGet {α : Type} (t : List (Nat × α)) (a : Nat) (d : α) : α := (tabFind t a).getD d

/-- Insert or replace the entry under a key. -/
def tabSet {α : Type} : List (Nat × α) → Nat → α → List (Nat × α)
  | [], a, v => [(a, v)]
  | (k, w) :: t, a, v =>
    if a < k then (a, v) :: (k, w) :: t else if a = k then (a, v) :: t else (k, w) :: tabSet t a v

/-- Remove the entry under a key. -/
def tabDel {α : Type} (t : List (Nat × α)) (a : Nat) : List (Nat × α) := t.filter (fun e => e.1 != a)

/-- Write an entry in canonical form: an entry equal to what an unlisted key reads as is not listed. -/
def tabPut {α : Type} [DecidableEq α] (t : List (Nat × α)) (a : Nat) (v d : α) : List (Nat × α) :=
  if v = d then tabDel t a else tabSet t a v

/-- Change the entry under a key, if it is listed. -/
def tabMap {α : Type} (t : List (Nat × α)) (a : Nat) (f : α → α) : List (Nat × α) :=
  match tabFind t a with
  | some v => tabSet t a (f v)
  | none => t

/-- Change one element of a list, if it exists. -/
def listMod {α : Type} (l : List α) (i : Nat) (f : α → α) : List α :=
  match l[i]? with
  | some v => l.set i (f v)
  | none => l

/-! ### The register map -/

/-- The place of an address in a register array: true when `off` is a sum of whole strides. -/
def dimsHit : List (Nat × Nat) → Nat → Bool
  | [], off => off == 0
  | (n, st) :: t, off => decide (off / st < n) && dimsHit t (off - off / st * st)

/-- The row of a register address within one block. -/
def rowOf : List RegRow → Nat → Option RegRow
  | [], _ => none
  | r :: t, a => if r.base ≤ a && dimsHit r.dims (a - r.base) then some r else rowOf t a

/-- The row of the register that starts at an address of BAR0, if one does (R504, R505). -/
def findRow (a : Nat) : Option RegRow :=
  match regMap.find? (fun b => decide (b.1 ≤ a ∧ a ≤ b.2.1)) with
  | some b => rowOf b.2.2 a
  | none => none

/-- The reset value of the register at an address. -/
def regReset (a : Nat) : W64 :=
  match findRow a with
  | some r => BitVec.ofNat 64 r.reset
  | none => 0

/-- The value a register holds. -/
def rd (s : State) (a : Nat) : W64 := (tabFind s.regs a).getD (regReset a)

/-- The value a register holds, as a number. -/
def rdn (s : State) (a : Nat) : Nat := (rd s a).toNat

/-- Bits [hi:lo] of a register. -/
def rf (s : State) (a hi lo : Nat) : Nat := fld (rd s a) hi lo

/-- Bit i of a register. -/
def rb (s : State) (a i : Nat) : Bool := bitOf (rd s a) i

/-- Put a value into a register, in the canonical form of the register file: a register that holds its reset
value is not listed. -/
def wr (s : State) (a : Nat) (v : W64) : State := { s with regs := tabPut s.regs a v (regReset a) }

/-- Put a number into a register. -/
def wrn (s : State) (a n : Nat) : State := wr s a (BitVec.ofNat 64 n)

/-- Put a number into bits [hi:lo] of a register. -/
def wf (s : State) (a hi lo n : Nat) : State := wr s a (setFld (rd s a) hi lo n)

/-- Count in a 32-bit counter that saturates (RC counters). -/
def cnt (s : State) (a n : Nat) : State := wrn s a (satAdd 32 (rdn s a) n)

/-- Count in a 64-bit counter that wraps. -/
def cntWrap (s : State) (a n : Nat) : State := wrn s a (rdn s a + n)

/-- Keep the highest value of bits [hi:lo] of a peak register. -/
def peak (s : State) (a hi lo n : Nat) : State := if rf s a hi lo < n then wf s a hi lo n else s

/-! ### Outputs and free values -/

/-- Something leaves the device. -/
def emit (s : State) (o : Out) : State := { s with out := o :: s.out }

/-- A fresh value that the spec leaves open (assumption 2): the free constant at the counter, which advances. -/
def fresh (s : State) : Nat × State := (Config.freeNat s.free, { s with free := s.free + 1 })

/-! ### Elapsed time (R383) -/

/-- Elapsed nanoseconds of the 1 GHz clock, which SET, ADJUST and TIME_RATE do not change. -/
def nowNs (s : State) : Nat := s.time.cycles

/-- `limit` ns have passed since `start`. -/
def elapsed (s : State) (start limit : Nat) : Bool := decide (start + limit ≤ nowNs s)

/-- The current tick number (R387). -/
def tickNo (s : State) : Nat := s.time.tick % 2 ^ 64

/-! ### Events (R456, R457) -/

/-- An occurrence of an event in the current tick. -/
def raise (s : State) (source d0 d1 : Nat) : State :=
  { s with ev := { s.ev with occ := s.ev.occ ++ [⟨source, d0, d1, tickNo s⟩] } }

/-- Two items packed in one detail word (R577). -/
def pack2 (a b : Nat) : Nat := a % 2 ^ 32 + b % 2 ^ 32 * 2 ^ 32

/-- Three or four items packed in one detail word (R577). -/
def pack4 (a b c d : Nat) : Nat :=
  a % 2 ^ 16 + b % 2 ^ 16 * 2 ^ 16 + c % 2 ^ 16 * 2 ^ 32 + d % 2 ^ 16 * 2 ^ 48

end Sys2Proof.Machine
end

