-- ==== Sys2Proof/Machine/Flags.lean ====
section
/-! DEFINITION. Event sources with their precedence classes and per-tick aggregates (R455, R457 and the event
tables of the chapters), the occurrences that counters count, and the access status (R510). -/
namespace Sys2Proof.Machine

/-- How the occurrences of one source in one tick make one record (R457). -/
inductive Agg where
  /-- not per tick: the first occurrence's detail, the others counted in REPEAT -/
  | each
  /-- number of occurrences; detail word 1 of the last -/
  | countLast
  /-- number of occurrences; detail word 1 of the first -/
  | countFirst
  /-- detail word 0 of the first; number of occurrences -/
  | firstCount
  /-- both words of the last occurrence -/
  | last
  /-- both words summed -/
  | sum2
  /-- detail word 0 summed; detail word 1 of the first -/
  | sumFirst
  /-- detail word 0 of the first; detail word 1 of the first with the number of occurrences in [63:32] (0x514) -/
  | firstHigh
deriving DecidableEq, Repr

/-- The source tables whose sources stand alone: source, class, aggregate. -/
def srcTable : List (Nat × Nat × Agg) := [
  -- R53
  (0x010, 0, .each), (0x011, 0, .each), (0x012, 2, .each), (0x013, 2, .each), (0x014, 0, .each),
  (0x015, 0, .each), (0x016, 0, .each),
  -- R74
  (0x020, 0, .each), (0x021, 0, .each), (0x022, 0, .each), (0x023, 0, .each), (0x024, 0, .each),
  (0x025, 0, .each), (0x026, 0, .each), (0x028, 0, .each), (0x029, 0, .each), (0x02A, 0, .each),
  (0x02B, 0, .each), (0x02C, 0, .each),
  -- R570
  (0x030, 0, .each), (0x031, 0, .each), (0x032, 0, .each),
  -- R499
  (0x040, 4, .each), (0x041, 4, .each), (0x042, 4, .each), (0x043, 4, .each), (0x044, 4, .firstCount),
  (0x045, 4, .each), (0x046, 4, .each), (0x047, 4, .each),
  -- R407
  (0x080, 1, .each), (0x081, 1, .each), (0x082, 1, .each), (0x083, 1, .each), (0x084, 1, .each),
  (0x085, 1, .each), (0x086, 1, .each), (0x087, 1, .each), (0x088, 1, .countLast), (0x089, 1, .countLast),
  (0x08A, 1, .countLast),
  -- R118, R146
  (0x510, 5, .each), (0x511, 5, .each), (0x512, 5, .countLast), (0x513, 5, .each), (0x514, 5, .firstHigh),
  (0x515, 5, .firstCount), (0x516, 5, .each), (0x517, 5, .each), (0x518, 5, .each), (0x519, 7, .each),
  (0x51A, 5, .each), (0x51B, 5, .each),
  -- R167
  (0x600, 5, .each), (0x601, 5, .each), (0x602, 5, .each), (0x603, 7, .each), (0x604, 5, .each),
  (0x606, 5, .each),
  -- R212
  (0x700, 6, .last), (0x701, 6, .last), (0x702, 6, .each), (0x703, 7, .each), (0x704, 6, .each),
  (0x705, 6, .countLast), (0x706, 6, .each), (0x707, 0, .each), (0x708, 0, .each), (0x709, 6, .sum2),
  (0x70A, 6, .each), (0x70B, 6, .countFirst), (0x70C, 6, .countLast), (0x70D, 7, .each), (0x730, 6, .each),
  -- R286
  (0xD00, 6, .each), (0xD01, 6, .each), (0xD02, 0, .each), (0xD03, 6, .countLast), (0xD04, 6, .countLast),
  -- R324
  (0xE10, 6, .sum2), (0xE11, 7, .last), (0xE34, 6, .countLast), (0xE35, 6, .countLast),
  (0xE36, 6, .countLast), (0xE37, 7, .countFirst),
  -- R356
  (0xE40, 3, .each), (0xE41, 3, .each), (0xE42, 3, .firstCount), (0xE43, 3, .each), (0xE44, 2, .each),
  (0xE45, 3, .each), (0xE46, 6, .countLast), (0xE47, 6, .countLast), (0xE48, 6, .countLast),
  (0xE4A, 6, .countLast), (0xE4B, 6, .countLast),
  -- R380
  (0xF00, 6, .countLast), (0xF01, 6, .countLast), (0xF03, 5, .each), (0xF04, 0, .each), (0xF05, 0, .each),
  (0xF06, 6, .countLast), (0xF07, 7, .each), (0xF08, 7, .each),
  -- R451
  (0xF80, 2, .each), (0xF81, 2, .each), (0xF82, 2, .each), (0xF83, 2, .each), (0xF84, 2, .each),
  (0xF85, 2, .each), (0xF86, 0, .each), (0xF87, 2, .last), (0xF88, 2, .each), (0xF89, 2, .each),
  (0xF8A, 2, .countLast), (0xF8B, 0, .each), (0xF8C, 2, .each), (0xF8D, 6, .countLast),
  (0xFA0, 5, .each), (0xFA1, 5, .each), (0xFA2, 5, .countLast), (0xFA3, 5, .countFirst), (0xFA4, 5, .each),
  (0xFA5, 5, .countLast),
  -- R472
  (0xFC0, 0, .each), (0xFC1, 7, .each), (0xFC2, 7, .each), (0xFC3, 7, .each),
  -- R528
  (0xFC8, 7, .countFirst), (0xFC9, 0, .each), (0xFCA, 3, .each), (0xFCB, 7, .each), (0xFCC, 0, .each),
  (0xFCD, 7, .countLast), (0xFCE, 7, .countLast), (0xFCF, 0, .each),
  -- R487
  (0xFF0, 7, .each), (0xFF1, 7, .sumFirst), (0xFF2, 7, .each)]

/-- The classes of the deep-memory events of one channel, k = 0 to 13 (R247). -/
def deepClass (k : Nat) : Nat := [0, 7, 0, 6, 0, 0, 0, 6, 6, 4, 4, 7, 7, 0].getD k 0

/-- Class and aggregate of an event source, if a chapter defines it (R454, R455). -/
def srcInfo (s : Nat) : Option (Nat × Agg) :=
  if 0x0C0 ≤ s ∧ s ≤ 0x0FF then some (1, .each)
  else if 0x090 ≤ s ∧ s ≤ 0x09F then some (1, .each)
  else if 0x0A0 ≤ s ∧ s ≤ 0x0A7 then some (1, .firstCount)
  else if 0x100 ≤ s ∧ s ≤ 0x4FF then
    let k := s % 16
    if k = 4 ∨ k = 5 ∨ k = 8 then some (3, .firstCount)
    else if k = 9 then (if s / 16 % 4 = 0 then some (3, .each) else none)
    else if k ≤ 10 then some (3, .each) else none
  else if 0x500 ≤ s ∧ s ≤ 0x50F then some (6, .sum2)
  else if 0x710 ≤ s ∧ s ≤ 0x71F then some (6, .each)
  else if 0x720 ≤ s ∧ s ≤ 0x72F then some (6, .countLast)
  else if 0x740 ≤ s ∧ s ≤ 0x743 then some (0, .each)
  else if 0x748 ≤ s ∧ s ≤ 0x74B then some (6, .each)
  else if 0x900 ≤ s ∧ s ≤ 0xCFF then
    let k := s % 16
    if k = 11 ∨ k = 12 then some (deepClass k, .firstCount)
    else if k ≤ 13 then some (deepClass k, .each) else none
  else if 0xD10 ≤ s ∧ s ≤ 0xD1F then some (6, .countLast)
  else if 0xE00 ≤ s ∧ s ≤ 0xE0F then some (0, .each)
  else if 0xE20 ≤ s ∧ s ≤ 0xE2F then some (6, .countLast)
  else if 0xE30 ≤ s ∧ s ≤ 0xE33 then some (0, .each)
  else if 0xE38 ≤ s ∧ s ≤ 0xE3B then some (0, .each)
  else if 0xF90 ≤ s ∧ s ≤ 0xF9F then some (3, .each)
  else (srcTable.find? (fun e => e.1 == s)).map (·.2)

/-- An occurrence that the programmable counters can count, in the open tick (R476). -/
def tally (s : State) (sel n : Nat) : State :=
  { s with perf := { s.perf with tally := tabSet s.perf.tally sel (tabGet s.perf.tally sel 0 + n) } }

/-- Record an access that did not complete normally (R510): HOST_ACC_STATUS and HOST_ACC_ADDR keep the first
since HOST_ACC_STATUS was last read, later ones count in OVERFLOW, and event 0xFC8 reports them per tick. The code goes to the
completion instead while an access of a command queue runs (R522). -/
def accReport (s : State) (code bar : Nat) (write : Bool) (addr : Nat) : State :=
  match s.host.probe with
  | some c => { s with host := { s.host with probe := some (if c = 0 then code else c) } }
  | none =>
    let st := rd s Reg.HOST_ACC_STATUS
    let s := if fld st 3 0 = 0 then
        let s := wrn s Reg.HOST_ACC_STATUS (code + bar * 16 + b2n write * 64)
        wrn s Reg.HOST_ACC_ADDR addr
      else wf s Reg.HOST_ACC_STATUS 31 16 (satAdd 16 (fld st 31 16) 1)
    raise s 0xFC8 0 (pack2 code bar)

/-! ### Host writes of registers (R10, R11) -/

/-- The bits of a written value that fall in fields given a reserved encoding (R11). -/
def reservedBits (r : RegRow) (v : W64) : W64 :=
  r.valid.foldl (fun m f =>
    let x := fld v f.1 f.2.1
    if f.2.2.any (fun g => g.1 ≤ x && x ≤ g.2) then m else m ||| maskOf f.1 f.2.1) 0

/-- A register's value after a host write (R10, R11): RW and WO fields take the written value unless it is reserved,
W1S bits are set, W1C bits cleared, the others stay. -/
def regMerge (r : RegRow) (old v : W64) : W64 :=
  let put := (BitVec.ofNat 64 r.rw ||| BitVec.ofNat 64 r.wo) &&& ~~~ reservedBits r v
  let x := (old &&& ~~~ put) ||| (v &&& put)
  (x ||| (v &&& BitVec.ofNat 64 r.w1s)) &&& ~~~ (v &&& BitVec.ofNat 64 r.w1c)

/-- A host write of the register at `a`: fields are set, and a reserved encoding is reported with code 1. -/
def regWrite (s : State) (a : Nat) (v : W64) : State :=
  match findRow a with
  | none => s
  | some r =>
    let s := if reservedBits r v = 0 then s else accReport s 1 0 true a
    wr s a (regMerge r (rd s a) v)

end Sys2Proof.Machine
end

