-- ==== Sys2Proof/Machine/Events.lean ====
section
/-! DEFINITION. Events and the common tick (R454 to R473): forming the records of a tick, staging, the host ring and
the vectors. The command TICK_CLOSE itself is in Tick.lean. -/
namespace Sys2Proof.Machine

/-! ### Vectors (R471, R524) -/

/-- Vector v is masked in the MSI-X table. -/
def vecMasked (s : State) (v : Nat) : Bool := rb s (Reg.HOST_MSIXv_CTL v) 0

/-- Mark vector v pending in the PBA, or clear it. -/
def pbaSet (s : State) (v : Nat) (b : Bool) : State := wf s (Reg.HOST_MSIX_PBAw (v / 64)) (v % 64) (v % 64) (b2n b)

/-- The message of vector v as its MSI-X table entry has it (assumption 8). -/
def msixOf (s : State) (v : Nat) : Out := .msix v (rdn s (Reg.HOST_MSIXv_ADDR v)) (rdn s (Reg.HOST_MSIXv_DATA v))

/-- A raise of vector v: the message leaves, or stays pending in the PBA while the vector is masked. -/
def raiseVector (s : State) (v : Nat) : State :=
  if vecMasked s v then pbaSet s v true else emit (pbaSet s v false) (msixOf s v)

/-- Raise vector v for the event unit if it is pending, its hold-off has passed and it is unmasked (R471). -/
def eventVector (s : State) (v : Nat) : State :=
  let holdoff := rf s (Reg.EVENT_VECv_CFG v) 15 0 * 1000
  let free := match tabFind s.ev.lastRaise v with
    | some t => elapsed s t holdoff
    | none => true
  if rb s (Reg.EVENT_VECv_PEND v) 0 && free then
    if vecMasked s v then pbaSet s v true
    else
      let s := wrn (pbaSet s v false) (Reg.EVENT_VECv_PEND v) 0
      emit { s with ev := { s.ev with lastRaise := tabSet s.ev.lastRaise v (nowNs s) } } (msixOf s v)
  else s

/-! ### The ring (R465, R469) -/

/-- Entries of the host ring. -/
def ringSize (s : State) : Nat := 2 ^ rf s Reg.EVENT_RING_SIZE 4 0

/-- The ring has no room: TAIL + 1 equals HEAD modulo its size. -/
def ringIsFull (s : State) : Bool :=
  (rf s Reg.EVENT_RING_TAIL 19 0 + 1) % ringSize s == rf s Reg.EVENT_RING_HEAD 19 0 % ringSize s

/-- The ring stops being full (R469): event 0xFC1 with the ticks it was full. -/
def ringUnfull (s : State) : State :=
  if s.ev.ringFull then
    let s := raise s 0xFC1 s.ev.fullTicks s.ev.stage.length
    { s with ev := { s.ev with ringFull := false, fullTicks := 0 } }
  else s

/-- A record in host memory (R461). -/
def recBytes (r : Rec) (phase : Nat) : List Byte :=
  toLE 2 (r.source % 2 ^ 12 + r.cls % 8 * 2 ^ 12 + phase * 2 ^ 15) ++ toLE 2 (min r.rep 0xFFFF) ++ toLE 4 r.seq ++
    toLE 8 r.tick ++ toLE 8 r.d0 ++ toLE 8 r.d1

/-! ### Routes (R463, R464) -/

/-- The route of a source in force in tick n: the register's, or the value it had before a write in tick n or later. -/
def routeAt (s : State) (n src : Nat) : W64 :=
  match s.ev.routeHold.find? (fun h => h.2.1 == src && decide (n ≤ h.1)) with
  | some h => h.2.2
  | none => rd s (Reg.EVENT_SRCs_ROUTE src)

/-- The MODE a source acts under in tick n: 0 while the ring is disabled. -/
def modeAt (s : State) (n src : Nat) : Nat :=
  if rb s Reg.EVENT_CFG 0 then fld (routeAt s n src) 9 8 else 0

/-! ### Forming the records of a tick (R456 to R458, R467, R468) -/

/-- The detail words and REPEAT of a source's record (R457), from its occurrences in the tick, first to last. -/
def aggregate (g : Agg) (os : List Occ) : Nat × Nat × Nat :=
  let f := os.headD ⟨0, 0, 0, 0⟩
  let l := os.getLastD ⟨0, 0, 0, 0⟩
  let n := os.length
  match g with
  | .each => (f.d0, f.d1, min (n - 1) 0xFFFF)
  | .countLast => (n, l.d1, 0)
  | .countFirst => (n, f.d1, 0)
  | .firstCount => (f.d0, n, 0)
  | .last => (l.d0, l.d1, 0)
  | .sum2 => ((os.map (·.d0)).sum, (os.map (·.d1)).sum, 0)
  | .sumFirst => ((os.map (·.d0)).sum, f.d1, 0)
  | .firstHigh => (f.d0, f.d1 % 2 ^ 32 + n * 2 ^ 32, 0)

/-- Insert a source into a list ordered by class, then source (R458), once. -/
def insertSource (c src : Nat) : List (Nat × Nat) → List (Nat × Nat)
  | [] => [(c, src)]
  | (c', s') :: t =>
    if c = c' ∧ src = s' then (c', s') :: t
    else if c < c' ∨ (c = c' ∧ src < s') then (c, src) :: (c', s') :: t
    else (c', s') :: insertSource c src t

/-- The sources that occurred, in the order of their records. Sources that no chapter defines never fire (R454). -/
def sourceOrder (os : List Occ) : List (Nat × Nat) :=
  os.foldl (fun l o => match srcInfo o.source with
    | some (c, _) => insertSource c o.source l
    | none => l) []

/-- A formed record takes its sequence number and joins the staging buffer, or is discarded for want of room: the last
256 of 8,192 entries take classes 0 and 1 only (R467). -/
def stageRecord (s : State) (r : Rec) : State :=
  let seq := rdn s Reg.EVENT_SEQ
  let s := wrn s Reg.EVENT_SEQ ((seq + 1) % 2 ^ 32)
  let s := tally (cntWrap s Reg.EVENT_FORMED 1) 0x1107 1
  let room := if r.cls ≤ 1 then s.ev.stage.length < 8192 else s.ev.stage.length < 7936
  if room then
    let s := { s with ev := { s.ev with stage := s.ev.stage ++ [{ r with seq := seq }] } }
    peak s Reg.EVENT_STAGE_PEAK 13 0 s.ev.stage.length
  else
    let s := cnt s Reg.EVENT_LOST 1
    { s with ev := { s.ev with
      lost := s.ev.lost + 1, firstLost := if s.ev.lost = 0 then seq else s.ev.firstLost,
      lostHigh := s.ev.lostHigh + (if r.cls ≤ 1 then 1 else 0) } }

/-- What the occurrences of one source in tick n become: counts, and a record unless the source acts as MODE 0. -/
def closeSource (n : Nat) (os : List Occ) (s : State) (cs : Nat × Nat) : State :=
  let mine := os.filter (fun o => o.source == cs.2)
  match srcInfo cs.2 with
  | none => s
  | some (c, g) =>
    let k := if g = .each then mine.length else 1
    let s := tally (cnt s (Reg.EVENT_SRCs_COUNT cs.2) k) cs.2 k
    if modeAt s n cs.2 = 0 then s
    else
      let a := aggregate g mine
      stageRecord s ⟨cs.2, c, a.2.2, 0, n % 2 ^ 64, a.1 % 2 ^ 64, a.2.1 % 2 ^ 64,
        if modeAt s n cs.2 = 2 then some (fld (routeAt s n cs.2) 7 0) else none⟩

/-- Event 0xFC0 in the first tick that closes with room after a loss (R468). -/
def lossOccurrence (s : State) (n : Nat) : State × List Occ :=
  if 0 < s.ev.lost ∧ s.ev.stage.length < 8192 then
    ({ s with ev := { s.ev with lost := 0, lostHigh := 0 } },
      [⟨0xFC0, s.ev.lost, pack2 s.ev.firstLost s.ev.lostHigh, n⟩])
  else (s, [])

/-- Event 0xFC2 when staging holds more than its threshold, once until it falls below half of it (R466). -/
def stageLook (s : State) : State :=
  let th := rf s Reg.EVENT_STAGE_THRESH 13 0
  if s.ev.stageArmed ∧ th < s.ev.stage.length then
    raise { s with ev := { s.ev with stageArmed := false } } 0xFC2 s.ev.stage.length th
  else if ¬ s.ev.stageArmed ∧ s.ev.stage.length * 2 < th then
    { s with ev := { s.ev with stageArmed := true } }
  else s

/-- The software events that fall in tick n: those written in an earlier tick (R472). -/
def softDue (s : State) (n : Nat) : State × List Occ :=
  let due := s.ev.soft.filter (fun w => w.1 < n)
  ({ s with ev := { s.ev with soft := s.ev.soft.filter (fun w => !decide (w.1 < n)) } },
    due.map (fun w => ⟨0xFC3, w.2, 0, n⟩))

/-- The occurrences of tick n leave the blocks for the event unit (R456). -/
def takeOccs (s : State) (n : Nat) : State × List Occ :=
  let (s, loss) := lossOccurrence s n
  let (s, soft) := softDue s n
  let os := loss ++ s.ev.occ.filter (fun o => o.tick ≤ n) ++ soft
  ({ s with ev := { s.ev with occ := s.ev.occ.filter (fun o => !decide (o.tick ≤ n)) } }, os)

/-- The records of tick n are formed from its occurrences, in order (R457, R458). -/
def closeRecords (s : State) (n : Nat) (os : List Occ) : State :=
  let s := (sourceOrder os).foldl (closeSource n os) s
  let s := { s with ev := { s.ev with routeHold := s.ev.routeHold.filter (fun h => !decide (h.1 ≤ n)) } }
  let s := if s.ev.ringFull then
      { cnt s Reg.EVENT_RING_FULL_TICKS 1 with ev := { s.ev with fullTicks := s.ev.fullTicks + 1 } }
    else s
  stageLook s

/-- The tick that closes after tick n: the next one, or the one that time jumped to (R388, R459). -/
def nextOpen (s : State) (n : Nat) : Nat :=
  match s.time.jumps.find? (fun j => decide (j.1 ≤ n ∧ n < j.2)) with
  | some j => j.2
  | none => n + 1

/-- EVENT_CFG (R465, R469): enabling the ring sets TAIL := HEAD and PHASE := 1; disabling it ends a full ring. -/
def eventCfg (s : State) (v : W64) : State :=
  let was := rb s Reg.EVENT_CFG 0
  let s := regWrite s Reg.EVENT_CFG v
  let now := rb s Reg.EVENT_CFG 0
  if now && !was then
    wrn s Reg.EVENT_RING_TAIL (rf s Reg.EVENT_RING_HEAD 19 0 + 2 ^ 31)
  else if was && !now then ringUnfull s
  else s

/-- EVENT_RING_HEAD (R465): the host frees entries. -/
def eventHead (s : State) (v : W64) : State :=
  let s := regWrite s Reg.EVENT_RING_HEAD v
  if ringIsFull s then s else ringUnfull s

/-- EVENT_SRCs_ROUTE (R464): the written route applies from the next tick. -/
def eventRoute (s : State) (src : Nat) (v : W64) : State :=
  let a := Reg.EVENT_SRCs_ROUTE src
  let old := rd s a
  let s := { s with ev := { s.ev with routeHold := s.ev.routeHold ++ [(s.time.tick, src, old)] } }
  regWrite s a v

/-- EVENT_SOFT (R472): event 0xFC3 in the next tick. -/
def eventSoft (s : State) (v : Nat) : State :=
  { s with ev := { s.ev with soft := s.ev.soft ++ [(s.time.tick, v)] } }

/-- Write the oldest staged record to the host ring (R465, R466), with tail write-back, and make its vector pending. -/
def writeRecord (s : State) : State :=
  match s.ev.stage with
  | [] => s
  | r :: rest =>
    if !rb s Reg.EVENT_CFG 0 || !rb s Reg.HOST_LINK 0 || ringIsFull s then s
    else
      let tail := rf s Reg.EVENT_RING_TAIL 19 0
      let phase := rf s Reg.EVENT_RING_TAIL 31 31
      let base := rdn s Reg.EVENT_RING_BASE
      let next := (tail + 1) % ringSize s
      let phase' := if next = 0 then 1 - phase else phase
      let s := emit s (.hostWrite (base + 32 * tail) (recBytes r phase))
      let s := wrn s Reg.EVENT_RING_TAIL (next + phase' * 2 ^ 31)
      let s := { s with ev := { s.ev with stage := rest } }
      let s := if rb s Reg.EVENT_CFG 1 then
          emit s (.hostWrite (rdn s Reg.EVENT_TAIL_WB_ADDR) (toLE 4 (rdn s Reg.EVENT_RING_TAIL)))
        else s
      let s := if ringIsFull s then { s with ev := { s.ev with ringFull := true } } else s
      let s := match r.vec with
        | some v => eventVector (wrn s (Reg.EVENT_VECv_PEND v) 1) v
        | none => s
      stageLook s

/-- Registers of the EVENT block whose value is computed from the state. -/
def eventView (s : State) (a : Nat) : Option W64 :=
  if a = Reg.EVENT_STAGE then some (BitVec.ofNat 64 s.ev.stage.length)
  else if Reg.EVENT_SRCs_ROUTE 0 ≤ a ∧ a < Reg.EVENT_SRCs_ROUTE 4096 then
    match srcInfo ((a - Reg.EVENT_SRCs_ROUTE 0) / 4) with
    | some (c, _) => some (setFld (setFld (rd s a) 14 12 c) 15 15 1)
    | none => some (setFld (rd s a) 15 12 0)
  else none

/-! ### The commands -/

/-- EVENT_RECORD_WRITE (R465). -/
def execEventRecordWrite (s : State) : Host.Outcome State Fault Refusal := .next (writeRecord s)

/-- EVENT_RING_HEAD_WRITE (R465). -/
def execEventRingHeadWrite (value : BitVec 32) (s : State) : Host.Outcome State Fault Refusal :=
  .next (eventHead s (value.setWidth 64))

/-- EVENT_CFG_WRITE (R465). -/
def execEventCfgWrite (value : BitVec 32) (s : State) : Host.Outcome State Fault Refusal :=
  .next (eventCfg s (value.setWidth 64))

/-- EVENT_ROUTE_WRITE (R464). -/
def execEventRouteWrite (source : Fin 4096) (value : BitVec 32) (s : State) : Host.Outcome State Fault Refusal :=
  .next (eventRoute s source.val (value.setWidth 64))

/-- EVENT_SOFT_WRITE (R472). -/
def execEventSoftWrite (value : BitVec 64) (s : State) : Host.Outcome State Fault Refusal :=
  .next (eventSoft s value.toNat)

/-- VECTOR_HOLDOFF_EXPIRY (R471): a pending vector whose hold-off has passed is raised. -/
def execVectorHoldoffExpiry (vector : Fin 256) (s : State) : Host.Outcome State Fault Refusal :=
  .next (eventVector s vector.val)

end Sys2Proof.Machine
end

