-- ==== Sys2Proof/Machine/Crypto.lean ====
section
/-! DEFINITION. The check values the spec names by their standards: CRC-32C, the CRC-32 of IEEE 802.3, CRC-64,
CRC-16, SHA-256 (FIPS 180-4), AES (FIPS 197), CMAC (RFC 4493), GMAC (SP 800-38D), HMAC (RFC 2104) and key unwrapping
(RFC 3394, RFC 5649). Their constants are those of the standards (assumption 7, PRESUMED). -/
namespace Sys2Proof.Machine

/-! ### Cyclic codes -/

/-- n steps of a reflected CRC register. -/
def crcSteps (poly : Nat) : Nat → Nat → Nat
  | 0, c => c
  | n + 1, c => crcSteps poly n (if c % 2 = 1 then (c / 2) ^^^ poly else c / 2)

/-- A reflected CRC over bytes, from a start value. -/
def crcRun (poly : Nat) (bs : List Byte) (init : Nat) : Nat :=
  bs.foldl (fun c b => crcSteps poly 8 (c ^^^ b.toNat)) init

/-- CRC-32C (Castagnoli), register preset to ones and inverted at the end. -/
def crc32c (bs : List Byte) : Nat := crcRun 0x82F63B78 bs 0xFFFFFFFF ^^^ 0xFFFFFFFF

/-- The CRC-32 of IEEE 802.3: the FCS as the little-endian value of its four bytes on the wire. -/
def crc32 (bs : List Byte) : Nat := crcRun 0xEDB88320 bs 0xFFFFFFFF ^^^ 0xFFFFFFFF

/-- CRC-64 with polynomial 0x42F0_E1EB_A9EA_3693, reflected, preset and inverted. -/
def crc64 (bs : List Byte) : Nat := crcRun 0xC96C5795D7870F42 bs 0xFFFFFFFFFFFFFFFF ^^^ 0xFFFFFFFFFFFFFFFF

/-- n steps of the non-reflected 16-bit register with polynomial 0x1021. -/
def crc16Steps : Nat → Nat → Nat
  | 0, c => c
  | n + 1, c => crc16Steps n (if c / 0x8000 % 2 = 1 then ((c * 2) ^^^ 0x1021) % 0x10000 else c * 2 % 0x10000)

/-- CRC-16/CCITT-FALSE. -/
def crc16 (bs : List Byte) : Nat := bs.foldl (fun c b => crc16Steps 8 (c ^^^ (b.toNat * 256))) 0xFFFF

/-! ### SHA-256 -/

/-- Rotate a 32-bit word right. -/
def rotr32 (x n : Nat) : Nat := (x >>> n) ||| (x * 2 ^ (32 - n) % 2 ^ 32)

/-- The 64 round constants, constant 0 lowest. -/
def shaK : Nat :=
  0xc67178f2bef9a3f7a4506ceb90befffa8cc7020884c8781478a5636f748f82ee682e6ff35b9cca4f4ed8aa4a391c0cb334b0bcb52748774c1e376c0819a4c116106aa070f40e3585d6990624d192e819c76c51a3c24b8b70a81a664ba2bfe8a192722c8581c2c92e766a0abb650a735453380d134d2c6dfc2e1b213827b70a851429296706ca6351d5a79147c6e00bf3bf597fc7b00327c8a831c66d983e515276f988da5cb0a9dc4a7484aa2de92c6f240ca1cc0fc19dc6efbe4786e49b69c1c19bf1749bdc06a780deb1fe72be5d74550c7dc3243185be12835b01d807aa98ab1c5ed5923f82a459f111f13956c25be9b5dba5b5c0fbcf71374491428a2f98

/-- The initial hash value. -/
def shaInit : List Nat := [0x6a09e667, 0xbb67ae85, 0x3c6ef372, 0xa54ff53a, 0x510e527f, 0x9b05688c, 0x1f83d9ab, 0x5be0cd19]

/-- The message schedule grown by n words. -/
def shaSchedule : Nat → List Nat → List Nat
  | 0, w => w
  | n + 1, w =>
    let k := w.length
    let a := w.getD (k - 15) 0
    let b := w.getD (k - 2) 0
    let s0 := rotr32 a 7 ^^^ rotr32 a 18 ^^^ (a >>> 3)
    let s1 := rotr32 b 17 ^^^ rotr32 b 19 ^^^ (b >>> 10)
    shaSchedule n (w ++ [(w.getD (k - 16) 0 + s0 + w.getD (k - 7) 0 + s1) % 2 ^ 32])

/-- The eight working words of a compression. -/
structure ShaVars where
  a : Nat
  b : Nat
  c : Nat
  d : Nat
  e : Nat
  f : Nat
  g : Nat
  h : Nat

/-- One round. -/
def shaRound (v : ShaVars) (kw : Nat) : ShaVars :=
  let s1 := rotr32 v.e 6 ^^^ rotr32 v.e 11 ^^^ rotr32 v.e 25
  let ch := (v.e &&& v.f) ^^^ ((v.e ^^^ 0xFFFFFFFF) &&& v.g)
  let t1 := v.h + s1 + ch + kw
  let s0 := rotr32 v.a 2 ^^^ rotr32 v.a 13 ^^^ rotr32 v.a 22
  let maj := (v.a &&& v.b) ^^^ (v.a &&& v.c) ^^^ (v.b &&& v.c)
  ⟨(t1 + s0 + maj) % 2 ^ 32, v.a, v.b, v.c, (v.d + t1) % 2 ^ 32, v.e, v.f, v.g⟩

/-- One compression of a 64-byte block. -/
def shaBlock (hs : List Nat) (block : List Byte) : List Nat :=
  let w := shaSchedule 48 ((List.range 16).map (fun i => beAt block (4 * i) 4))
  let v0 : ShaVars := ⟨hs.getD 0 0, hs.getD 1 0, hs.getD 2 0, hs.getD 3 0, hs.getD 4 0, hs.getD 5 0, hs.getD 6 0,
    hs.getD 7 0⟩
  let v := (w.zip (List.range 64)).foldl (fun v p => shaRound v (natFld shaK (32 * p.2 + 31) (32 * p.2) + p.1)) v0
  (hs.zip [v.a, v.b, v.c, v.d, v.e, v.f, v.g, v.h]).map (fun p => (p.1 + p.2) % 2 ^ 32)

/-- Compress n blocks. -/
def shaBlocks : Nat → List Nat → List Byte → List Nat
  | 0, hs, _ => hs
  | n + 1, hs, bs => shaBlocks n (shaBlock hs (bs.take 64)) (bs.drop 64)

/-- SHA-256 of a string of bytes, 32 bytes. -/
def sha256 (bs : List Byte) : List Byte :=
  let len := bs.length
  let padded := bs ++ [0x80#8] ++ List.replicate ((119 - len % 64) % 64) 0#8 ++ toBE 8 (8 * len)
  (shaBlocks (padded.length / 64) shaInit padded).flatMap (toBE 4)

/-- HMAC-SHA-256. -/
def hmacSha256 (key msg : List Byte) : List Byte :=
  let k0 := if 64 < key.length then sha256 key else key
  let k := k0 ++ List.replicate (64 - k0.length) 0#8
  sha256 (k.map (· ^^^ 0x5C#8) ++ sha256 (k.map (· ^^^ 0x36#8) ++ msg))

/-! ### AES -/

/-- The substitution box, entry 0 lowest. -/
def aesSbox : Nat :=
  0x16bb54b00f2d99416842e6bf0d89a18cdf2855cee9871e9b948ed9691198f8e19e1dc186b95735610ef6034866b53e708a8bbd4b1f74dde8c6b4a61c2e2578ba08ae7a65eaf4566ca94ed58d6d37c8e779e4959162acd3c25c2406490a3a32e0db0b5ede14b8ee4688902a22dc4f816073195d643d7ea7c41744975fec130ccdd2f3ff1021dab6bcf5389d928f40a351a89f3c507f02f94585334d43fbaaefd0cf584c4a39becb6a5bb1fc20ed00d153842fe329b3d63b52a05a6e1b1a2c830975b227ebe28012079a059618c323c7041531d871f1e5a534ccf73f362693fdb7c072a49cafa2d4adf04759fa7dc982ca76abd7fe2b670130c56f6bf27b777c63

/-- The inverse substitution box. -/
def aesInvSbox : Nat :=
  0x7d0c2155631469e126d677ba7e042b17619953833cbbebc8b0f52aae4d3be0a0ef9cc9939f7ae52d0d4ab519a97f51605fec8027591012b131c7078833a8dd1ff45acd78fec0db9a2079d2c64b3e56fc1bbe18aa0e62b76f89c5291d711af1476edf751ce837f9e28535ade72274ac9673e6b4f0cecff297eadc674f4111913a6b8a130103bdafc1020f3fca8f1e2cd00645b3b80558e4f70ad3bc8c00abd890849d8da75746155edab9edfd5048706c92b6655dcc5ca4d41698688664f6f87225d18b6d49a25b76b224d92866a12e084ec3fa420b954cee3d23c2a632947b54cbe9dec444438e3487ff2f9b8239e37cfbd7f3819ea340bf38a53630d56a0952

/-- One substitution. -/
def subByte (b : Nat) : Nat := natFld aesSbox (8 * b + 7) (8 * b)
/-- One inverse substitution. -/
def invSubByte (b : Nat) : Nat := natFld aesInvSbox (8 * b + 7) (8 * b)

/-- Multiplication by x in the field of AES. -/
def xtime (b : Nat) : Nat := if b < 128 then b * 2 else (b * 2 % 256) ^^^ 0x1B

/-- Multiplication by a constant below 16 in the field of AES. -/
def gmul (k b : Nat) : Nat :=
  let b2 := xtime b
  let b4 := xtime b2
  let b8 := xtime b4
  (if k % 2 = 1 then b else 0) ^^^ (if k / 2 % 2 = 1 then b2 else 0) ^^^ (if k / 4 % 2 = 1 then b4 else 0) ^^^
    (if k / 8 % 2 = 1 then b8 else 0)

/-- Byte-wise exclusive or of two lists of numbers. -/
def xorList (a b : List Nat) : List Nat := (a.zip b).map (fun p => p.1 ^^^ p.2)

/-- The key schedule grown by n words of four bytes; nk is the key's length in words. -/
def keyWords (nk : Nat) : Nat → List (List Nat) → Nat → List (List Nat)
  | 0, w, _ => w
  | n + 1, w, rcon =>
    let i := w.length
    let prev := w.getLastD []
    let back := w.getD (i - nk) []
    if i % nk = 0 then
      let r := (prev.drop 1 ++ prev.take 1).map subByte
      keyWords nk n (w ++ [xorList back (xorList r [rcon, 0, 0, 0])]) (xtime rcon)
    else if 6 < nk ∧ i % nk = 4 then keyWords nk n (w ++ [xorList back (prev.map subByte)]) rcon
    else keyWords nk n (w ++ [xorList back prev]) rcon

/-- The round keys of a 16- or 32-byte key, 16 bytes each. -/
def roundKeys (key : List Byte) : List (List Nat) :=
  let nk := key.length / 4
  let k := key.map (·.toNat)
  let w0 := (List.range nk).map (fun i => (k.drop (4 * i)).take 4)
  let rounds := nk + 6
  let w := keyWords nk (4 * (rounds + 1) - nk) w0 1
  (List.range (rounds + 1)).map (fun r => ((w.drop (4 * r)).take 4).flatten)

/-- Row r of the state moves left by r columns; byte i lies in row i mod 4. -/
def shiftRows (x : List Nat) : List Nat := (List.range 16).map (fun i => x.getD ((i + 4 * (i % 4)) % 16) 0)
/-- Row r moves right by r columns. -/
def invShiftRows (x : List Nat) : List Nat := (List.range 16).map (fun i => x.getD ((i + 16 - 4 * (i % 4)) % 16) 0)

/-- Multiply each column by a circulant matrix with the given first row. -/
def mixWith (m : List Nat) (x : List Nat) : List Nat :=
  (List.range 16).map (fun i =>
    let c := i / 4 * 4
    (List.range 4).foldl (fun a j => a ^^^ gmul (m.getD ((j + 4 - i % 4) % 4) 0) (x.getD (c + j) 0)) 0)

/-- Encrypt one block. -/
def aesEncrypt (key block : List Byte) : List Byte :=
  let ks := roundKeys key
  let x := xorList (block.map (·.toNat)) (ks.headD [])
  let mid := (ks.drop 1).dropLast
  let x := mid.foldl (fun x k => xorList (mixWith [2, 3, 1, 1] (shiftRows (x.map subByte))) k) x
  (xorList (shiftRows (x.map subByte)) (ks.getLastD [])).map (BitVec.ofNat 8)

/-- Decrypt one block. -/
def aesDecrypt (key block : List Byte) : List Byte :=
  let ks := (roundKeys key).reverse
  let x := xorList (block.map (·.toNat)) (ks.headD [])
  let mid := (ks.drop 1).dropLast
  let x := mid.foldl (fun x k => mixWith [14, 11, 13, 9] (xorList ((invShiftRows x).map invSubByte) k)) x
  (xorList ((invShiftRows x).map invSubByte) (ks.getLastD [])).map (BitVec.ofNat 8)

/-- Exclusive or of two byte strings of one length. -/
def xorBytes (a b : List Byte) : List Byte := (a.zip b).map (fun p => p.1 ^^^ p.2)

/-! ### CMAC -/

/-- Doubling in the field of 128 bits. -/
def dbl128 (x : Nat) : Nat := if x < 2 ^ 127 then x * 2 else (x * 2 % 2 ^ 128) ^^^ 0x87

/-- CBC-MAC over n blocks. -/
def cbcMac (key : List Byte) : Nat → List Byte → List Byte → List Byte
  | 0, x, _ => x
  | n + 1, x, bs => cbcMac key n (aesEncrypt key (xorBytes x (bs.take 16))) (bs.drop 16)

/-- AES-CMAC of a string of bytes, 16 bytes. -/
def aesCmac (key msg : List Byte) : List Byte :=
  let k1 := dbl128 (beNat (aesEncrypt key (List.replicate 16 0#8)))
  let k2 := dbl128 k1
  let n := if msg.length = 0 then 1 else (msg.length + 15) / 16
  let last := msg.drop (16 * (n - 1))
  let fin := if last.length = 16 then xorBytes last (toBE 16 k1)
    else xorBytes (last ++ [0x80#8] ++ List.replicate (15 - last.length) 0#8) (toBE 16 k2)
  let x := cbcMac key (n - 1) (List.replicate 16 0#8) msg
  aesEncrypt key (xorBytes x fin)

/-! ### GMAC -/

/-- n steps of the multiplication in the field of GCM, with z the sum and v the running multiple. -/
def ghashMul : Nat → Nat → Nat → Nat → Nat
  | 0, _, z, _ => z
  | n + 1, x, z, v =>
    let z' := if x / 2 ^ n % 2 = 1 then z ^^^ v else z
    let v' := if v % 2 = 1 then (v / 2) ^^^ (0xE1 * 2 ^ 120) else v / 2
    ghashMul n x z' v'

/-- GHASH over n blocks. -/
def ghash (h : Nat) : Nat → Nat → List Byte → Nat
  | 0, y, _ => y
  | n + 1, y, bs => ghash h n (ghashMul 128 (y ^^^ beNat (bs.take 16)) 0 h) (bs.drop 16)

/-- Zeros up to a multiple of 16 bytes. -/
def pad16 (bs : List Byte) : List Byte := bs ++ List.replicate ((16 - bs.length % 16) % 16) 0#8

/-- AES-GMAC with a 12-byte IV, 16 bytes. -/
def aesGmac (key iv aad : List Byte) : List Byte :=
  let h := beNat (aesEncrypt key (List.replicate 16 0#8))
  let data := pad16 aad ++ toBE 8 (8 * aad.length) ++ toBE 8 0
  let s := ghash h (data.length / 16) 0 data
  xorBytes (toBE 16 s) (aesEncrypt key (iv ++ toBE 4 1))

/-! ### Key unwrapping -/

/-- The steps of the unwrapping of RFC 3394, from step t down to 1, over the register a and n semiblocks. -/
def unwrapSteps (kek : List Byte) (n : Nat) : Nat → List Byte → List (List Byte) → List Byte × List (List Byte)
  | 0, a, r => (a, r)
  | t + 1, a, r =>
    let i := t % n
    let b := aesDecrypt kek (toBE 8 (beNat a ^^^ (t + 1)) ++ r.getD i [])
    unwrapSteps kek n t (b.take 8) (r.set i (b.drop 8))

/-- The integrity register and the plaintext that a wrapped key gives. -/
def unwrapRaw (kek c : List Byte) : List Byte × List Byte :=
  let n := c.length / 8 - 1
  let r := (List.range n).map (fun i => slice c (8 * (i + 1)) 8)
  let x := unwrapSteps kek n (6 * n) (c.take 8) r
  (x.1, x.2.flatten)

/-- RFC 3394: the key, if the integrity register holds the initial value. -/
def unwrap3394 (kek c : List Byte) : Option (List Byte) :=
  if c.length < 24 ∨ c.length % 8 ≠ 0 then none
  else
    let x := unwrapRaw kek c
    if x.1 = List.replicate 8 0xA6#8 then some x.2 else none

/-- RFC 5649: the key of the length the integrity register gives, if register and padding are right. -/
def unwrap5649 (kek c : List Byte) : Option (List Byte) :=
  if c.length < 16 ∨ c.length % 8 ≠ 0 then none
  else
    let x := if c.length = 16 then
        let b := aesDecrypt kek c
        (b.take 8, b.drop 8)
      else unwrapRaw kek c
    let mli := beAt x.1 4 4
    if x.1.take 4 = [0xA6#8, 0x59#8, 0x59#8, 0xA6#8] ∧ mli ≤ x.2.length ∧ x.2.length < mli + 8 ∧
        (x.2.drop mli).all (· == 0#8) then some (x.2.take mli)
    else none

/-- The steps of the wrapping of RFC 3394, k more of 6n. -/
def wrapSteps (kek : List Byte) (n : Nat) : Nat → List Byte → List (List Byte) → List Byte × List (List Byte)
  | 0, a, r => (a, r)
  | k + 1, a, r =>
    let t := 6 * n - k
    let i := (t - 1) % n
    let b := aesEncrypt kek (a ++ r.getD i [])
    wrapSteps kek n k (toBE 8 (beNat (b.take 8) ^^^ t)) (r.set i (b.drop 8))

/-- Wrap a multiple of 8 bytes under an integrity value. -/
def wrapRaw (kek iv p : List Byte) : List Byte :=
  let n := p.length / 8
  let x := wrapSteps kek n (6 * n) iv ((List.range n).map (fun i => slice p (8 * i) 8))
  x.1 ++ x.2.flatten

/-- RFC 3394. -/
def wrap3394 (kek p : List Byte) : List Byte := wrapRaw kek (List.replicate 8 0xA6#8) p

/-- RFC 5649, for a string longer than 8 bytes. -/
def wrap5649 (kek p : List Byte) : List Byte :=
  let padded := p ++ List.replicate ((8 - p.length % 8) % 8) 0#8
  wrapRaw kek ([0xA6#8, 0x59#8, 0x59#8, 0xA6#8] ++ toBE 4 p.length) padded

end Sys2Proof.Machine
end

