-- ==== Sys2Proof/Machine/BillMap.lean ====
section
/-! DEFINITION. What the sections of the bill in force say: lane entries (R77), parser profiles (R98), class entries
(R43) by generation (R47), graphs (R254) and record layouts (R172). -/
namespace Sys2Proof.Machine

/-- The body of a section of the bill in force; empty when the bill has none. -/
def section_ (s : State) (code : Nat) : List Byte := tabGet s.bill.sections code []

/-- A little-endian field of a section in force. -/
def sec (s : State) (code off len : Nat) : Nat := leAt (section_ s code) off len

/-- BILL_GEN: the generation in force. -/
def billGen (s : State) : Nat := rf s Reg.BILL_GEN 15 0

/-- What generation g binds (R47). -/
def genOf (s : State) (g : Nat) : Gen := tabGet s.bill.gens g {}

/-- A little-endian field of class c's entry in generation g (R43). -/
def clsField (s : State) (g c off len : Nat) : Nat := leAt (genOf s g).classes (32 * c + off) len

/-- Bits [hi:lo] of byte `off` of class c's entry in generation g. -/
def clsBits (s : State) (g c off hi lo : Nat) : Nat := natFld (clsField s g c off 1) hi lo

def clsCutThrough (s : State) (g c : Nat) : Bool := clsBits s g c 0 0 0 == 1
def clsStateful (s : State) (g c : Nat) : Bool := clsBits s g c 0 1 1 == 1
def clsCommitting (s : State) (g c : Nat) : Bool := clsBits s g c 0 2 2 == 1
def clsUrgent (s : State) (g c : Nat) : Bool := clsBits s g c 0 3 3 == 1
def clsLearn (s : State) (g c : Nat) : Nat := clsBits s g c 0 5 4
def clsCheck (s : State) (g c : Nat) : Nat := clsBits s g c 0 7 6
def clsInsFail (s : State) (g c : Nat) : Nat := clsBits s g c 1 1 0
def clsAnomaly (s : State) (g c : Nat) : Nat := clsBits s g c 1 3 2
def clsPoison (s : State) (g c : Nat) : Nat := clsBits s g c 1 5 4
def clsPressure (s : State) (g c : Nat) : Nat := clsBits s g c 1 7 6
def clsEgressQ (s : State) (g c : Nat) : Nat := clsBits s g c 2 2 0
def clsPfcPrio (s : State) (g c : Nat) : Nat := clsBits s g c 2 5 3
def clsVfail (s : State) (g c : Nat) : Nat := clsBits s g c 2 6 6
def clsKeyProfile (s : State) (g c : Nat) : Nat := clsField s g c 3 1
def clsGraph (s : State) (g c : Nat) : Nat := clsField s g c 4 2
def clsLayout (s : State) (g c : Nat) : Nat := clsField s g c 6 1
def clsLauter (s : State) (g c : Nat) : Nat := clsField s g c 7 1
def clsAdmMin (s : State) (g c : Nat) : Nat := clsField s g c 8 2
def clsAdmAlpha (s : State) (g c : Nat) : Nat := clsBits s g c 10 3 0
def clsThresh (s : State) (g c : Nat) : Nat := clsField s g c 12 2
def clsSampleN (s : State) (g c : Nat) : Nat := natFld (clsField s g c 16 4) 23 0
def clsSampleTrunc (s : State) (g c : Nat) : Nat := natFld (clsField s g c 16 4) 26 24
def clsAgeLimit (s : State) (g c : Nat) : Nat := natFld (clsField s g c 20 4) 30 0
def clsAgeRemove (s : State) (g c : Nat) : Bool := natFld (clsField s g c 20 4) 31 31 == 1
def clsWideLayout (s : State) (g c : Nat) : Nat := clsField s g c 24 1

/-- The graph of class c in generation g, if it is not the empty graph. -/
def clsGraphOf (s : State) (g c : Nat) : Option Graph :=
  if clsGraph s g c = 0xFFFF then none else tabFind (genOf s g).graphs (clsGraph s g c)

/-! ### Lanes, section 0x02 (R77) -/

def laneMode (s : State) (l : Nat) : Nat := sec s 0x02 (8 * l) 1 % 16
def laneFec (s : State) (l : Nat) : Nat := sec s 0x02 (8 * l) 1 / 16
def laneAn37 (s : State) (l : Nat) : Bool := natFld (sec s 0x02 (8 * l + 1) 1) 0 0 == 1
/-- AN37, AN73 or TRAIN is set: the lane negotiates or trains at link-up (R79). -/
def laneNegotiates (s : State) (l : Nat) : Bool := natFld (sec s 0x02 (8 * l + 1) 1) 2 0 != 0

/-! ### Record layouts, section 0x06 (R172) -/

def layUse (s : State) (n : Nat) : Nat := sec s 0x06 (32 * n) 1
def layRegion (s : State) (n : Nat) : Nat := sec s 0x06 (32 * n + 1) 1 % 8
def layCreates (s : State) (n : Nat) : Bool := natFld (sec s 0x06 (32 * n + 2) 1) 0 0 == 0
def layStreams (s : State) (n : Nat) : Bool := natFld (sec s 0x06 (32 * n + 2) 1) 1 1 == 1
def layAutoPin (s : State) (n : Nat) : Bool := natFld (sec s 0x06 (32 * n + 2) 1) 2 2 == 1
/-- INIT word k of layout n, its LAST_SEEN bits taken as zero for the first. -/
def layInit (s : State) (n k : Nat) : Nat :=
  let v := sec s 0x06 (32 * n + 8 + 8 * k) 8
  if k = 0 then v / 2 ^ 32 * 2 ^ 32 else v

/-! ### Policies, section 0x0E (R323) -/

/-- The value of the policy entry with a code, if the section carries one. -/
def policy (s : State) (code : Nat) : Option Nat :=
  let b := section_ s 0x0E
  ((List.range (b.length / 8)).find? (fun i => leAt b (8 * i) 2 == code)).map (fun i => byteAt b (8 * i + 2))

end Sys2Proof.Machine
end

