-- ==== Sys2Proof/Machine/Delta.lean ====
section
/-! DEFINITION. Batches (R20, R419), the states of the twin (R428), and the delta store of a lead (R414 to R418). -/
namespace Sys2Proof.Machine

/-- Ticks of a batch (R419): 128 × 2^BATCH_CODE, 512 without a bill. -/
def batchLen (s : State) : Nat :=
  if section_ s 0x0C = [] then 512 else 128 * 2 ^ natFld (sec s 0x0C 1 1) 2 0

/-- The number of the batch that contains a tick (R419). -/
def batchOfTick (s : State) (tick : Nat) : Nat := tick / batchLen s % 2 ^ 48

/-- The number of the open batch. -/
def batchNo (s : State) : Nat := s.twin.openBatch

/-- TWIN_STATUS.STATE. -/
def twinState (s : State) : Nat := rf s Reg.TWIN_STATUS 3 0

/-- A twin is configured (R428). -/
def twinOn (s : State) : Bool := twinState s != 0

/-- IDLE or a FOL state: the restrictions of R429 apply. -/
def follower (s : State) : Bool := twinState s == 1 || decide (5 ≤ twinState s)

/-- LEAD_COPY, from the first copy batch on, or LEAD_SYNC: changes are mirrored. -/
def mirroring (s : State) : Bool := s.twin.joinBatch.isNone && (twinState s == 3 || twinState s == 4)

/-- The delta store is full (R418). -/
def storeFull (s : State) : Bool := mirroring s && decide (131072 ≤ s.twin.deltas.length)

/-- A change that meets a full delta store: a stalled commit, publish or learning (R418). -/
def storeStall (s : State) : State :=
  raise s 0xF87 s.twin.deltas.length 0

/-- Words in which the later value wins, in ascending order (R417). -/
def mergeWords (old new : List (Nat × W64)) : List (Nat × W64) := new.foldl (fun t w => tabSet t w.1 w.2) old

/-- The untransmitted delta of an address that a change may merge into (R417), newest deltas first: none after a COPY
row that covers the address, or any SPACE 3 delta. -/
def mergeTarget (batch space addr : Nat) : List Delta → Option Delta
  | [] => none
  | d :: t =>
    if d.batch ≠ batch ∨ d.space = 3 then none
    else if d.space = space ∧ d.addr = addr then
      (if d.copy ∨ d.sent then none else some d)
    else mergeTarget batch space addr t

/-- A change of a mirrored object (R414): a lead queues a delta, or merges the change into an untransmitted one. -/
def mirror (s : State) (space addr : Nat) (words : List (Nat × W64)) : State :=
  if !mirroring s then s
  else
    let t := s.twin
    let target := if space = 2 ∨ space = 3 then none else mergeTarget t.openBatch space addr t.deltas.reverse
    match target with
    | some d =>
      let d' := { d with words := mergeWords d.words words }
      { s with twin := { t with deltas := t.deltas.map (fun e => if e = d then d' else e) } }
    | none =>
      let d : Delta := { space := space, addr := addr, words := words, batch := t.openBatch, seq := t.nextSeq }
      let s := { s with twin := { t with deltas := t.deltas ++ [d], nextSeq := t.nextSeq + 1 } }
      peak s Reg.TWIN_DSTORE_PEAK 17 0 s.twin.deltas.length

/-- A delta in the form of R415, most significant byte first. -/
def Delta.bytes (d : Delta) : List Byte :=
  let wmap := d.words.foldl (fun m w => m + 2 ^ w.1) 0
  toBE 8 (d.space * 2 ^ 60 + wmap * 2 ^ 53 + d.addr % 2 ^ 36) ++ d.words.flatMap (fun w => toBE 8 w.2.toNat)

end Sys2Proof.Machine
end

