-- ==== Sys2Proof/Machine/Tables.lean ====
section
/-! DEFINITION. Slots of the forwarding tables and of the Lauter array (R120, R121), the lookups of the forwarding
tables (R122 to R135), and the waits on locked slots (R138). -/
namespace Sys2Proof.Machine

/-- The key under which slot i of table t is kept; t = 8 is the Lauter array. -/
def slotKey (t i : Nat) : Nat := t * 2 ^ 20 + i

/-- Entries of table t (R120). -/
def tblSize (t : Nat) : Nat := [524288, 262144, 131072, 65536, 65536, 4096, 65536, 16384, 65536].getD t 0

/-- Slot i of table t. -/
def slotOf (s : State) (t i : Nat) : Slot := tabGet s.fwd.slots (slotKey t i) {}

/-- Put slot i of table t. -/
def slotPut (s : State) (t i : Nat) (x : Slot) : State :=
  { s with fwd := { s.fwd with slots := tabPut s.fwd.slots (slotKey t i) x {} } }

/-- Word w of the published copy. -/
def Slot.word (x : Slot) (w : Nat) : W64 := x.words.getD w 0

/-- VALID of the published copy. -/
def Slot.valid (x : Slot) : Bool := bitOf (x.word 0) 62

/-- The CHECK of seven words (R121): CRC-32C over bytes 0 to 55 with word 0 [63:59] taken as zero. VALID, bit 62, lies
in those bits. -/
def checkOf (words : List W64) : Nat :=
  let w (i : Nat) : Nat := (words.getD i 0).toNat
  crc32c ((List.range 7).flatMap (fun i => toLE 8 (if i = 0 then w 0 % 2 ^ 59 else w i)))

/-- The words of a slot as stored: word 0 without LOCK, IN_MOTION, STAGED and SUSPECT, and word 7 as R121 says. An
image of zeros is the empty slot. -/
def storeWords (words : List W64) : List W64 :=
  let ws := (List.range 7).map (fun i =>
    let w := words.getD i 0
    if i = 0 then w &&& 0x47FFFFFFFFFFFFFF else w)
  if ws.all (· == 0) then [] else ws ++ [BitVec.ofNat 64 (checkOf ws)]

/-- What a host read of a slot returns (R137): the staged copy with LOCK = 1, or the published copy. -/
def slotRead (x : Slot) : List W64 :=
  let marks (locked written : Bool) : W64 :=
    BitVec.ofNat 64 (b2n locked * 2 ^ 63 + b2n x.inMotion * 2 ^ 61 + b2n written * 2 ^ 60 + b2n x.suspect * 2 ^ 59)
  match x.lock with
  | some l => (List.range 8).map (fun i =>
      let w := l.staged.getD i 0
      if i = 0 then (w &&& 0x47FFFFFFFFFFFFFF) ||| marks true l.written else w)
  | none => (List.range 8).map (fun i =>
      let w := x.word i
      if i = 0 then w ||| marks false false else w)

/-- The entry takes part in lookups: VALID, and not withdrawn by PARITY_POLICY (R141). -/
def liveSlot (s : State) (x : Slot) : Bool := x.valid && !(x.suspect && rb s Reg.FWD_CFG 3)

/-- How a lookup treats a locked slot: wait for its publish (R138), or apply LOCK_POLICY 0 or 1. -/
inductive LockRule where
  | wait | published | miss
deriving DecidableEq, Repr

/-- The answer of a lookup: a value, a miss, or the locked slot it waits for. -/
inductive Look (α : Type) where
  | hit (a : α)
  | miss
  | wait (table slot : Nat)
deriving Repr

/-- LOCK_POLICY of FWD_CFG as a rule. -/
def fwdPolicy (s : State) : LockRule := if rb s Reg.FWD_CFG 2 then .miss else .published

/-! ### FDB (R124, R125) -/

/-- The hash of way w for a key under a seed (R124). -/
def fdbHash (seed fid mac : Nat) : Nat := crc32c (toBE 4 seed ++ toBE 2 fid ++ toBE 6 mac) % 2 ^ 17

/-- The candidate slots of a key under the seeds in force. -/
def fdbCands (s : State) (fid mac : Nat) : List Nat :=
  (List.range 4).map (fun w => 131072 * w + fdbHash (rdn s (Reg.FWD_FDB_SEED0 + 4 * w)) fid mac)

/-- The candidate slots of a key under the seeds of a rehash (R130). -/
def fdbNextCands (s : State) (fid mac : Nat) : List Nat :=
  (List.range 4).map (fun w => 131072 * w + fdbHash (rdn s (Reg.FWD_FDB_SEED_NEXTw w)) fid mac)

/-- A rehash is running. -/
def rehashing (s : State) : Bool := rb s Reg.FWD_FDB_REHASH 1

/-- Every slot that a lookup of a key probes. -/
def fdbProbes (s : State) (fid mac : Nat) : List Nat :=
  if rehashing s then fdbCands s fid mac ++ fdbNextCands s fid mac else fdbCands s fid mac

/-- A slot holds the key (FID, MAC). -/
def fdbHolds (x : Slot) (fid mac : Nat) : Bool :=
  x.valid && fld (x.word 0) 47 0 == mac && fld (x.word 1) 11 0 == fid

/-- The slot whose published copy has the key, whatever its lock. -/
def fdbFind (s : State) (fid mac : Nat) : Option Nat :=
  (fdbProbes s fid mac).find? (fun i => fdbHolds (slotOf s 0 i) fid mac)

/-- An FDB lookup (R123): an unlocked slot with the key answers at once; else a locked candidate is waited for. -/
def fdbLook (s : State) (rule : LockRule) (fid mac : Nat) : Look Nat :=
  let ps := fdbProbes s fid mac
  let holds (i : Nat) : Bool := fdbHolds (slotOf s 0 i) fid mac && liveSlot s (slotOf s 0 i)
  let locked (i : Nat) : Bool := (slotOf s 0 i).lock.isSome
  match ps.find? (fun i => holds i && !locked i) with
  | some i => .hit i
  | none =>
    match ps.find? locked with
    | none => .miss
    | some i =>
      match rule with
      | .wait => .wait 0 i
      | .miss => .miss
      | .published => match ps.find? holds with
        | some j => .hit j
        | none => .miss

/-! ### VLANs and prefix folding -/

/-- The published VLAN entry of a VID, if it is VALID (R122). -/
def vlanOf (s : State) (vid : Nat) : Option Slot :=
  let x := slotOf s 5 vid
  if vid ≠ 0 ∧ vid ≠ 4095 ∧ liveSlot s x then some x else none

/-- The id of an IPv6 prefix (R113): the lowest index whose PREFIX it is. Slots are listed in index order. -/
def foldPrefix (s : State) (upper : Nat) : Option Nat :=
  (s.fwd.slots.find? (fun e => decide (slotKey 6 0 ≤ e.1 ∧ e.1 < slotKey 7 0) && liveSlot s e.2 &&
    (e.2.word 1).toNat == upper)).map (fun e => e.1 - slotKey 6 0)

/-! ### Routes (R132, R133) -/

/-- Bits of the prefix field that a prefix length leaves: of 32 bits in table 1, of 64 in table 2. -/
def routeWidth (t : Nat) : Nat := if t = 1 then 32 else 64

/-- A route's words match an address. -/
def routeMatches (t vrf addr : Nat) (ws : List W64) : Bool :=
  let w0 := ws.getD 0 0
  let len := fld w0 46 40
  let w := routeWidth t
  bitOf w0 62 && fld w0 55 52 == vrf && decide (len ≤ w) &&
    (ws.getD 1 0).toNat % 2 ^ w / 2 ^ (w - len) == addr / 2 ^ (w - len)

/-- The longest matching route of the set that lookups use; the lower slot among equals. -/
def lpmLook (s : State) (t vrf addr : Nat) : Option (Nat × List W64) :=
  (s.fwd.lpm.filter (fun e => decide (slotKey t 0 ≤ e.1 ∧ e.1 < slotKey (t + 1) 0) && routeMatches t vrf addr e.2 &&
    !((tabGet s.fwd.slots e.1 {}).suspect && rb s Reg.FWD_CFG 3))).foldl (fun b e =>
      match b with
      | none => some (e.1 - slotKey t 0, e.2)
      | some c => if fld (c.2.getD 0 0) 46 40 < fld (e.2.getD 0 0) 46 40 then some (e.1 - slotKey t 0, e.2) else b) none

/-! ### Next hops and ECMP (R134, R135) -/

/-- A slot read by index: its published copy, absent when not VALID, or the lock it waits for. -/
def indexLook (s : State) (rule : LockRule) (t i : Nat) : Look Slot :=
  let x := slotOf s t i
  if x.lock.isSome ∧ rule = .wait then .wait t i
  else if x.lock.isSome ∧ rule = .miss then .miss
  else if liveSlot s x then .hit x else .miss

/-- The next-hop index of the ECMP member that the hash selects: a miss when COUNT is 0 or a slot is not VALID. -/
def ecmpLook (s : State) (rule : LockRule) (g h1 h2 : Nat) : Look Nat :=
  match indexLook s rule 4 (16 * g) with
  | .wait t i => .wait t i
  | .miss => .miss
  | .hit head =>
    let n := min 256 (fld (head.word 0) 8 0)
    if n = 0 then .miss
    else
      let m := ((h1 / 2 ^ 16) ^^^ (h2 % 2 ^ 16)) * n / 65536
      match indexLook s rule 4 (16 * g + m / 16) with
      | .wait t i => .wait t i
      | .miss => .miss
      | .hit x => .hit (fld (x.word (1 + m % 16 / 4)) (16 * (m % 4) + 15) (16 * (m % 4)))

end Sys2Proof.Machine
end

