-- ==== Sys2Proof/Machine/Grist.lean ====
section
/-! DEFINITION. Grist parser and classification (R96 to R119): the header walk, class selection, the flow key and the
symmetric hash. Layouts of headers that the spec names by their standards are those of the standards
(assumption 11). -/
namespace Sys2Proof.Machine

/-- The parser profile of a quad (R98). -/
structure Profile where
  depth : Nat
  enables : Nat
  vxlan : Nat
  geneve : Nat
  rgoose : Nat

/-- The profile of quad q in the bill in force. -/
def profileOf (s : State) (q : Nat) : Profile :=
  let o := 16 * q
  { depth := 64 + 32 * (sec s 0x03 o 1 % 16), enables := sec s 0x03 (o + 2) 4, vxlan := sec s 0x03 (o + 6) 2
    geneve := sec s 0x03 (o + 8) 2, rgoose := sec s 0x03 (o + 10) 2 }

/-- The walk so far: what has been accepted, counts within the layer, and the end of the enclosing IP payload. -/
structure Walk where
  out : Parsed := {}
  layer : Nat := 0
  tags : Nat := 0
  labels : Nat := 0
  exts : Nat := 0
  sectag : Bool := false
  rtag : Bool := false
  hsr : Bool := false
  ipEnd : Option Nat := none

/-- What may come next. -/
inductive Next where
  | eth
  | type (t : Nat)
  | label
  | nibble
  | proto (p : Nat)
  | tunnel (udpEnd dport : Nat)
  | stop

/-- The frame as the parser sees it: its bytes, the parse depth, and the end of the frame less the FCS once known. -/
structure View where
  bytes : List Byte
  prof : Profile
  frameEnd : Option Nat

/-- A header type is enabled in the profile. -/
def View.on (v : View) (n : Nat) : Bool := v.prof.enables.testBit n

/-- Stop with PARSE_DEPTH (R101). -/
def Walk.deep (w : Walk) : Walk × Nat × Next := ({ w with out := { w.out with depth := true } }, 0, .stop)

/-- Stop with LENGTH_CONFLICT (R102). -/
def Walk.clash (w : Walk) : Walk × Nat × Next := ({ w with out := { w.out with conflict := true } }, 0, .stop)

/-- The bytes [off, off + n) cannot be read as a header: it would be the 17th, it crosses the depth, or it runs past
the frame end. A header that crosses the depth must still end within the frame, which the tail checks. -/
def Walk.blocked (w : Walk) (v : View) (off n : Nat) : Option (Walk × Nat × Next) :=
  let w' : Walk := { w with out := { w.out with ends := w.out.ends ++ [(off, off + n)] } }
  let past := match v.frameEnd with
    | some e => decide (e < off + n)
    | none => false
  if 16 ≤ w.out.hdrs.length then some w.deep
  else if v.prof.depth < off + n then
    if past && off < v.prof.depth then
      (match v.frameEnd with
       | some e => if e < v.prof.depth then some w.clash else some w'.deep
       | none => some w'.deep)
    else if off < v.prof.depth then some w'.deep else some w.deep
  else if past then some w.clash
  else none

/-- Accept a header. -/
def Walk.take (w : Walk) (k : HdrKind) (off n : Nat) (frag : Nat := 0) : Walk :=
  { w with out := { w.out with hdrs := w.out.hdrs ++ [⟨k, off, n, w.layer, frag⟩] } }

/-- Begin a new layer. -/
def Walk.open (w : Walk) : Walk :=
  { out := w.out, layer := w.layer + 1, hsr := w.hsr, ipEnd := w.ipEnd }

/-- A header of fixed length n with its own way on. -/
def Walk.fixed (w : Walk) (v : View) (k : HdrKind) (off n : Nat) (next : Walk → Walk × Nat × Next) :
    Walk × Nat × Next :=
  match w.blocked v off n with
  | some r => r
  | none => next (w.take k off n)

/-- IPv4 (R96, R102). -/
def walkIpv4 (v : View) (w : Walk) (off : Nat) : Walk × Nat × Next :=
  match w.blocked v off 20 with
  | some r => r
  | none =>
    let ihl := byteAt v.bytes off % 16
    let total := beAt v.bytes (off + 2) 2
    if ihl < 5 ∨ total < 4 * ihl then w.clash
    else
      let fo := beAt v.bytes (off + 6) 2
      let frag := if fo % 8192 ≠ 0 then 2 else if fo / 8192 % 2 = 1 then 1 else 0
      match w.blocked v off (4 * ihl) with
      | some r => r
      | none =>
        let w := w.take .ipv4 off (4 * ihl) frag
        let w := { w with ipEnd := some (off + total)
                          out := { w.out with ipEnds := w.out.ipEnds ++ [(off, off + total)] } }
        (w, off + 4 * ihl, if frag = 2 then .stop else .proto (byteAt v.bytes (off + 9)))

/-- IPv6. -/
def walkIpv6 (v : View) (w : Walk) (off : Nat) : Walk × Nat × Next :=
  w.fixed v .ipv6 off 40 fun w =>
    let e := off + 40 + beAt v.bytes (off + 4) 2
    ({ w with ipEnd := some e, out := { w.out with ipEnds := w.out.ipEnds ++ [(off, e)] } }, off + 40,
      .proto (byteAt v.bytes (off + 6)))

/-- Mark the last IP header as a fragment. -/
def Walk.fragment (w : Walk) (frag : Nat) : Walk :=
  if frag = 0 then w
  else { w with out := { w.out with hdrs := w.out.hdrs.map (fun h =>
    if h.layer = w.layer ∧ h.kind = .ipv6 then { h with frag := frag } else h) } }

/-- An IPv6 extension header. -/
def walkExt (v : View) (w : Walk) (off p : Nat) : Walk × Nat × Next :=
  if 4 ≤ w.exts then w.deep
  else
    match w.blocked v off 2 with
    | some r => r
    | none =>
      let n := if p = 44 then 8 else (byteAt v.bytes (off + 1) + 1) * 8
      if (w.ipEnd.getD (off + n)) < off + n then w.clash
      else w.fixed v .ext off n fun w =>
        let fo := beAt v.bytes (off + 2) 2
        let frag := if p ≠ 44 then 0 else if fo / 8 ≠ 0 then 2 else if fo % 2 = 1 then 1 else 0
        (({ w with exts := w.exts + 1 }).fragment frag, off + n,
          if frag = 2 then .stop else .proto (byteAt v.bytes off))

/-- UDP (R102). -/
def walkUdp (v : View) (w : Walk) (off : Nat) : Walk × Nat × Next :=
  match w.blocked v off 8 with
  | some r => r
  | none =>
    let n := beAt v.bytes (off + 4) 2
    if n < 8 ∨ (w.ipEnd.getD (off + n)) < off + n then w.clash
    else (w.take .udp off 8, off + 8, .tunnel (off + n) (beAt v.bytes (off + 2) 2))

/-- TCP (R102). -/
def walkTcp (v : View) (w : Walk) (off : Nat) : Walk × Nat × Next :=
  match w.blocked v off 20 with
  | some r => r
  | none =>
    let n := 4 * (byteAt v.bytes (off + 12) / 16)
    if n < 20 ∨ (w.ipEnd.getD (off + n)) < off + n then w.clash
    else w.fixed v .tcp off n fun w => (w, off + n, .stop)

/-- The header that follows a GRE or GENEVE protocol type. -/
def afterTunnel (t off : Nat) (w : Walk) : Walk × Nat × Next :=
  if t = 0x6558 then (w, off, .eth) else (w, off, .type t)

/-- GRE and NVGRE: 4 bytes and 4 more for each of checksum, key and sequence number. -/
def walkGre (v : View) (w : Walk) (off : Nat) : Walk × Nat × Next :=
  if 2 ≤ w.layer then w.deep
  else
    match w.blocked v off 4 with
    | some r => r
    | none =>
      let f := byteAt v.bytes off
      let n := 4 + 4 * (f / 128) + 4 * (f / 32 % 2) + 4 * (f / 16 % 2)
      w.open.fixed v .gre off n (afterTunnel (beAt v.bytes (off + 2) 2) (off + n))

/-- What a UDP destination port opens (R96). -/
def walkTunnel (v : View) (w : Walk) (off udpEnd dport : Nat) : Walk × Nat × Next :=
  if dport = v.prof.vxlan ∧ v.on 13 then
    if 2 ≤ w.layer then w.deep
    else w.open.fixed v .vxlan off 8 fun w => (w, off + 8, .eth)
  else if dport = v.prof.geneve ∧ v.on 15 then
    if 2 ≤ w.layer then w.deep
    else
      match w.blocked v off 8 with
      | some r => r
      | none =>
        let n := 8 + 4 * (byteAt v.bytes off % 64)
        if udpEnd < off + n then w.clash
        else w.open.fixed v .geneve off n (afterTunnel (beAt v.bytes (off + 2) 2) (off + n))
  else if (dport = 319 ∨ dport = 320) ∧ v.on 18 then w.fixed v .ptp off 34 fun w => (w, 0, .stop)
  else if dport = v.prof.rgoose ∧ v.on 19 then
    match w.blocked v off 2 with
    | some r => r
    | none =>
      let k := byteAt v.bytes off
      let n := 2 + byteAt v.bytes (off + 1)
      if k = 0xA1 then w.fixed v .rgoose off n fun w => (w, 0, .stop)
      else if k = 0xA2 then w.fixed v .rsv off n fun w => (w, 0, .stop)
      else (w, 0, .stop)
  else (w, 0, .stop)

/-- The header that an EtherType opens (R96). -/
def walkType (v : View) (w : Walk) (off t : Nat) : Walk × Nat × Next :=
  if (t = 0x8100 ∧ v.on 0) ∨ (t = 0x88A8 ∧ v.on 1) then
    if 4 ≤ w.tags then w.deep
    else w.fixed v (if t = 0x8100 then .ctag else .stag) off 4 fun w =>
      ({ w with tags := w.tags + 1 }, off + 4, .type (beAt v.bytes (off + 2) 2))
  else if t = 0x88E5 ∧ v.on 2 then
    if w.sectag then w.deep
    else
      match w.blocked v off 1 with
      | some r => r
      | none =>
        let tci := byteAt v.bytes off
        let n := if tci / 32 % 2 = 1 then 14 else 6
        if tci / 8 % 2 = 1 then w.fixed v .sectag off n fun w => (w, 0, .stop)
        else w.fixed v .sectag off (n + 2) fun w =>
          ({ w with sectag := true }, off + n + 2, .type (beAt v.bytes (off + n) 2))
  else if t = 0x892F ∧ v.on 3 then
    if w.hsr then w.deep
    else w.fixed v .hsr off 6 fun w =>
      ({ w with hsr := true, out := { w.out with lsdu := some (off, beAt v.bytes off 2 % 4096) } }, off + 6,
        .type (beAt v.bytes (off + 4) 2))
  else if t = 0xF1C1 ∧ v.on 5 then
    if w.rtag then w.deep
    else w.fixed v .rtag off 6 fun w => ({ w with rtag := true }, off + 6, .type (beAt v.bytes (off + 4) 2))
  else if (t = 0x8847 ∨ t = 0x8848) ∧ v.on 6 then (w, off, .label)
  else if t = 0x0800 ∧ v.on 7 then walkIpv4 v w off
  else if t = 0x86DD ∧ v.on 8 then walkIpv6 v w off
  else if t = 0x88B8 ∧ v.on 16 then w.fixed v .goose off 8 fun w => (w, 0, .stop)
  else if t = 0x88BA ∧ v.on 17 then w.fixed v .sv off 8 fun w => (w, 0, .stop)
  else if t = 0x88F7 ∧ v.on 18 then w.fixed v .ptp off 34 fun w => (w, 0, .stop)
  else (w, 0, .stop)

/-- The nibble after the bottom MPLS label selects the next header (R96, R101). -/
def walkNibble (v : View) (w : Walk) (off : Nat) : Walk × Nat × Next :=
  let ended := match v.frameEnd with
    | some e => decide (e ≤ off)
    | none => false
  if ended then (w, 0, .stop)
  else if v.prof.depth ≤ off then w.deep
  else
    let k := byteAt v.bytes off / 16
    if k = 4 ∧ v.on 7 then walkIpv4 v w off
    else if k = 6 ∧ v.on 8 then walkIpv6 v w off
    else (w, 0, .stop)

/-- The header that an IP protocol number opens. -/
def walkProto (v : View) (w : Walk) (off p : Nat) : Walk × Nat × Next :=
  let isV6 := (w.out.hdrs.find? (fun h => h.layer == w.layer && h.kind == .ipv6)).isSome
  if isV6 ∧ (p = 0 ∨ p = 43 ∨ p = 44 ∨ p = 60) then
    if v.on 9 then walkExt v w off p else (w, 0, .stop)
  else if p = 17 ∧ v.on 10 then walkUdp v w off
  else if p = 6 ∧ v.on 11 then walkTcp v w off
  else if p = 132 ∧ v.on 12 then w.fixed v .sctp off 12 fun w => (w, 0, .stop)
  else if p = 47 ∧ v.on 14 then walkGre v w off
  else (w, 0, .stop)

/-- One header. -/
def walkNext (v : View) (w : Walk) (off : Nat) : Next → Walk × Nat × Next
  | .eth => w.fixed v .eth off 14 fun w => (w, off + 14, .type (beAt v.bytes (off + 12) 2))
  | .type t => walkType v w off t
  | .label =>
    if 6 ≤ w.labels then w.deep
    else w.fixed v .mpls off 4 fun w =>
      ({ w with labels := w.labels + 1 }, off + 4, if byteAt v.bytes (off + 2) % 2 = 1 then .nibble else .label)
  | .nibble => walkNibble v w off
  | .proto p => walkProto v w off p
  | .tunnel e d => walkTunnel v w off e d
  | .stop => (w, off, .stop)

/-- The walk: each step accepts at most one header, or moves from a label to the nibble, or from UDP to a tunnel. -/
def walk (v : View) : Nat → Walk → Nat → Next → Parsed
  | 0, w, _, _ => w.out
  | _ + 1, w, _, .stop => w.out
  | n + 1, w, off, next =>
    let (w', off', next') := walkNext v w off next
    walk v n w' off' next'

/-- Parse a frame (R100): `whole` when its last byte has arrived. -/
def parseFrame (prof : Profile) (bytes : List Byte) (whole : Bool) : Parsed :=
  let v : View := { bytes, prof, frameEnd := if whole then some (bytes.length - 4) else none }
  walk v 64 {} 0 .eth

/-- The length of a PRP trailer at the end of a whole frame (R96): suffix 0x88FB and the LSDU size of the frame less 14
bytes and the FCS. -/
def prpLen (prof : Profile) (bytes : List Byte) : Nat :=
  let e := bytes.length - 4
  if prof.enables.testBit 4 && 20 ≤ e && beAt bytes (e - 2) 2 == 0x88FB && beAt bytes (e - 4) 2 % 4096 == e - 14 then 6
  else 0

/-- Headers whose length the tail contradicts (R102): the lowest offset of one, if any. -/
def tailConflict (prof : Profile) (p : Parsed) (bytes : List Byte) : Option Nat :=
  let e := bytes.length - 4
  let bad := (p.ends.filter (fun x => decide (e < x.2))).map (·.1) ++
    (p.ipEnds.filter (fun x => decide (e - prpLen prof bytes < x.2))).map (·.1) ++
    (match p.lsdu with
     | some (off, n) => if n = (e - 14) % 4096 then [] else [off]
     | none => [])
  bad.foldl (fun m x => match m with
    | some y => some (min x y)
    | none => some x) none

/-! ### Headers by layer -/

/-- The first accepted header of a kind in a layer. -/
def Parsed.find (p : Parsed) (layer : Nat) (ks : List HdrKind) : Option Hdr :=
  p.hdrs.find? (fun h => h.layer == layer && ks.contains h.kind)

/-- An accepted header of a kind in any layer. -/
def Parsed.has (p : Parsed) (k : HdrKind) : Bool := p.hdrs.any (fun h => h.kind == k)

/-- The highest layer present. -/
def Parsed.top (p : Parsed) : Nat := p.hdrs.foldl (fun m h => max m h.layer) 0

/-- The outermost layer-0 tag. -/
def Parsed.tag (p : Parsed) : Option Hdr := p.find 0 [.ctag, .stag]

/-- Frame type t (R106). -/
def frameType (p : Parsed) : Nat :=
  if p.depth || p.conflict then 10
  else if 1 ≤ p.top then 9
  else if p.has .ptp then 6
  else if p.has .goose then 4
  else if p.has .sv then 5
  else if p.has .rgoose then 7
  else if p.has .rsv then 8
  else if p.has .mpls then 3
  else if (p.find 0 [.ipv6]).isSome then 2
  else if (p.find 0 [.ipv4]).isSome then 1
  else 0

/-- DSCP of an IP header. -/
def dscpOf (bytes : List Byte) (h : Hdr) : Nat :=
  if h.kind = .ipv4 then byteAt bytes (h.off + 1) / 4 else beAt bytes h.off 2 / 64 % 64

/-- The priority that ADD_PRIO adds (R107). -/
def framePrio (bytes : List Byte) (p : Parsed) (dflt : Nat) : Nat :=
  match p.tag with
  | some h => byteAt bytes h.off / 32
  | none =>
    match p.find 0 [.ipv4, .ipv6] with
    | some h => dscpOf bytes h / 8
    | none => dflt

/-- The class of a frame (R107). -/
def selectClass (s : State) (port : Nat) (bytes : List Byte) (p : Parsed) : Nat :=
  let e := rd s (Reg.GRIST_CLSELi (64 * frameType p + port))
  if bitOf e 6 then (fld e 5 0 + framePrio bytes p (fld e 10 8)) % 64 else fld e 5 0

/-! ### The flow key (R109 to R113) -/

/-- The two endpoints in L2 form: the MAC pair of an Ethernet header and a port field. -/
def macPair (bytes : List Byte) (h : Hdr) (port : Nat) : Nat × Nat :=
  (beAt bytes (h.off + 6) 6 * 2 ^ 16 + port, beAt bytes h.off 6 * 2 ^ 16 + port)

/-- Context bits (R111). -/
def keyContext (kind af proto zone vni : Nat) : Nat :=
  kind * 2 ^ 46 + af * 2 ^ 44 + proto * 2 ^ 36 + zone * 2 ^ 24 + vni

/-- The key of a layer in five-tuple (kind 1) or three-tuple (kind 2) form, if the layer is complete for it. -/
def ipKey (s : State) (bytes : List Byte) (p : Parsed) (layer kind zone vni : Nat) : Option Key :=
  match p.find layer [.ipv4, .ipv6] with
  | none => none
  | some ip =>
    let l4 := p.find layer [.udp, .tcp, .sctp]
    if kind = 1 ∧ ip.frag = 0 ∧ l4.isNone then none
    else
      let ports := match l4 with
        | some h => if kind = 1 ∧ ip.frag = 0 then (beAt bytes h.off 2, beAt bytes (h.off + 2) 2) else (0, 0)
        | none => (0, 0)
      if ip.kind = .ipv4 then
        some { ctx := keyContext kind 1 (byteAt bytes (ip.off + 9)) zone vni
               a := beAt bytes (ip.off + 12) 4 * 2 ^ 16 + ports.1
               b := beAt bytes (ip.off + 16) 4 * 2 ^ 16 + ports.2 }
      else
        let exts := p.hdrs.filter (fun h => h.layer == layer && h.kind == .ext)
        let proto := match exts.getLast? with
          | some h => byteAt bytes h.off
          | none => byteAt bytes (ip.off + 6)
        let src := beAt bytes (ip.off + 8) 16
        let dst := beAt bytes (ip.off + 24) 16
        match foldPrefix s (src / 2 ^ 64), foldPrefix s (dst / 2 ^ 64) with
        | some i, some j =>
          some { ctx := keyContext kind 2 proto zone vni
                 a := (i * 2 ^ 64 + src % 2 ^ 64) * 2 ^ 16 + ports.1
                 b := (j * 2 ^ 64 + dst % 2 ^ 64) * 2 ^ 16 + ports.2 }
        | _, _ =>
          some { ctx := keyContext kind 3 proto zone vni
                 a := src * 2 ^ 16 + ports.1, b := dst * 2 ^ 16 + ports.2, wide := true }

/-- The VNI of the tunnel that opened a layer (R111). -/
def vniOf (bytes : List Byte) (p : Parsed) (layer : Nat) : Nat :=
  match p.find layer [.vxlan, .gre, .geneve] with
  | none => 0
  | some h =>
    if h.kind = .gre then
      let f := byteAt bytes h.off
      if f / 32 % 2 = 1 ∧ beAt bytes (h.off + 2) 2 = 0x6558 then beAt bytes (h.off + 4 + 4 * (f / 128)) 3 else 0
    else beAt bytes (h.off + 4) 3

/-- The key of one layer for a kind, if the layer is complete for it (R110). -/
def layerKey (s : State) (bytes : List Byte) (p : Parsed) (layer kind zone vni : Nat) : Option Key :=
  if kind = 0 then
    (p.find layer [.eth]).map (fun h =>
      let m := macPair bytes h 0
      { ctx := keyContext 0 0 0 zone vni, a := m.1, b := m.2 })
  else if kind = 3 then
    match p.find layer [.goose, .sv, .ptp], p.find layer [.eth] with
    | some pdu, some e =>
      let port := if pdu.kind = .ptp then byteAt bytes (pdu.off + 4) else beAt bytes pdu.off 2
      let m := macPair bytes e port
      some { ctx := keyContext 3 0 0 zone vni, a := m.1, b := m.2 }
    | _, _ => ipKey s bytes p layer 1 zone vni
  else ipKey s bytes p layer kind zone vni

/-- The flow key under a key profile (R109, R110): the deepest complete layer up to the one chosen, else L2 form. -/
def flowKey (s : State) (profile : Nat) (bytes : List Byte) (p : Parsed) (zone : Nat) : Key :=
  let kind := profile / 4 % 4
  let choice := profile % 4
  let limit := [0, 2, 2, 1].getD choice 0
  let try_ (l : Nat) : Option Key :=
    layerKey s bytes p l kind zone (if 2 ≤ choice then vniOf bytes p l else 0)
  match (if 2 ≤ limit then try_ 2 else none), (if 1 ≤ limit then try_ 1 else none), try_ 0 with
  | some k, _, _ => k
  | none, some k, _ => k
  | none, none, some k => k
  | none, none, none =>
    let m := macPair bytes ⟨.eth, 0, 14, 0, 0⟩ 0
    { ctx := keyContext 0 0 0 zone 0, a := m.1, b := m.2 }

/-! ### The symmetric hash (R115 to R117) -/

def Key.lo (k : Key) : Nat := min k.a k.b
def Key.hi (k : Key) : Nat := max k.a k.b
/-- DIR (R257): 1 when endpoint A is HI and the endpoints differ. -/
def Key.dir (k : Key) : Bool := decide (k.b < k.a)
/-- Bytes of an endpoint. -/
def Key.endLen (k : Key) : Nat := if k.wide then 18 else 12
/-- The hash input of R115. -/
def Key.hashInput (k : Key) : List Byte := toBE 6 k.ctx ++ toBE k.endLen k.lo ++ toBE k.endLen k.hi
/-- The key in hash-input order before endpoint ordering (R151). -/
def Key.plain (k : Key) : List Byte := toBE 6 k.ctx ++ toBE k.endLen k.a ++ toBE k.endLen k.b

/-- H1 and H2 of a key (R116). -/
def keyHash (seed : Nat) (k : Key) : Nat × Nat := (crc32c k.hashInput, crc32c (toBE 4 seed ++ k.hashInput))

/-- A write of GRIST_CLSELi (R580): CLASS is judged against the ADD_PRIO of the same access. -/
def clselWrite (s : State) (i v : Nat) : State :=
  let a := Reg.GRIST_CLSELi i
  let old := rd s a
  let cls := natFld v 5 0
  let add := natFld v 6 6
  let s := if add = 1 ∧ 57 ≤ cls then accReport s 1 0 true a else s
  let cls' := if add = 1 ∧ 57 ≤ cls then fld old 5 0 else cls
  let add' := if add = 1 ∧ 57 ≤ cls ∧ 57 ≤ cls' then fld old 6 6 else add
  wrn s a (cls' + add' * 2 ^ 6 + natFld v 10 8 * 2 ^ 8)

/-- GRIST_CLSEL_WRITE (R108, R580). -/
def execGristClselWrite (index : Fin 1024) (value : BitVec 32) (s : State) : Host.Outcome State Fault Refusal :=
  .next (clselWrite s index.val value.toNat)

end Sys2Proof.Machine
end

