-- ==== Sys2Proof/Machine/CoreCal.lean ====
section
/-! DEFINITION. Self-timed core and live calibration (R55, R59 to R74): delay codes, shadow sampling, forced
recalibration and the slack monitor. -/
namespace Sys2Proof.Machine

/-- The hummock of a region, none for the always-on domain (R55). -/
def regionHummock (n : Nat) : Option Nat :=
  if n ≤ 15 then some n else if n ≤ 31 then some (n - 16)
  else if n ≤ 43 then none
  else if n ≤ 51 then some 36 else if n ≤ 59 then some 37
  else if n ≤ 63 then some (n - 60 + 32)
  else if n ≤ 79 then some ((n - 64) / 4 + 28)
  else if n ≤ 87 then some (n - 80 + 20)
  else if n ≤ 91 then some 38 else if n ≤ 95 then some 39
  else if n ≤ 99 then some (n - 96 + 16) else none

/-- The state of region n. -/
def regionOf (s : State) (n : Nat) : Region := tabGet s.core.regions n {}

/-- Put the state of region n. -/
def regionPut (s : State) (n : Nat) (r : Region) : State :=
  { s with core := { s.core with regions := tabPut s.core.regions n r {} } }

/-- Region n's hummock is asleep. -/
def regionAsleep (s : State) (n : Nat) : Bool := rb s (Reg.CORE_REGn_STATUS n) 18

/-- The unit of a slack domain with the lowest margin, lowest unit first: unit and margin. -/
def worstOf : List (Nat × Nat × Nat) → Option (Nat × Nat)
  | [] => none
  | (k, m, _) :: t =>
    match worstOf t with
    | some (u, w) => if m ≤ w then some (k % 65536, m) else some (u, w)
    | none => some (k % 65536, m)

/-- The slack monitor looks at domain d again (R70): worst unit and margin, and the event when a margin first falls
below the threshold. -/
def slackLook (s : State) (d : Nat) : State :=
  let us := s.core.slack.filter (fun e => e.1 / 65536 == d)
  match worstOf us with
  | none => wrn s (Reg.CORE_SLACKd d) 0
  | some (u, m) =>
    let below := us.any (fun e => e.2.1 < e.2.2)
    let was := rb s (Reg.CORE_SLACKd d) 31
    let s := wrn s (Reg.CORE_SLACKd d) (u + min m 255 * 2 ^ 16 + b2n below * 2 ^ 31)
    if below && !was then raise s (0x028 + d) (pack2 d u) m else s

/-- A unit of domain d reports its margin and threshold (R70). -/
def slackReport (s : State) (d unit margin threshold : Nat) : State :=
  slackLook { s with core := { s.core with slack := tabSet s.core.slack (d * 65536 + unit) (margin, threshold) } } d

/-- A unit of domain d has no margin any more: it sleeps or is out of use. -/
def slackDrop (s : State) (d unit : Nat) : State :=
  slackLook { s with core := { s.core with slack := tabDel s.core.slack (d * 65536 + unit) } } d

/-- The measurement of a period is valid: every offset covers at least 256 handshakes (R61). -/
def periodValid (r : Region) : Bool := r.counts.length == 16 && r.counts.all (fun c => 256 ≤ c.1)

/-- The margin of a period: the largest probe offset without a mismatch (R60). -/
def periodMargin (cs : List (Nat × Nat)) : Nat :=
  (List.range cs.length).foldl (fun m i => if (cs.getD i (0, 1)).2 = 0 then i else m) 0

/-- The code after a valid period (R62). -/
def nextCodeOf (s : State) (code margin : Nat) : Nat :=
  let target := rf s Reg.CORE_CFG 3 0
  let hyst := [2, 1, 3].getD (rf s Reg.CORE_CFG 9 8) 2
  if margin < rf s Reg.CORE_CFG 7 4 then min (code + 2) 63
  else if margin < target then min (code + 1) 63
  else if target + hyst < margin then code - 1
  else code

/-- Start a forced recalibration of region n, or refuse it (R72, R549): `planesFull` is false while another Lode plane
is out of service or draining. -/
def recalStart (s : State) (n : Nat) (otherPlaneOut : Bool) : State :=
  let result := if 100 < n then 3
    else if s.core.recal.isSome then 1
    else if regionAsleep s n then 2
    else if 32 ≤ n ∧ n ≤ 35 ∧ otherPlaneOut then 1
    else 0
  if result = 0 then
    let s := { s with core := { s.core with recal := some n } }
    let s := wf s Reg.CORE_RECAL_STATUS 7 1 n
    wf (wf s Reg.CORE_RECAL_STATUS 9 8 0) Reg.CORE_RECAL_STATUS 0 0 1
  else raise (wf s Reg.CORE_RECAL_STATUS 9 8 result) 0x025 n result

/-- A Lode plane other than that of region n is out of service or draining (R549). -/
def otherPlaneOut (s : State) (n : Nat) : Bool :=
  (List.range 4).any (fun p => 32 + p != n && (!rb s Reg.LODE_STATUS p || rb s Reg.LODE_STATUS (4 + p)))

/-- A CORE_RECAL_CMD write (R72). -/
def recalCommand (s : State) (v : Nat) : State :=
  if v / 2 ^ 31 % 2 = 1 then recalStart s (v % 128) (otherPlaneOut s (v % 128)) else s

/-- The end of a calibration period in one region (R61, R62, R66, R68, R70, R72). -/
def regionPeriodEnd (readings : List (Nat × Nat × Nat)) (s : State) (n : Nat) : State :=
  let r := regionOf s n
  let st := Reg.CORE_REGn_STATUS n
  if regionAsleep s n then regionPut s n { r with counts := [], replays := 0 }
  else
    let s := match readings.find? (fun e => e.1 == n) with
      | some (_, hs, tp) => wf (wrn s (Reg.CORE_REGn_HANDSHAKES n) hs) (Reg.CORE_REGn_THROUGHPUT n) 11 0 tp
      | none => wrn s (Reg.CORE_REGn_HANDSHAKES n) 0
    let partialPeriod := r.guardLeft = 3
    let guard := 0 < r.guardLeft
    let limit := rdn s Reg.CORE_REPLAY_LIMIT
    let s := if limit < r.replays then raise s 0x022 n r.replays else s
    let r' := { r with counts := [], replays := 0, guardLeft := r.guardLeft - 1 }
    let s :=
      if partialPeriod then regionPut s n r'
      else if periodValid r then
        let m := periodMargin r.counts
        let code := rf s st 5 0
        let s := wf (wf s st 11 8 m) st 17 17 0
        let code' := nextCodeOf s code m
        let low := m < rf s Reg.CORE_CFG 7 4
        let s :=
          if code = 63 ∧ low then (if rb s st 16 then s else raise (wf s st 16 16 1) 0x020 n m)
          else if rb s st 16 && !low then raise (wf s st 16 16 0) 0x021 n (pack2 code m)
          else s
        let s := regionPut s n { r' with
          staleRun := 0, minMargin := some (min m (r.minMargin.getD 15)),
          nextCode := if code' = code then r.nextCode else some code' }
        slackReport s 0 n m (rf s Reg.CORE_CFG 7 4)
      else
        let s := regionPut (wf s st 17 17 1) n { r' with staleRun := r.staleRun + 1 }
        if r.staleRun + 1 = 16 ∧ ¬ guard then raise s 0x026 n (rdn s (Reg.CORE_REGn_HANDSHAKES n)) else s
    let s := if r.guardLeft = 1 then wf s st 19 19 0 else s
    if limit < r.replays ∧ rb s Reg.CORE_ORDER 0 then recalStart s n (otherPlaneOut s n) else s

/-- The region with the lowest measured throughput among those awake without WAKE_GUARD (R71). -/
def headroomOf (s : State) : Option (Nat × Nat) :=
  (List.range 101).foldl (fun b n =>
    if regionAsleep s n || rb s (Reg.CORE_REGn_STATUS n) 19 then b
    else
      let t := rf s (Reg.CORE_REGn_THROUGHPUT n) 11 0
      match b with
      | some (_, w) => if t < w then some (n, t) else b
      | none => some (n, t)) none

/-- HEADROOM at the end of a period, with event 0x023 and its hysteresis (R71). -/
def updateHeadroom (s : State) : State :=
  match headroomOf s with
  | none => s
  | some (n, h) =>
    let s := wf (wf s Reg.CORE_STATUS 11 0 h) Reg.CORE_STATUS 22 16 n
    let th := rf s Reg.CORE_HEADROOM_THRESH 11 0
    if s.core.headLow then
      if th + 8 ≤ h then { s with core := { s.core with headLow := false } } else s
    else if h < th then raise { s with core := { s.core with headLow := true } } 0x023 n h
    else s

/-- Region n falls asleep with its hummock: it keeps its code (R66). -/
def regionSleep (s : State) (n : Nat) : State :=
  slackDrop (wf s (Reg.CORE_REGn_STATUS n) 18 18 1) 0 n

/-- Region n wakes with its hummock: the kept code plus 4, and WAKE_GUARD (R66). -/
def regionWake (s : State) (n : Nat) : State :=
  let st := Reg.CORE_REGn_STATUS n
  let s := wf (wf (wf s st 18 18 0) st 19 19 1) st 5 0 (min 63 (rf s st 5 0 + 4))
  regionPut s n { regionOf s n with guardLeft := 3, nextCode := none, counts := [], replays := 0 }

/-- Registers of the CORE block whose value is computed from the state. -/
def coreView (s : State) (a : Nat) : Option W64 :=
  if a = Reg.CORE_STATUS then
    let any (i : Nat) := (List.range 101).any (fun n => rb s (Reg.CORE_REGn_STATUS n) i)
    some (setFld (setFld (rd s a) 23 23 (b2n (any 16))) 24 24 (b2n (any 17)))
  else if Reg.CORE_REGn_STATUS 0 ≤ a ∧ a < Reg.CORE_REGn_STATUS 101 ∧ a % 16 = 0 then
    some (setFld (rd s a) 15 12 ((regionOf s ((a - Reg.CORE_REGn_STATUS 0) / 16)).minMargin.getD 15))
  else none

/-! ### The commands -/

/-- CALIBRATION_PERIOD_END (R62). -/
def execCalibrationPeriodEnd (readings : List (Nat × Nat × Nat)) (s : State) : Host.Outcome State Fault Refusal :=
  let s := (List.range 101).foldl (regionPeriodEnd readings) s
  let s := updateHeadroom s
  let s := cntWrap s Reg.CORE_PERIODS 1
  let s := wrn s Reg.CORE_PERIODS (rdn s Reg.CORE_PERIODS % 2 ^ 32)
  .next { s with core := { s.core with offset := 0 } }

/-- PROBE_OFFSET_STEP (R61): the counts of the offset that ends are kept, and the next offset is probed. -/
def execProbeOffsetStep (counts : List (Nat × Nat × Nat)) (s : State) : Host.Outcome State Fault Refusal :=
  let s := (List.range 101).foldl (fun s n =>
    if regionAsleep s n then s
    else
      let r := regionOf s n
      let c := match counts.find? (fun e => e.1 == n) with
        | some (_, h, m) => (h, m)
        | none => (0, 0)
      regionPut s n { r with counts := (r.counts ++ [c]).take 16 }) s
  .next { s with core := { s.core with offset := min 15 (s.core.offset + 1) } }

/-- DELAY_CODE_APPLY (R63). -/
def execDelayCodeApply (region : Fin 101) (s : State) : Host.Outcome State Fault Refusal :=
  let r := regionOf s region.val
  .next (match r.nextCode with
    | some c => wf (regionPut s region.val { r with nextCode := none }) (Reg.CORE_REGn_STATUS region.val) 5 0 c
    | none => s)

/-- HANDSHAKE_REPLAY (R64): the region passes on the shadow value and counts the replay. -/
def execHandshakeReplay (region : Fin 101) (s : State) : Host.Outcome State Fault Refusal :=
  let r := regionOf s region.val
  .next (if regionAsleep s region.val then s
    else cnt (regionPut s region.val { r with replays := r.replays + 1 }) (Reg.CORE_REGn_REPLAYS region.val) 1)

/-- FORCED_RECAL_START (R72). -/
def execForcedRecalStart (value : BitVec 32) (s : State) : Host.Outcome State Fault Refusal :=
  .next (recalCommand s value.toNat)

/-- The code at which a sweep of all codes leaves a region (R72, R73): the lowest whose margin is at least TARGET; where none is,
a free value (assumption 2). -/
def sweptCode (s : State) (margins : List Nat) : Nat × State :=
  match (margins.take 64).findIdx? (fun m => decide (rf s Reg.CORE_CFG 3 0 ≤ m)) with
  | some c => (c, s)
  | none => ((fresh s).1 % 64, (fresh s).2)

/-- FORCED_RECAL_COMPLETE (R73): the lowest code whose margin is at least TARGET; where no code has it the spec states no
code, and the code is a free value (assumption 2). -/
def execForcedRecalComplete (margins : List Nat) (s : State) : Host.Outcome State Fault Refusal :=
  match s.core.recal with
  | none => .next s
  | some n =>
    let (code, s) := sweptCode s margins
    let s := { s with core := { s.core with recal := none } }
    let s := wf (regionPut s n { regionOf s n with nextCode := none }) (Reg.CORE_REGn_STATUS n) 5 0 code
    let s := wf (wf (wf s Reg.CORE_RECAL_STATUS 0 0 0) Reg.CORE_RECAL_STATUS 9 8 0) Reg.CORE_RECAL_STATUS 21 16 code
    .next (raise s 0x024 n code)

end Sys2Proof.Machine
end

