-- ==== Sys2Proof/Machine/TimeUnit.lean ====
section
/-! DEFINITION. Time unit and network time (R382 to R408): the clock, the common tick, changes of time, the
source watch, link delay margins, timed outputs and capture inputs. -/
namespace Sys2Proof.Machine

/-- 10^9 ns in units of 2^−32 ns: one second of the accumulator. -/
def accPerSec : Nat := 1000000000 * 2 ^ 32

/-- Seconds of the time of day. -/
def timeSec (s : State) : Nat := s.time.acc / accPerSec
/-- Nanoseconds of the time of day. -/
def timeNsec (s : State) : Nat := s.time.acc / 2 ^ 32 % 1000000000
/-- Sub-nanoseconds of the time of day, in 2^−16 ns (R383). -/
def timeSub (s : State) : Nat := s.time.acc / 2 ^ 16 % 2 ^ 16
/-- The time of day in 2^−16 ns. -/
def time16 (s : State) : Nat := s.time.acc / 2 ^ 16
/-- N of R387: the time of day in whole nanoseconds. -/
def timeN (s : State) : Nat := s.time.acc / 2 ^ 32

/-- The tick period in ns (R387). -/
def tickPeriod (s : State) : Nat := 4 * 2 ^ rf s Reg.TIME_STATUS 10 8

/-- The tick number that time gives, before the hold of R388. -/
def tickOfTime (s : State) : Nat := timeN s / tickPeriod s

/-- The tick is held: time is behind the tick number (R388). -/
def tickHeld (s : State) : Bool := decide (tickOfTime s < s.time.tick)

/-- Let the tick number follow time: it jumps forward and never decreases (R388). -/
def followTick (s : State) : State :=
  { s with time := { s.time with tick := max s.time.tick (tickOfTime s) } }

/-- One cycle of the 1 GHz clock (R383): time gains 1 ns + TIME_RATE × 2^−32 ns. -/
def timeCycle (s : State) : State :=
  let inc : Int := 2 ^ 32 + signed 32 (rdn s Reg.TIME_RATE)
  followTick { s with time := { s.time with cycles := s.time.cycles + 1, acc := ((s.time.acc : Int) + inc).toNat } }

/-! ### Timed outputs (R401, R402) -/

/-- The state of output n. -/
def toutOf (s : State) (n : Nat) : Tout := tabGet s.time.tout n {}

/-- Put the state of output n, and show it in the output's STATUS. -/
def toutPut (s : State) (n : Nat) (t : Tout) : State :=
  let s := { s with time := { s.time with tout := tabPut s.time.tout n t {} } }
  wf (wf s (Reg.TIME_TOUTn_STATUS n) 0 0 (b2n t.next.isSome)) (Reg.TIME_TOUTn_STATUS n) 1 1 (b2n t.pulseEnd.isSome)

/-- START + OFFSET of output n in 2^−32 ns: the time at which its first leading edge falls (R401). -/
def toutStart (s : State) (n : Nat) : Int :=
  let ns : Nat := rdn s (Reg.TIME_TOUTn_START_S n) * 1000000000 + rf s (Reg.TIME_TOUTn_START_NS n) 29 0
  (ns * 2 ^ 32 : Nat) + signed 32 (rdn s (Reg.TIME_TOUTn_OFFSET n)) * 2 ^ 24

/-- PERIOD of output n in 2^−32 ns. -/
def toutPeriod (s : State) (n : Nat) : Nat := rf s (Reg.TIME_TOUTn_PERIOD n) 61 0 * 2 ^ 32

/-- Edges of output n, from `e` on, that lie before time `t`; with a period of 0 only the first. -/
def edgesBefore (e t : Int) (period : Nat) : Nat :=
  if t ≤ e then 0 else if period = 0 then 1 else ((t - e + period - 1) / period).toNat

/-- The first edge START + k × PERIOD, k ≥ 0, that is not before time `t`. -/
def firstEdgeFrom (start t : Int) (period : Nat) : Int := start + (edgesBefore start t period * period : Nat)

/-- Report n edges of an output as missed (R402): STATUS.MISSED saturates. -/
def toutMiss (s : State) (n k : Nat) : State :=
  let s := wf s (Reg.TIME_TOUTn_STATUS n) 15 8 (satAdd 8 (rf s (Reg.TIME_TOUTn_STATUS n) 15 8) k)
  raise s (0x090 + n) n k

/-- ARM once no pulse is in progress (R402). -/
def toutArmNow (s : State) (n : Nat) : State :=
  let s := wf s (Reg.TIME_TOUTn_STATUS n) 2 2 0
  let t := toutOf s n
  let start := toutStart s n
  let mode := rf s (Reg.TIME_TOUTn_CFG n) 1 0
  if mode = 1 then
    if start < s.time.acc then toutMiss (toutPut s n { t with next := none }) n 1
    else toutPut s n { t with next := some start, disarm := false }
  else if mode = 2 then
    toutPut s n { t with next := some (firstEdgeFrom start s.time.acc (toutPeriod s n)), disarm := false }
  else toutPut s n { t with next := none }

/-- ARM of output n (R402): it takes effect after any pulse in progress. -/
def toutArm (s : State) (n : Nat) : State :=
  if (toutOf s n).pulseEnd.isSome then wf s (Reg.TIME_TOUTn_STATUS n) 2 2 1 else toutArmNow s n

/-- DISARM of output n (R402): the output returns to idle after any pulse in progress. -/
def toutDisarm (s : State) (n : Nat) : State :=
  let t := toutOf s n
  toutPut (wf s (Reg.TIME_TOUTn_STATUS n) 2 2 0) n { t with next := none, disarm := t.pulseEnd.isSome }

/-- The level of output n during a pulse: high for POL = 0 (R401). -/
def toutLevel (s : State) (n : Nat) (pulse : Bool) : Bool := pulse != rb s (Reg.TIME_TOUTn_CFG n) 2

/-- An edge of output n that is due: the end of the pulse in progress, or the next leading edge (R401). -/
def toutEdge (s : State) (n : Nat) : State :=
  let t := toutOf s n
  match t.pulseEnd with
  | some e =>
    if nowNs s < e then s
    else
      let s := emit (toutPut s n { t with pulseEnd := none, disarm := false }) (.tout n (toutLevel s n false))
      if rb s (Reg.TIME_TOUTn_STATUS n) 2 then toutArmNow s n else s
  | none =>
    match t.next with
    | none => s
    | some e =>
      if (s.time.acc : Int) < e then s
      else
        let next := if rf s (Reg.TIME_TOUTn_CFG n) 1 0 = 2 then some (e + toutPeriod s n) else none
        emit (toutPut s n { t with next := next, pulseEnd := some (nowNs s + rdn s (Reg.TIME_TOUTn_WIDTH n)) })
          (.tout n (toutLevel s n true))

/-- What a change of time from `old` does to output n (R402): a forward change omits the edges passed over; after a
backward change a periodic output continues at its first edge after the new time. -/
def toutStep (old : Nat) (s : State) (n : Nat) : State :=
  let t := toutOf s n
  match t.next with
  | none => s
  | some e =>
    let periodic := rf s (Reg.TIME_TOUTn_CFG n) 1 0 = 2
    if old ≤ s.time.acc then
      let k := edgesBefore e s.time.acc (if periodic then toutPeriod s n else 0)
      if k = 0 then s
      else
        let next := if periodic then some (e + (k * toutPeriod s n : Nat)) else none
        toutMiss (toutPut s n { t with next := next }) n k
    else if periodic then
      toutPut s n { t with next := some (firstEdgeFrom (toutStart s n) s.time.acc (toutPeriod s n)) }
    else s

/-! ### Changes of time (R384) -/

/-- Set the accumulator at one cycle and let the tick, the timed outputs and the bandwidth windows follow. -/
def stepTime (s : State) (acc : Nat) (adjust : Bool) : State :=
  let old := s.time.acc
  let change : Int := ((acc : Int) - old) / 2 ^ 16
  let sat : Int := max (-(2 ^ 63)) (min (2 ^ 63 - 1) change)
  let was := s.time.tick
  let s := followTick { s with time := { s.time with acc := acc }, perf := { s.perf with stepped := true } }
  let s := if was + 1 < s.time.tick then { s with time := { s.time with jumps := s.time.jumps ++ [(was, s.time.tick)] } } else s
  let s := raise s 0x082 (b2n adjust) (unsigned 64 sat)
  (List.range 16).foldl (toutStep old) s

/-- A write of TIME_CMD (R384): SET, ADJUST, or neither when both bits are 1 or the result is out of range. -/
def timeCommand (s : State) (v : Nat) : State :=
  let set := v % 2 = 1
  let adj := v / 2 % 2 = 1
  if set ∧ adj then accReport s 1 0 true Reg.TIME_CMD
  else if set then
    let ns := rdn s Reg.TIME_SET_S * 1000000000 + rf s Reg.TIME_SET_NS 29 0
    stepTime s (ns * 2 ^ 32 + rf s Reg.TIME_SET_SUBNS 15 0 * 2 ^ 16) false
  else if adj then
    let acc : Int := s.time.acc + signed 64 (rdn s Reg.TIME_ADJ) * 2 ^ 16
    if acc < 0 ∨ (2 ^ 48 * accPerSec : Nat) ≤ acc then accReport s 1 0 true Reg.TIME_CMD
    else stepTime s acc.toNat true
  else s

/-- TIME_RATE (R383): a magnitude above 2^22 is reserved (R11). -/
def writeRate (s : State) (v : Nat) : State :=
  let r := signed 32 v
  if r < -(2 ^ 22) ∨ 2 ^ 22 < r then accReport s 1 0 true Reg.TIME_RATE
  else
    let s := wrn s Reg.TIME_RATE (v % 2 ^ 32)
    { s with time := { s.time with rateAt := nowNs s, rateTold := false } }

/-- A read of TIME_SNAP_NS latches seconds, sub-nanoseconds and tick of the same cycle (R385). -/
def snapTime (s : State) : State :=
  let s := wrn s Reg.TIME_SNAP_S (timeSec s)
  let s := wrn s Reg.TIME_SNAP_SUBNS (timeSub s)
  wrn s Reg.TIME_SNAP_TICK (tickNo s)

/-! ### Source watch (R399) -/

/-- Port p is watched. -/
def watched (s : State) (p : Nat) : Bool := rb s (Reg.TIME_PORTp_CFG p) 3

/-- A received Sync or Announce of a watched port and its domain (R399): message type, domainNumber and, for an
Announce, grandmasterIdentity. -/
def syncWatch (s : State) (p msgType domain gm : Nat) : State :=
  if !watched s p || rf s (Reg.TIME_PORTp_CFG p) 15 8 != domain then s
  else if msgType = 0 then
    let s := { s with time := { s.time with lastSync := tabSet s.time.lastSync p (nowNs s) } }
    if rb s (Reg.TIME_PORTp_STATUS p) 0 then s
    else raise (wf s (Reg.TIME_PORTp_STATUS p) 0 0 1) 0x086 p domain
  else if msgType = 11 ∧ rdn s (Reg.TIME_PORTp_GM p) ≠ gm then
    raise (wrn s (Reg.TIME_PORTp_GM p) gm) 0x085 p gm
  else s

/-! ### Link delay margin (R400) -/

/-- The margin of a port in 0.25 ns: the tolerance less the largest deviation of the last 64 measurements. -/
def ldelayMargin (s : State) (p : Nat) (ms : List Nat) : Nat :=
  let mean := rdn s (Reg.TIME_PORTp_LDELAY p)
  let worst := ms.foldl (fun w m => max w (max (m - mean) (mean - m))) 0
  let quarters := (worst + 2 ^ 14 - 1) / 2 ^ 14
  min 255 (rf s Reg.TIME_LDELAY_TOL 7 0 - quarters)

/-- A measurement written for port p (R400): the margin follows, and event 0x0C0 + p is raised once when it falls
below the threshold, again only after a recovery to the threshold plus 2 (STATUS.BELOW). -/
def ldelayMeasure (s : State) (p m : Nat) : State :=
  let ms := (m :: tabGet s.time.measured p []).take 64
  let s := { s with time := { s.time with measured := tabSet s.time.measured p ms } }
  let g := ldelayMargin s p ms
  let th := rf s Reg.TIME_SLACK_THRESH 7 0
  let s := slackReport (wf s (Reg.TIME_PORTp_STATUS p) 15 8 g) 4 p g th
  if rb s (Reg.TIME_PORTp_STATUS p) 16 then
    if th + 2 ≤ g then wf s (Reg.TIME_PORTp_STATUS p) 16 16 0 else s
  else if g < th then raise (wf s (Reg.TIME_PORTp_STATUS p) 16 16 1) (0x0C0 + p) p g
  else s

/-! ### Captures and stamps (R398, R403) -/

/-- The time at which a captured edge fell: time − DELAY at a resolution of 0.125 ns, in 2^−16 ns. -/
def captureTime (s : State) (delay : Int) : Nat :=
  let t : Int := s.time.acc - delay * 2 ^ 24
  (t / 2 ^ 29).toNat * 2 ^ 13

/-- A selected edge on TCAPn (R403). -/
def capture (s : State) (n : Nat) (falling : Bool) : State :=
  let edge := rf s (Reg.TIME_TCAPn_CFG n) 1 0
  if (falling && edge / 2 == 1) || (!falling && edge % 2 == 1) then
    let q := tabGet s.time.tcap n []
    if q.length < 16 then
      let c : Capture := ⟨captureTime s (signed 32 (rdn s (Reg.TIME_TCAPn_DELAY n))), falling⟩
      { s with time := { s.time with tcap := tabSet s.time.tcap n (q ++ [c]) } }
    else raise (cnt s (Reg.TIME_TCAPn_OVF n) 1) (0x0A0 + n) n 0
  else s

/-- POP of TCAPn. -/
def capturePop (s : State) (n : Nat) : State :=
  { s with time := { s.time with tcap := tabPut s.time.tcap n ((tabGet s.time.tcap n []).drop 1) [] } }

/-- Place a stamp in the egress stamp FIFO, or count it as lost (R398). -/
def recordStamp (s : State) (port cookie time16 : Nat) : State :=
  if s.time.txts.length < 256 then { s with time := { s.time with txts := s.time.txts ++ [⟨time16, port, cookie⟩] } }
  else raise (cnt s Reg.TIME_TXTS_OVF 1) 0x088 0 port

/-- Seconds, nanoseconds and sub-nanoseconds of a time in 2^−16 ns. -/
def split16 (t : Nat) : Nat × Nat × Nat := (t / 2 ^ 16 / 1000000000, t / 2 ^ 16 % 1000000000, t % 2 ^ 16)

/-! ### The residence table (R395) -/

/-- Record a residence under a key, or count it as lost. -/
def recordResidence (s : State) (r : Residence) : State :=
  if s.time.residence.length < 4096 then
    { cnt s Reg.TIME_RES_RECORDED 1 with time := { s.time with residence := s.time.residence ++ [r] } }
  else raise (cnt s Reg.TIME_RES_FULL 1) 0x089 0 r.port

/-- An entry has the key of a general message. -/
def Residence.matchesKey (r : Residence) (port : Nat) (identity : List Byte) (domain seqId : Nat) : Bool :=
  r.port == port && r.identity == identity && r.domain == domain && r.seqId == seqId

/-- Use the entry of a general message: its value, and the table without it. -/
def takeResidence (s : State) (port : Nat) (identity : List Byte) (domain seqId : Nat) : Option Int × State :=
  match s.time.residence.find? (·.matchesKey port identity domain seqId) with
  | some r =>
    (some r.value,
      { cnt s Reg.TIME_RES_ADDED 1 with time := { s.time with residence := s.time.residence.erase r } })
  | none => (none, s)

/-! ### Views of registers that show these structures -/

/-- Registers of the TIME block whose value is computed from the state. -/
def timeView (s : State) (a : Nat) : Option W64 :=
  if a = Reg.TIME_STATUS then some (setFld (rd s a) 3 3 (b2n (tickHeld s)))
  else if a = Reg.TIME_SNAP_NS then some (BitVec.ofNat 64 (timeNsec s))
  else if a = Reg.TIME_RES_USED then some (BitVec.ofNat 64 s.time.residence.length)
  else if a = Reg.TIME_TXTS_LEVEL then some (BitVec.ofNat 64 s.time.txts.length)
  else if a = Reg.TIME_TXTS_HEAD0 then
    match s.time.txts with
    | t :: _ => some (BitVec.ofNat 64 ((split16 t.time16).1 % 2 ^ 48 + t.port * 2 ^ 48 + 2 ^ 63))
    | [] => some 0
  else if a = Reg.TIME_TXTS_HEAD1 then
    match s.time.txts with
    | t :: _ =>
      let x := split16 t.time16
      some (BitVec.ofNat 64 (x.2.1 + x.2.2 * 2 ^ 32 + t.cookie * 2 ^ 48))
    | [] => some 0
  else if Reg.TIME_TCAPn_CFG 0 ≤ a ∧ a < Reg.TIME_TCAPn_CFG 8 then
    let n := (a - Reg.TIME_TCAPn_CFG 0) / 0x40
    let q := tabGet s.time.tcap n []
    let h := match q with
      | c :: _ => (split16 c.time16, 2 ^ 63 + b2n c.fall * 2 ^ 62)
      | [] => ((0, 0, 0), 0)
    if a = Reg.TIME_TCAPn_HEAD_S n then some (BitVec.ofNat 64 (h.1.1 % 2 ^ 48 + h.2))
    else if a = Reg.TIME_TCAPn_HEAD_NS n then some (BitVec.ofNat 64 h.1.2.1)
    else if a = Reg.TIME_TCAPn_HEAD_SUBNS n then some (BitVec.ofNat 64 h.1.2.2)
    else if a = Reg.TIME_TCAPn_LEVEL n then some (BitVec.ofNat 64 q.length)
    else none
  else none

/-! ### The commands -/

/-- TIME_RATE_WRITE (R383). -/
def execTimeRateWrite (value : BitVec 32) (s : State) : Host.Outcome State Fault Refusal :=
  .next (writeRate s value.toNat)

/-- TIME_SET (R384). -/
def execTimeSet (value : BitVec 32) (s : State) : Host.Outcome State Fault Refusal :=
  .next (timeCommand s value.toNat)

/-- TIME_ADJUST (R384). -/
def execTimeAdjust (value : BitVec 32) (s : State) : Host.Outcome State Fault Refusal :=
  .next (timeCommand s value.toNat)

/-- TREF_LOST (R386): the PLL holds its frequency. -/
def execTrefLost (s : State) : Host.Outcome State Fault Refusal :=
  .next (raise (wf s Reg.TIME_STATUS 1 0 0) 0x080 (rf s Reg.TIME_STATUS 5 4) (rdn s Reg.TIME_RATE))

/-- TREF_RESTORED (R386): the PLL relocks without a step of time. -/
def execTrefRestored (lockUs : Nat) (s : State) : Host.Outcome State Fault Refusal :=
  .next (raise (wf s Reg.TIME_STATUS 1 0 3) 0x081 (rf s Reg.TIME_STATUS 5 4) lockUs)

/-- SYNC_TIMEOUT (R399): due when the port is watched, has SYNC_OK and received no Sync for TIME_SYNC_TIMEOUT. -/
def execSyncTimeout (port : Fin 64) (s : State) : Host.Outcome State Fault Refusal :=
  let p := port.val
  let due := watched s p && rb s (Reg.TIME_PORTp_STATUS p) 0 &&
    elapsed s (tabGet s.time.lastSync p 0) (rf s Reg.TIME_SYNC_TIMEOUT 15 0 * 1000000)
  .next (if due then
    raise (wf s (Reg.TIME_PORTp_STATUS p) 0 0 0) 0x084 p (rf s (Reg.TIME_PORTp_CFG p) 15 8)
  else s)

/-- SERVO_TIMEOUT (R399): due once per write of TIME_RATE, while a watched port has SYNC_OK. -/
def execServoTimeout (s : State) : Host.Outcome State Fault Refusal :=
  let anySync := (List.range 64).any (fun p => watched s p && rb s (Reg.TIME_PORTp_STATUS p) 0)
  let due := anySync && !s.time.rateTold && elapsed s s.time.rateAt (rf s Reg.TIME_SERVO_TIMEOUT 15 0 * 1000000)
  .next (if due then
    let s := raise s 0x083 (rdn s Reg.TIME_RATE) ((nowNs s - s.time.rateAt) / 1000000)
    { s with time := { s.time with rateTold := true } }
  else s)

/-- RESIDENCE_TIMEOUT (R395): frees every entry written TIME_FU_TIMEOUT ago or earlier. -/
def execResidenceTimeout (s : State) : Host.Outcome State Fault Refusal :=
  let limit := rf s Reg.TIME_FU_TIMEOUT 23 0 * 1000
  let keep := s.time.residence.filter (fun r => !elapsed s r.written limit)
  .next { s with time := { s.time with residence := keep } }

/-- TXTS_POP (R398). -/
def execTxtsPop (s : State) : Host.Outcome State Fault Refusal :=
  .next { s with time := { s.time with txts := s.time.txts.drop 1 } }

/-- LDELAY_MEASUREMENT (R400). -/
def execLdelayMeasurement (port : Fin 64) (meas : BitVec 48) (s : State) : Host.Outcome State Fault Refusal :=
  .next (ldelayMeasure s port.val meas.toNat)

/-- TOUT_ARM (R402). -/
def execToutArm (n : Fin 16) (s : State) : Host.Outcome State Fault Refusal := .next (toutArm s n.val)

/-- TOUT_DISARM (R402). -/
def execToutDisarm (n : Fin 16) (s : State) : Host.Outcome State Fault Refusal := .next (toutDisarm s n.val)

/-- TOUT_EDGE (R401). -/
def execToutEdge (n : Fin 16) (s : State) : Host.Outcome State Fault Refusal := .next (toutEdge s n.val)

/-- TCAP_EDGE (R403). -/
def execTcapEdge (n : Fin 8) (falling : Bool) (s : State) : Host.Outcome State Fault Refusal :=
  .next (capture s n.val falling)

/-- TCAP_POP (R403). -/
def execTcapPop (n : Fin 8) (s : State) : Host.Outcome State Fault Refusal := .next (capturePop s n.val)

/-- PPS_EDGE (R403): a rising edge on PPS_IN, captured while PPS_EN = 1. -/
def execPpsEdge (s : State) : Host.Outcome State Fault Refusal :=
  .next (if s.time.ppsEn then
    let x := split16 (captureTime s 0)
    let s := wrn s Reg.TIME_PPS_S (x.1 % 2 ^ 48)
    let s := wrn s Reg.TIME_PPS_NS x.2.1
    let s := wrn s Reg.TIME_PPS_SUBNS x.2.2
    let s := wf s Reg.TIME_STATUS 2 2 1
    { s with time := { s.time with ppsAt := some (nowNs s) } }
  else s)

/-- PPS_TIMEOUT (R403): due 1.001 s after the previous edge, once per edge. -/
def execPpsTimeout (s : State) : Host.Outcome State Fault Refusal :=
  .next (match s.time.ppsAt with
    | some t =>
      if elapsed s t 1001000000 && rb s Reg.TIME_STATUS 2 then
        raise (wf s Reg.TIME_STATUS 2 2 0) 0x087 0 (rdn s Reg.TIME_PPS_NS)
      else s
    | none => s)

end Sys2Proof.Machine
end

