-- ==== Sys2Proof/Machine/Perf.lean ====
section
/-! DEFINITION. Performance counters and sampling (R474 to R488): programmable counters, snapshots, bandwidth windows
and precise sampling. -/
namespace Sys2Proof.Machine

/-- The selectors that count occurrences (R476). -/
def selOccurrence (x : Nat) : Bool :=
  x < 0x1000 || (0x1000 ≤ x && x < 0x1100) || (0x1100 ≤ x && x ≤ 0x1108)

/-- The selectors that test a condition (R476). -/
def selCondition (x : Nat) : Bool :=
  x == 0x2000 || x == 0x2001 || (0x2010 ≤ x && x < 0x2030) || x == 0x2030 || x == 0x2031 ||
    (0x2040 ≤ x && x < 0x2068) || (0x2080 ≤ x && x ≤ 0x20E4) || (0x2100 ≤ x && x < 0x2180) ||
    x == 0x2180 || x == 0x2181 || (0x2190 ≤ x && x < 0x21A0)

/-- PERF_CNTi_CTL in force in tick n (R478). -/
def ctlAt (s : State) (n i : Nat) : W64 :=
  match s.perf.ctlHold.find? (fun h => h.2.1 == i && decide (n ≤ h.1)) with
  | some h => h.2.2
  | none => rd s (Reg.PERF_CNTi_CTL i)

/-- The increment of a counter for a tick (R475): occurrences, and the condition before and now. -/
def increment (ctl : W64) (k : Nat) (was now : Bool) : Nat :=
  let mode := fld ctl 17 16
  let sel := fld ctl 15 0
  if selOccurrence sel then
    if mode = 1 then k else if mode = 2 then b2n (0 < k) else 0
  else if mode = 2 then b2n now
  else if mode = 1 then
    match fld ctl 19 18 with
    | 0 => b2n (!was && now)
    | 1 => b2n (was && !now)
    | _ => b2n (was != now)
  else 0

/-- Add to counter i; an overflow sets OVF, raises 0xFF0 and carries into a chained counter (R479). -/
def counterAdd (n : Nat) : Nat → State → Nat → Nat → State
  | 0, s, _, _ => s
  | fuel + 1, s, i, inc =>
    let v := rf s (Reg.PERF_CNTi_VALUE i) 47 0 + inc
    let s := wrn s (Reg.PERF_CNTi_VALUE i) (v % 2 ^ 48)
    if v < 2 ^ 48 then s
    else
      let ctl := ctlAt s n i
      let chain := bitOf ctl 20 && i < 1023
      let s := wf s (Reg.PERF_CNTi_CTL i) 23 23 1
      let s := if bitOf ctl 22 then raise s 0xFF0 i (b2n chain) else s
      if chain then counterAdd n fuel s (i + 1) 1 else s

/-- Counters that may change in tick n: those whose control register is listed or held. -/
def liveCounters (s : State) : List Nat :=
  let idx := s.regs.filterMap (fun e =>
    if Reg.PERF_CNTi_CTL 0 ≤ e.1 ∧ e.1 < Reg.PERF_CNTi_CTL 1024 ∧ e.1 % 16 = 0 then
      some ((e.1 - Reg.PERF_CNTi_CTL 0) / 16) else none)
  (idx ++ (s.perf.ctlHold.map (·.2.1)).filter (fun i => !idx.contains i)).eraseDups

/-- The programmable counters at the close of tick n (R475, R478, R479): `cond` tells which conditions hold. -/
def closeCounters (cond : Nat → Bool) (s : State) (n : Nat) : State :=
  let frozen := rb s Reg.PERF_CFG 0
  let s :=
    if frozen then s
    else
      let live := liveCounters s
      let chained (i : Nat) : Bool := 0 < i && bitOf (ctlAt s n (i - 1)) 20
      let s' := live.foldl (fun t i =>
        let ctl := ctlAt s n i
        let sel := fld ctl 15 0
        if chained i || (tabFind s.perf.values i).isSome then t
        else
          let inc := increment ctl (tabGet s.perf.tally sel 0) (s.perf.conds.contains sel) (cond sel)
          if inc = 0 then t else counterAdd n 1024 t i inc) s
      let s' := s.perf.values.foldl (fun t e => wrn t (Reg.PERF_CNTi_VALUE e.1) e.2) s'
      let s' := if s.perf.clear then
          { s' with regs := s'.regs.filterMap (fun e =>
              if Reg.PERF_CNTi_CTL 0 ≤ e.1 ∧ e.1 < Reg.PERF_CNTi_CTL 1024 then
                if e.1 % 16 = 8 then none
                else if setFld e.2 23 23 0 = regReset e.1 then none else some (e.1, setFld e.2 23 23 0)
              else some e) }
        else s'
      { s' with perf := { s'.perf with clear := false, values := [] } }
  let conds := ((liveCounters s).map (fun i => rf s (Reg.PERF_CNTi_CTL i) 15 0)).filter (fun x => selCondition x && cond x)
  let s := { s with perf := { s.perf with
    conds := conds.eraseDups, tally := [], ctlHold := s.perf.ctlHold.filter (fun h => !decide (h.1 ≤ n)) } }
  if s.perf.snap then
    let vals := s.regs.filterMap (fun e =>
      if Reg.PERF_CNTi_CTL 0 ≤ e.1 ∧ e.1 < Reg.PERF_CNTi_CTL 1024 ∧ e.1 % 16 = 8 then
        some (Reg.PERF_SNAPi ((e.1 - Reg.PERF_CNTi_CTL 0) / 16), e.2) else none)
    let s := { s with regs := s.regs.filter (fun e => !(Reg.PERF_SNAPi 0 ≤ e.1 && e.1 < Reg.PERF_SNAPi 1024)) }
    let s := vals.foldl (fun t e => wr t e.1 e.2) s
    let s := wrn (wrn s Reg.PERF_SNAP_TICK (n % 2 ^ 64)) Reg.PERF_SNAP_SEQ ((rdn s Reg.PERF_SNAP_SEQ + 1) % 2 ^ 32)
    { s with perf := { s.perf with snap := false } }
  else s

/-- PERF_CMD (R478, R479). -/
def perfCmd (s : State) (v : Nat) : State :=
  { s with perf := { s.perf with snap := s.perf.snap || v % 2 == 1, clear := s.perf.clear || v / 2 % 2 == 1 } }

/-- PERF_CNTi_VALUE (R478): the value replaces the increment of the next tick that closes. -/
def counterValue (s : State) (i v : Nat) : State :=
  { s with perf := { s.perf with values := tabSet s.perf.values i (v % 2 ^ 48) } }

/-- PERF_CNTi_CTL (R476, R478, R479): a reserved selector keeps SEL, and CHAIN of counter 1,023 reads as zero. -/
def counterCtl (s : State) (i : Nat) (v : W64) : State :=
  let a := Reg.PERF_CNTi_CTL i
  let old := rd s a
  let sel := fld v 15 0
  let ok := selOccurrence sel || selCondition sel
  let s := if ok then s else accReport s 1 0 true a
  let v := if ok then v else setFld v 15 0 (fld old 15 0)
  let v := if i = 1023 then setFld v 20 20 0 else v
  let s := { s with perf := { s.perf with ctlHold := s.perf.ctlHold ++ [(s.time.tick, i, old)] } }
  regWrite s a v

/-! ### Bandwidth windows (R481, R482) -/

/-- A frame of `len` bytes received on, or transmitted from, a port. -/
def bwCount (s : State) (port len : Nat) (tx : Bool) : State :=
  let c := tabGet s.perf.bw port {}
  let c := if tx then { c with txBytes := c.txBytes + len, txFrames := c.txFrames + 1 }
    else { c with rxBytes := c.rxBytes + len, rxFrames := c.rxFrames + 1 }
  { s with perf := { s.perf with bw := tabSet s.perf.bw port c } }

/-- The result of a port replaced at the end of a window. -/
def bwResult (quadAsleep : Nat → Bool) (s : State) (p : Nat) : State :=
  let c := if quadAsleep (p / 4) then {} else tabGet s.perf.bw p {}
  let w := rdn s Reg.PERF_BW_WINDOW
  let s := wrn s (Reg.PERF_BWp_RX_BYTES p) c.rxBytes
  let s := wrn s (Reg.PERF_BWp_TX_BYTES p) c.txBytes
  let s := wrn s (Reg.PERF_BWp_RX_FRAMES p) c.rxFrames
  let s := wrn s (Reg.PERF_BWp_TX_FRAMES p) c.txFrames
  let s := wrn s (Reg.PERF_BWp_END_NS p) (timeN s / w * w)
  let s := wrn s (Reg.PERF_BWp_FLAGS p) (b2n s.perf.stepped)
  wrn s (Reg.PERF_BWp_WINDOW_NO p) ((rdn s (Reg.PERF_BWp_WINDOW_NO p) + 1) % 2 ^ 32)

/-- The end of a window (R481): due when N has reached the next multiple of W. -/
def bwWindowEnd (quadAsleep : Nat → Bool) (s : State) : State :=
  let k := timeN s / rdn s Reg.PERF_BW_WINDOW
  if s.perf.bwIndex < k then
    let s := (List.range 64).foldl (bwResult quadAsleep) s
    { s with perf := { s.perf with bw := [], stepped := false, bwIndex := k } }
  else { s with perf := { s.perf with bwIndex := k } }

/-- PERF_BW_WINDOW (R482): every window in progress is discarded. -/
def bwWindowWrite (s : State) (v : W64) : State :=
  let s := regWrite s Reg.PERF_BW_WINDOW v
  let w := rdn s Reg.PERF_BW_WINDOW
  raise { s with perf := { s.perf with bw := [], stepped := false, bwIndex := timeN s / w } } 0xFF2 64 w

/-! ### Precise sampling (R483 to R485) -/

/-- The value the down-counter reloads with: N, or with RAND a free value in [ceil(N/2), floor(3N/2)]. -/
def psReload (s : State) : Nat × State :=
  let n := rf s Reg.PERF_PS_N 24 0
  if rb s Reg.PERF_PS_CFG 2 then
    let lo := (n + 1) / 2
    ((fresh s).1 % (3 * n / 2 - lo + 1) + lo, (fresh s).2)
  else (n, s)

/-- A unit of the kind that SRC names (R483, R485): the down-counter selects one in N; the sequence number of a selected
unit, unless the buffer is full and it is lost. `kind` is 1 for a task and 2 for a deep request; `key` its class or
channel. -/
def psPick (s : State) (kind key : Nat) : Option Nat × State :=
  let cfg := rd s Reg.PERF_PS_CFG
  let wants := fld cfg 1 0 == kind &&
    (if kind = 1 then !bitOf cfg 3 || fld cfg 9 4 == key else !bitOf cfg 10 || fld cfg 16 11 == key)
  if !wants then (none, s)
  else if 1 < s.perf.psCount then (none, { s with perf := { s.perf with psCount := s.perf.psCount - 1 } })
  else
    let (n, s) := psReload s
    let seq := s.perf.psSeq
    let s := { s with perf := { s.perf with psCount := n, psSeq := (seq + 1) % 2 ^ 32 } }
    if s.perf.psBuf.length < 65536 then (some seq, cntWrap s Reg.PERF_PS_TAKEN 1)
    else (none, raise (cnt s Reg.PERF_PS_LOST 1) 0xFF1 1 seq)

/-- A selected unit is recorded when it retires. -/
def psRecord (s : State) (seq : Option Nat) (r : Sample) : State :=
  match seq with
  | some n => { s with perf := { s.perf with psBuf := s.perf.psBuf ++ [{ r with seq := n }] } }
  | none => s

/-- A task that reaches ENDED: it is selected or not, and recorded at once. -/
def psSelect (s : State) (kind key : Nat) (r : Sample) : State :=
  let (seq, s) := psPick s kind key
  psRecord s seq r

/-- PERF_PS_CFG (R483): starting a selection loads the down-counter. -/
def psCfgWrite (s : State) (v : W64) : State :=
  let was := rf s Reg.PERF_PS_CFG 1 0
  let s := regWrite s Reg.PERF_PS_CFG v
  let now := rf s Reg.PERF_PS_CFG 1 0
  if was = 0 ∧ now ≠ 0 then
    let (n, s) := psReload s
    let s := wrn s Reg.PERF_PS_RING_TAIL (rf s Reg.PERF_PS_RING_HEAD 19 0 + 2 ^ 31)
    { s with perf := { s.perf with psCount := n } }
  else s

/-- A sample record in host memory (R484). -/
def sampleBytes (r : Sample) (phase : Nat) : List Byte :=
  toLE 1 (r.kind + phase * 128) ++ toLE 1 0 ++ toLE 2 r.tag ++ toLE 4 r.seq ++ toLE 8 r.tick ++ toLE 4 r.w16 ++
    toLE 1 r.b20 ++ toLE 1 r.b21 ++ toLE 2 r.h22 ++ toLE 4 r.w24 ++ toLE 4 r.w28

/-- Write the oldest buffered sample to the sample ring, which follows the rules of the event ring (R485). -/
def writeSample (s : State) : State :=
  match s.perf.psBuf with
  | [] => s
  | r :: rest =>
    let size := 2 ^ rf s Reg.PERF_PS_RING_SIZE 4 0
    let tail := rf s Reg.PERF_PS_RING_TAIL 19 0
    let phase := rf s Reg.PERF_PS_RING_TAIL 31 31
    if (tail + 1) % size = rf s Reg.PERF_PS_RING_HEAD 19 0 % size ∨ rb s Reg.HOST_LINK 0 = false then s
    else
      let next := (tail + 1) % size
      let phase' := if next = 0 then 1 - phase else phase
      let s := emit s (.hostWrite (rdn s Reg.PERF_PS_RING_BASE + 32 * tail) (sampleBytes r phase))
      let s := wrn s Reg.PERF_PS_RING_TAIL (next + phase' * 2 ^ 31)
      let s := { s with perf := { s.perf with psBuf := rest } }
      let wb := rdn s Reg.PERF_PS_TAIL_WB_ADDR
      if wb = 0 then s else emit s (.hostWrite wb (toLE 4 (rdn s Reg.PERF_PS_RING_TAIL)))

/-- Registers of the PERF block whose value is computed from the state. -/
def perfView (s : State) (a : Nat) : Option W64 :=
  if a = Reg.PERF_PS_LEVEL then some (BitVec.ofNat 64 s.perf.psBuf.length)
  else if a = Reg.PERF_CMD then some (BitVec.ofNat 64 (b2n s.perf.snap + 2 * b2n s.perf.clear))
  else if Reg.PERF_OVFw 0 ≤ a ∧ a < Reg.PERF_OVFw 32 then
    let w := (a - Reg.PERF_OVFw 0) / 4
    some (BitVec.ofNat 64 ((List.range 32).foldl (fun x b =>
      x + b2n (rb s (Reg.PERF_CNTi_CTL (32 * w + b)) 23) * 2 ^ b) 0))
  else none

/-- One word of the BAR4 page (R486). -/
def bar4Word (s : State) (off : Nat) : W64 :=
  if off < 0x2000 then
    if rb s (Reg.PERF_CNTi_CTL (off / 8)) 21 then rd s (Reg.PERF_CNTi_VALUE (off / 8)) else 0
  else if off < 0x4000 then
    let i := (off - 0x2000) / 8
    if rb s (Reg.PERF_CNTi_CTL i) 21 then rd s (Reg.PERF_SNAPi i) else 0
  else if off < 0x5000 then
    let p := (off - 0x4000) / 0x40
    if rb s (Reg.PERF_BWp_CFG p) 0 then
      let a := Reg.PERF_BWp_CFG p + (off - 0x4000) % 0x40 / 8 * 8
      if a = Reg.PERF_BWp_CFG p then rd s a ||| (rd s (a + 4) <<< 32) else rd s a
    else 0
  else if off / 8 * 8 = 0x3FF000 then rd s Reg.PERF_SNAP_TICK
  else if off / 8 * 8 = 0x3FF008 then rd s Reg.PERF_SNAP_SEQ
  else if off / 8 * 8 = 0x3FF010 then BitVec.ofNat 64 (tickNo s)
  else 0

/-! ### The commands -/

/-- PERF_SNAP (R479): the snapshot is taken at the next tick close. -/
def execPerfSnap (s : State) : Host.Outcome State Fault Refusal := .next (perfCmd s 1)

/-- PERF_CLEAR_ALL (R478): the counters clear at the next tick close. -/
def execPerfClearAll (s : State) : Host.Outcome State Fault Refusal := .next (perfCmd s 2)

/-- PERF_CNT_VALUE_WRITE (R478). -/
def execPerfCntValueWrite (index : Fin 1024) (value : BitVec 64) (s : State) : Host.Outcome State Fault Refusal :=
  .next (counterValue s index.val value.toNat)

/-- PERF_CNT_CTL_WRITE (R478). -/
def execPerfCntCtlWrite (index : Fin 1024) (value : BitVec 32) (s : State) : Host.Outcome State Fault Refusal :=
  .next (counterCtl s index.val (value.setWidth 64))

/-- BW_WINDOW_END (R481): a port whose quad sleeps reports zero counts. -/
def execBwWindowEnd (s : State) : Host.Outcome State Fault Refusal :=
  .next (bwWindowEnd (fun q => rb s Reg.POWER_ASLEEP q) s)

/-- PERF_BW_WINDOW_WRITE (R482). -/
def execPerfBwWindowWrite (value : BitVec 32) (s : State) : Host.Outcome State Fault Refusal :=
  .next (bwWindowWrite s (value.setWidth 64))

/-- SAMPLE_RECORD_WRITE (R485). -/
def execSampleRecordWrite (s : State) : Host.Outcome State Fault Refusal := .next (writeSample s)

end Sys2Proof.Machine
end

