-- ==== Sys2Proof/Machine/Hummock.lean ====
section
/-! DEFINITION. Hummocks: their blocks, their states, the beginning and the abandoning of a sleep entry, and waking
(R489 to R494). The votes and the commands are in Power.lean. -/
namespace Sys2Proof.Machine

/-- The hummock h beside its registers. -/
def hum (s : State) (h : Nat) : Hummock := tabGet s.hummocks h {}

/-- Put hummock h. -/
def humPut (s : State) (h : Nat) (x : Hummock) : State := { s with hummocks := tabPut s.hummocks h x {} }

/-- The state of R493: 0 AWAKE, 1 PREPARE, 2 ROLLBACK, 3 COMMIT, 4 ASLEEP, 5 WAKING, 6 TEST. -/
def humState (s : State) (h : Nat) : Nat := rf s (Reg.POWER_Hh_STATUS h) 2 0

/-- Enter a state of R493; POWER_ASLEEP shows COMMIT and ASLEEP. -/
def humEnter (s : State) (h st : Nat) : State :=
  wf (wf s (Reg.POWER_Hh_STATUS h) 2 0 st) Reg.POWER_ASLEEP h h (b2n (st == 3 || st == 4))

/-- The hummock is without power or being tested: its blocks cannot be reached. -/
def humDown (s : State) (h : Nat) : Bool :=
  let st := humState s h
  st == 4 || st == 5 || st == 6

/-- Activity in a hummock sets its idle timer back to zero (R491). -/
def touch (s : State) (h : Nat) : State := humPut s h { hum s h with idleSince := nowNs s }

/-- The block ids of a hummock in prepare order (R489). -/
def humBlocks (h : Nat) : List Nat :=
  if h < 16 then [0x0200 + h, 0x0300 + h, 0x0210 + h, 0x0100 + h]
  else if h < 20 then [0x0800 + (h - 16), 0x0260 + (h - 16)]
  else if h < 28 then
    let g := h - 20
    (0x0980 + g) :: ((List.range 8).map (fun i => 0x0900 + 8 * g + i) ++ [0x0250 + g])
  else if h < 32 then
    let q := h - 28
    (0x0500 + q) :: (List.range 4).map (fun i => 0x0240 + 4 * q + i)
  else if h < 36 then [0x0700 + (h - 32), 0x023C + (h - 32)]
  else if h < 38 then
    let k := h - 36
    (0x0400 + k) :: (List.range 8).map (fun i => 0x022C + 8 * k + i)
  else
    let c := 4 * (h - 38)
    (List.range 4).map (fun i => 0x0A00 + c + i) ++ (List.range 4).map (fun i => 0x0258 + c + i)

/-- Record the refuser of an entry. -/
def lastRefuser (s : State) (h id : Nat) : State :=
  wrn (wf s (Reg.POWER_Hh_STATUS h) 31 16 id) Reg.POWER_LAST_REFUSER (h + id * 2 ^ 16)

/-- Begin PREPARE (R493): the first block is asked. -/
def startPrepare (s : State) (h : Nat) (test : Bool) : State :=
  humPut (humEnter s h 1) h { hum s h with agreed := 0, test := test, asked := nowNs s }

/-- The channels of a deep-memory hummock that were draining or precharging are ACTIVE again. -/
def undrain (s : State) (h : Nat) : State :=
  if 20 ≤ h ∧ h < 28 then
    (List.range 8).foldl (fun s i =>
      let a := Reg.DEEP_CHc_STATUS (8 * (h - 20) + i)
      if rf s a 4 2 = 1 ∨ rf s a 4 2 = 2 then wf s a 4 2 0 else s) s
  else s

/-- Give up an entry because of `id` (R493): AWAKE when nothing has stopped, else ROLLBACK. A self-test's refusal is
counted and reported as R497 says. -/
def giveUp (s : State) (h id : Nat) : State :=
  let x := hum s h
  let s := undrain s h
  let s := if x.test then
      raise (cnt (wf s (Reg.POWER_Hh_STATUS h) 7 5 2) (Reg.POWER_Hh_TEST_BUSY h) 1) 0x047 h id
    else s
  if x.agreed = 0 then
    let s := if x.test then s else raise (cnt s (Reg.POWER_Hh_REFUSED h) 1) 0x043 (h + id * 2 ^ 16) 0
    let s := lastRefuser (humEnter s h 0) h id
    humPut s h { x with test := false, idleSince := nowNs s }
  else
    humPut (humEnter s h 2) h { x with refuser := id, resumed := x.agreed }

/-- A host access or OP = WAKE reaches a hummock in PREPARE (R493). -/
def interruptPrepare (s : State) (h : Nat) : State := giveUp s h (0x0C00 + h)

/-- Power is restored: ASLEEP becomes WAKING, with the cause of event 0x041. -/
def startWake (s : State) (h cause : Nat) : State :=
  if humState s h = 4 then humPut (humEnter s h 5) h { hum s h with cause := cause } else s

/-- Work for a sleeping hummock under R235 or R279 wakes it when WAKE_ON_ACCESS = 1. -/
def wakeForWork (s : State) (h : Nat) : State :=
  if humState s h = 4 && rb s (Reg.POWER_Hh_CFG h) 0 then startWake s h 3 else s

/-- How a host access to a hummock goes on. -/
inductive Reach where
  | serve | hold | refuse
deriving DecidableEq, Repr

/-- A host access reaches hummock h (R493, R494, R496): served while AWAKE; it breaks off PREPARE; it waits through ROLLBACK
and COMMIT, and through WAKING when WAKE_ON_ACCESS = 1, which an access to an ASLEEP hummock starts; it is refused else. -/
def reach (s : State) (h : Nat) : Reach × State :=
  let wakes := rb s (Reg.POWER_Hh_CFG h) 0
  match humState s h with
  | 0 => (.serve, touch s h)
  | 1 =>
    let s := interruptPrepare s h
    if humState s h = 0 then (.serve, touch s h) else (.hold, s)
  | 2 => (.hold, s)
  | 3 => (.hold, s)
  | 4 => if wakes then (.hold, startWake s h 1) else (.refuse, s)
  | 5 => if wakes then (.hold, s) else (.refuse, s)
  | _ => (.refuse, s)

/-- A refused access to a sleeping hummock (R496). -/
def asleepAccess (s : State) (h bar : Nat) (write : Bool) (addr : Nat) : State :=
  raise (accReport s 3 bar write addr) 0x044 h 0

/-- An access waits for hummock h. -/
def holdAccess (s : State) (h : Nat) (x : HeldAccess) : State :=
  humPut s h { hum s h with held := (hum s h).held ++ [x] }

/-- OP of POWER_Hh_CMD with GO (R493, R494, R497). -/
def powerCommand (s : State) (h op : Nat) : State :=
  let st := humState s h
  let result (s : State) (r : Nat) := wf s (Reg.POWER_Hh_STATUS h) 7 5 r
  if op = 1 then
    if st = 0 then result (startPrepare s h false) 0 else result s 1
  else if op = 2 then
    let s := result s 0
    if st = 1 then interruptPrepare s h
    else if st = 3 then humPut s h { hum s h with wakeNext := true }
    else if st = 4 then startWake s h 0
    else s
  else if op = 3 then
    if st = 0 then result (startPrepare s h true) 0 else result s 1
  else s

/-! ### The commands of the host -/

/-- POWER_SLEEP (R493, R494). -/
def execPowerSleep (h : Fin 40) (s : State) : Host.Outcome State Fault Refusal := .next (powerCommand s h.val 1)

/-- POWER_WAKE (R493, R494). -/
def execPowerWake (h : Fin 40) (s : State) : Host.Outcome State Fault Refusal := .next (powerCommand s h.val 2)

/-- POWER_SELFTEST (R497). -/
def execPowerSelftest (h : Fin 40) (s : State) : Host.Outcome State Fault Refusal := .next (powerCommand s h.val 3)

end Sys2Proof.Machine
end

