-- ==== Sys2Proof/Machine/PortLanes.lean ====
section
/-! DEFINITION. Port lanes and MACs (R75 to R95): rates, MIB counters, pause, link state, equalisers, eye monitors, and
the MDIO and I2C masters. What takes a link down is in Egress.lean, with the frame in transmission that it cuts off. -/
namespace Sys2Proof.Machine

/-- Lane l beside its registers. -/
def laneOf (s : State) (l : Nat) : Lane := tabGet s.lanes l {}

/-- Put lane l. -/
def lanePut (s : State) (l : Nat) (x : Lane) : State := { s with lanes := tabPut s.lanes l x {} }

/-- MODE of lane l, as installed. -/
def portMode (s : State) (l : Nat) : Nat := rf s (Reg.PORT_LANEl_STATUS l) 11 8

/-- The lane carries a port (R75). -/
def isPort (s : State) (l : Nat) : Bool := decide (l < 64 ∧ 1 ≤ portMode s l ∧ portMode s l ≤ 6)

/-- The rate of port l in Mb/s (R75, R80). -/
def portRate (s : State) (l : Nat) : Nat :=
  match portMode s l with
  | 1 => [10, 100, 1000].getD (rf s (Reg.PORT_LANEl_STATUS l) 7 6) 1000
  | 2 => 1000
  | 3 => 10000
  | 4 => 25000
  | 5 => 50000
  | 6 => 100000
  | _ => 0

/-- LINK of port l. -/
def linkUp (s : State) (l : Nat) : Bool := rb s (Reg.PORT_LANEl_STATUS l) 0

/-- The port counts as up for transmission: LINK and TX_EN (R79, R327, R328). -/
def portUp (s : State) (l : Nat) : Bool := isPort s l && linkUp s l && rb s (Reg.PORT_LANEl_CTRL l) 1

/-- Count in MIB counter k of port l (R92). -/
def mib (s : State) (l k n : Nat) : State := cntWrap s (Reg.PORT_LANEl_CNTk l k) n

/-- The offset of the unicast, multicast or broadcast counter for a destination address. -/
def castOf (frame : List Byte) : Nat :=
  if slice frame 0 6 = List.replicate 6 0xFF then 2 else byteAt frame 0 % 2

/-- Lane event k (R94). -/
def laneEvent (s : State) (l k d1 : Nat) : State := raise s (0x100 + 16 * l + k) (pack2 l (portMode s l)) d1

/-- The FCS at the end of a frame is the CRC-32 of what precedes it. -/
def fcsGood (frame : List Byte) : Bool :=
  leNat (frame.drop (frame.length - 4)) == crc32 (frame.take (frame.length - 4))

/-! ### Pause (R82) -/

/-- A pause of `quanta` quanta of 512 bit times, in ns, at the port's rate. -/
def quantaNs (s : State) (l quanta : Nat) : Nat := quanta * 512 * 1000 / max 1 (portRate s l)

/-- The port may start no new frame of egress queue q because of a received pause. -/
def paused (s : State) (l q : Nat) : Bool :=
  let x := laneOf s l
  decide (nowNs s < x.pauseEnd) || decide (nowNs s < tabGet x.pfcEnd q 0)

/-- Count a received frame that ends at the MAC: octets, then the first check that it fails (R81), or RX_OK. The
result says whether it passed. -/
def countReceived (s : State) (l : Nat) (frame : List Byte) (codeError : Bool) : Bool × State :=
  let s := mib s l 0 frame.length
  if frame.length < 64 then (false, mib s l 8 1)
  else if rf s (Reg.PORT_LANEl_MAX_LEN l) 13 0 < frame.length then (false, mib s l 9 1)
  else if codeError then (false, mib s l 7 1)
  else if fcsGood frame then (true, mib (mib s l 1 1) l (2 + castOf frame) 1)
  else (false, mib s l 6 1)

/-- A MAC control frame (R82): it is consumed and counted; PAUSE and PFC stop new frames when they are honoured. -/
def macControl (s : State) (l : Nat) (frame : List Byte) : State :=
  if !isPort s l || !linkUp s l || !rb s (Reg.PORT_LANEl_CTRL l) 0 || beAt frame 12 2 != 0x8808 then s
  else
    let (ok, s) := countReceived s l frame false
    if !ok then s
    else
      let s := mib s l 5 1
      let x := laneOf s l
      if beAt frame 14 2 = 0x0001 ∧ rb s (Reg.PORT_LANEl_CTRL l) 5 then
        lanePut s l { x with pauseEnd := nowNs s + quantaNs s l (beAt frame 16 2) }
      else if beAt frame 14 2 = 0x0101 ∧ rb s (Reg.PORT_LANEl_CTRL l) 6 then
        let ends := (List.range 8).foldl (fun t p =>
          if beAt frame 16 2 / 2 ^ p % 2 = 1 then
            tabSet t p (nowNs s + quantaNs s l (beAt frame (18 + 2 * p) 2)) else t) x.pfcEnd
        lanePut s l { x with pfcEnd := ends }
      else s

/-- The MAC sends a PAUSE (key 8) or PFC (key = priority) frame with the given quanta. -/
def sendPause (s : State) (l key quanta : Nat) : State :=
  let s := mib (mib (mib (mib s l 11 64) l 12 1) l 14 1) l 16 1
  emit s (.pause l (key != 8) (if key = 8 then 0 else 2 ^ key) quanta)

/-- PORT_PAUSE_QUANTA of a lane's quad. -/
def pauseQuanta (s : State) (l : Nat) : Nat := rf s (Reg.PORT_Qq_PAUSE_QUANTA (l / 4)) 15 0

/-- A pause condition begins on port l: a frame is sent, unless the condition already holds there. -/
def pauseStart (s : State) (l key : Nat) : State :=
  let x := laneOf s l
  if (tabFind x.sent key).isSome then s
  else sendPause (lanePut s l { x with sent := tabSet x.sent key (nowNs s) }) l key (pauseQuanta s l)

/-- A pause condition clears on port l: quanta 0 is sent. -/
def pauseStop (s : State) (l key : Nat) : State :=
  let x := laneOf s l
  if (tabFind x.sent key).isSome then
    sendPause (lanePut s l { x with sent := tabDel x.sent key }) l key 0
  else s

/-! ### Link state (R79, R80, R83) -/

/-- Note whether the port is down, for EGRESS_DOWN_TIMEOUT (R327). -/
def noteDown (s : State) (l : Nat) : State :=
  let x := laneOf s l
  if portUp s l then lanePut s l { x with downAt := none }
  else lanePut s l { x with downAt := some (x.downAt.getD (nowNs s)) }

/-- The PCS of port l links (R79): possible while RX_EN or TX_EN is 1 and the quad is awake. -/
def bringUp (s : State) (l : Nat) : State :=
  let st := Reg.PORT_LANEl_STATUS l
  let enabled := rf s (Reg.PORT_LANEl_CTRL l) 1 0 != 0
  if !isPort s l || !enabled || linkUp s l || humDown s (l / 4) then s
  else
    let s := wf (wf s st 2 0 7) st 5 4 0
    let d1 := if portMode s l = 1 then rf s st 7 6 else laneFec s l
    noteDown (laneEvent s l 0 d1) l

/-! ### Equalisers and eyes (R88, R89) -/

/-- One adaptation step: each tap moves by at most one step; `taps` says how many the lane has. -/
def eqStep (e : Equaliser) (taps now : Nat) (moves : List Int) : Equaliser :=
  let ready := match e.moved with
    | some t => decide (t + 10000 ≤ now)
    | none => true
  if !ready then e
  else
    { taps := e.taps.zipIdx.map (fun (v, i) => if i < taps then v + max (-1) (min 1 (moves.getD i 0)) else v)
      moved := some now }

/-- An eye measurement of port lane l (R89). -/
def eyeMeasure (s : State) (l height width : Nat) : State :=
  if humDown s (l / 4) then s
  else
    let th := rf s (Reg.PORT_Qq_EYE_THRESH (l / 4)) 7 0
    let s := wrn s (Reg.PORT_LANEl_EYE l) (height + width * 256)
    let s := slackReport s 2 l height th
    let x := laneOf s l
    if x.eyeLow then
      if th + 4 ≤ height then lanePut s l { x with eyeLow := false } else s
    else if height < th then laneEvent (lanePut s l { x with eyeLow := true }) l 6 height
    else s

/-! ### Management buses (R90, R91) -/

/-- A write of PORT_MDIOm_CMD: BUSY = 1 starts a transaction; it is ignored while one runs. -/
def mdioCommand (s : State) (m v : Nat) : State :=
  let cmd := Reg.PORT_MDIOm_CMD m
  let go := v / 2 ^ 31 % 2 = 1
  if go ∧ rb s cmd 31 then s
  else
    let s := regWrite s cmd (BitVec.ofNat 64 v)
    if go then
      emit s (.mdio m (rb s cmd 12) (rf s cmd 11 10) (rf s cmd 4 0) (rf s cmd 9 5) (rf s (Reg.PORT_MDIOm_DATA m) 15 0))
    else s

/-- A transaction of MDIO master m ends; an absent PHY reads as 0xFFFF. -/
def mdioDone (s : State) (m : Nat) (data : Option Nat) : State :=
  let cmd := Reg.PORT_MDIOm_CMD m
  if rb s cmd 31 then
    let s := wf s cmd 31 31 0
    if 2 ≤ rf s cmd 11 10 then wrn s (Reg.PORT_MDIOm_DATA m) (data.getD 0xFFFF) else s
  else s

/-- The 32-byte buffer of I2C master q. -/
def i2cBuffer (s : State) (q : Nat) : List Byte :=
  (List.range 8).flatMap (fun n => toLE 4 (rdn s (Reg.PORT_I2Cq_DATAn q n)))

/-- A write of PORT_I2Cq_CMD: BUSY = 1 starts a transfer; it is ignored while one runs. -/
def i2cCommand (s : State) (q v : Nat) : State :=
  let cmd := Reg.PORT_I2Cq_CMD q
  let go := v / 2 ^ 31 % 2 = 1
  if go ∧ rb s cmd 31 then s
  else
    let s := regWrite s cmd (BitVec.ofNat 64 v)
    if go then
      let len := rf s cmd 21 16
      let reg := if rb s cmd 24 then none else some (rf s cmd 15 8)
      let bytes := if rb s cmd 7 then [] else (i2cBuffer s q).take len
      emit s (.i2c q (rf s cmd 6 0) (rb s cmd 7) reg bytes len)
    else s

/-- A transfer of I2C master q ends: NACK, or the bytes read placed in the buffer. -/
def i2cDone (s : State) (q : Nat) (nack : Bool) (data : List Byte) : State :=
  let cmd := Reg.PORT_I2Cq_CMD q
  if !rb s cmd 31 then s
  else
    let s := wf s cmd 31 31 0
    if nack then wf s (Reg.PORT_I2Cq_STATUS q) 0 0 1
    else if rb s cmd 7 then
      let buf := overwrite (i2cBuffer s q) 0 (data.take (rf s cmd 21 16))
      (List.range 8).foldl (fun s n => wrn s (Reg.PORT_I2Cq_DATAn q n) (leAt buf (4 * n) 4)) s
    else s

/-- A read of the low word of a MIB counter latches its high word (R93). -/
def latchCounter (s : State) (l k : Nat) : State :=
  let x := laneOf s l
  lanePut s l { x with latch := tabSet x.latch k (rdn s (Reg.PORT_LANEl_CNTk l k) / 2 ^ 32) }

/-! ### The commands -/

/-- PAUSE_FRAME_RECEIVED (R82). -/
def execPauseFrameReceived (lane : Fin 64) (frame : List Byte) (s : State) : Host.Outcome State Fault Refusal :=
  .next (macControl s lane.val frame)

/-- PFC_FRAME_RECEIVED (R82). -/
def execPfcFrameReceived (lane : Fin 64) (frame : List Byte) (s : State) : Host.Outcome State Fault Refusal :=
  .next (macControl s lane.val frame)

/-- PAUSE_QUANTA_EXPIRY (R82): received pauses whose quanta have run are over. -/
def execPauseQuantaExpiry (lane : Fin 64) (s : State) : Host.Outcome State Fault Refusal :=
  let x := laneOf s lane.val
  .next (lanePut s lane.val { x with
    pauseEnd := if x.pauseEnd ≤ nowNs s then 0 else x.pauseEnd
    pfcEnd := x.pfcEnd.filter (fun e => nowNs s < e.2) })

/-- PAUSE_REPEAT (R82): due when half of the time sent has run while the condition holds. -/
def execPauseRepeat (lane : Fin 64) (s : State) : Host.Outcome State Fault Refusal :=
  let l := lane.val
  let half := quantaNs s l (pauseQuanta s l) / 2
  let due := (laneOf s l).sent.filter (fun e => elapsed s e.2 half)
  .next (due.foldl (fun s e =>
    let x := laneOf s l
    sendPause (lanePut s l { x with sent := tabSet x.sent e.1 (nowNs s) }) l e.1 (pauseQuanta s l)) s)

/-- LINK_UP (R79). -/
def execLinkUp (lane : Fin 64) (s : State) : Host.Outcome State Fault Refusal := .next (bringUp s lane.val)

/-- NEGOTIATION_COMPLETE (R79): of a lane that negotiates or trains, while its transmitter is on. -/
def execNegotiationComplete (lane : Fin 64) (result : BitVec 64) (s : State) : Host.Outcome State Fault Refusal :=
  let l := lane.val
  .next (if isPort s l && laneNegotiates s l && rb s (Reg.PORT_LANEl_CTRL l) 1 && !humDown s (l / 4) then
    laneEvent (wf s (Reg.PORT_LANEl_STATUS l) 3 3 1) l 2 result.toNat
  else s)

/-- HIGH_BER (R94). -/
def execHighBer (lane : Fin 64) (s : State) : Host.Outcome State Fault Refusal :=
  let l := lane.val
  .next (if isPort s l && !humDown s (l / 4) then
    laneEvent (wf s (Reg.PORT_LANEl_STATUS l) 4 4 1) l 3 0
  else s)

/-- QUAD_REFCLK_LOST (R94, R95): reported by lane 4n only; a PLL without its reference is not locked. -/
def execQuadRefclkLost (quad : Fin 16) (s : State) : Host.Outcome State Fault Refusal :=
  let q := quad.val
  .next (if humDown s q then s else laneEvent (wf s (Reg.PORT_Qq_STATUS q) 1 0 0) (4 * q) 9 0)

/-- QUAD_REFCLK_RESTORED (R95). -/
def execQuadRefclkRestored (quad : Fin 16) (s : State) : Host.Outcome State Fault Refusal :=
  let q := quad.val
  .next (if humDown s q then s else wf s (Reg.PORT_Qq_STATUS q) 1 0 3)

/-- EQ_ADAPT_STEP (R88, R409): held by EQ_FREEZE and while there is no signal. -/
def execEqAdaptStep (lane : Fin 80) (moves : List Int) (s : State) : Host.Outcome State Fault Refusal :=
  let k := lane.val
  let frozen := if k < 64 then rb s (Reg.PORT_LANEl_CTRL k) 4 else rb s (Reg.TWIN_LANEl_CTRL (k - 64)) 0
  let live := if k < 64 then rb s (Reg.PORT_LANEl_STATUS k) 1 else rb s (Reg.TWIN_LANEl_STATUS (k - 64)) 0
  let taps := if k < 64 ∧ portMode s k < 3 then 1 else 9
  let x := laneOf s k
  .next (if frozen || !live then s else lanePut s k { x with eq := eqStep x.eq taps (nowNs s) moves })

/-- EYE_MEASURE (R89). -/
def execEyeMeasure (lane : Fin 64) (height width : BitVec 8) (s : State) : Host.Outcome State Fault Refusal :=
  .next (eyeMeasure s lane.val height.toNat width.toNat)

/-- A value of PORT_MDIOm_CMD with the operation of the row and BUSY = 1. -/
def mdioValue (v op : Nat) : Nat := v % 2 ^ 10 + op * 2 ^ 10 + v / 2 ^ 12 % 2 * 2 ^ 12 + 2 ^ 31

/-- MDIO_ADDRESS (R90). -/
def execMdioAddress (bus : Fin 4) (value : BitVec 32) (s : State) : Host.Outcome State Fault Refusal :=
  .next (mdioCommand s bus.val (mdioValue value.toNat 0))

/-- MDIO_WRITE (R90). -/
def execMdioWrite (bus : Fin 4) (value : BitVec 32) (s : State) : Host.Outcome State Fault Refusal :=
  .next (mdioCommand s bus.val (mdioValue value.toNat 1))

/-- MDIO_READ (R90). -/
def execMdioRead (bus : Fin 4) (value : BitVec 32) (s : State) : Host.Outcome State Fault Refusal :=
  .next (mdioCommand s bus.val (mdioValue value.toNat 2))

/-- MDIO_READ_INC (R90). -/
def execMdioReadInc (bus : Fin 4) (value : BitVec 32) (s : State) : Host.Outcome State Fault Refusal :=
  .next (mdioCommand s bus.val (mdioValue value.toNat 3))

/-- MDIO_COMPLETE (R90). -/
def execMdioComplete (bus : Fin 4) (data : Option (BitVec 16)) (s : State) : Host.Outcome State Fault Refusal :=
  .next (mdioDone s bus.val (data.map (·.toNat)))

/-- A value of PORT_I2Cq_CMD with the direction of the row and BUSY = 1. -/
def i2cValue (v : Nat) (read : Bool) : Nat :=
  v % 2 ^ 7 + b2n read * 2 ^ 7 + v / 2 ^ 8 % 2 ^ 14 * 2 ^ 8 + v / 2 ^ 24 % 2 * 2 ^ 24 + 2 ^ 31

/-- I2C_READ (R91). -/
def execI2cRead (bus : Fin 16) (value : BitVec 32) (s : State) : Host.Outcome State Fault Refusal :=
  .next (i2cCommand s bus.val (i2cValue value.toNat true))

/-- I2C_WRITE (R91). -/
def execI2cWrite (bus : Fin 16) (value : BitVec 32) (s : State) : Host.Outcome State Fault Refusal :=
  .next (i2cCommand s bus.val (i2cValue value.toNat false))

/-- I2C_COMPLETE (R91). -/
def execI2cComplete (bus : Fin 16) (nack : Bool) (data : List Byte) (s : State) : Host.Outcome State Fault Refusal :=
  .next (i2cDone s bus.val nack data)

/-- I2C_TIMEOUT (R91): a target has held SCL low for more than 25 ms. -/
def execI2cTimeout (bus : Fin 16) (s : State) : Host.Outcome State Fault Refusal :=
  let cmd := Reg.PORT_I2Cq_CMD bus.val
  .next (if rb s cmd 31 then wf (wf s cmd 31 31 0) (Reg.PORT_I2Cq_STATUS bus.val) 1 1 1 else s)

end Sys2Proof.Machine
end

