-- ==== Sys2Proof/Machine/Runs.lean ====
section
/-! DEFINITION. Runs of the Fermenter (R249 to R254, R264 to R270): frames and their runs, task slots, event flags,
release, and the graph counters. The node operations are in Ferm.lean. -/
namespace Sys2Proof.Machine

/-! ### Frames -/

/-- A frame in the device. -/
def frameOf (s : State) (f : Nat) : Option Frame := tabFind s.frames f

/-- Put a frame. -/
def framePut (s : State) (f : Nat) (x : Frame) : State := { s with frames := tabSet s.frames f x }

/-- Change a frame, if it is still in the device. -/
def frameMod (s : State) (f : Nat) (g : Frame → Frame) : State := { s with frames := tabMap s.frames f g }

/-- The quad of a port, and the hummock that its quad lies in. -/
def quadOf (port : Nat) : Nat := port / 4

/-! ### Runs -/

/-- The run of a frame or item. -/
def runOf (s : State) (n : Nat) : Option Run := tabFind s.ferm.runs n

/-- Put a run. -/
def runPut (s : State) (n : Nat) (r : Run) : State := { s with ferm := { s.ferm with runs := tabSet s.ferm.runs n r } }

/-- Change a run, if it exists. -/
def runMod (s : State) (n : Nat) (g : Run → Run) : State :=
  { s with ferm := { s.ferm with runs := tabMap s.ferm.runs n g } }

/-- An event flag of a run (R251): 0 START, 1 LOOKUP, 2 RECORD, 3 VERDICT, 4 AUTH, 5 to 7 USER. -/
def Run.flag (r : Run) (i : Nat) : Bool := r.flags.testBit i

/-- Mask of task k. -/
def Run.mask (r : Run) (k : Nat) : Nat := (r.graph.tasks.getD k (0, 0, 0)).1
def Run.first (r : Run) (k : Nat) : Nat := (r.graph.tasks.getD k (0, 0, 0)).2.1
def Run.count (r : Run) (k : Nat) : Nat := (r.graph.tasks.getD k (0, 0, 0)).2.2

/-- The nodes of task k. -/
def Run.nodes (r : Run) (k : Nat) : List Node := (r.graph.nodes.drop (r.first k)).take (r.count k)

/-- Tasks that wait become READY when their mask is satisfied (R266). -/
def Run.wake (r : Run) (now : Nat) : Run :=
  if r.ended then r
  else
    { r with tasks := r.tasks.zipIdx.map (fun (t, k) =>
        if t.st = 0 ∧ r.flags &&& r.mask k = r.mask k then { t with st := 1, readyAt := now } else t) }

/-- Set event flags of a run (R251). -/
def Run.set (r : Run) (mask now : Nat) : Run := ({ r with flags := r.flags ||| mask }).wake now

/-- Tasks of a run with nodes of one operation: the index of the first. -/
def Run.taskWith (r : Run) (opc : Nat) : Option Nat :=
  (List.range r.tasks.length).find? (fun k => (r.nodes k).any (fun n => n.opc == opc))

/-- The record is released (R270). -/
def Run.released (r : Run) : Bool :=
  let task (k : Nat) : Task := r.tasks.getD k {}
  r.flag 2 && (r.ended ||
    match r.taskWith 0x07 with
    | some k =>
      (task k).st == 3 ||
        ((r.nodes k).zipIdx.all (fun (n, i) => n.opc != 0x07 || (tabFind (task k).done i).isSome))
    | none =>
      (List.range r.tasks.length).all (fun k => !(r.nodes k).any (fun n => n.opc == 0x06) || (task k).st == 3))

/-! ### Task slots (R264, R265) -/

/-- Task slots in use in quarter q: those of runs neither committed nor aborted. -/
def slotsUsed (s : State) (q : Nat) : Nat :=
  (s.ferm.runs.filter (fun e => e.2.quarter == q && !e.2.committed && !e.2.aborted)).foldl (fun n e => n + e.2.tasks.length) 0

/-- A quarter takes new runs: awake and not in its prepare phase (R265, R279). -/
def quarterOpen (s : State) (q : Nat) : Bool := humState s (28 + q) == 0

/-- A run waits while every quarter is asleep or in its prepare phase: the sleeping ones wake, if they may (R279). -/
def wakeQuarters (s : State) : State :=
  if (List.range 4).any (quarterOpen s) then s
  else (List.range 4).foldl (fun s q => wakeForWork s (28 + q)) s

/-- The quarter in which a run of n tasks takes its slots, if any has room (R265). -/
def slotQuarter (s : State) (home n : Nat) (reserved : Bool) : Option Nat :=
  let free (q : Nat) : Nat := 8192 - slotsUsed s q
  let total := ((List.range 4).filter (quarterOpen s)).foldl (fun t q => t + free q) 0
  if n = 0 then some home
  else if reserved && decide (total ≤ rf s Reg.FERM_SLOT_CFG 14 0 + n) then none
  else ((List.range 4).map (fun i => (home + i) % 4)).find? (fun q => quarterOpen s q && decide (n ≤ free q))

/-- Create a run (R264): its slots are taken; a run of an empty graph has none and has ended. -/
def createRun (s : State) (n : Nat) (r : Run) : State :=
  let r := { r with
    order := s.ferm.order, created := nowNs s, tick := tickNo s, batch := batchNo s
    tasks := r.graph.tasks.map (fun _ => ({} : Task)), ended := r.graph.tasks.isEmpty }
  let s := { s with ferm := { s.ferm with order := s.ferm.order + 1 } }
  let s := runPut s n (r.wake (nowNs s))
  let used := (List.range 4).foldl (fun t q => t + slotsUsed s q) 0
  peak (if r.graph.tasks.isEmpty then s else touch s (28 + r.quarter)) Reg.FERM_SLOTS_PEAK 15 0 used

/-- Cancel what is left of a run (R252, R266): its tasks end, without effect. -/
def Run.cancel (r : Run) : Run :=
  { r with tasks := r.tasks.map (fun t => { t with st := 3, looking := [] }), ended := true }

/-- The effects that an aborted run has gathered are discarded (R252). -/
def Run.abort (r : Run) : Run := 
  { r.cancel with dirs := [], counts := [], delete := false, wrote := false, aborted := true }

/-- Graph counter increments take effect (R271). -/
def applyCounts (s : State) (cs : List (Nat × Nat)) : State :=
  cs.foldl (fun s c => cntWrap (cntWrap s (Reg.FERM_CNTk_PACKETS c.1) 1) (Reg.FERM_CNTk_BYTES c.1) c.2) s

/-- Flush the counter increments of a run. -/
def flushCounts (s : State) (n : Nat) : State :=
  match runOf s n with
  | some r => applyCounts (runPut s n { r with counts := [] }) r.counts
  | none => s

/-- Nothing earlier in an ORDERED domain is still to be committed (R282). -/
def mayCommit (s : State) (n : Nat) (r : Run) : Bool :=
  match r.domain with
  | none => true
  | some d =>
    rf s (Reg.FERM_DOMd_CFG d) 5 4 != 1 || (tabGet s.ferm.started d []).head? == some n

/-- An item is finished: its domain forgets it. -/
def domainDone (s : State) (n : Nat) (r : Run) : State :=
  match r.domain with
  | none => s
  | some d =>
    { s with ferm := { s.ferm with
        started := tabPut s.ferm.started d ((tabGet s.ferm.started d []).filter (· != n)) [] } }

/-- The frame's commit belongs to the open batch (R332). -/
def noteCommit (s : State) (f : Nat) : State := frameMod s f (fun x => { x with commitBatch := some (x.commitBatch.getD (batchNo s)) })

/-- The run is committed and has ended: its slots are FREE, its counters are applied; a run without a frame is gone. -/
def finishRun (s : State) (n : Nat) (r : Run) : State :=
  let s := flushCounts (domainDone s n r) n
  let s := cntWrap s Reg.FERM_RUNS 1
  let s := if r.event.isSome then s else tally s (0x1040 + r.cls) 1
  let s := noteCommit (runMod s n (fun r => { r with committed := true })) n
  if (frameOf s n).isNone then { s with ferm := { s.ferm with runs := tabDel s.ferm.runs n } } else s

/-- Commit a run that needs no ledger entry, if it has ended with VERDICT set (R253), and those that its domain's order
has held behind it. At most `fuel` runs follow. -/
def tryCommit : Nat → State → Nat → State
  | 0, s, _ => s
  | fuel + 1, s, n =>
    match runOf s n with
    | none => s
    | some r =>
      if r.ended && !r.committed && !r.held && r.flag 3 && mayCommit s n r then
        let s := finishRun s n r
        match r.domain with
        | none => s
        | some d =>
          match (tabGet s.ferm.started d []).head? with
          | some m => if m = n then s else tryCommit fuel s m
          | none => s
      else s

/-- Task k of a run reaches ENDED: it may be sampled (R483, R484). Which of its nodes was the slowest, and how long that node
took, are timing that the model leaves open (assumption 3). -/
def sampleTask (s : State) (r : Run) (k : Nat) : State :=
  if rf s Reg.PERF_PS_CFG 1 0 ≠ 1 then s
  else
    let t : Task := r.tasks.getD k {}
    let (slow, s) := fresh s
    let (took, s) := fresh s
    let ready := if t.st = 0 then nowNs s else t.readyAt
    psSelect s 1 r.cls
      { kind := 1, tag := r.tag.getD 0xFFFF, seq := 0, tick := tickNo s, w16 := r.graphNo + k * 2 ^ 16 + r.cls * 2 ^ 24
        b20 := r.first k + slow % max 1 (r.count k), b21 := t.cell, h22 := took % 2 ^ 16
        w24 := min (ready - r.created) (2 ^ 32 - 1), w28 := min (nowNs s - ready) (2 ^ 32 - 1) }

/-- The tasks of a run that have not ended reach ENDED. -/
def sampleTasks (s : State) (r : Run) : State :=
  ((List.range r.tasks.length).filter (fun k => (r.tasks.getD k {}).st != 3)).foldl (fun s k => sampleTask s r k) s

/-- A run ends without effect: aborted under R252 (R276, R277, R278). Its order in a domain is released (R284). -/
def dropRun (s : State) (n : Nat) : State :=
  match runOf s n with
  | none => s
  | some r =>
    let s := runPut (domainDone (sampleTasks s r) n r) n { r.abort with committed := !r.held, domain := none }
    let s := if (frameOf s n).isNone && !r.held then
        { s with ferm := { s.ferm with runs := tabDel s.ferm.runs n } } else s
    match r.domain with
    | none => s
    | some d =>
      match (tabGet s.ferm.started d []).head? with
      | some m => tryCommit 4096 s m
      | none => s

/-- The frame takes a policy's disposition in place of its graph's (R43, R28): 0 goes on, 1 drop, 2 trap. -/
def frameFate (s : State) (f : Nat) (policy reason : Nat) : State :=
  if policy = 0 then s
  else frameMod s f (fun x => { x with fate := some (if policy = 2 then some reason else none) })

/-! ### Item queues (R280, R281, R283) -/

/-- The items queued in all domains. -/
def itemCount (s : State) : Nat := s.ferm.items.foldl (fun n e => n + e.2.length) 0

/-- The domain of a frame item. -/
def itemDomain (s : State) (fr : Frame) : Nat :=
  let r := Reg.FERM_ITEM_CLASSc fr.cls
  (rf s r 7 0 + fr.h1 % 2 ^ rf s r 10 8) % 256

/-- Put the queue of a domain. -/
def itemsPut (s : State) (d : Nat) (l : List (Nat × Option ItemEvent)) : State :=
  { s with ferm := { s.ferm with items := tabPut s.ferm.items d l [] } }

/-- An item joins its domain; one that finds the queues full or the domain disabled is not created, and its frame is
dropped. -/
def itemQueue (s : State) (d n : Nat) (e : Option ItemEvent) : State :=
  if 4096 ≤ itemCount s || !rb s (Reg.FERM_DOMd_CFG d) 6 then
    raise (cnt (frameFate s n 1 0) Reg.FERM_ITEM_DROPS 1) 0xD03 0 d
  else itemsPut s d (tabGet s.ferm.items d [] ++ [(n, e)])

end Sys2Proof.Machine
end

