-- ==== Sys2Proof/Machine/Auth.lean ====
section
/-! DEFINITION. The keyed check-value engine (R358 to R381): keys, jobs, what a job computes, chaining contexts and host jobs.
AUTH_JOB_COMPLETE, which decides tail verdicts, is in Frames.lean. -/
namespace Sys2Proof.Machine

/-! ### Keys (R371 to R373) -/

/-- The key of a slot for a use (policy bit 9 frame, 10 control, 11 host); `aes` asks for an AES key, else for an HMAC key. None
when the slot is empty, SUSPECT under KEY_POLICY 0, or its policy forbids the use: status 7. -/
def keyFor (s : State) (slot use : Nat) (aes : Bool) : Option (List Byte) :=
  match tabFind s.auth.slots slot with
  | none => none
  | some k =>
    if (k.suspect && !rb s Reg.AUTH_CFG 1) || !k.policy.testBit use || aes != decide (k.policy % 4 < 2) then none
    else some k.key

/-- The key check value (R371): the first three bytes of the algorithm's tag over the empty message. -/
def keyCheck (key : List Byte) (policy : Nat) : List Byte :=
  (if policy % 4 < 2 then aesCmac key [] else hmacSha256 key []).take 3

/-- The device wrap key, if its fuses are blown (R372). -/
def wrapKey (s : State) : Option (List Byte) := (tabFind s.chip.fuses 5).map (toBE 32)

/-- AUTH_KEY_STATUS with its RESULT. -/
def keyResult (s : State) (r : Nat) : State := wf (wf s Reg.AUTH_KEY_STATUS 0 0 0) Reg.AUTH_KEY_STATUS 3 1 r

/-- Bytes of AUTH_KEY_DATA. -/
def keyData (s : State) : List Byte := (List.range 18).flatMap (fun w => toLE 4 (rdn s (Reg.AUTH_KEY_DATAw w)))

/-- A slot's key fails its parity (R373). -/
def keyParity (s : State) (slot : Nat) : State :=
  match tabFind s.auth.slots slot with
  | none => s
  | some k =>
    raise { s with auth := { s.auth with slots := tabSet s.auth.slots slot { k with suspect := true } } } 0xF05 slot
      (rf s Reg.AUTH_CFG 1 1)

/-- Jobs admitted against a slot that have not ended. -/
def jobsOn (s : State) (slot : Nat) : List Nat := (s.auth.jobs.filter (fun j => j.2.slot == slot)).map (·.1)

/-- GO of AUTH_KEY_CMD with an operation (R371 to R373): ignored while BUSY. -/
def keyCommand (s : State) (op : Nat) : State :=
  if rb s Reg.AUTH_KEY_STATUS 0 then s
  else
    let s := wf s Reg.AUTH_KEY_CMD 2 0 op
    let slot := rf s Reg.AUTH_KEY_SLOT 11 0
    let policy := rf s Reg.AUTH_KEY_POLICY 12 0
    let hmac := decide (2 ≤ policy % 4)
    let want := if policy % 4 = 0 then 16 else if policy % 4 = 1 then 32 else policy / 4 % 128 + 1
    let start (s : State) (key : List Byte) : State :=
      { wf s Reg.AUTH_KEY_STATUS 0 0 1 with auth := { s.auth with
        cmd := some { op := op, slot := slot, key := key, policy := policy, jobs := jobsOn s slot } } }
    if op = 4 then
      let k := tabFind s.auth.slots slot
      keyResult (wrn s Reg.AUTH_KEY_POLICY (match k with
        | some k => k.policy + b2n k.suspect * 2 ^ 31
        | none => 0)) 0
    else if op = 3 then start s []
    else if op = 1 ∨ op = 2 then
      if hmac && decide (64 < want) then keyResult s 2
      else if op = 1 then start s ((keyData s).take want)
      else
        match wrapKey s with
        | none => keyResult s 4
        | some kek =>
          let key := if rb s Reg.AUTH_CFG 0 then unwrap5649 kek ((keyData s).take ((want + 7) / 8 * 8 + 8))
            else if want % 8 = 0 then unwrap3394 kek ((keyData s).take (want + 8)) else none
          match key with
          | some k => if k.length = want then start s k else keyResult s 3
          | none => keyResult s 3
    else s

/-- A load or erase takes effect once the jobs admitted before it have ended (R373). -/
def keyDone (s : State) : State :=
  match s.auth.cmd with
  | none => s
  | some c =>
    if s.auth.jobs.any (fun j => c.jobs.contains j.1) then s
    else
      let s := { s with auth := { s.auth with cmd := none } }
      if c.op = 3 then keyResult { s with auth := { s.auth with slots := tabDel s.auth.slots c.slot } } 0
      else
        let s := { s with auth := { s.auth with slots := tabSet s.auth.slots c.slot { key := c.key, policy := c.policy } } }
        wf (keyResult s 0) Reg.AUTH_KEY_STATUS 31 8 (beNat (keyCheck c.key c.policy))

/-! ### Security associations (R363, R366, R368, R378) -/

/-- The last PN of an SA. -/
def lastPn (s : State) (sa : Nat) : Nat := if rb s (Reg.AUTH_SAs_CFG sa) 2 then 2 ^ 64 - 1 else 2 ^ 32 - 1

/-- The port that an SA transmits on. -/
def saPort (s : State) (sa : Nat) : Nat :=
  ((List.range 64).find? (fun p => rb s (Reg.AUTH_PORTp_TX p) 0 && rf s (Reg.AUTH_PORTp_TX p) 11 1 == sa)).getD 0

/-- An SA's NEXT_PN has changed: the lead mirrors it once per batch (R378), and a transmit SA near its end or at its last PN
is reported (R368). -/
def pnChanged (s : State) (sa old : Nat) : State :=
  let pn := rdn s (Reg.AUTH_SAs_NEXT_PN sa)
  let s := if pn = old || s.twin.snChanged.contains sa then s
    else { s with twin := { s.twin with snChanged := s.twin.snChanged ++ [sa] } }
  if !rb s (Reg.AUTH_SAs_CFG sa) 1 then s
  else
    let left := lastPn s sa - pn
    let s := if rdn s Reg.AUTH_PN_WARN ≤ left then
        { s with auth := { s.auth with warned := s.auth.warned.filter (· != sa) } }
      else if s.auth.warned.contains sa then s
      else raise { s with auth := { s.auth with warned := s.auth.warned ++ [sa] } } 0xF03 sa pn
    if pn = lastPn s sa && old != pn then raise s 0xF04 sa (saPort s sa) else s

/-- Set NEXT_PN. -/
def setPn (s : State) (sa pn : Nat) : State :=
  pnChanged (wrn s (Reg.AUTH_SAs_NEXT_PN sa) pn) sa (rdn s (Reg.AUTH_SAs_NEXT_PN sa))

/-- A new lead adds AUTH_PN_GUARD to every transmit SA's NEXT_PN (R378). -/
def guardPns (s : State) : State :=
  (List.range 2048).foldl (fun s sa =>
    if rb s (Reg.AUTH_SAs_CFG sa) 0 && rb s (Reg.AUTH_SAs_CFG sa) 1 then
      setPn s sa (min (lastPn s sa) (rdn s (Reg.AUTH_SAs_NEXT_PN sa) + rdn s Reg.AUTH_PN_GUARD))
    else s) s

/-- The 12-byte nonce of GCM for an SA (assumption 11). -/
def saNonce (s : State) (sa sci pn : Nat) : List Byte :=
  if rb s (Reg.AUTH_SAs_CFG sa) 2 then
    xorBytes ((List.range 3).flatMap (fun n => toLE 4 (rdn s (Reg.AUTH_SAs_SALTn sa n))))
      (toBE 4 (rdn s (Reg.AUTH_SAs_SSCI sa)) ++ toBE 8 pn)
  else toBE 8 sci ++ toBE 4 pn

/-- The PN of a received SecTAG: with XPN its upper half follows NEXT_PN (assumption 11). -/
def fullPn (s : State) (sa pn : Nat) : Nat :=
  if rb s (Reg.AUTH_SAs_CFG sa) 2 then
    let next := rdn s (Reg.AUTH_SAs_NEXT_PN sa)
    let up := next / 2 ^ 32
    if pn < 2 ^ 31 ∧ 2 ^ 31 ≤ next % 2 ^ 32 then (up + 1) % 2 ^ 32 * 2 ^ 32 + pn else up * 2 ^ 32 + pn
  else pn

/-! ### What a job computes (R358, R359, R362 to R364, R370) -/

/-- Verify a KIND 0 frame: the status, and the SA and NEXT_PN that a good tail verdict leaves (R366). -/
def verifyMacsec (s : State) (fr : Frame) : Nat × Option (Nat × Nat) :=
  match fr.parsed.find 0 [.sectag] with
  | none => (2, none)
  | some h =>
    let b := fr.bytes
    let tci := byteAt b h.off
    let n := if tci / 32 % 2 = 1 then 14 else 6
    let sl := byteAt b (h.off + 1) % 64
    let stop := if sl = 0 then b.length - 20 else h.off + n + sl
    if b.length < stop + 20 ∨ stop < h.off + n then (9, none)
    else if tci / 4 % 4 ≠ 0 then (6, none)
    else
      let sci := if tci / 32 % 2 = 1 then beAt b (h.off + 6) 8 else beAt b 6 6 * 2 ^ 16 + 1
      match (List.range 512).find? (fun i => rb s (Reg.AUTH_RXSCi_SA i) 44 && rdn s (Reg.AUTH_RXSCi_SCI i) == sci) with
      | none => (3, none)
      | some i =>
        let an := tci % 4
        let sa := rf s (Reg.AUTH_RXSCi_SA i) (11 * an + 10) (11 * an)
        if !rb s (Reg.AUTH_SAs_CFG sa) 0 || rb s (Reg.AUTH_SAs_CFG sa) 1 then (4, none)
        else
          match keyFor s (rf s (Reg.AUTH_SAs_CFG sa) 15 4) 9 true with
          | none => (7, none)
          | some key =>
            let pn := fullPn s sa (beAt b (h.off + 2) 4)
            let aad := b.take 12 ++ slice b (h.off - 2) (stop - (h.off - 2))
            if aesGmac key (saNonce s sa sci pn) aad ≠ slice b stop 16 then (1, none)
            else if rb s (Reg.AUTH_SAs_CFG sa) 3 &&
                decide (pn < rdn s (Reg.AUTH_SAs_NEXT_PN sa) - rdn s (Reg.AUTH_SAs_WINDOW sa)) then (5, none)
            else (0, some (sa, pn + 1))

/-- The MAC of an IEC 62351-6 PDU over its covered span; the IV of the AES-GMAC form is open (assumption 14). -/
def pduMac (gmac : Bool) (key span ext : List Byte) (len : Nat) : List Byte :=
  (if gmac then aesGmac key (toBE 12 (Config.pduIv (beNat (span ++ ext)))) span else hmacSha256 key span).take len

/-- MAC bytes by algorithm and MACLEN; 0 for a reserved value. -/
def macLen (gmac : Bool) (code : Nat) : Nat := if gmac then [8, 16].getD code 0 else [10, 16, 32].getD code 0

/-- The GOOSE or SV header of a frame: the covered span starts at its APPID (R359). -/
def pduHeader (fr : Frame) : Option Hdr := fr.parsed.hdrs.find? (fun h => h.kind == .goose || h.kind == .sv)

/-- Verify an IEC 62351-6 frame with the key of a slot. -/
def verifyPdu (s : State) (fr : Frame) (gmac : Bool) (code slot : Nat) : Nat :=
  match pduHeader fr with
  | none => 2
  | some h =>
    let b := fr.bytes
    let n := beAt b (h.off + 2) 2
    let e := byteAt b (h.off + 5)
    let m := macLen gmac code
    if e = 0 ∨ e < m then 2
    else if n < 8 ∨ b.length < h.off + n + e + 4 then 9
    else if m = 0 then 7
    else
      match keyFor s slot 9 gmac with
      | none => 7
      | some key =>
        let ext := slice b (h.off + n) e
        if pduMac gmac key (slice b h.off n) (ext.take (e - m)) m = ext.drop (e - m) then 0 else 1

/-- Generate an IEC 62351-6 MAC: status, MAC and the span it covers. -/
def generatePdu (s : State) (fr : Frame) (gmac : Bool) (code slot : Nat) : Nat × List Byte × (Nat × Nat) :=
  match pduHeader fr with
  | none => (2, [], (0, 0))
  | some h =>
    let b := fr.bytes
    let n := beAt b (h.off + 2) 2
    let m := macLen gmac code
    if n < 8 ∨ b.length < h.off + n + 4 then (9, [], (0, 0))
    else if m = 0 then (7, [], (0, 0))
    else
      match keyFor s slot 9 gmac with
      | none => (7, [], (0, 0))
      | some key =>
        let span := overwrite (slice b h.off n) 5 [BitVec.ofNat 8 m]
        (0, pduMac gmac key span [] m, (h.off, n))

/-- First byte and length of the span of a CMAC node job (R370); length 0 reaches the last byte before the FCS. -/
def cmacSpan (fr : Frame) (b : W64) : Nat × Nat :=
  let first := fld b 15 0
  (first, if fld b 31 16 = 0 then fr.bytes.length - 4 - first else fld b 31 16)

/-- A node job of OPC 0x0B over a frame: status, check value, and the span of an FN 1 job. -/
def nodeJob (s : State) (fr : Frame) (fn slot : Nat) (b : W64) : Nat × List Byte × (Nat × Nat) :=
  if fn = 0 then (verifyPdu s fr (bitOf b 0) (fld b 2 1) slot, [], (0, 0))
  else if fn = 1 then generatePdu s fr (bitOf b 0) (fld b 2 1) slot
  else
    let (first, len) := cmacSpan fr b
    let n := fld b 35 32 + 1
    if fr.bytes.length < first + len + 4 ∨ (fn = 3 ∧ len < n) then (9, [], (0, 0))
    else
      match keyFor s slot 9 true with
      | none => (7, [], (0, 0))
      | some key =>
        let span := slice fr.bytes first len
        if fn = 2 then (0, (aesCmac key span).take n, (0, 0))
        else (if (aesCmac key (span.take (len - n))).take n = span.drop (len - n) then 0 else 1, [], (0, 0))

/-! ### The job queue (R361) -/

/-- Core n is awake. -/
def coreAwake (s : State) (n : Nat) : Bool := !humDown s (38 + n / 4) && humState s (38 + n / 4) != 3

/-- Bytes queued at a core. -/
def coreBytes (s : State) (n : Nat) : Nat := (s.auth.jobs.filter (fun j => j.2.core == n)).foldl (fun t j => t + j.2.bytes) 0

/-- The awake core with the fewest queued bytes, the lower number on a tie; 8 when none is awake. -/
def pickCore (s : State) : Nat :=
  ((List.range 8).filter (coreAwake s)).foldl (fun b n => if b = 8 ∨ coreBytes s n < coreBytes s b then n else b) 8

/-- Admit a job: its number, or none when the queue of 4,096 is full. -/
def admitJob (s : State) (j : Job) : Option Nat × State :=
  if 4096 ≤ s.auth.jobs.length then (none, s)
  else
    let core := pickCore s
    let n := s.auth.next
    let s := if core = 8 then s else touch s (38 + core / 4)
    (some n, { s with auth := { s.auth with jobs := tabSet s.auth.jobs n { j with core := core }, next := n + 1 } })

/-- A frame (0), graph (1) or host (2) job has been refused (R361). -/
def jobRefused (s : State) (user : Nat) : State := raise s 0xF06 0 user

/-- Jobs that found every core asleep are placed once a core wakes. -/
def placeJobs (s : State) : State :=
  (s.auth.jobs.filter (fun j => j.2.core == 8)).foldl (fun s j =>
    { s with auth := { s.auth with jobs := tabSet s.auth.jobs j.1 { j.2 with core := pickCore s } } }) s

/-- The counter of a status of R364, 1 to 11. -/
def failCounter (status : Nat) : Nat := Reg.AUTH_FAIL_ICV + 4 * (status - 1)

/-- A verification has failed: its counter and event 0xF00 (R365). -/
def countFailure (s : State) (cls status : Nat) : State :=
  raise (cnt s (failCounter status) 1) 0xF00 0 (pack2 cls status)

/-- A job leaves its core (AUTH_COREn_JOBS, AUTH_COREn_BYTES). -/
def endJob (s : State) (n : Nat) (j : Job) (bytes : Nat) : State :=
  let s := { s with auth := { s.auth with jobs := tabDel s.auth.jobs n } }
  if j.core = 8 then s else cntWrap (cntWrap s (Reg.AUTH_COREn_JOBS j.core) 1) (Reg.AUTH_COREn_BYTES j.core) bytes

/-- A job can end: a frame job once the tail has arrived, a node job once its bytes have, a host job once no earlier job
holds its context (R374). -/
def jobReady (s : State) (n : Nat) (j : Job) : Bool :=
  match j.user with
  | .frame => match frameOf s j.owner with
    | some fr => fr.done
    | none => true
  | .graph => match frameOf s j.owner with
    | some fr => fr.done || (j.fn == 2 && fld j.b 31 16 != 0 &&
        decide (fld j.b 15 0 + fld j.b 31 16 ≤ fr.bytes.length))
    | none => true
  | .host => match j.host with
    | some h => h.ctx == 0xFFFF || !s.auth.jobs.any (fun k => decide (k.1 < n) && k.2.host.any (fun g => g.ctx == h.ctx))
    | none => true

/-- Order in which a core serves its jobs. -/
def JobUser.rank : JobUser → Nat
  | .frame => 0
  | .graph => 1
  | .host => 2

/-- The job of a core that ends next. -/
def nextJob (s : State) (core : Nat) : Option (Nat × Job) :=
  (s.auth.jobs.filter (fun j => j.2.core == core && jobReady s j.1 j.2)).foldl (fun b j =>
    match b with
    | none => some j
    | some c => if j.2.user.rank < c.2.user.rank then some j else b) none

/-! ### Chaining (R374) and host jobs (R376, R377) -/

/-- Algorithm of an OP: 1 GMAC, 2 CMAC, 3 HMAC. -/
def opAlg (op : Nat) : Nat := (op + 1) / 2

/-- The state in which a chain starts, from the 12-byte IV of GMAC. -/
def chainStart (alg : Nat) (key iv : List Byte) : List Byte :=
  if alg = 1 then List.replicate 16 0#8 ++ iv
  else if alg = 2 then List.replicate 16 0#8
  else
    let k := key ++ List.replicate (64 - key.length) 0#8
    (shaBlock shaInit (k.map (· ^^^ 0x36#8))).flatMap (toBE 4)

/-- A hash state as words. -/
def shaWords (bs : List Byte) : List Nat := (List.range 8).map (fun i => beAt bs (4 * i) 4)

/-- Process more bytes of a message. -/
def chainFeed (alg : Nat) (key st data : List Byte) : List Byte :=
  if alg = 1 then
    let h := beNat (aesEncrypt key (List.replicate 16 0#8))
    let buf := st.drop 28 ++ data
    let n := buf.length / 16
    toBE 16 (ghash h n (beNat (st.take 16)) buf) ++ slice st 16 12 ++ buf.drop (16 * n)
  else if alg = 2 then
    let buf := st.drop 16 ++ data
    let n := (buf.length - 1) / 16
    cbcMac key n (st.take 16) buf ++ buf.drop (16 * n)
  else
    let buf := st.drop 32 ++ data
    let n := buf.length / 64
    (shaBlocks n (shaWords st) buf).flatMap (toBE 4) ++ buf.drop (64 * n)

/-- The tag of a chain that has processed `count` bytes. -/
def chainTag (alg : Nat) (key st : List Byte) (count : Nat) : List Byte :=
  if alg = 1 then
    let h := beNat (aesEncrypt key (List.replicate 16 0#8))
    let data := pad16 (st.drop 28) ++ toBE 8 (8 * count) ++ toBE 8 0
    xorBytes (toBE 16 (ghash h (data.length / 16) (beNat (st.take 16)) data)) (aesEncrypt key (slice st 16 12 ++ toBE 4 1))
  else if alg = 2 then
    let k1 := dbl128 (beNat (aesEncrypt key (List.replicate 16 0#8)))
    let last := st.drop 16
    let fin := if last.length = 16 then xorBytes last (toBE 16 k1)
      else xorBytes (last ++ [0x80#8] ++ List.replicate (15 - last.length) 0#8) (toBE 16 (dbl128 k1))
    aesEncrypt key (xorBytes (st.take 16) fin)
  else
    let buf := st.drop 32
    let padded := buf ++ [0x80#8] ++ List.replicate ((119 - buf.length % 64) % 64) 0#8 ++ toBE 8 (8 * (64 + count))
    let inner := (shaBlocks (padded.length / 64) (shaWords st) padded).flatMap (toBE 4)
    let k := key ++ List.replicate (64 - key.length) 0#8
    sha256 (k.map (· ^^^ 0x5C#8) ++ inner)

/-- A GMAC, CMAC or HMAC host job: status, bytes processed and tag; its context moves on. -/
def hostMac (s : State) (h : HostJob) : Nat × Nat × List Byte × State :=
  let alg := opAlg h.op
  let first := h.ctx == 0xFFFF || h.flags.testBit 0
  let last := h.ctx == 0xFFFF || h.flags.testBit 1
  let verify := h.op % 2 == 0
  match keyFor s h.slot 11 (alg != 3) with
  | none => (7, 0, [], s)
  | some key =>
    let old : ChainCtx := tabGet s.auth.contexts h.ctx { alg := alg, slot := h.slot, count := 0, state := [] }
    let data := if first && alg == 1 then h.data.drop 12 else h.data
    let want := if verify && last then data.drop (data.length - h.tagLen) else []
    let data := if verify && last then data.take (data.length - h.tagLen) else data
    let st := if first then chainStart alg key (h.data.take 12) else old.state
    let count := (if first then 0 else old.count) + data.length
    let st := chainFeed alg key st data
    let s := if h.ctx = 0xFFFF then s
      else
        let c : ChainCtx := { alg := alg, slot := h.slot, count := count, state := st }
        { s with auth := { s.auth with contexts := tabSet s.auth.contexts h.ctx c } }
    if !last then (0, count, [], s)
    else
      let tag := (chainTag alg key st count).take h.tagLen
      if verify then (if tag = want then 0 else 1, count, [], s) else (0, count, tag, s)

/-- The 128-byte image of a context (R375), before any wrapping. -/
def ctxBytes (s : State) (c : ChainCtx) : List Byte :=
  let kcv := match tabFind s.auth.slots c.slot with
    | some k => keyCheck k.key k.policy
    | none => [0#8, 0#8, 0#8]
  let body := toLE 2 (Config.ctxAlg c.alg) ++ toLE 2 c.slot ++ kcv ++ [0#8] ++ toLE 8 c.count ++
    toLE 108 (Config.ctxImage (leNat c.state))
  body ++ toLE 4 (crc32c body)

/-- CTX_CLEAR of a slot. -/
def ctxClear (s : State) (slot : Nat) : Bool :=
  match tabFind s.auth.slots slot with
  | some k => k.policy.testBit 12
  | none => false

/-- SAVE (R375): status and state. -/
def hostSave (s : State) (h : HostJob) : Nat × Nat × State :=
  match tabFind s.auth.contexts h.ctx with
  | none => (7, 0, s)
  | some c =>
    if ctxClear s c.slot then (0, c.count, emit s (.hostWrite h.addr (ctxBytes s c)))
    else
      match wrapKey s with
      | none => (4, 0, s)
      | some kek =>
        let p := ctxBytes s c
        (0, c.count, emit s (.hostWrite h.addr (if rb s Reg.AUTH_CFG 0 then wrap5649 kek p else wrap3394 kek p)))

/-- RESTORE (R375): a refused one raises event 0xF07; what its cause word holds is open. -/
def hostRestore (s : State) (h : HostJob) : Nat × Nat × State :=
  let refuse (s : State) (status : Nat) : Nat × Nat × State :=
    let (v, s) := fresh s
    (status, 0, raise s 0xF07 h.ctx v)
  let clear := h.data.length = 128
  let image : Option (Option (List Byte)) :=
    if clear then some (some h.data)
    else match wrapKey s with
      | none => none
      | some kek => some (if rb s Reg.AUTH_CFG 0 then unwrap5649 kek h.data else unwrap3394 kek h.data)
  match image with
  | none => refuse s 4
  | some none => refuse s 7
  | some (some p) =>
    let slot := leAt p 2 2
    let kcv := match tabFind s.auth.slots slot with
      | some k => some (keyCheck k.key k.policy)
      | none => none
    let alg := [1, 2, 3].find? (fun a => Config.ctxAlg a % 2 ^ 16 == leAt p 0 2)
    if p.length ≠ 128 ∨ crc32c (p.take 124) ≠ leAt p 124 4 ∨ kcv ≠ some (slice p 4 3) ∨ (clear ∧ !ctxClear s slot) then
      refuse s 7
    else
      match alg with
      | none => refuse s 7
      | some a =>
        let count := leAt p 8 8
        let n := if a = 1 then 28 + count % 16 else if a = 2 then 16 + (if count = 0 then 0 else (count - 1) % 16 + 1)
          else 32 + count % 64
        let c : ChainCtx := { alg := a, slot := slot, count := count, state := toLE n (Config.ctxValue (leAt p 16 108)) }
        (0, count, { s with auth := { s.auth with contexts := tabSet s.auth.contexts h.ctx c } })

/-- A host job ends with its completion (R377), and its vector with IRQ = 1. -/
def hostJobEnd (s : State) (h : HostJob) : State :=
  let (status, count, tag, s) :=
    if h.op ≤ 6 then hostMac s h
    else if h.op = 7 then let (r, n, s) := hostSave s h; (r, n, ([] : List Byte), s)
    else let (r, n, s) := hostRestore s h; (r, n, ([] : List Byte), s)
  let body := toLE 4 h.cookie ++ [BitVec.ofNat 8 status, BitVec.ofNat 8 h.op, 0#8, 0#8] ++ toLE 8 count ++
    tag ++ List.replicate (44 - tag.length) 0#8
  let size := max 1 (rf s Reg.AUTH_HJ_SIZE 15 0)
  let s := emit s (.hostWrite (rdn s Reg.AUTH_HC_BASE + 64 * s.auth.done) (body ++ toLE 4 (crc32c body)))
  let s := { s with auth := { s.auth with done := (s.auth.done + 1) % size } }
  if h.flags.testBit 2 then raiseVector s (rf s Reg.HOST_VEC_AUTH 7 0) else s

/-- A host job descriptor of one OP is fetched (R376) with the bytes at its ADDR. Nothing is fetched when none is posted, the
ring is stopped or the queue is full; a descriptor of another OP is another command's. -/
def hostJob (s : State) (op : Nat) (desc data : List Byte) : State :=
  let size := rf s Reg.AUTH_HJ_SIZE 15 0
  let head := rf s Reg.AUTH_HJ_HEAD 15 0
  if size < 2 || rb s Reg.AUTH_HJ_HEAD 31 || head == rf s Reg.AUTH_HJ_TAIL 15 0 || desc.length != 32 ||
      decide (4096 ≤ s.auth.jobs.length) then s
  else if crc32c (desc.take 28) ≠ leAt desc 28 4 then
    raise (wf s Reg.AUTH_HJ_HEAD 31 31 1) 0xF08 head 0
  else if byteAt desc 0 ≠ op then s
  else
    let len := leAt desc 16 4 % 2 ^ 24
    let h : HostJob :=
      { op := op, flags := byteAt desc 1, slot := leAt desc 2 2, ctx := leAt desc 4 2
        tagLen := min (byteAt desc 6) (if op = 5 ∨ op = 6 then 32 else 16),
        addr := leAt desc 8 8, len := len, cookie := leAt desc 20 4
        data := (data ++ List.replicate (len - data.length) 0#8).take len }
    let s := wf s Reg.AUTH_HJ_HEAD 15 0 ((head + 1) % size)
    (admitJob s { user := .host, core := 8, slot := h.slot, bytes := len, host := some h }).2

/-- AUTH_HJ_TAIL is written: a stopped ring is restarted (R381). -/
def hjTail (s : State) (v : Nat) : State := wf (wf s Reg.AUTH_HJ_TAIL 15 0 v) Reg.AUTH_HJ_HEAD 31 31 0

/-! ### Registers that are computed (R381) -/

/-- AUTH_STATUS and AUTH_COREn_STATUS. -/
def authView (s : State) (a : Nat) : Option W64 :=
  if a = Reg.AUTH_STATUS then
    let awake := (List.range 8).foldl (fun m n => m + b2n (coreAwake s n) * 2 ^ n) 0
    some (BitVec.ofNat 64 (awake + min s.auth.jobs.length 8191 * 2 ^ 8))
  else
    match (List.range 8).find? (fun n => Reg.AUTH_COREn_STATUS n == a) with
    | some n => some (BitVec.ofNat 64 (b2n (!coreAwake s n) +
        min (s.auth.jobs.filter (fun j => j.2.core == n)).length 4095 * 2))
    | none => none

/-! ### The commands of the host -/

/-- LOAD_CLEAR (R371). -/
def execLoadClear (s : State) : Host.Outcome State Fault Refusal := .next (keyCommand s 1)
/-- LOAD_WRAPPED (R371). -/
def execLoadWrapped (s : State) : Host.Outcome State Fault Refusal := .next (keyCommand s 2)
/-- KEY_ERASE (R373). -/
def execKeyErase (s : State) : Host.Outcome State Fault Refusal := .next (keyCommand s 3)
/-- READ_POLICY (R371). -/
def execReadPolicy (s : State) : Host.Outcome State Fault Refusal := .next (keyCommand s 4)
/-- KEY_CMD_COMPLETE (R373). -/
def execKeyCmdComplete (s : State) : Host.Outcome State Fault Refusal := .next (keyDone s)
/-- AUTH_HJ_TAIL_WRITE (R376). -/
def execAuthHjTailWrite (value : BitVec 32) (s : State) : Host.Outcome State Fault Refusal := .next (hjTail s value.toNat)
/-- HJ_GMAC_GENERATE (R376). -/
def execHjGmacGenerate (desc data : List Byte) (s : State) : Host.Outcome State Fault Refusal := .next (hostJob s 1 desc data)
/-- HJ_GMAC_VERIFY (R376). -/
def execHjGmacVerify (desc data : List Byte) (s : State) : Host.Outcome State Fault Refusal := .next (hostJob s 2 desc data)
/-- HJ_CMAC_GENERATE (R376). -/
def execHjCmacGenerate (desc data : List Byte) (s : State) : Host.Outcome State Fault Refusal := .next (hostJob s 3 desc data)
/-- HJ_CMAC_VERIFY (R376). -/
def execHjCmacVerify (desc data : List Byte) (s : State) : Host.Outcome State Fault Refusal := .next (hostJob s 4 desc data)
/-- HJ_HMAC_GENERATE (R376). -/
def execHjHmacGenerate (desc data : List Byte) (s : State) : Host.Outcome State Fault Refusal := .next (hostJob s 5 desc data)
/-- HJ_HMAC_VERIFY (R376). -/
def execHjHmacVerify (desc data : List Byte) (s : State) : Host.Outcome State Fault Refusal := .next (hostJob s 6 desc data)
/-- HJ_SAVE (R375). -/
def execHjSave (desc data : List Byte) (s : State) : Host.Outcome State Fault Refusal := .next (hostJob s 7 desc data)
/-- HJ_RESTORE (R375). -/
def execHjRestore (desc data : List Byte) (s : State) : Host.Outcome State Fault Refusal := .next (hostJob s 8 desc data)

end Sys2Proof.Machine
end

