-- ==== Sys2Proof/Machine/Gates.lean ====
section
/-! DEFINITION. Gate lists of ports (R335 to R337, R340) and of streams (R343), and the per-stream filters, gates and meters
(R341 to R343). -/
namespace Sys2Proof.Machine

/-- Egress of port p beside its registers. -/
def eport (s : State) (p : Nat) : EgressPort := tabGet s.egress.ports p {}

/-- Put egress of port p. -/
def eportPut (s : State) (p : Nat) (x : EgressPort) : State :=
  { s with egress := { s.egress with ports := tabPut s.egress.ports p x {} } }

/-! ### The list machine (R335, R337) -/

/-- When the entry after `entry` takes over: its interval ends, or for the last entry the cycle. -/
def GateList.after (g : GateList) (interval : Nat → Nat) : Nat :=
  if g.entry + 1 < g.len then g.cycleStart + ((List.range (g.entry + 1)).foldl (fun t i => t + interval i) 0)
  else g.cycleStart + g.cycle

/-- The time at which an admin list starts (R337). -/
def gateStart (now base cycle : Nat) : Nat :=
  if now < base then base else base + ((now - base) / max 1 cycle + 1) * max 1 cycle

/-- The list starts at a time. -/
def GateList.start (at_ cycle len : Nat) (interval : Nat → Nat) : GateList :=
  let g : GateList := { running := true, cycle := cycle, len := len, cycleStart := at_ }
  { g with nextAt := g.after interval }

/-- The list moves to its next entry; at the end of a cycle the last interval is extended when a pending list starts within the
extension (R337). -/
def GateList.move (g : GateList) (ext : Nat) (interval : Nat → Nat) : GateList :=
  if g.entry + 1 < g.len then
    let g := { g with entry := g.entry + 1 }
    { g with nextAt := g.after interval }
  else
    let t := g.cycleStart + g.cycle
    let wait := match g.pending with
      | some p => decide (t ≤ p ∧ p - t < ext ∧ p < t + g.cycle)
      | none => false
    if wait then { g with nextAt := g.pending.getD 0 }
    else
      let g := { g with entry := 0, cycleStart := t }
      { g with nextAt := g.after interval }

/-! ### Gates of ports -/

/-- Interval, states and OP of an entry of the operational list. -/
def operInterval (s : State) (p i : Nat) : Nat := rf s (Reg.EGRESS_PORTp_OPERi p i) 31 0
def operStates (s : State) (p i : Nat) : Nat := rf s (Reg.EGRESS_PORTp_OPERi p i) 39 32
def operOp (s : State) (p i : Nat) : Nat := rf s (Reg.EGRESS_PORTp_OPERi p i) 41 40

/-- GATE_EN with a list in operation. -/
def gated (s : State) (p : Nat) : Bool := rb s (Reg.EGRESS_PORTp_CFG p) 4 && (eport s p).gates.running

/-- The gate states of a port (R335). -/
def gateStates (s : State) (p : Nat) : Nat :=
  if gated s p then operStates s p (eport s p).gates.entry else rf s (Reg.EGRESS_PORTp_ADMIN_GATES p) 7 0

/-- A copy still in transmission when its gate has closed is an overrun (R336). -/
def overrun (s : State) (p : Nat) (queue : Option Nat) (was : Nat) : State :=
  match queue with
  | some k =>
    if was.testBit k && !(gateStates s p).testBit k then raise (cnt s (Reg.EGRESS_PORTp_TX_OVERRUN p) 1) 0xE42 p 1 else s
  | none => s

/-- Show the gate states and the entry in force in EGRESS_PORTp_STATUS, after a change from `was`. -/
def showGates (s : State) (p : Nat) (queue : Option Nat) (was : Nat) : State :=
  let s := wf (wf s (Reg.EGRESS_PORTp_STATUS p) 7 0 (gateStates s p)) (Reg.EGRESS_PORTp_STATUS p) 25 16 (eport s p).gates.entry
  overrun s p queue was

/-- Hold of a port. -/
def held (s : State) (p : Nat) : Bool := rb s (Reg.EGRESS_PORTp_STATUS p) 11

/-- Hold is asserted or released. -/
def setHold (s : State) (p : Nat) (on : Bool) : State :=
  if on && !held s p then cnt (wf s (Reg.EGRESS_PORTp_STATUS p) 11 11 1) (Reg.EGRESS_PORTp_HOLDS p) 1
  else wf s (Reg.EGRESS_PORTp_STATUS p) 11 11 (b2n on)

/-- The entry in force acts on hold (R340). -/
def entryHold (s : State) (p : Nat) : State :=
  match operOp s p (eport s p).gates.entry with
  | 1 => setHold s p true
  | 2 => setHold s p false
  | _ => s

/-- GATE_ENTRY_CHANGE, once the entry's time has come; `queue` is the queue of the copy in transmission. -/
def gateMove (s : State) (p : Nat) (queue : Option Nat) : State :=
  let x := eport s p
  if !gated s p || decide (timeN s < x.gates.nextAt) then s
  else
    let was := gateStates s p
    let g := x.gates.move (rdn s (Reg.EGRESS_PORTp_GCL_EXT p)) (operInterval s p)
    entryHold (showGates (eportPut s p { x with gates := g }) p queue was) p

/-- Hold is asserted before a Set-And-Hold-MAC entry (R340). -/
def gateHold (s : State) (p : Nat) : State :=
  let x := eport s p
  let octets := 143 + 64 * rf s (Reg.EGRESS_PORTp_CFG p) 7 6
  let lead := octets * 8000 / max 1 (portRate s p)
  let next := if x.gates.entry + 1 < x.gates.len then x.gates.entry + 1 else 0
  if gated s p && operOp s p next == 1 && decide (x.gates.nextAt ≤ timeN s + lead) then setHold s p true else s

/-- CONFIG_CHANGE of a port (R337). -/
def gateConfig (s : State) (p : Nat) : State :=
  let len := rf s (Reg.EGRESS_PORTp_GCL_LEN p) 10 0
  let cycle := rdn s (Reg.EGRESS_PORTp_GCL_CYCLE p)
  let sum := (List.range len).foldl (fun t i => t + rf s (Reg.EGRESS_PORTp_ADMINi p i) 31 0) 0
  if len = 0 then raise s 0xE41 p 0
  else if cycle < sum then raise s 0xE41 p 1
  else
    let base := rf s (Reg.EGRESS_PORTp_GCL_BASE_S p) 47 0 * 1000000000 + rf s (Reg.EGRESS_PORTp_GCL_BASE_NS p) 29 0
    let x := eport s p
    wf (eportPut s p { x with gates := { x.gates with pending := some (gateStart (timeN s) base cycle) } })
      (Reg.EGRESS_PORTp_STATUS p) 12 12 1

/-- The admin list becomes operational at its start (R337). -/
def gateBegin (s : State) (p : Nat) (queue : Option Nat) : State :=
  let x := eport s p
  match x.gates.pending with
  | none => s
  | some t =>
    if timeN s < t then s
    else
      let was := gateStates s p
      let len := rf s (Reg.EGRESS_PORTp_GCL_LEN p) 10 0
      let s := (List.range len).foldl (fun s i => wr s (Reg.EGRESS_PORTp_OPERi p i) (rd s (Reg.EGRESS_PORTp_ADMINi p i))) s
      let g := GateList.start t (rdn s (Reg.EGRESS_PORTp_GCL_CYCLE p)) len (operInterval s p)
      let s := wf (eportPut s p { x with gates := g }) (Reg.EGRESS_PORTp_STATUS p) 12 12 0
      entryHold (raise (showGates s p queue was) 0xE40 p (t % 1000000000)) p

/-! ### Stream gates (R343) -/

/-- The gate list of stream gate g. -/
def sgate (s : State) (g : Nat) : GateList := tabGet s.egress.sgates g {}

/-- Entry i of its operational list. -/
def sgateEntry (s : State) (g i : Nat) : W64 := tabGet s.egress.soper (64 * g + i) 0

/-- Put the gate list; OPEN and IPV follow the entry in force. -/
def sgatePut (s : State) (g : Nat) (x : GateList) : State :=
  let s := { s with egress := { s.egress with sgates := tabPut s.egress.sgates g x {} } }
  if !x.running then s
  else
    let e := sgateEntry s g x.entry
    wf (wf s (Reg.EGRESS_SGg_CMD g) 8 8 (fld e 32 32)) (Reg.EGRESS_SGg_CMD g) 11 9 (fld e 35 33)

/-- CONFIG_CHANGE of a stream gate; a list that is empty or longer than its cycle is not taken (R337). -/
def sgateConfig (s : State) (g : Nat) : State :=
  let len := rdn s (Reg.EGRESS_SGg_LEN g)
  let cycle := rdn s (Reg.EGRESS_SGg_CYCLE g)
  let sum := (List.range len).foldl (fun t i => t + rf s (Reg.EGRESS_SGg_ENTRYi g i) 31 0) 0
  if len = 0 ∨ 64 < len ∨ cycle < sum then s
  else
    let base := rf s (Reg.EGRESS_SGg_BASE_S g) 47 0 * 1000000000 + rf s (Reg.EGRESS_SGg_BASE_NS g) 29 0
    sgatePut s g { sgate s g with pending := some (gateStart (timeN s) base cycle) }

/-- A stream gate moves to its next entry, or its new list starts. -/
def sgateMove (s : State) (g : Nat) : State :=
  let x := sgate s g
  let interval (s : State) (i : Nat) : Nat := fld (sgateEntry s g i) 31 0
  let due := match x.pending with
    | some t => decide (t ≤ timeN s)
    | none => false
  if due then
    let len := rdn s (Reg.EGRESS_SGg_LEN g)
    let s := (List.range len).foldl (fun s i =>
      { s with egress := { s.egress with soper := tabPut s.egress.soper (64 * g + i) (rd s (Reg.EGRESS_SGg_ENTRYi g i)) 0 } }) s
    sgatePut s g (GateList.start (x.pending.getD 0) (rdn s (Reg.EGRESS_SGg_CYCLE g)) len (interval s))
  else if x.running && decide (x.nextAt ≤ timeN s) then sgatePut s g (x.move 0 (interval s))
  else s

/-- The queue that an open gate gives its frames (IPV). -/
def sgateIpv (s : State) (g : Nat) : Option Nat :=
  let x := sgate s g
  let e := sgateEntry s g x.entry
  if x.running && bitOf e 36 then some (fld e 35 33) else none

/-! ### Filters and meters (R341, R342) -/

/-- The stream filter of a frame, given HIT and TAG of its class's Lauter result. -/
def streamFilter (s : State) (cls : Nat) (hit : Bool) (tag : Nat) : Option Nat :=
  if rb s (Reg.EGRESS_CLASSc_RCV cls) 11 && hit && decide (tag < 2048) && rb s (Reg.EGRESS_SFh tag) 0 then some tag else none

/-- The filter's checks need the frame's tail. -/
def filterAtTail (s : State) (h : Nat) : Bool := rb s (Reg.EGRESS_SFh h) 12 || rf s (Reg.EGRESS_SFh h) 39 24 != 0

/-- Colour of a frame of a length at a meter: 0 green, 1 yellow, 2 red (MEF 10.3, colour-blind). A bucket starts full. -/
def meterFrame (s : State) (m len : Nat) : Nat × State :=
  let unit := 1000000
  let cbs := unit * rf s (Reg.EGRESS_FMm_CBS m) 23 0
  let ebs := unit * rf s (Reg.EGRESS_FMm_EBS m) 23 0
  let x : Meter := tabGet s.egress.meters m {}
  let x := if x.started then x else { c := cbs, e := ebs, at_ := nowNs s, started := true }
  let dt := nowNs s - x.at_
  let c := x.c + rf s (Reg.EGRESS_FMm_CIR m) 23 0 * dt
  let spill := if rb s (Reg.EGRESS_FMm_CFG m) 0 then c - cbs else 0
  let c := min c cbs
  let e := min (x.e + rf s (Reg.EGRESS_FMm_EIR m) 23 0 * dt + spill) ebs
  let n := unit * len
  let (colour, c, e) := if n ≤ c then (0, c - n, e) else if n ≤ e then (1, c, e - n) else (2, c, e)
  let x : Meter := { c := c, e := e, at_ := nowNs s, started := true }
  (colour, { s with egress := { s.egress with meters := tabSet s.egress.meters m x } })

/-- The checks of R342 in order for a frame of filter h: whether it passes and whether DEI is set. -/
def filterChecks (s : State) (h len : Nat) (gateShut : Bool) : (Bool × Bool) × State :=
  let f := rd s (Reg.EGRESS_SFh h)
  let g := fld f 11 4
  if bitOf f 2 then ((false, false), s)
  else if fld f 39 24 ≠ 0 ∧ fld f 39 24 < len then
    ((false, false), if bitOf f 1 then wf s (Reg.EGRESS_SFh h) 2 2 1 else s)
  else if bitOf f 3 && gateShut then
    ((false, false), if rb s (Reg.EGRESS_SGg_CMD g) 1 then wf s (Reg.EGRESS_SGg_CMD g) 2 2 1 else s)
  else if bitOf f 12 then
    let m := fld f 23 13
    let (colour, s) := meterFrame s m len
    let cfg := rd s (Reg.EGRESS_FMm_CFG m)
    if bitOf cfg 3 || colour == 2 then
      ((false, false), if bitOf cfg 2 then wf s (Reg.EGRESS_FMm_CFG m) 3 3 1 else s)
    else if colour = 1 then ((!bitOf cfg 1, true), s)
    else ((true, false), s)
  else ((true, false), s)

/-- Gate g passes no frame: closed, or shut by CLOSE_INVALID_EN. -/
def gateClosed (s : State) (g : Nat) : Bool := !rb s (Reg.EGRESS_SGg_CMD g) 8 || rb s (Reg.EGRESS_SGg_CMD g) 2

/-- Count what the checks of filter h decided. -/
def filterCount (s : State) (h : Nat) (pass : Bool) : State :=
  if pass then cntWrap s (Reg.EGRESS_SFh_PASSED h) 1
  else raise (cnt (cntWrap s (Reg.EGRESS_SFh_DROPPED h) 1) Reg.EGRESS_PSFP_DROPS 1) 0xE4B 0 h

/-! ### The commands that need no copy -/

/-- SET_AND_HOLD_ASSERT (R340). -/
def execSetAndHoldAssert (port : Fin 64) (s : State) : Host.Outcome State Fault Refusal := .next (gateHold s port.val)

/-- GCL_CONFIG_CHANGE (R337). -/
def execGclConfigChange (port : Fin 64) (s : State) : Host.Outcome State Fault Refusal := .next (gateConfig s port.val)

/-- SG_CONFIG_CHANGE (R343). -/
def execSgConfigChange (gate : Fin 256) (s : State) : Host.Outcome State Fault Refusal := .next (sgateConfig s gate.val)

/-- SG_ENTRY_CHANGE (R343). -/
def execSgEntryChange (gate : Fin 256) (s : State) : Host.Outcome State Fault Refusal := .next (sgateMove s gate.val)

end Sys2Proof.Machine
end

