-- ==== Sys2Proof/Machine/Fwd.lean ====
section
/-! DEFINITION. Forwarding (R122, R123, R132 to R135), learning (R126 to R129), the FDB's placement, ageing and rehash
(R124, R130, R131), publishing (R133, R136, R578) and the table commands (R142, R143). -/
namespace Sys2Proof.Machine

/-! ### The forwarding result of a frame -/

/-- The tick period in ns (R387). -/
def tickNs (s : State) : Nat := 4 * 2 ^ rf s Reg.TIME_STATUS 10 8

/-- The VID of a frame (R123 step 1). -/
def frameVid (s : State) (port : Nat) (bytes : List Byte) (p : Parsed) : Nat :=
  let v := match p.tag with
    | some h => beAt bytes h.off 2 % 4096
    | none => 0
  if v = 0 then rf s (Reg.FWD_PORTp_CFG port) 11 0 else v

/-- The frame passes the VLAN checks of R123 step 2. -/
def vlanAdmits (s : State) (port vid : Nat) : Bool :=
  match vlanOf s vid with
  | none => false
  | some x => !rb s (Reg.FWD_PORTp_CFG port) 17 || bitOf (x.word 1) port

/-- The result that a next hop gives (R134). -/
def nextHopFwd (s : State) (rule : LockRule) (nh : Nat) (routed : Bool) : Look Fwd :=
  match indexLook s rule 3 nh with
  | .wait t i => .wait t i
  | .miss => .hit { nh := nh, routed := routed, why := 1 }
  | .hit x =>
    match fld (x.word 0) 57 56 with
    | 0 => .hit { dest := fld (x.word 1) 6 0, nh := nh, routed := routed }
    | 2 => .hit { dest := 64, nh := nh, routed := routed, trap := true }
    | _ => .hit { nh := nh, routed := routed }

/-- The result that a route gives (R132, R135). -/
def routeFwd (s : State) (rule : LockRule) (ws : List W64) (h1 h2 : Nat) : Look Fwd :=
  let w := ws.getD 0 0
  match fld w 57 56 with
  | 0 =>
    if bitOf w 58 then
      match ecmpLook s rule (fld w 15 0 % 4096) h1 h2 with
      | .wait t i => .wait t i
      | .miss => .hit { routed := true, why := 2 }
      | .hit nh => nextHopFwd s rule nh true
    else nextHopFwd s rule (fld w 15 0) true
  | 2 => .hit { dest := 64, routed := true, trap := true }
  | _ => .hit { routed := true }

/-- Step 4 of R123 for a frame of a VLAN: the route table and address of the layer-0 IP header. -/
def routeKey (fr : Frame) : Option (Nat × Nat) :=
  match fr.parsed.find 0 [.ipv4, .ipv6] with
  | none => none
  | some ip =>
    if ip.kind = .ipv4 then some (1, beAt fr.bytes (ip.off + 16) 4) else some (2, beAt fr.bytes (ip.off + 24) 8)

/-- The forwarding result of R123, steps 4 and 5. A frame that step 4 routes is ROUTED whether or not a route is found.
DEDUCED (log 25). -/
def forwardFrame (s : State) (rule : LockRule) (fr : Frame) : Look Fwd :=
  match vlanOf s fr.vid with
  | none => .hit {}
  | some vlan =>
    let w := vlan.word 0
    let dmac := beAt fr.bytes 0 6
    let routeKey? := if dmac = rf s Reg.FWD_ROUTER_MAC 47 0 ∧ bitOf w 58 then routeKey fr else none
    match routeKey? with
    | some (t, addr) =>
      match lpmLook s t (fld w 51 48) addr with
      | some r => routeFwd s rule r.2 fr.h1 fr.h2
      | none => if fld w 53 52 = 1 then .hit { dest := 64, routed := true, trap := true } else .hit { routed := true }
    | none =>
      match fdbLook s rule fr.fid dmac with
      | .wait t i => .wait t i
      | .hit i =>
        let e := slotOf s 0 i
        let dest := fld (e.word 1) 29 16
        .hit { dest := if bitOf (e.word 0) 56 then 0x4000 + dest else dest, fdbHit := true }
      | .miss =>
        if dmac = 2 ^ 48 - 1 ∨ byteAt fr.bytes 0 % 2 = 0 then .hit { dest := 0x8000 }
        else if bitOf w 56 then .hit { dest := 0x8000 }
        else .hit { why := 3 }

/-! ### Insertion failures (R129) -/

/-- The window of a group after a failure at this moment, and whether the rehash request is raised now. -/
def windowFail (now lengthMs thresh : Nat) (w : Option InsWindow) : InsWindow × Bool :=
  let w' : InsWindow := match w with
    | some x => if x.opened + lengthMs * 1000000 ≤ now then ⟨now, 1, false⟩ else { x with failures := x.failures + 1 }
    | none => ⟨now, 1, false⟩
  if thresh ≤ w'.failures ∧ ¬ w'.told then ({ w' with told := true }, true) else (w', false)

/-- A learning or an INSERT finds no slot (R129). -/
def fdbInsFail (s : State) (fid mac : Nat) : State :=
  let g := fdbHash (rdn s Reg.FWD_FDB_SEED0) fid mac / 1024
  let s := raise (cnt s Reg.FWD_INS_FAIL 1) 0x512 0 g
  let (w, req) := windowFail (nowNs s) (rf s Reg.FWD_INS_WINDOW 15 0) (rf s Reg.FWD_INS_THRESH 15 0)
    (tabFind s.fwd.windows g)
  let s := { s with fwd := { s.fwd with windows := tabSet s.fwd.windows g w } }
  if req then raise s 0x513 g w.failures else s

/-! ### Writing entries -/

/-- The words 0 to 6 of a slot as delta words (R415). -/
def deltaWords (ws : List W64) : List (Nat × W64) := (List.range 7).map (fun i => (i, ws.getD i 0))

/-- Put words into a slot of tables 0 to 7 or of the Lauter array as a device-side or published change: the entry's lock
stays, SUSPECT is cleared, and a lead mirrors the change (R414). -/
def entryPut (s : State) (t i : Nat) (ws : List W64) : State :=
  let x := slotOf s t i
  let ws := if t = 5 ∧ (i = 0 ∨ i = 4095) then (ws.getD 0 0 &&& 0xBFFFFFFFFFFFFFFF) :: ws.drop 1 else ws
  let st := storeWords ws
  let s := slotPut s t i { x with words := st, suspect := false }
  if t = 8 then mirror s 2 i (deltaWords st) else mirror s 1 (t * 2 ^ 32 + i) (deltaWords st)

/-- Why a publish to tables 0 to 7 is refused (R133, R578): the code of event 0x517, none when it is not. -/
def badEntry (t i : Nat) (ws : List W64) : Option Nat :=
  let w0 := ws.getD 0 0
  let w1 := ws.getD 1 0
  let valid := bitOf w0 62
  if t = 0 then
    if valid && !bitOf w0 56 && decide (66 ≤ fld w1 29 16) then some 3 else none
  else if t = 1 ∨ t = 2 then
    let len := fld w0 46 40
    let w := routeWidth t
    if w < len then some 1
    else if w1.toNat % 2 ^ (w - len) ≠ 0 then some 1
    else if fld w0 57 56 = 3 then some 2
    else if valid && bitOf w0 58 && decide (4095 < fld w0 15 0) then some 3
    else none
  else if t = 3 then
    if !valid then none
    else if fld w0 57 56 = 3 then some 2
    else if 65 ≤ fld w1 6 0 then some 3 else none
  else if t = 4 then
    if valid && i % 16 == 0 && decide (256 < fld w0 8 0) then some 3 else none
  else if t = 5 then
    if valid && (decide (2 ≤ fld w0 53 52) || fld w0 55 54 == 3) then some 3 else none
  else none

/-- The lowest other slot of a table, listed in index order, whose published entry satisfies a test. -/
def otherSlot (s : State) (t i : Nat) (p : Slot → Bool) : Option Nat :=
  (s.fwd.slots.find? (fun e => decide (slotKey t 0 ≤ e.1 ∧ e.1 < slotKey (t + 1) 0) && e.1 != slotKey t i &&
    e.2.valid && p e.2)).map (fun e => e.1 - slotKey t 0)

/-- A publish to slot i of tables 0 to 7: a route enters the route set later (R133); a prefix (R114) or a route (R133)
that is already valid in another slot is reported. -/
def publish (s : State) (t i : Nat) (ws : List W64) : State :=
  let s := entryPut s t i ws
  let x := slotOf s t i
  if t = 1 ∨ t = 2 then
    let s := { s with fwd := { s.fwd with lpmPending := s.fwd.lpmPending ++ [(slotKey t i, x.words)] } }
    let same (y : Slot) : Bool := y.word 1 == x.word 1 && fld (y.word 0) 46 40 == fld (x.word 0) 46 40 &&
      fld (y.word 0) 55 52 == fld (x.word 0) 55 52
    if x.valid then
      match otherSlot s t i same with
      | some j => raise s 0x51A (min i j) (max i j)
      | none => s
    else s
  else if t = 6 ∧ x.valid then
    match otherSlot s 6 i (fun y => y.word 1 == x.word 1) with
    | some j => raise s 0x510 (min i j) (max i j)
    | none => s
  else s

/-! ### Cuckoo placement (R124) -/

/-- One of several allowed choices: a free value of the spec (assumption 2). -/
def choose (s : State) (options : List Nat) : Option Nat × State :=
  if options.length ≤ 1 then (options.head?, s)
  else
    let (v, s) := fresh s
    (options[v % options.length]?, s)

/-- The candidates under the seeds that insertions use: the new ones while a rehash runs (R130). -/
def insertCands (s : State) (fid mac : Nat) : List Nat :=
  if rehashing s then fdbNextCands s fid mac else fdbCands s fid mac

/-- The candidates of the entry in slot i. -/
def occupantCands (s : State) (i : Nat) : List Nat :=
  let x := slotOf s 0 i
  insertCands s (fld (x.word 1) 11 0) (fld (x.word 0) 47 0)

/-- A slot that an entry may be placed in. -/
def fdbFree (s : State) (i : Nat) : Bool := !(slotOf s 0 i).valid && (slotOf s 0 i).lock.isNone

/-- A path of displacements: slots from the one the new entry takes to a free one, each occupant moving to the next.
At most `n` displacements; a locked slot is immovable (R139); which occupant moves is open. -/
def cuckooPath (s : State) : Nat → List Nat → List Nat → Option (List Nat) × State
  | 0, cands, path =>
    match choose s (cands.filter (fdbFree s)) with
    | (some i, s') => (some (path ++ [i]), s')
    | (none, s') => (none, s')
  | n + 1, cands, path =>
    match choose s (cands.filter (fdbFree s)) with
    | (some i, s') => (some (path ++ [i]), s')
    | (none, s') =>
      match choose s' (cands.filter (fun i => (slotOf s 0 i).lock.isNone && !path.contains i)) with
      | (some i, s'') => cuckooPath s'' n (occupantCands s i) (path ++ [i])
      | (none, s'') => (none, s'')

/-- Carry out the moves of a path, the last first, and put the new words into its first slot. -/
def cuckooMoves (s : State) (ws : List W64) : List Nat → State
  | [] => s
  | [i] => entryPut s 0 i ws
  | i :: j :: t =>
    let s := cuckooMoves s (slotOf s 0 i).words (j :: t)
    entryPut s 0 i ws

/-- Place an entry under R124: its slot, or none after 32 displacements. -/
def fdbPlace (s : State) (ws : List W64) : Option Nat × State :=
  let fid := fld (ws.getD 1 0) 11 0
  let mac := fld (ws.getD 0 0) 47 0
  match cuckooPath s 32 (insertCands s fid mac) [] with
  | (some (i :: t), s') => (some i, cuckooMoves s' ws (i :: t))
  | (_, s') => (none, s')

/-! ### Learning (R126 to R128) -/

/-- The words of an FDB entry for a learning. -/
def learnWords (l : Learning) (last move : Nat) : List W64 :=
  [BitVec.ofNat 64 (l.mac + b2n l.remote * 2 ^ 57 + 2 ^ 62),
   BitVec.ofNat 64 (l.fid + l.prec * 2 ^ 12 + l.dest * 2 ^ 16 + l.originPort * 2 ^ 30 + l.srcDev * 2 ^ 36),
   BitVec.ofNat 64 last, BitVec.ofNat 64 move, 0, 0, 0]

/-- Queue a learning message record for the fen (R128, R443). -/
def fenQueue (s : State) (l : Learning) : State :=
  if !rb s Reg.FEN_CFG 0 || follower s then s
  else if s.fen.pendingRecs.length < 4096 then
    { s with fen := { s.fen with pendingRecs := s.fen.pendingRecs ++ [{ l with queued := nowNs s }] } }
  else raise (cnt s Reg.FEN_RATE_DROPS 1) 0xFA3 0 0

/-- The learning counted: it installed, moved or won; a domain-scope one is announced. -/
def learned (s : State) (l : Learning) (slot : Nat) : State :=
  if l.announce then
    fenQueue { s with fwd := { s.fwd with announced := tabSet s.fwd.announced slot (nowNs s, tickNo s) } } l
  else s

/-- Report a move conflict (R127): the losing location. -/
def moveConflict (s : State) (l : Learning) (port dev : Nat) : State :=
  raise (cnt s Reg.FWD_MOVE_CONFLICTS 1) 0x514 (l.fid * 2 ^ 48 + l.mac) (port + dev * 2 ^ 16)

/-- A learning of (FID, MAC) (R127). One that would change a locked entry is dropped and counted (R139). -/
def learn (s : State) (l : Learning) : State :=
  match fdbFind s l.fid l.mac with
  | none =>
    match fdbPlace s (learnWords l l.tick 0) with
    | (some i, s) => learned s l i
    | (none, s) => fdbInsFail s l.fid l.mac
  | some i =>
    let x := slotOf s 0 i
    let change (ws : List W64) (after : State → State) : State :=
      if x.lock.isSome then cnt s Reg.FWD_LEARN_LOCKED 1 else after (entryPut s 0 i ws)
    if bitOf (x.word 0) 58 then s
    else
      let oPort := fld (x.word 1) 35 30
      let oDev := fld (x.word 1) 45 36
      let oPrec := fld (x.word 1) 15 12
      let t := (x.word 2).toNat
      let mt := (x.word 3).toNat
      let m := if oDev = l.srcDev then 0 else rf s Reg.FWD_LEARN_MARGIN 15 0
      let damp := (rf s Reg.FWD_MOVE_DAMP 19 0 * 1000 + tickNs s - 1) / tickNs s
      if oPort = l.originPort ∧ oDev = l.srcDev then
        if l.tick ≤ t then s else change (x.words.set 2 (BitVec.ofNat 64 l.tick)) (fun s => s)
      else if l.tick ≤ t + m ∧ t ≤ l.tick + m then
        let wins := oPrec < l.prec ∨ (l.prec = oPrec ∧ (l.originPort < oPort ∨
          (l.originPort = oPort ∧ l.srcDev < oDev)))
        if wins then
          change (learnWords l (max t l.tick) mt) (fun s => learned (moveConflict s l oPort oDev) l i)
        else moveConflict s l l.originPort l.srcDev
      else if t + m < l.tick then
        if damp ≤ l.tick - mt then change (learnWords l l.tick l.tick) (fun s => learned s l i)
        else raise (cnt s Reg.FWD_MOVES_DAMPED 1) 0x515 (l.fid * 2 ^ 48 + l.mac) 0
      else cnt s Reg.FWD_STALE_LEARN 1

/-- A learning waits while the delta store is full (R418). -/
def learnOrWait (s : State) (l : Learning) : State :=
  if storeFull s then storeStall { s with fwd := { s.fwd with learnWait := s.fwd.learnWait ++ [l] } } else learn s l

/-- The learning of a frame with a good tail verdict (R126), if it learns. -/
def learnFrame (s : State) (fr : Frame) : State :=
  match vlanOf s fr.vid with
  | none => s
  | some vlan =>
    let scope := fld (vlan.word 0) 55 54
    let cls := clsLearn s fr.gen fr.cls
    let src := beAt fr.bytes 6 6
    if cls = 2 ∨ scope = 2 ∨ !rb s (Reg.FWD_PORTp_CFG fr.port) 16 ∨ !rb s Reg.FWD_CFG 0 ∨ byteAt fr.bytes 6 % 2 = 1 ∨
        follower s then s
    else
      learnOrWait s { fid := fr.fid, mac := src, tick := fr.tick, prec := rf s (Reg.FWD_PORTp_CFG fr.port) 15 12
                      originPort := fr.port, srcDev := rf s Reg.FEN_DEV_ID 9 0, dest := fr.port
                      announce := !(cls == 1 || scope == 0) }

/-! ### Ageing, rehash and parity -/

/-- Remove an FDB entry. -/
def fdbRemove (s : State) (i : Nat) : State := entryPut s 0 i []

/-- The ageing scan reaches slot i (R131, R448). -/
def fdbAge (s : State) (i : Nat) : State :=
  let x := slotOf s 0 i
  if !rb s Reg.FWD_CFG 1 || follower s || !x.valid || x.lock.isSome || bitOf (x.word 0) 58 then s
  else
    let last := (x.word 2).toNat
    let flushed := bitOf (x.word 0) 57 && s.fen.flush.any (fun e => e.1 == fld (x.word 1) 45 36 && decide (last ≤ e.2))
    let age := (s.time.tick - last) * tickNs s
    if flushed then fdbRemove s i
    else if rf s Reg.FWD_FDB_AGE 15 0 * 1000000000 ≤ age then
      let s := cnt s Reg.FWD_AGED 1
      if rb s Reg.FWD_FDB_AGE 16 then fdbRemove s i else s
    else s

/-- Move the entry of slot i to a candidate under the new seeds (R130). -/
def rehashEntry (s : State) (i : Nat) : State :=
  let x := slotOf s 0 i
  if !x.valid then s
  else if (occupantCands s i).contains i then s
  else
    match cuckooPath s 32 (occupantCands s i) [i] with
    | (some (_ :: j :: t), s') =>
      let s' := cuckooMoves s' x.words (j :: t)
      let s' := if t.contains i then s' else entryPut s' 0 i []
      { s' with fwd := { s'.fwd with moved := s'.fwd.moved + 1 } }
    | (_, s') => cnt s' Reg.FWD_FDB_REHASH_STUCK 1

/-- The indices of the slots of table t that are listed. -/
def listedSlots (s : State) (t : Nat) : List Nat :=
  (s.fwd.slots.filter (fun e => decide (slotKey t 0 ≤ e.1 ∧ e.1 < slotKey (t + 1) 0))).map (fun e => e.1 - slotKey t 0)

/-- The rehash ends (R130): every entry has been moved or is stuck; a locked entry that has to move holds it up. -/
def rehashDone (s : State) : State :=
  let is := listedSlots s 0
  let held := is.any (fun i => (slotOf s 0 i).lock.isSome && (slotOf s 0 i).valid && !(occupantCands s i).contains i)
  if !rehashing s || held then s
  else
    let s := is.foldl rehashEntry s
    let s := (List.range 4).foldl (fun s w => wr s (Reg.FWD_FDB_SEED0 + 4 * w) (rd s (Reg.FWD_FDB_SEED_NEXTw w))) s
    let s := wf s Reg.FWD_FDB_REHASH 1 1 0
    raise s 0x51B s.fwd.moved (rdn s Reg.FWD_FDB_REHASH_STUCK)

/-- A write of FWD_FDB_REHASH with GO (R130). -/
def rehashStart (s : State) : State :=
  if rehashing s then s
  else
    let s := wf (wrn s Reg.FWD_FDB_REHASH_STUCK 0) Reg.FWD_FDB_REHASH 1 1 1
    { s with fwd := { s.fwd with moved := 0 } }

/-- The parity scan finds the entry of slot i of table t bad (R114, R141). -/
def parityFail (s : State) (t i : Nat) : State :=
  let x := slotOf s t i
  if x.words = [] ∨ x.suspect then s
  else
    let s := cnt (slotPut s t i { x with suspect := true }) Reg.FWD_PARITY_ERRS 1
    if t = 6 then raise s 0x511 i 0 else raise s 0x518 (pack2 t i) (rf s Reg.FWD_CFG 3 3)

/-! ### Table commands (R142, R143) -/

/-- DATA0 to DATA7 of table t. -/
def tblData (s : State) (t : Nat) : List W64 := (List.range 8).map (fun w => rd s (Reg.FWD_TBLt_DATAw t w))

/-- Put words into DATA0 to DATA7. -/
def tblDataPut (s : State) (t : Nat) (ws : List W64) : State :=
  (List.range 8).foldl (fun s w => wr s (Reg.FWD_TBLt_DATAw t w) (ws.getD w 0)) s

/-- GO of table t's command (R142): ignored while BUSY. -/
def tblStart (s : State) (t op : Nat) : State :=
  if rb s (Reg.FWD_TBLt_STATUS t) 0 then s
  else
    let c : TblCmd := { op := op, index := rf s (Reg.FWD_TBLt_INDEX t) 19 0, data := tblData s t }
    let s := wf (wf s (Reg.FWD_TBLt_CMD t) 2 0 op) (Reg.FWD_TBLt_STATUS t) 0 0 1
    { s with fwd := { s.fwd with cmds := tabSet s.fwd.cmds t c } }

/-- The operation exists for the table. -/
def tblOpKnown (t op : Nat) : Bool :=
  op == 1 || op == 2 || op == 4 || (op == 3 && t == 0) || (op == 5 && (t == 0 || t == 1 || t == 2 || t == 6))

/-- READ with LOCK reflected (R142). -/
def tblReadWords (x : Slot) : List W64 :=
  let ws := slotRead { x with lock := none }
  if x.lock.isSome then (ws.getD 0 0 ||| 0x8000000000000000) :: ws.drop 1 else ws

/-- Execute a table command: RESULT and the state. -/
def tblRun (s : State) (t : Nat) (c : TblCmd) : Nat × State :=
  let given := (c.data.getD 7 0).toNat % 2 ^ 32
  let right := given == checkOf c.data
  let writes := c.op == 2 || c.op == 3
  if !tblOpKnown t c.op then (7, s)
  else if follower s && (writes || c.op == 4) then (8, s)
  else if !(right || (!writes && c.data.getD 7 0 == 0)) then (4, s)
  else
    let fid := fld (c.data.getD 1 0) 11 0
    let mac := fld (c.data.getD 0 0) 47 0
    let index (s : State) (i : Nat) : State := wrn s (Reg.FWD_TBLt_INDEX t) i
    let byIndex := c.op == 1 || c.op == 2 || (c.op == 4 && t != 0)
    if byIndex && decide (tblSize t ≤ c.index) then (5, s)
    else
      let x := slotOf s t c.index
      match c.op with
      | 1 => (0, tblDataPut s t (tblReadWords x))
      | 2 =>
        if x.lock.isSome then (1, s)
        else if (badEntry t c.index c.data).isSome then (9, s)
        else (0, publish s t c.index c.data)
      | 3 =>
        if (badEntry 0 0 c.data).isSome then (9, s)
        else
          match fdbFind s fid mac with
          | some i => (6, index s i)
          | none =>
            match fdbPlace s c.data with
            | (some i, s) => (0, index s i)
            | (none, s) => (3, fdbInsFail s fid mac)
      | 4 =>
        if t = 0 then
          match fdbFind s fid mac with
          | none => (2, s)
          | some i => if (slotOf s 0 i).lock.isSome then (1, s) else (0, fdbRemove s i)
        else if x.lock.isSome then (1, s)
        else (0, publish s t c.index ((x.word 0 &&& 0xBFFFFFFFFFFFFFFF) :: x.words.drop 1))
      | _ =>
        let found : Option Nat :=
          if t = 0 then fdbFind s fid mac
          else if t = 6 then foldPrefix s (c.data.getD 1 0).toNat
          else (lpmLook s t (fld (c.data.getD 0 0) 55 52)
            (if t = 1 then (c.data.getD 1 0).toNat % 2 ^ 32 else (c.data.getD 1 0).toNat)).map (·.1)
        match found with
        | some i => (0, tblDataPut (index s i) t (tblReadWords (slotOf s t i)))
        | none => (2, s)

/-- Registers of the FWD and GRIST blocks whose value is computed from the state. -/
def fwdView (s : State) (a : Nat) : Option W64 :=
  let count (t : Nat) : Nat := ((listedSlots s t).filter (fun i => (slotOf s t i).valid)).length
  if a = Reg.FWD_FDB_COUNT then some (BitVec.ofNat 64 (count 0))
  else if a = Reg.GRIST_FOLD_VALID then some (BitVec.ofNat 64 (count 6))
  else if a = Reg.FWD_LPM_PENDING then some (BitVec.ofNat 64 s.fwd.lpmPending.length)
  else if a = Reg.LAUTER_COUNT then some (BitVec.ofNat 64 (count 8))
  else none

/-! ### Commands that no lookup waits for -/

/-- FWD_PARITY_SCAN (R141). -/
def execFwdParityScan (t : Fin 8) (slot : Nat) (bad : Bool) (s : State) : Host.Outcome State Fault Refusal :=
  .next (if bad && decide (slot < tblSize t.val) then parityFail s t.val slot else s)

/-- INS_WINDOW_CLOSE (R129): due FWD_INS_WINDOW after the group's window opened. -/
def execInsWindowClose (group : Fin 128) (s : State) : Host.Outcome State Fault Refusal :=
  .next (match tabFind s.fwd.windows group.val with
    | some w =>
      if elapsed s w.opened (rf s Reg.FWD_INS_WINDOW 15 0 * 1000000) then
        { s with fwd := { s.fwd with windows := tabDel s.fwd.windows group.val } }
      else s
    | none => s)

/-- FDB_REHASH_START (R130). -/
def execFdbRehashStart (s : State) : Host.Outcome State Fault Refusal := .next (rehashStart s)

/-- FDB_REHASH_COMPLETE (R130). -/
def execFdbRehashComplete (s : State) : Host.Outcome State Fault Refusal := .next (rehashDone s)

/-- FDB_AGE_SCAN (R131). -/
def execFdbAgeScan (slot : Fin 524288) (s : State) : Host.Outcome State Fault Refusal := .next (fdbAge s slot.val)

/-- LPM_ROUTE_ENTERED (R133): the oldest route that waits enters the route set. -/
def execLpmRouteEntered (s : State) : Host.Outcome State Fault Refusal :=
  .next (match s.fwd.lpmPending with
    | [] => s
    | (k, ws) :: rest =>
      { s with fwd := { s.fwd with lpmPending := rest, lpm := tabPut s.fwd.lpm k ws [] } })

/-- LEARN_REANNOUNCE (R128): due a quarter of FWD_FDB_AGE after the entry was last announced, when it has been refreshed
locally since. -/
def execLearnReannounce (slot : Fin 524288) (s : State) : Host.Outcome State Fault Refusal :=
  let i := slot.val
  let x := slotOf s 0 i
  let fid := fld (x.word 1) 11 0
  let domain := (s.fwd.slots.find? (fun e => decide (slotKey 5 0 ≤ e.1 ∧ e.1 < slotKey 6 0) && e.2.valid &&
    fld (e.2.word 0) 11 0 == fid && fld (e.2.word 0) 55 54 == 1)).isSome
  .next (match tabFind s.fwd.announced i with
    | none => s
    | some (ns, tick) =>
      let refreshed := tick < (x.word 2).toNat
      if x.valid && domain && refreshed && !bitOf (x.word 0) 57 &&
          elapsed s ns (rf s Reg.FWD_FDB_AGE 15 0 * 250000000) then
        let l : Learning :=
          { fid := fid, mac := fld (x.word 0) 47 0, tick := (x.word 2).toNat, prec := fld (x.word 1) 15 12
            originPort := fld (x.word 1) 35 30, srcDev := fld (x.word 1) 45 36, dest := fld (x.word 1) 29 16 }
        fenQueue { s with fwd := { s.fwd with announced := tabSet s.fwd.announced i (nowNs s, tickNo s) } } l
      else s)

/-- FWD_TBL_READ (R142). -/
def execFwdTblRead (t : Fin 8) (s : State) : Host.Outcome State Fault Refusal := .next (tblStart s t.val 1)
/-- FWD_TBL_WRITE (R142). -/
def execFwdTblWrite (t : Fin 8) (s : State) : Host.Outcome State Fault Refusal := .next (tblStart s t.val 2)
/-- FWD_TBL_INSERT (R142). -/
def execFwdTblInsert (t : Fin 8) (s : State) : Host.Outcome State Fault Refusal := .next (tblStart s t.val 3)
/-- FWD_TBL_DELETE (R142). -/
def execFwdTblDelete (t : Fin 8) (s : State) : Host.Outcome State Fault Refusal := .next (tblStart s t.val 4)
/-- FWD_TBL_SEARCH (R142). -/
def execFwdTblSearch (t : Fin 8) (s : State) : Host.Outcome State Fault Refusal := .next (tblStart s t.val 5)

end Sys2Proof.Machine
end

