-- ==== Sys2Proof/Machine/Lauter.lean ====
section
/-! DEFINITION. Lauter associative array (R147 to R167): profiles and keys, the lookup, publishing, insertion while
lookups continue, step-through. -/
namespace Sys2Proof.Machine

/-- Bank b is wide (R151). -/
def bankWide (s : State) (b : Nat) : Bool := (sec s 0x05 64 2).testBit b

/-- The bank of a slot. -/
def bankOf (i : Nat) : Nat := i / 4096

/-- Byte k of profile p's entry. -/
def profByte (s : State) (p k : Nat) : Nat := sec s 0x05 (128 + 64 * p + k) 1

/-- USE of profile p: 0 unused, 1 narrow, 2 wide. -/
def profUse (s : State) (p : Nat) : Nat := profByte s p 0

/-- Bank b is searched under profile p. -/
def profBank (s : State) (p b : Nat) : Bool := (sec s 0x05 (128 + 64 * p + 2) 2).testBit b

/-- A half of the array is awake: banks 0 to 7 lie in H36, banks 8 to 15 in H37. -/
def bankAwake (s : State) (b : Nat) : Bool := humState s (36 + b / 8) != 4 && humState s (36 + b / 8) != 5

/-! ### Keys (R151) -/

/-- The metadata source: 16-bit units (R151). -/
def lauterMeta (s : State) (fr : Frame) (unit : Nat) : Nat :=
  let _ := s
  let l3 := fr.parsed.find 0 [.ipv4, .ipv6]
  match unit with
  | 0 => fr.port
  | 1 => fr.cls
  | 2 => fr.vid
  | 3 => fr.ftype
  | 4 =>
    let pcp := match fr.parsed.tag with
      | some h => byteAt fr.bytes h.off / 32
      | none => 0
    let dscp := match l3 with
      | some h => dscpOf fr.bytes h
      | none => 0
    pcp + dscp * 256
  | 5 =>
    match (fr.parsed.hdrs.filter (fun h => h.kind == .tcp)).getLast? with
    | some h => beAt fr.bytes (h.off + 12) 2 % 512
    | none => 0
  | 6 => if fr.done then fr.bytes.length else fr.lenGuess
  | _ => 0

/-- A 16-bit unit of a header; zero past its end. -/
def hdrUnit (bytes : List Byte) (h : Option Hdr) (off : Nat) : Nat :=
  match h with
  | some h => beAt (slice bytes h.off h.len ++ List.replicate (2 * off + 2 - h.len) 0) (2 * off) 2
  | none => 0

/-- One extract (R151). -/
def extract (s : State) (fr : Frame) (src off : Nat) : Nat :=
  let p := fr.parsed
  let l3s : List HdrKind := [.ipv4, .ipv6]
  let l4s : List HdrKind := [.udp, .tcp, .sctp]
  let deep := (p.find 2 l3s <|> p.find 1 l3s <|> p.find 0 l3s)
  match src with
  | 1 => let k := fr.key.plain
         beAt (k ++ List.replicate (2 * off + 2 - k.length) 0) (2 * off) 2
  | 2 => lauterMeta s fr off % 2 ^ 16
  | 3 => hdrUnit fr.bytes (p.find 0 l3s) off
  | 4 => hdrUnit fr.bytes (p.find 0 l4s) off
  | 5 => hdrUnit fr.bytes deep off
  | 6 => hdrUnit fr.bytes (deep.bind (fun h => p.find h.layer l4s)) off
  | _ => 0

/-- The search key of a profile for a frame: extract e fills key bits [16e + 15:16e]. -/
def lauterKey (s : State) (fr : Frame) (p : Nat) : Nat :=
  (List.range (if profUse s p = 2 then 20 else 10)).foldl (fun k e =>
    k + extract s fr (profByte s p (8 + 2 * e)) (profByte s p (9 + 2 * e)) * 2 ^ (16 * e)) 0

/-! ### The lookup (R150, R153, R158) -/

/-- VALUE or MASK bits of an entry from word w on: 160 bits of its slot, and 160 more of the odd slot when wide. -/
def entryBits (x y : Slot) (wide : Bool) (w : Nat) : Nat :=
  let part (z : Slot) : Nat :=
    (z.word w).toNat + (z.word (w + 1)).toNat * 2 ^ 64 + fld (z.word (w + 2)) 31 0 * 2 ^ 128
  part x + (if wide then part y * 2 ^ 160 else 0)

/-- Entry i matches key k (R150), its validity aside. -/
def entryMatches (s : State) (i k : Nat) : Bool :=
  let wide := bankWide s (bankOf i)
  let x := slotOf s 8 i
  let y := slotOf s 8 (i + 1)
  ((k ^^^ entryBits x y wide 1) &&& entryBits x y wide 4) == 0

/-- Slot i is the slot of an entry: any slot of a narrow bank, the even slots of a wide one. -/
def isEntry (s : State) (i : Nat) : Bool := !bankWide s (bankOf i) || i % 2 == 0

/-- PRIO, PROFILE and RESULT of the entry in slot i. -/
def entryPrio (s : State) (i : Nat) : Nat := fld ((slotOf s 8 i).word 0) 15 0
def entryProfile (s : State) (i : Nat) : Nat := fld ((slotOf s 8 i).word 0) 21 16
def entryResult (s : State) (i : Nat) : Nat := fld ((slotOf s 8 i).word 3) 63 32

/-- The entry takes part in lookups (R150, R165). -/
def entryLive (s : State) (i : Nat) : Bool :=
  let x := slotOf s 8 i
  x.valid && !(x.suspect && rb s Reg.LAUTER_CFG 0) && isEntry s i && bankAwake s (bankOf i)

/-- The matches of a key under a profile, in index order. -/
def lauterMatches (s : State) (p k : Nat) : List Nat :=
  (listedSlots s 8).filter (fun i => entryLive s i && entryProfile s i == p && profBank s p (bankOf i) && entryMatches s i k)

/-- Insertion into a list ordered by PRIO, then index. -/
def prioInsert (s : State) (i : Nat) : List Nat → List Nat
  | [] => [i]
  | j :: t => if entryPrio s i < entryPrio s j then i :: j :: t else j :: prioInsert s i t

/-- Matches in order of PRIO and then index. -/
def prioSort (s : State) (is : List Nat) : List Nat := is.foldl (fun l i => prioInsert s i l) []

/-- The LAUTER word of R257 for ordered matches; zero without a hit. -/
def lauterWord (s : State) (is : List Nat) : W64 :=
  match is with
  | [] => 0
  | i :: t =>
    let tie := t.any (fun j => entryPrio s j == entryPrio s i)
    BitVec.ofNat 64 (1 + b2n (t != []) * 2 + b2n tie * 4 + i * 2 ^ 16 + entryResult s i * 2 ^ 32)

/-- A locked slot whose staged copy could decide the result (R158). -/
def lauterBlocker (s : State) (p : Nat) (is : List Nat) : Option Nat :=
  (listedSlots s 8).find? (fun i =>
    (slotOf s 8 i).lock.isSome && isEntry s i && bankAwake s (bankOf i) && entryProfile s i == p &&
    profBank s p (bankOf i) && (match is with
      | [] => true
      | w :: _ => decide (entryPrio s i ≤ entryPrio s w)))

/-- A lookup of the Lauter array under a profile with a key. -/
def lauterLook (s : State) (rule : LockRule) (p k : Nat) : Look W64 :=
  let is := prioSort s (lauterMatches s p k)
  match lauterBlocker s p is with
  | none => if is = [] then .miss else .hit (lauterWord s is)
  | some i =>
    match rule with
    | .wait => .wait 8 i
    | .miss => .miss
    | .published => if is = [] then .miss else .hit (lauterWord s is)

/-- LAUTER_CFG.LOCK_POLICY as a rule. -/
def lauterPolicy (s : State) : LockRule := if rb s Reg.LAUTER_CFG 1 then .miss else .published

/-- Count a lookup with TIE = 1 (R153). -/
def countTie (s : State) (w : W64) : State := if bitOf w 2 then cnt s Reg.LAUTER_TIES 1 else s

/-- ACTION of a LAUTER word's RESULT, and its next-hop field. -/
def lauterAction (w : W64) : Nat := if bitOf w 0 then fld w 63 62 else 0
def lauterNextHop (w : W64) : Nat := fld w 47 32
/-- TAG of a LAUTER word's RESULT: the stream handle of R341 and R345. -/
def lauterTag (w : W64) : Nat := fld w 61 48

/-! ### Publishing (R157) -/

/-- Why a VALID entry at slot i is refused: its profile is unused, of the other width, or excludes the bank. -/
def badLauter (s : State) (i : Nat) (ws : List W64) : Bool :=
  let w0 := ws.getD 0 0
  let p := fld w0 21 16
  bitOf w0 62 && isEntry s i &&
    (profUse s p != (if bankWide s (bankOf i) then 2 else 1) || !profBank s p (bankOf i))

/-- Publish an entry: its slot, and the odd slot of a wide one. -/
def lauterPublish (s : State) (i : Nat) (even odd : List W64) : State :=
  let s := entryPut s 8 i even
  if bankWide s (bankOf i) then entryPut s 8 (i + 1) odd else s

/-- Report a publish discarded through the window (R157). -/
def lauterDiscard (s : State) (i why : Nat) : State := raise (cnt s Reg.LAUTER_CHECK_FAILS 1) 0x602 i why

/-! ### Insertion (R160 to R162) -/

/-- The indices of entries of the same width as slot p from p on, in index order. -/
def entriesFrom (s : State) (p : Nat) : List Nat :=
  let wide := bankWide s (bankOf p)
  ((List.range 16).filter (fun b => bankWide s b == wide && decide (bankOf p ≤ b))).flatMap (fun b =>
    if wide then (List.range 2048).map (fun r => 4096 * b + 2 * r) else (List.range 4096).map (fun r => 4096 * b + r))
  |>.filter (fun i => decide (p ≤ i))

/-- The entries from p up to and including f, the lowest that is not VALID and not locked. -/
def moveChain (s : State) : List Nat → List Nat → Option (List Nat)
  | [], _ => none
  | i :: t, acc =>
    let x := slotOf s 8 i
    if !x.valid && x.lock.isNone then some (acc ++ [i]) else moveChain s t (acc ++ [i])

/-- Mark a slot, and the odd slot of a wide entry, as in motion or not. -/
def setMotion (s : State) (i : Nat) (m : Bool) : State :=
  let s := slotPut s 8 i { slotOf s 8 i with inMotion := m }
  if bankWide s (bankOf i) then slotPut s 8 (i + 1) { slotOf s 8 (i + 1) with inMotion := m } else s

/-- Show the slot being moved (R162). -/
def showCursor (s : State) (m : Option LauterMove) : State :=
  match m with
  | some x =>
    match x.todo with
    | (i, j) :: _ => wrn (setMotion (setMotion s i true) j true) Reg.LAUTER_MOVE_CURSOR (i + 2 ^ 16)
    | [] => wrn s Reg.LAUTER_MOVE_CURSOR (x.p + 2 ^ 16)
  | none => wrn s Reg.LAUTER_MOVE_CURSOR 0

/-- A command ends with a RESULT. -/
def lauterResult (s : State) (r : Nat) : State :=
  let s := wf (wf s Reg.LAUTER_CMD_STATUS 0 0 0) Reg.LAUTER_CMD_STATUS 7 4 r
  { s with lauter := { s.lauter with cmd := none } }

/-- The even and odd images held in LAUTER_DATA. -/
def lauterData (s : State) (half : Nat) : List W64 := (List.range 8).map (fun w => rd s (Reg.LAUTER_DATAw (8 * half + w)))

/-- Put an entry's slots into LAUTER_DATA. -/
def lauterDataPut (s : State) (i : Nat) : State :=
  let put (s : State) (half j : Nat) : State :=
    (List.range 8).foldl (fun s w => wr s (Reg.LAUTER_DATAw (8 * half + w)) ((slotRead (slotOf s 8 j)).getD w 0)) s
  let s := put s 0 i
  if bankWide s (bankOf i) then put s 1 (i + 1) else s

/-- The checks of R157 on the images held in LAUTER_DATA for slot i: RESULT 4, 9 or none. -/
def lauterDataBad (s : State) (i : Nat) : Option Nat :=
  let even := lauterData s 0
  let odd := lauterData s 1
  let check (ws : List W64) : Bool := fld (ws.getD 7 0) 31 0 == checkOf ws
  if !check even || (bankWide s (bankOf i) && !check odd) then some 4
  else if badLauter s i even then some 9 else none

/-- INSERT begins (R160): f is found and reserved, or the array is full. -/
def insertBegin (s : State) (p : Nat) : State :=
  match moveChain s (entriesFrom s p) [] with
  | none => lauterResult (raise (cnt s Reg.LAUTER_INS_FULL 1) 0x604 p p) 3
  | some chain =>
    let f := chain.getLastD p
    let todo := ((chain.zip (chain.drop 1))).reverse
    let m : LauterMove := { p := p, f := f, todo := todo, even := lauterData s 0, odd := lauterData s 1 }
    showCursor { setMotion s f true with lauter := { s.lauter with move := some m } } (some m)

/-- The next move of an insertion (R161): it waits for the publish of a locked entry; a bad copy is found and its mark
travels. -/
def entryMove (s : State) (bad : Bool) : State :=
  match s.lauter.move with
  | none => s
  | some m =>
    match m.todo with
    | [] => s
    | (i, j) :: rest =>
      let x := slotOf s 8 i
      let wide := bankWide s (bankOf i)
      if x.lock.isSome then s
      else
        let suspect := x.suspect || bad
        let s := if bad && !x.suspect then
            raise (cnt s Reg.LAUTER_PARITY_ERRS 1) 0x600 i (rf s Reg.LAUTER_CFG 0 0) else s
        let s := slotPut s 8 j { x with suspect := suspect, inMotion := false }
        let s := slotPut s 8 i { inMotion := true }
        let s := if wide then
            slotPut (slotPut s 8 (j + 1) { slotOf s 8 (i + 1) with inMotion := false }) 8 (i + 1) { inMotion := true }
          else s
        let m := { m with todo := rest }
        showCursor { s with lauter := { s.lauter with move := some m } } (some m)

/-- The insertion ends (R160 step 5): the new entry is published at p, and a lead mirrors the moves (R159). -/
def insertDone (s : State) : State :=
  match s.lauter.move with
  | none => s
  | some m =>
    if m.todo ≠ [] ∨ storeFull s then s
    else
      let s := setMotion s m.p false
      let s := if m.f = m.p then s else mirror s 3 m.p [(0, BitVec.ofNat 64 m.f)]
      let s := lauterPublish s m.p m.even m.odd
      let s := showCursor { s with lauter := { s.lauter with move := none } } none
      lauterResult s 0

/-! ### Commands (R163, R164) -/

/-- A 16-byte record of STEP (R164). -/
def stepRecord (s : State) (i : Nat) : List Byte :=
  toLE 2 i ++ toLE 2 (entryPrio s i) ++ toLE 4 (entryResult s i) ++ toLE 1 (b2n (slotOf s 8 i).suspect) ++ toLE 7 0

/-- LAUTER_KEY as a number. -/
def lauterKeyReg (s : State) (use : Nat) : Nat :=
  let k := (List.range 5).foldl (fun k w => k + rdn s (Reg.LAUTER_KEYw w) * 2 ^ (64 * w)) 0
  if use = 2 then k else k % 2 ^ 160

/-- Execute a command of the Lauter array on an awake half. -/
def lauterRun (s : State) (op : Nat) : State :=
  let i := rf s Reg.LAUTER_INDEX 15 0
  let x := slotOf s 8 i
  let p := rf s Reg.LAUTER_PROF 5 0
  let busySlot := x.lock.isSome || x.inMotion
  let writes := op == 2 || op == 3 || op == 4
  if follower s && writes then lauterResult s 8
  else if op = 5 ∨ op = 6 then
    if profUse s p = 0 then lauterResult s 9
    else
      let is := prioSort s (lauterMatches s p (lauterKeyReg s (profUse s p)))
      if op = 5 then
        match is with
        | [] => lauterResult (wf s Reg.LAUTER_CMD_STATUS 9 8 0) 2
        | w :: _ =>
          let word := lauterWord s is
          let s := countTie s word
          let s := wf s Reg.LAUTER_CMD_STATUS 9 8 (fld word 2 1)
          lauterResult (lauterDataPut (wrn s Reg.LAUTER_INDEX w) w) 0
      else
        let max_ := rf s Reg.LAUTER_STEP_MAX 16 0
        let s := wrn s Reg.LAUTER_STEP_COUNT (is.length + b2n (decide (max_ < is.length)) * 2 ^ 31)
        { s with lauter := { s.lauter with
            step := some ((is.take max_).map (stepRecord s), rdn s Reg.LAUTER_STEP_ADDR) } }
  else if !isEntry s i then lauterResult s 5
  else if busySlot then lauterResult s 1
  else
    match op with
    | 1 => lauterResult (lauterDataPut s i) 0
    | 2 =>
      match lauterDataBad s i with
      | some r => lauterResult s r
      | none => lauterResult (lauterPublish s i (lauterData s 0) (lauterData s 1)) 0
    | 3 =>
      match lauterDataBad s i with
      | some r => lauterResult s r
      | none => insertBegin s i
    | 4 => lauterResult (entryPut s 8 i ((x.word 0 &&& 0xBFFFFFFFFFFFFFFF) :: x.words.drop 1)) 0
    | _ => lauterResult s 7

/-- A command on slot i of a half that sleeps and may not wake: it reads zero and writes nothing (R28, R166). -/
def lauterAsleep (s : State) (op i : Nat) : State :=
  let s := asleepAccess s (36 + bankOf i / 8) 1 (op != 1) (0x05000000 + 64 * i)
  let s := if op = 1 then (List.range 16).foldl (fun s w => wrn s (Reg.LAUTER_DATAw w) 0) s else s
  lauterResult s 0

/-- GO of LAUTER_CMD (R163): ignored while BUSY. A command on a sleeping half is an access to it (R28): it is held
while the half wakes, or reads zero and writes nothing. -/
def lauterStart (s : State) (op : Nat) : State :=
  if rb s Reg.LAUTER_CMD_STATUS 0 then s
  else
    let s := wf (wf s Reg.LAUTER_CMD 2 0 op) Reg.LAUTER_CMD_STATUS 0 0 1
    let i := rf s Reg.LAUTER_INDEX 15 0
    let h := 36 + bankOf i / 8
    let onSlot := op == 1 || op == 2 || op == 3 || op == 4
    let wait (s : State) : State := { s with lauter := { s.lauter with cmd := some { op := op, index := i, data := [] } } }
    let run (s : State) : State := if storeFull s && (op == 2 || op == 4) then storeStall (wait s) else lauterRun s op
    if onSlot then
      match reach s h with
      | (.serve, s) => run s
      | (.hold, s) => wait s
      | (.refuse, s) => lauterAsleep s op i
    else run s

/-- A command that was held (for a waking half or the delta store) runs now, if it can. -/
def lauterResume (s : State) : State :=
  match s.lauter.cmd with
  | some c =>
    if (storeFull s && c.op != 1) || humState s (36 + bankOf c.index / 8) != 0 then s
    else lauterRun { s with lauter := { s.lauter with cmd := none } } c.op
  | none => s

/-- LAUTER_READ (R163). -/
def execLauterRead (s : State) : Host.Outcome State Fault Refusal := .next (lauterStart s 1)
/-- LAUTER_STEP (R164). -/
def execLauterStep (s : State) : Host.Outcome State Fault Refusal := .next (lauterStart s 6)
/-- LAUTER_SEARCH (R153). -/
def execLauterSearch (s : State) : Host.Outcome State Fault Refusal := .next (lauterStart s 5)
/-- LAUTER_INSERT (R160). -/
def execLauterInsert (s : State) : Host.Outcome State Fault Refusal := .next (lauterStart s 3)

/-- LAUTER_WRITE (R157). -/
def execLauterWrite (s : State) : Host.Outcome State Fault Refusal := .next (lauterStart s 2)
/-- LAUTER_DELETE (R163). -/
def execLauterDelete (s : State) : Host.Outcome State Fault Refusal := .next (lauterStart s 4)
/-- LAUTER_INSERT_COMPLETE (R160). -/
def execLauterInsertComplete (s : State) : Host.Outcome State Fault Refusal := .next (insertDone s)

/-- LAUTER_ENTRY_MOVE (R161). -/
def execLauterEntryMove (bad : Bool) (s : State) : Host.Outcome State Fault Refusal := .next (entryMove s bad)

/-- LAUTER_STEP_COMPLETE (R164): the records are written to host memory. -/
def execLauterStepComplete (s : State) : Host.Outcome State Fault Refusal :=
  .next (match s.lauter.step with
    | none => s
    | some (recs, addr) =>
      let s := recs.zipIdx.foldl (fun s r => emit s (.hostWrite (addr + 16 * r.2) r.1)) s
      let s := { s with lauter := { s.lauter with step := none } }
      raise (lauterResult s 0) 0x606 (rf s Reg.LAUTER_INDEX 15 0) (rf s Reg.LAUTER_STEP_COUNT 16 0))

/-- LAUTER_PARITY_SCAN (R165). -/
def execLauterParityScan (slot : Fin 65536) (bad : Bool) (s : State) : Host.Outcome State Fault Refusal :=
  let i := slot.val
  let x := slotOf s 8 i
  let s' := if i = 65535 then wrn s Reg.LAUTER_SCAN_PASSES ((rdn s Reg.LAUTER_SCAN_PASSES + 1) % 2 ^ 32) else s
  .next (if !rb s Reg.LAUTER_CFG 2 then s
    else if bad && x.words != [] && !x.suspect then
      raise (cnt (slotPut s' 8 i { x with suspect := true }) Reg.LAUTER_PARITY_ERRS 1) 0x600 i (rf s Reg.LAUTER_CFG 0 0)
    else s')

end Sys2Proof.Machine
end

