-- ==== Sys2Proof/Machine/Mere.lean ====
section
/-! DEFINITION. The Mere (R288 to R299, R312, R317 to R321): descriptors, cells and admission, the disposition of a frame whose
run has ended (R262, R352), its copies, sampling, and entry into the VOQs. The Lode itself is in Lode.lean. -/
namespace Sys2Proof.Machine

/-! ### Cells and descriptors -/

/-- Cells that n bytes occupy (R289). -/
def cellsOf (n : Nat) : Nat := (n + 223) / 224

/-- A copy. -/
def copyOf (s : State) (n : Nat) : Option Copy := tabFind s.mere.copies n

/-- Change a copy, if it exists. -/
def copyMod (s : State) (n : Nat) (g : Copy → Copy) : State :=
  { s with mere := { s.mere with copies := tabMap s.mere.copies n g } }

/-- The copies of a frame. -/
def copiesOf (s : State) (f : Nat) : List (Nat × Copy) := s.mere.copies.filter (fun c => c.2.frame == f)

/-- Bytes of its frame that a copy carries: all, or for a sample copy the first (TRUNC + 1) × 64 (R320). -/
def copyBytes (s : State) (c : Copy) : Nat :=
  let n := match frameOf s c.frame with
    | some fr => fr.bytes.length
    | none => 0
  match c.sample with
  | some (_, trunc) => min n (64 * (trunc + 1))
  | none => n

/-- A crossing. -/
def xingOf (s : State) (x : Nat) : Option Crossing := tabFind s.mere.xings x

/-- Change a crossing, if it exists. -/
def xingMod (s : State) (x : Nat) (g : Crossing → Crossing) : State :=
  { s with mere := { s.mere with xings := tabMap s.mere.xings x g } }

/-- Stream bytes of a crossing that exist now, the crossing header included. -/
def xingBytes (s : State) (x : Crossing) : Nat :=
  let n := match frameOf s x.frame with
    | some fr => fr.bytes.length
    | none => 0
  16 + (match x.limit with | some l => min n l | none => n)

/-- No further byte of the crossing's frame will come. -/
def xingWhole (s : State) (x : Crossing) : Bool :=
  match frameOf s x.frame with
  | some fr => fr.done
  | none => true

/-- Every byte of a crossing has reached its output. -/
def xingCrossed (s : State) (x : Crossing) : Bool := xingWhole s x && decide (xingBytes s x ≤ x.arrived)

/-- Cells of an output's egress part in use: each crossing's body, once (R318). -/
def egressUse (s : State) (o : Nat) : Nat :=
  (s.mere.xings.filter (fun x => x.2.output == o)).foldl (fun n x => n + cellsOf (x.2.arrived - 16)) 0

/-- Cells of the ingress part of slice q in use. -/
def ingressUse (s : State) (q : Nat) : Nat :=
  (s.frames.filter (fun f => f.2.port / 4 == q && f.2.inject.isNone && !f.2.own)).foldl (fun n f => n + f.2.cells) 0

/-- usage(p, c) of R292. -/
def usage (s : State) (p c : Nat) : Nat :=
  (s.frames.filter (fun f => f.2.port == p && f.2.cls == c && f.2.admitted)).foldl (fun n f => n + f.2.cells) 0

/-- Reserved of R292 under the bill in force. -/
def reservedCells (s : State) (q : Nat) : Nat :=
  ((List.range 4).filter (fun i => isPort s (4 * q + i))).length *
    (List.range 64).foldl (fun n c => n + clsAdmMin s (billGen s) c) 0

/-- Shared of R292 for a size of the egress part. -/
def sharedCells (s : State) (q egress : Nat) : Int :=
  (12288 : Int) - egress - reservedCells s q - rf s (Reg.MERE_Qq_RX_RESERVE q) 13 0

/-- Shared free of R292. -/
def sharedFree (s : State) (q : Nat) : Int :=
  let spent := ((List.range 4).flatMap (fun i => (List.range 64).map (fun c => (4 * q + i, c)))).foldl (fun n x =>
    n + (usage s x.1 x.2 - clsAdmMin s (billGen s) x.2)) 0
  sharedCells s q (rf s (Reg.MERE_Qq_EGRESS_CELLS q) 13 0) - spent

/-- A body of port p and class c is admitted (R293). -/
def admits (s : State) (gen p c : Nat) : Bool :=
  let u := usage s p c
  let m := clsAdmMin s gen c
  let a := clsAdmAlpha s gen c
  let free := sharedFree s (p / 4)
  decide (u < m) || (decide (0 < free) && (a == 15 || decide (((u - m : Nat) : Int) * 128 < free * 2 ^ a)))

/-- Keep MERE_Qq_PEAK. -/
def merePeak (s : State) (q : Nat) : State := peak s (Reg.MERE_Qq_PEAK q) 13 0 (ingressUse s q + egressUse s q)

/-- Frame descriptors in use (R290). -/
def descUsed (s : State) : Nat :=
  (s.frames.filter (fun f => !(f.2.disposed && !s.mere.copies.any (fun c => c.2.frame == f.1)))).length

/-- The pending count of a port and queue (R299). -/
def pendingCells (s : State) (p k : Nat) : Nat :=
  (s.mere.copies.filter (fun c => c.2.port == p && c.2.queue == k)).foldl (fun n c => n + cellsOf (copyBytes s c.2)) 0

/-- Cells of the copies for the CPU port. -/
def cpuPending (s : State) : Nat :=
  (s.mere.copies.filter (fun c => c.2.port == 64)).foldl (fun n c => n + cellsOf (copyBytes s c.2)) 0

/-- A frame whose copies have all crossed frees its body; one that is decided and whose last copy and run have ended is gone. -/
def frameCheck (s : State) (f : Nat) : State :=
  match frameOf s f with
  | none => s
  | some fr =>
    if !fr.disposed then s
    else
      let cs := copiesOf s f
      let crossed := cs.all (fun c => c.2.st != 0 && (xingOf s c.2.xing).all (xingCrossed s))
      let s := if crossed then framePut s f { fr with cells := 0 } else s
      let ended := match runOf s f with
        | some r => r.committed
        | none => true
      if cs.isEmpty && fr.done && fr.verdict.isSome && ended then
        { s with frames := tabDel s.frames f, ferm := { s.ferm with runs := tabDel s.ferm.runs f } }
      else s

/-- A copy is transmitted or dropped: its descriptor is free, and its crossing when no other copy shares it. -/
def copyGone (s : State) (n : Nat) : State :=
  match copyOf s n with
  | none => s
  | some c =>
    let s := { s with mere := { s.mere with copies := tabDel s.mere.copies n } }
    let shared := s.mere.copies.any (fun d => d.2.st != 0 && d.2.xing == c.xing)
    let s := if c.st = 0 || shared then s else { s with mere := { s.mere with xings := tabDel s.mere.xings c.xing } }
    frameCheck s c.frame

/-- Drop the copies of a frame that have not entered their VOQs. -/
def dropWaiting (s : State) (f : Nat) : State :=
  ((copiesOf s f).filter (fun c => c.2.st == 0)).foldl (fun s c => copyGone s c.1) s

/-! ### Disposition (R262) -/

/-- What becomes of a frame. -/
inductive Disp where
  | drop
  | trap (cause reason : Nat)
  | recirc (cls : Nat) (value : W64)
  /-- a destination in the FWD encoding, and the next hop that the editor writes -/
  | send (dest : Nat) (nh : Option Nat)
  | wait (t i : Nat)
deriving Repr

/-- The directives of a run in list order (R261). -/
def Run.list (r : Run) : List Directive :=
  (List.range 8).flatMap (fun k => (List.range 32).flatMap (fun i => r.dirs.filter (fun d => d.task == k && d.idx == i)))

/-- A forwarding result decides a frame (R123, R132 to R135). -/
def useFwd (s : State) (x : Fwd) (byHop : Bool) : Disp × State :=
  if x.trap then (.trap 2 0x07, s)
  else
    match x.why with
    | 1 => (.drop, cnt s Reg.FWD_NH_DROPS 1)
    | 2 => (.drop, cnt s Reg.FWD_ECMP_EMPTY 1)
    | 3 => (.drop, cnt s Reg.FWD_INGRESS_DROP 1)
    | _ => (.send x.dest (if byHop then some x.nh else none), s)

/-- Rules 4 to 6 of R262: the last SET_DEST or SET_NEXTHOP, the Lauter ACTION, the forwarding result. -/
def destine (s : State) (rule : LockRule) (fr : Frame) (dirs : List Directive) : Disp × State :=
  let hop (nh : Nat) : Disp × State :=
    match nextHopFwd s rule nh false with
    | .wait t i => (.wait t i, s)
    | .hit x => useFwd s x true
    | .miss => (.drop, s)
  match (dirs.filter (fun d => d.fn == 2 || d.fn == 3)).getLast? with
  | some d => if d.fn = 2 then (.send (d.a.toNat % 2 ^ 16) none, s) else hop (d.a.toNat % 2 ^ 16)
  | none =>
    match lauterAction fr.lauter with
    | 1 => hop (lauterNextHop fr.lauter)
    | 2 => (.drop, s)
    | 3 => (.trap 2 0x07, s)
    | _ => useFwd s fr.fwd fr.fwd.routed

/-- The disposition of a frame by its run's directives (R262, R263). -/
def decideFrame (s : State) (rule : LockRule) (fr : Frame) (dirs : List Directive) : Disp × State :=
  if dirs.any (fun d => d.fn == 0) then (.drop, s)
  else
    match dirs.find? (fun d => d.fn == 1) with
    | some d => (.trap 1 (d.a.toNat % 256), cnt s Reg.FERM_TRAPS 1)
    | none =>
      match dirs.find? (fun d => d.fn == 5) with
      | some d =>
        if 3 ≤ fr.pass then (.drop, raise (cnt s Reg.FERM_RECIRC_DROPS 1) 0xD04 0 fr.cls)
        else (.recirc (d.a.toNat % 64) d.b, s)
      | none => destine s rule fr dirs

/-- The TTL or hop limit that DEC_TTL would decrement (R351, R352). -/
def ttlOf (fr : Frame) : Option Nat :=
  match fr.parsed.find 0 [.mpls], fr.parsed.find 0 [.ipv4], fr.parsed.find 0 [.ipv6] with
  | some h, _, _ => some (byteAt fr.bytes (h.off + 3))
  | none, some h, _ => some (byteAt fr.bytes (h.off + 8))
  | none, none, some h => some (byteAt fr.bytes (h.off + 7))
  | none, none, none => none

/-- DEC_TTL meets a TTL of 1 or 0 (R352). -/
def ttlExpired (fr : Frame) (dirs : List Directive) : Bool :=
  dirs.any (fun d => d.fn == 0x18) && (ttlOf fr).any (fun t => decide (t ≤ 1))

/-- The ports of a mask. -/
def portsOf (m : W64) : List Nat := (List.range 64).filter (fun p => bitOf m p)

/-- The destinations of a frame (R297, R317): ports, and 64 for the CPU port. -/
def expandDest (s : State) (rule : LockRule) (fr : Frame) (dest : Nat) : Look (List Nat) :=
  if dest ≤ 64 then .hit [dest]
  else if dest = 0x8000 then
    match vlanOf s fr.vid with
    | some v => .hit ((portsOf (v.word 1)).filter (fun p => p != fr.port && isPort s p))
    | none => .hit []
  else if 0x4000 ≤ dest ∧ dest < 0x8000 then
    match indexLook s rule 7 (dest - 0x4000) with
    | .wait t i => .wait t i
    | .miss => .hit []
    | .hit x =>
      let w := x.word 0
      let ps := (portsOf (x.word 1)).filter (fun p => (p != fr.port || bitOf w 1) && isPort s p)
      .hit (ps ++ (if bitOf w 0 then [64] else []))
  else .hit []

/-! ### Copies (R297, R312, R318 to R320) -/

/-- The copies of a frame under its filter wait for the tail (R342). -/
def waitsTail (s : State) (fr : Frame) : Bool :=
  match streamFilter s fr.cls (bitOf fr.lauter 0) (lauterTag fr.lauter) with
  | some h => filterAtTail s h
  | none => false

/-- A copy is cut-through eligible (R312). -/
def ctEligible (s : State) (fr : Frame) (p k : Nat) : Bool :=
  clsCutThrough s fr.gen fr.cls && rb s Reg.MERE_CFG 0 && rb s (Reg.MERE_PORTp_CFG fr.port) 0 && decide (p < 64) &&
    decide (portRate s p ≤ portRate s fr.port) && pendingCells s p k == 0 && !fr.done && !waitsTail s fr &&
    fr.inject.isNone && !fr.own

/-- A copy to p is admitted (R297, R320, R326). -/
def admitCopy (s : State) (fr : Frame) (p k len : Nat) : Bool :=
  let room := if p < 64 then
      portUp s p && decide (pendingCells s p k + cellsOf len ≤ rf s (Reg.EGRESS_PORTp_QCFGk p k) 13 0)
    else if p = 64 then decide (cpuPending s + cellsOf len ≤ Config.cpuQueueLimit)
    else decide (egressUse s 17 < Config.recircCells)
  room && !fr.psfpDrop && !fr.rcvBad && decide (s.mere.copies.length < 262144)

/-- Make a copy of a frame. -/
def makeCopy (s : State) (f : Nat) (c : Copy) : State :=
  { s with mere := { s.mere with copies := tabSet s.mere.copies s.mere.nextCopy { c with frame := f }
                                 nextCopy := s.mere.nextCopy + 1 } }

/-- Make the copies of a frame to its destinations: how many were refused, which is counted per port. -/
def makeCopies (s : State) (f : Nat) (fr : Frame) (dests : List Nat) (k : Nat) : Nat × State :=
  dests.foldl (fun (n, s) p =>
    let ct := ctEligible s fr p k
    if admitCopy s fr p k fr.bytes.length then
      (n, makeCopy s f { frame := f, port := p, queue := if p = 65 then 0 else k, cls := fr.cls, ct := ct })
    else
      let s := if p < 64 then cnt s (Reg.MERE_PORTp_COPY_DROPS p) 1
        else if p = 65 then cnt s Reg.MERE_RECIRC_DROPS 1 else s
      let s := match fr.inject with
        | some i => cnt s (Reg.HOST_TXt_DROPS i.ring) 1
        | none => s
      (n + 1, s)) (0, s)

/-- A down-counter of R320: whether it selects the frame. -/
def sampleCount (s : State) (key n : Nat) : Bool × State :=
  if n = 0 then (false, s)
  else
    let c := tabGet s.mere.sampling key n
    if c ≤ 1 then (true, { s with mere := { s.mere with sampling := tabSet s.mere.sampling key n } })
    else (false, { s with mere := { s.mere with sampling := tabSet s.mere.sampling key (c - 1) } })

/-- Sampling of a frame that is transmitted (R320). -/
def sampleFrame (s : State) (f : Nat) (fr : Frame) (k : Nat) : State :=
  if !rb s Reg.MERE_CFG 1 then s
  else
    let reg := rd s (Reg.MERE_PORTp_SAMPLE fr.port)
    let (byPort, s) := sampleCount s fr.port (fld reg 23 0)
    let (byClass, s) := sampleCount s (64 + 64 * (fr.port / 4) + fr.cls) (clsSampleN s fr.gen fr.cls)
    if !byPort && !byClass then s
    else
      let trunc := if byClass then clsSampleTrunc s fr.gen fr.cls else fld reg 26 24
      let len := min fr.bytes.length (64 * (trunc + 1))
      if decide (cpuPending s + cellsOf len ≤ Config.cpuQueueLimit) && decide (s.mere.copies.length < 262144) then
        makeCopy s f { frame := f, port := 64, queue := k, cls := fr.cls, sample := some (b2n byClass + 2 * b2n byPort, trunc) }
      else raise (cnt s Reg.MERE_SAMPLE_DROPS 1) 0xE37 0 0

/-- The egress queue of a frame (R326, R343). -/
def queueFor (s : State) (fr : Frame) (dirs : List Directive) : Nat :=
  match fr.ipv with
  | some q => q
  | none =>
    match (dirs.filter (fun d => d.fn == 4)).getLast? with
    | some d => d.a.toNat % 8
    | none => clsEgressQ s fr.gen fr.cls

/-- Give a frame its disposition: its copies are made, or it has none. The ledger tag of a frame of a stateful class
that never had a ledger entry is a free value: R520 states 0xFFFF for stateless classes only. DESIGN CHOICE (log 2). -/
def applyDisp (s : State) (rule : LockRule) (f : Nat) (fr : Frame) (dirs : List Directive) (d : Disp) : State :=
  let run := runOf s f
  let since := (fr.waitAt.map (·.1)).getD (nowNs s)
  let (v, s) := fresh s
  let fr := { fr with
    disposed := true, waitAt := none, dirs := dirs, queue := queueFor s fr dirs, endTick := tickNo s
    tag := match run.bind (·.tag) with
      | some t => some t
      | none => if clsStateful s fr.gen fr.cls then some (v % 2 ^ 14) else none
    hit := run.any (fun r => r.record.isSome) }
  let quad := fr.port / 4
  let copies (s : State) (fr : Frame) (dests : List Nat) : State :=
    let (refused, s) := makeCopies (framePut s f fr) f fr dests fr.queue
    let s := if dests ≠ [] ∧ refused = dests.length then cnt s (Reg.MERE_Qq_ADM_DROPS quad) 1
      else if 2 ≤ dests.length ∧ refused ≠ 0 then raise (cnt s Reg.MERE_PARTIAL_MC 1) 0xE10 1 refused
      else s
    frameCheck s f
  match d with
  | .wait t i => framePut s f { fr with disposed := false, waitAt := some (since, t, i) }
  | .drop => frameCheck (framePut s f fr) f
  | .trap cause reason => copies s { fr with cause := cause, reason := reason, dest := 64 } [64]
  | .recirc cls value => copies s { fr with dest := cls, passValue := value } [65]
  | .send dest nh =>
    if ttlExpired fr dirs then
      let act := rf s Reg.EGRESS_CFG 1 1
      let s := raise (cnt s Reg.EGRESS_TTL_EXPIRED 1) 0xE47 0 act
      if act = 1 then copies s { fr with cause := 2, reason := 0x3F, dest := 64 } [64] else frameCheck (framePut s f fr) f
    else
      match expandDest s rule fr dest with
      | .wait t i => framePut s f { fr with disposed := false, waitAt := some (since, t, i) }
      | .miss => frameCheck (framePut s f fr) f
      | .hit dests =>
        let fr := { fr with dest := dest, nextHop := nh }
        sampleFrame (copies s fr dests) f fr fr.queue

/-- Decide a frame whose run has ended and whose lookups are complete, or to which a policy has given its disposition. -/
def settle (s : State) (rule : LockRule) (f : Nat) : State :=
  match frameOf s f with
  | none => s
  | some fr =>
    if fr.disposed then frameCheck s f
    else
      match fr.fate with
      | some (some reason) => applyDisp s rule f fr [] (.trap 2 reason)
      | some none => applyDisp s rule f fr [] .drop
      | none =>
        match runOf s f with
        | some r =>
          if r.ended && fr.looked && (fr.verdict != some false || fr.goes) then
            let dirs := r.list
            let (d, s) := decideFrame s rule fr dirs
            applyDisp s rule f fr dirs d
          else s
        | none => s

/-- Drop a frame for a policy: no copy is made, and copies that wait are dropped. -/
def dropFrame (s : State) (f : Nat) : State :=
  let s := dropWaiting s f
  match frameOf s f with
  | some fr => frameCheck (framePut s f { fr with disposed := true, fate := some none }) f
  | none => s

/-! ### VOQ entry (R298, R300) -/

/-- The Lode input of a frame, and its ingress key for the order of R298: its port, 64 for the host, 65 for the device. -/
def lodeInput (fr : Frame) : Nat := if fr.own then 17 else if fr.inject.isSome then 16 else fr.port / 4
def orderKey (fr : Frame) : Nat := if fr.own then 65 else if fr.inject.isSome then 64 else fr.port

/-- The Lode output of a destination. -/
def lodeOutput (p : Nat) : Nat := if p < 64 then p / 4 else if p = 64 then 16 else 17

/-- Nothing earlier keeps a copy of frame f to destination p from its VOQ (R298, R282). -/
def voqTurn (s : State) (f : Nat) (fr : Frame) (p : Nat) : Bool :=
  let before := s.frames.filter (fun g => decide (g.1 < f) && orderKey g.2 == orderKey fr && g.2.cls == fr.cls)
  before.all (fun g => g.2.disposed &&
    !s.mere.copies.any (fun c => c.2.frame == g.1 && c.2.port == p && c.2.st == 0)) &&
    (match runOf s f with
     | some r => r.committed || mayCommit s f r
     | none => true)

/-- A copy may enter its VOQ. -/
def voqReady (s : State) (c : Copy) : Bool :=
  c.st == 0 &&
    match frameOf s c.frame with
    | none => false
    | some fr =>
      (c.ct || fr.verdict == some true || fr.goes) && !fr.rcvWait && voqTurn s c.frame fr c.port

/-- The copies of one frame to an output that can enter its VOQ now enter it; they share a crossing (R300, R318), but for
copies to the CPU port and for recirculation, which cross alone. -/
def voqEnter (s : State) (key cls output : Nat) : State :=
  let mine (c : Copy) : Bool :=
    lodeOutput c.port == output && c.cls == cls && (frameOf s c.frame).any (fun fr => orderKey fr == key) && voqReady s c
  match (s.mere.copies.filter (fun c => mine c.2)).foldl (fun b c =>
      match b with
      | none => some c
      | some d => if c.2.frame < d.2.frame then some c else b) (none : Option (Nat × Copy)) with
  | none => s
  | some (n, c) =>
    match frameOf s c.frame with
    | none => s
    | some fr =>
      let group := if output < 16 then
          s.mere.copies.filter (fun d => d.2.frame == c.frame && d.2.queue == c.queue && mine d.2)
        else [(n, c)]
      let x : Crossing :=
        { frame := c.frame, input := lodeInput fr, output := output, queue := c.queue, cls := cls
          ports := group.foldl (fun m d => m + 2 ^ (d.2.port % 4)) 0, ct := group.any (fun d => d.2.ct)
          limit := c.sample.map (fun q => 64 * (q.2 + 1)) }
      let k := s.mere.nextXing
      let s := { s with mere := { s.mere with xings := tabSet s.mere.xings k x, nextXing := k + 1 } }
      group.foldl (fun s d => copyMod s d.1 (fun c => { c with st := 1, xing := k })) s

/-- COPY_VOQ_ENTER (R298). -/
def execCopyVoqEnter (ingress : Fin 66) (cls : Fin 64) (output : Fin 18) (s : State) : Host.Outcome State Fault Refusal :=
  .next (voqEnter s ingress.val cls.val output.val)

/-- A write of MERE_Qq_EGRESS_CELLS (R295): reserved outside 2,048 to 8,192 or when Shared would fall below 1,024, dropped
while the device is not drained. The result says whether it was refused for its state. -/
def egressCells (s : State) (q n : Nat) (drained : Bool) : State :=
  if !drained then accReport s 6 0 true (Reg.MERE_Qq_EGRESS_CELLS q)
  else if n % 2 ^ 14 < 2048 ∨ 8192 < n % 2 ^ 14 ∨ sharedCells s q (n % 2 ^ 14) < 1024 then
    accReport s 1 0 true (Reg.MERE_Qq_EGRESS_CELLS q)
  else wf s (Reg.MERE_Qq_EGRESS_CELLS q) 13 0 n

/-- The Mere holds no cell, the ledger no entry and the Fermenter no task: three of the four conditions of R42. -/
def drained (s : State) : Bool :=
  s.frames.isEmpty && s.mere.copies.isEmpty && s.cask.ledger.isEmpty && s.ferm.runs.isEmpty

/-- Registers of the Mere that are computed (R325). -/
def mereView (s : State) (a : Nat) : Option W64 :=
  let quad (r : Nat → Nat) : Option Nat := (List.range 16).find? (fun q => r q == a)
  if a = Reg.MERE_DESC_FREE then some (BitVec.ofNat 64 (131072 - descUsed s))
  else if a = Reg.MERE_COPY_FREE then some (BitVec.ofNat 64 (262144 - s.mere.copies.length))
  else
    match quad Reg.MERE_Qq_FREE with
    | some q => some (BitVec.ofNat 64 (12288 - (ingressUse s q + egressUse s q)))
    | none =>
      match quad Reg.MERE_Qq_SHARED_FREE with
      | some q => some (BitVec.ofNat 64 (sharedFree s q).toNat)
      | none =>
        match quad Reg.MERE_Qq_RESERVED with
        | some q => some (BitVec.ofNat 64 (min (reservedCells s q) (2 ^ 14 - 1)))
        | none =>
          if Reg.MERE_USEp_c 0 0 ≤ a ∧ a ≤ Reg.MERE_USEp_c 63 63 then
            some (BitVec.ofNat 64 (usage s ((a - Reg.MERE_USEp_c 0 0) / 0x100) ((a - Reg.MERE_USEp_c 0 0) % 0x100 / 4)))
          else none

end Sys2Proof.Machine
end

