-- ==== Sys2Proof/Machine/FenSend.lean ====
section
/-! DEFINITION. Fen messages as they are built and sent (R442, R443, R445 to R449), and the frames that the device itself
originates. -/
namespace Sys2Proof.Machine

/-- A frame that the device originates (R296) enters at Lode input 17 for the ports given. R442 gives it no class, no queue and
no priority bits: they are free. `body` follows the VLAN tag. -/
def originate (s : State) (vid : Nat) (dst src body : List Byte) (ports : List Nat) : State :=
  let (c, s) := fresh s
  let (k, s) := fresh s
  let (pri, s) := fresh s
  let bytes := dst ++ src ++ [0x81#8, 0x00#8] ++ toBE 2 (pri % 16 * 2 ^ 12 + vid) ++ body
  let bytes := bytes ++ List.replicate (60 - bytes.length) 0#8
  let f := s.nextFrame
  let fr : Frame :=
    { bytes := bytes ++ toLE 4 (crc32 bytes), done := true, stamp := time16 s, tick := tickNo s, vid := vid, cls := c % 64
      gen := billGen s, looked := true, verdict := some true, own := true, disposed := true, queue := k % 8, admitted := true }
  let s := { s with nextFrame := f + 1 }
  let (_, s) := makeCopies (framePut s f fr) f fr ports (k % 8)
  frameCheck s f

/-- The ports that carry the fen VLAN and have their link up (R443). -/
def fenPorts (s : State) : List Nat :=
  match vlanOf s (rf s Reg.FEN_VID 11 0) with
  | some v => (portsOf (v.word 1)).filter (fun p => isPort s p && linkUp s p)
  | none => []

/-- The bucket of R443: the state without one token, when there is one. -/
def fenToken (s : State) : Option State :=
  let rate := rf s Reg.FEN_RATE 15 0
  let taken := s.fen.tokens - (nowNs s - s.fen.bucketAt) * rate
  if taken + 1000000 ≤ rate * 1000000 then
    some { s with fen := { s.fen with tokens := taken + 1000000, bucketAt := nowNs s } }
  else none

/-- The tag of a message under a key slot (R442): HOPS counts as zero. -/
def fenTag (s : State) (slot : Nat) (msg : List Byte) : Option (List Byte) :=
  (keyFor s slot 10 true).map (fun key => (aesCmac key (msg.set 1 0#8)).take 8)

/-- A message leaves on ports of the fen VLAN (R442, R443). -/
def fenOut (s : State) (msg tag : List Byte) (ports : List Nat) : State :=
  let mac (a : Nat) : List Byte := toBE 6 (rdn s a)
  originate (cnt s Reg.FEN_TX_MSGS 1) (rf s Reg.FEN_VID 11 0) (mac Reg.FEN_GROUP_MAC) (mac Reg.FEN_SRC_MAC)
    ([0x88#8, 0xB5#8] ++ msg ++ tag) ports

/-- The device sends fen messages of its own (R429, R446). -/
def fenSpeaks (s : State) : Bool := rb s Reg.FEN_CFG 0 && !follower s

/-- Send a message of this device (R442, R445), if it may and a token is there: none when it has to wait. -/
def fenSend (s : State) (type flags count : Nat) (body : List Byte) : Option State :=
  if !fenSpeaks s then none
  else
    match fenToken s with
    | none => none
    | some s =>
      let seq := rdn s Reg.FEN_TX_SEQ
      let msg := [1#8, 0#8] ++ toBE 1 type ++ toBE 1 flags ++ toBE 2 (rf s Reg.FEN_DEV_ID 9 0) ++ toBE 2 count ++ toBE 4 seq ++
        toBE 4 0 ++ body
      match fenTag s (rf s Reg.FEN_KEY 11 0) msg with
      | none => none
      | some tag =>
        let s := wrn s Reg.FEN_TX_SEQ ((seq + 1) % 2 ^ 32)
        some (fenOut { s with twin := { s.twin with fenChanged := true } } msg tag (fenPorts s))

/-- A record (R442). -/
def fenRecord (fid prec port mac tick : Nat) : List Byte :=
  toBE 2 (fid * 16 + prec) ++ toBE 1 port ++ [0#8] ++ toBE 6 mac ++ [0#8, 0#8] ++ toBE 8 (tick % 2 ^ 64)

/-- Send the RESYNC_REQ that waits (R449). -/
def fenResyncPump (s : State) : State :=
  if !s.fen.resync then s
  else
    match fenSend s 3 0 0 [] with
    | some s => { s with fen := { s.fen with resync := false } }
    | none => s

/-- A RESYNC_REQ is to be sent (R449). -/
def fenResync (s : State) : State :=
  if fenSpeaks s then fenResyncPump { s with fen := { s.fen with resync := true } } else s

end Sys2Proof.Machine
end

