-- ==== Sys2Proof/Machine/BillCheck.lean ====
section
/-! DEFINITION. The checks of the first pass on a bill image (R33 to R41, R581) and the content rules of its sections (R43,
R51 and the device rules of the chapters). -/
namespace Sys2Proof.Machine

/-- A refusal (R52): CODE, DETAIL and BILL_DETAIL. -/
abbrev Refuse := Nat × Nat × Nat

/-- The first of n entries of `size` bytes that breaks a rule, as an offset. -/
def firstBad (n size : Nat) (bad : Nat → Bool) : Option Nat := ((List.range n).find? bad).map (· * size)

/-- Bits of `len` bytes at `off` that are zero, by a mask. -/
def zeroAt (b : List Byte) (off len mask : Nat) : Bool := (leAt b off len &&& mask) == 0

/-! ### Header and section walk (R34, R35, R581) -/

/-- The checks of steps 1 to 5 of R41; `avail` is how many bytes the source holds. -/
def headerBad (img : List Byte) (amend : Bool) (avail : Nat) : Option Refuse :=
  let total := leAt img 8 4
  if slice img 0 4 ≠ [0x57#8, 0x4C#8, 0x42#8, 0x4C#8] then some (0x01, 0, 0)
  else if byteAt img 4 ≠ 2 ∨ 1 < byteAt img 5 ∨ leAt img 6 2 ≠ 96 then some (0x02, 0, 4)
  else if (byteAt img 15 % 2 == 1) ≠ amend then some (0x02, 0, 15)
  else if leAt img 12 2 ≠ 0x6416 then some (0x03, 0, 12)
  else if 0xB0 < byteAt img 14 then some (0x03, 0, 14)
  else if total < 0xA0 ∨ 0x02000000 < total ∨ total % 8 ≠ 0 ∨ avail < total then some (0x04, 0, 8)
  else if leAt img 24 4 ≠ crc32c (overwrite (slice img 0 96) 24 (List.replicate 4 0#8)) then some (0x05, 0, 24)
  else none

/-- The sections from `pos` on, as (code, offset of the section header, body length), or the first failure of the walk. -/
def walkFrom (img : List Byte) (total : Nat) : Nat → Nat → Nat → Except Refuse (List (Nat × Nat × Nat))
  | 0, _, _ => .ok []
  | n + 1, pos, prev =>
    if total < pos + 16 then .ok []
    else
      let code := byteAt img pos
      let len := leAt img (pos + 4) 4
      if leAt img (pos + 2) 2 ≠ 1 then .error (0x02, code, pos + 2)
      else if code = 0 ∨ 0x0F < code then .error (0x06, code, pos)
      else if len % 8 ≠ 0 ∨ total < pos + 16 + len then .error (0x04, code, pos + 4)
      else if code ≤ prev then .error (0x06, code, pos)
      else (walkFrom img total n (pos + 16 + len) code).map (fun t => (code, pos, len) :: t)

/-- Sections that a full bill carries, and those an amendment may carry (R36, R44). -/
def fullSections : List Nat := [1, 2, 3, 4, 5, 6, 7, 8, 0x0A, 0x0B, 0x0C]
def amendSections : List Nat := [4, 8, 0x0D, 0x0E]

/-- The section walk of R581. -/
def sectionWalk (img : List Byte) (amend : Bool) : Except Refuse (List (Nat × Nat × Nat)) :=
  let total := leAt img 8 4
  match walkFrom img total 16 96 0 with
  | .error e => .error e
  | .ok secs =>
    let last := secs.getLastD (0, 96, 0)
    let endAt := if secs = [] then 96 else last.2.1 + 16 + last.2.2
    let has (c : Nat) : Bool := secs.any (fun x => x.1 == c)
    if last.1 ≠ 0x0F ∨ last.2.2 ≠ 32 then .error (0x06, 0x0F, last.2.1)
    else if endAt ≠ total then .error (0x04, 0x0F, endAt)
    else if leAt img 0x14 2 ≠ secs.length then .error (0x06, 0, 0x14)
    else if amend then
      match secs.find? (fun x => x.1 != 0x0F && !amendSections.contains x.1) with
      | some x => .error (0x0B, x.1, x.2.1)
      | none => if amendSections.any has then .ok secs else .error (0x06, 0, 96)
    else
      match fullSections.find? (fun c => !has c) with
      | some c => .error (0x06, c, 0)
      | none => .ok secs

/-! ### Check values (R35, R37, R38, R39) -/

/-- A bill key: the fused value, or the all-zero key of an unblown slot. -/
def billKey (s : State) (slot : Nat) : List Byte := toBE 16 ((tabFind s.chip.fuses (1 + 2 * slot)).getD 0)

/-- The bill key of the slot is unblown. -/
def billKeyZero (s : State) (slot : Nat) : Bool := (tabFind s.chip.fuses (1 + 2 * slot)).isNone

/-- Offset of the header of section 0x0F. -/
def tagSection (secs : List (Nat × Nat × Nat)) : Nat := (secs.getLastD (0, 0, 0)).2.1

/-- BILL_HASH over an image (R37). -/
def imageHash (img : List Byte) (secs : List (Nat × Nat × Nat)) : List Byte := sha256 (slice img 96 (tagSection secs - 96))

/-- TAG over an image under a key (R38). -/
def imageTag (img key : List Byte) (secs : List (Nat × Nat × Nat)) : List Byte :=
  let f := tagSection secs
  aesCmac key (overwrite (slice img 0 (f + 32)) (f + 8) (List.replicate 4 0#8))

/-- Steps 7 to 9 of R41. -/
def valuesBad (s : State) (img : List Byte) (secs : List (Nat × Nat × Nat)) : Option Refuse :=
  let f := tagSection secs
  let slot := byteAt img (f + 16)
  match secs.find? (fun x => leAt img (x.2.1 + 8) 4 != crc32c (slice img (x.2.1 + 16) x.2.2)) with
  | some x => some (0x07, x.1, x.2.1 + 8)
  | none =>
    if imageHash img secs ≠ slice img 0x20 32 then some (0x08, 0, 0x20)
    else if 1 < slot ∨ (tabFind s.chip.fuses (2 + 2 * slot)).isSome then some (0x09, 0x0F, f + 16)
    else if imageTag img (billKey s slot) secs ≠ slice img (f + 32) 16 then some (0x09, 0x0F, f + 32)
    else none

/-- The comparison of the second pass with the first (R582). -/
def secondBad (s : State) (img again : List Byte) (secs : List (Nat × Nat × Nat)) : Option Refuse :=
  let f := tagSection secs
  let key := billKey s (byteAt img (f + 16))
  match secs.find? (fun x => crc32c (slice again (x.2.1 + 16) x.2.2) != crc32c (slice img (x.2.1 + 16) x.2.2)) with
  | some x => some (0x07, x.1, x.2.1 + 8)
  | none =>
    if imageHash again secs ≠ imageHash img secs then some (0x08, 0, 0x20)
    else if imageTag again key secs ≠ imageTag img key secs then some (0x09, 0x0F, f + 32)
    else none

/-! ### Section bodies: each rule answers the offset in the body of the element that breaks it -/

/-- R498. -/
def hummockMapBad (b : List Byte) : Option Nat :=
  if b.length ≠ 320 then some 0
  else firstBad 40 8 (fun h =>
    let o := 8 * h
    let x := byteAt b o
    let idle := leAt b (o + 4) 4
    !zeroAt b o 1 0xE0 || !zeroAt b (o + 2) 2 0xFC00 || decide (2 ≤ natFld x 4 3) ||
    (decide (16 ≤ h) && (x.testBit 1 || x.testBit 2)) ||
    (x.testBit 2 && (leAt b (o + 2) 2 == 0 || decide (1000 < leAt b (o + 2) 2))) || decide (1 ≤ idle ∧ idle ≤ 9))

/-- R77, R78. -/
def laneMapBad (b : List Byte) : Option Nat :=
  let mode (l : Nat) : Nat := byteAt b (8 * l) % 16
  if b.length ≠ 512 then some 0
  else firstBad 64 8 (fun l =>
    let o := 8 * l
    let m := mode l
    let fec := byteAt b o / 16
    let maxLen := leAt b (o + 4) 2
    let port : Bool := decide (1 ≤ m ∧ m ≤ 6)
    decide (8 ≤ m) || decide (3 ≤ fec) || !zeroAt b (o + 1) 1 0xF8 || !zeroAt b (o + 2) 1 0xF0 ||
    natFld (byteAt b (o + 2)) 3 2 == 3 || byteAt b (o + 3) != 0 || !zeroAt b (o + 6) 2 0xFFFC ||
    (port && decide (maxLen < 1518 ∨ 9216 < maxLen)) ||
    (m == 6 && (l % 4 != 0 || [1, 2, 3].any (fun k => mode (l + k) != 7))) ||
    (m == 5 && (l % 2 != 0 || mode (l + 1) != 7)) ||
    (m == 7 && !(mode (l / 4 * 4) == 6 && l % 4 != 0) && !(l % 2 == 1 && mode (l - 1) == 5)) ||
    (fec != 0 && [0, 1, 2, 7].contains m) || (fec == 1 && (m == 5 || m == 6)) || (fec == 2 && m == 3))

/-- R98, R99. -/
def parserMapBad (b : List Byte) : Option Nat :=
  if b.length ≠ 256 then some 0
  else firstBad 16 16 (fun q =>
    let o := 16 * q
    let v := leAt b (o + 6) 2
    let g := leAt b (o + 8) 2
    let r := leAt b (o + 10) 2
    byteAt b o == 15 || !zeroAt b o 2 0xFFF0 || !zeroAt b (o + 2) 4 0xFFF00000 || leAt b (o + 12) 4 != leAt b 12 4 ||
    v == g || v == r || g == r)

/-- R43, R51: the rules of one class entry at offset o. -/
def classEntryBad (b : List Byte) (o : Nat) : Bool :=
  let x0 := byteAt b o
  let x1 := byteAt b (o + 1)
  let lau := byteAt b (o + 7)
  let thresh := leAt b (o + 12) 2
  let minLen := leAt b (o + 14) 2
  let stateful := x0.testBit 1
  let wide := byteAt b (o + 24)
  natFld x0 5 4 == 3 || natFld x0 7 6 == 3 || (x0.testBit 2 && x0.testBit 3) ||
  [0, 2, 4, 6].any (fun i => natFld x1 (i + 1) i == 3) || !zeroAt b (o + 2) 1 0x80 || decide (15 < byteAt b (o + 3)) ||
  (stateful && (decide (7 < byteAt b (o + 6)) || decide (7 < wide ∧ wide < 0xFF))) || decide (63 < lau ∧ lau < 0xFF) ||
  !zeroAt b (o + 10) 2 0xFFF0 || thresh == 0 || decide (2048 < thresh) || decide (minLen < 64 ∨ 9216 < minLen) ||
  !zeroAt b (o + 16) 4 0xF8000000 || !zeroAt b (o + 25) 7 (2 ^ 56 - 1)

def classMapBad (b : List Byte) : Option Nat :=
  if b.length ≠ 2048 then some 0 else firstBad 64 32 (fun c => classEntryBad b (32 * c))

/-- R144: the forwarding block. -/
def fwdBlockBad (b : List Byte) : Bool :=
  !zeroAt b 18 2 0xFF78 || !zeroAt b 24 4 0xFFF00000 || !zeroAt b 30 2 0xFFFF || decide (250000 < leAt b 32 4) ||
  !zeroAt b 36 4 0xFFF00000 || !zeroAt b 40 24 (2 ^ 192 - 1)

/-- R151, R152: profile p of the Lauter block. -/
def profileBad (b : List Byte) (p : Nat) : Bool :=
  let o := 128 + 64 * p
  let use := byteAt b o
  let mask := leAt b (o + 2) 2
  let wide := leAt b 64 2
  let src (e : Nat) : Nat := byteAt b (o + 8 + 2 * e)
  let same : Nat := if use = 2 then wide else 0xFFFF - wide
  decide (2 < use) || !zeroAt b (o + 1) 1 0xFF || !zeroAt b (o + 4) 4 0xFFFFFFFF || !zeroAt b (o + 48) 16 (2 ^ 128 - 1) ||
  (List.range 20).any (fun e => decide (6 < src e)) ||
  (use != 0 && (mask == 0 || (mask &&& same) != mask)) || (use == 1 && (List.range 10).any (fun e => src (10 + e) != 0))

def tableShapesBad (b : List Byte) : Option Nat :=
  if b.length ≠ 4224 ∨ fwdBlockBad b then some 0
  else if !zeroAt b 66 62 (2 ^ 496 - 1) then some 64
  else (firstBad 64 64 (profileBad b)).map (· + 128)

/-- R172, R173: the layouts, over the deep-store map `m` in force. -/
def layoutsBad (b m : List Byte) : Option Nat :=
  let n := b.length / 32
  let use (i : Nat) : Nat := byteAt b (32 * i)
  let reg (i : Nat) : Nat := byteAt b (32 * i + 1) % 8
  let defined (r : Nat) : Bool := byteAt m (40 + 32 * r) % 2 == 1
  let rows (r : Nat) : Nat := leAt m (36 + 32 * r) 4 % 2 ^ 28
  if b.length % 32 ≠ 0 ∨ n = 0 ∨ 8 < n then some 0
  else if (List.range 8).any (fun r => defined r && rows r % 2 == 1) then some 0
  else firstBad n 32 (fun i =>
    decide (2 < use i) || !zeroAt b (32 * i + 1) 1 0xF8 || !zeroAt b (32 * i + 2) 6 0xFFFFFFFFFFF8 ||
    (use i != 0 && (!defined (reg i) ||
      (List.range n).any (fun j => use j != 0 && use j != use i && reg j == reg i))))

/-- Row bits of a density code (R231). -/
def densityBits (d : Nat) : Nat := [15, 16, 16, 17, 17].getD d 17
/-- Rows per bank of a density code. -/
def densityRows (d : Nat) : Nat := [32768, 49152, 65536, 98304, 131072].getD d 0

/-- R218, R219. -/
def deepMapBad (b : List Byte) : Option Nat :=
  let nch := byteAt b 0
  let d := byteAt b 2
  let bits := densityBits d
  let total := 2 ^ (6 - nch) * (byteAt b 1 + 1) * 8 * densityRows d
  let perm := (slice b 12 17).map (·.toNat)
  let used (r : Nat) : Bool := byteAt b (40 + 32 * r) == 1
  let base (r : Nat) : Nat := leAt b (32 + 32 * r) 4
  let rows (r : Nat) : Nat := leAt b (36 + 32 * r) 4
  if b.length ≠ 1056 then some 0
  else if 2 < nch ∨ 1 < byteAt b 1 ∨ 4 < d ∨ byteAt b 3 < 6 ∨ 16 < byteAt b 3 ∨ byteAt b 4 = 0 ∨ 2 < byteAt b 4 ∨
      leAt b 5 3 ≠ 0 ∨ leAt b 29 3 ≠ 0 then some 0
  else if 2 ^ bits ≤ leAt b 8 4 then some 8
  else if !(perm.all (· == 0xFF)) && (perm.drop bits |>.any (· != 0xFF)) then some 12
  else if !(perm.all (· == 0xFF)) && !((List.range bits).all (fun i => (perm.take bits).contains i)) then some 12
  else
    let region := (firstBad 8 32 (fun r =>
      decide (2 ^ 27 ≤ base r) || decide (2 ^ 28 ≤ rows r) || decide (1 < byteAt b (40 + 32 * r)) ||
      leAt b (41 + 32 * r) 23 != 0 || (used r && (rows r % 2 == 1 || decide (total < base r + rows r) ||
        (List.range r).any (fun q => used q && decide (base q < base r + rows r ∧ base r < base q + rows q)))))).map (· + 32)
    match region with
    | some o => some o
    | none => (firstBad (2 ^ (6 - nch)) 12 (fun c =>
        let o := 288 + 12 * c
        let code (x : Nat) : Bool := x == 0 || decide (7 ≤ x)
        decide (3 < byteAt b o) || code (byteAt b (o + 1)) || code (byteAt b (o + 2)) || decide (127 < byteAt b (o + 3)) ||
        decide (2000 < leAt b (o + 4) 2) || leAt b (o + 6) 6 != 0)).map (· + 288)

/-- R405, R406, over the lane map `lanes`. -/
def timeMapBad (b lanes : List Byte) : Option Nat :=
  let ports := byteAt b 2
  let port (i : Nat) : Nat := byteAt b (64 + 16 * i)
  if b.length ≠ 64 + 16 * ports ∨ 64 < ports then some 0
  else if 2 < byteAt b 0 ∨ 5 < byteAt b 1 ∨ 1 < byteAt b 3 ∨ leAt b 4 2 = 0 ∨ leAt b 6 2 = 0 ∨ leAt b 8 4 = 0 ∨
      2 ^ 24 ≤ leAt b 8 4 ∨ leAt b 13 51 ≠ 0 then some 0
  else (firstBad ports 16 (fun i =>
    let m := byteAt lanes (8 * port i) % 16
    decide (63 < port i) || decide (15 < byteAt b (65 + 16 * i)) || byteAt b (67 + 16 * i) != 0 || m == 0 || m == 7 ||
    (List.range i).any (fun j => port j == port i))).map (· + 64)

/-- R439, R440. -/
def twinMapBad (b : List Byte) : Option Nat :=
  let x := byteAt b 0
  let n := leAt b 32 2
  let fen := byteAt b 8 % 2 == 1
  let dev (i : Nat) : Nat := leAt b (48 + 16 * i) 2
  if b.length ≠ 48 + 16 * n ∨ 1024 < n then some 0
  else if 16 ≤ x ∨ 6 < byteAt b 1 ∨ 4096 ≤ leAt b 4 2 ∨ leAt b 6 2 ≠ 0 ∨ leAt b 36 12 ≠ 0 ∨ 8 ≤ byteAt b 8 then some 0
  else if x % 2 = 1 ∧ leAt b 2 2 = 0 then some 2
  else if !fen then none
  else if byteAt b 9 = 0 ∨ 15 < byteAt b 9 ∨ 1024 ≤ leAt b 10 2 ∨ byteAt b 12 % 2 = 1 ∨ byteAt b 18 % 2 = 0 ∨
      4096 ≤ leAt b 24 2 ∨ leAt b 26 2 = 0 ∨ byteAt b 28 < 2 ∨ byteAt b 29 ≠ 0 ∨ leAt b 30 2 = 0 ∨ 4096 ≤ leAt b 34 2 then
    some 8
  else (firstBad n 16 (fun i =>
    decide (1024 ≤ dev i) || dev i == leAt b 10 2 || (List.range i).any (fun j => dev j == dev i) ||
    decide (4096 ≤ leAt b (56 + 16 * i) 2) || decide (1 < byteAt b (58 + 16 * i)) || leAt b (59 + 16 * i) 5 != 0)).map (· + 48)

/-- R463: MODE 3 or an RSV bit. -/
def routesBad (b : List Byte) : Option Nat :=
  if b.length ≠ 8192 then some 0
  else firstBad 4096 2 (fun i => natFld (leAt b (2 * i) 2) 9 8 == 3 || !zeroAt b (2 * i) 2 0xFC00)

/-- R323: an unknown code, a value above 1 or a code carried twice. -/
def policiesBad (b : List Byte) : Option Nat :=
  firstBad (b.length / 8) 8 (fun i =>
    leAt b (8 * i) 2 != 0x0E01 || decide (1 < byteAt b (8 * i + 2)) || leAt b (8 * i + 3) 5 != 0 ||
    (List.range i).any (fun j => leAt b (8 * j) 2 == leAt b (8 * i) 2))

/-- A reserved encoding in EGRESS_CLASSc_RCV. -/
def rcvBad (v : Nat) : Bool :=
  !(v &&& 0xF000 == 0) || natFld v 3 2 == 3 || (natFld v 6 4 != 0 && natFld v 3 2 != 2) ||
  (natFld v 1 0 != 0 && natFld v 31 16 == 0)

/-- What a 12-byte entry of section 0x0A names: the register, its row, whether it is the high dword of a 64-bit register alone,
and the value in its place. -/
def egressValue (b : List Byte) (i : Nat) : Option (Nat × RegRow × Bool × Nat) :=
  let a := 0x02000000 + leAt b (8 + 12 * i) 4
  match findRow a with
  | some r => some (a, r, false, leAt b (12 + 12 * i) r.width)
  | none =>
    match findRow (a - 4) with
    | some r => if r.width = 8 then some (a - 4, r, true, leAt b (12 + 12 * i) 4 * 2 ^ 32) else none
    | none => none

/-- Bits of a register that belong to no field. -/
def rsvMask (r : RegRow) : Nat := (2 ^ (8 * r.width) - 1) ^^^ (r.rw ||| r.ro ||| r.rc ||| r.w1s ||| r.w1c ||| r.wo)

/-- R355: entry i breaks a rule. A set RSV bit counts as a reserved encoding, as elsewhere in a bill. -/
def egressEntryBad (b : List Byte) (i : Nat) : Bool :=
  match egressValue b i with
  | none => true
  | some (a, r, high, v) =>
    let covered := if high then 2 ^ 64 - 2 ^ 32 else 2 ^ 64 - 1
    decide (0x02400000 ≤ a) || v &&& rsvMask r != 0 ||
    (reservedBits r (BitVec.ofNat 64 v)).toNat &&& covered != 0 ||
    (decide (0x02000400 ≤ a ∧ a < 0x02000500) && rcvBad v)

def egressMapBad (b : List Byte) : Option Nat :=
  let n := leAt b 0 4
  if b.length ≠ 8 + 12 * n + 4 * (n % 2) ∨ 65535 < n ∨ leAt b 4 4 ≠ 0 then some 0
  else if leAt b (8 + 12 * n) (4 * (n % 2)) ≠ 0 then some (8 + 12 * n)
  else (firstBad n 12 (egressEntryBad b)).map (· + 8)

end Sys2Proof.Machine
end

