-- ==== Sys2Proof/Machine/BillGraphs.lean ====
section
/-! DEFINITION. Section 0x08 of a bill: graphs as read from a body (R254, R255), and the rules of R260, R274, R191 and R370 on
them and on the classes that use them. -/
namespace Sys2Proof.Machine

/-! ### Reading a body (R254, R255) -/

/-- The node record at an offset of a body. -/
def nodeAt (b : List Byte) (o : Nat) : Node :=
  let v := leAt b o 16
  { opc := natFld v 7 0, fn := natFld v 15 8, pred := natFld v 17 16
    exp := if v.testBit 21 then some (natFld v 20 18) else none
    a := natFld v 47 24, b := natFld v 71 48, c := natFld v 95 72, imm := natFld v 127 96 }

/-- Counts of the header: directory entries, node records, constants. -/
def dirCount (b : List Byte) : Nat := leAt b 0 4
def nodeCount (b : List Byte) : Nat := leAt b 4 4
def constCount (b : List Byte) : Nat := leAt b 8 4

/-- Offset of node record k. -/
def nodeOff (b : List Byte) (k : Nat) : Nat := 16 + 48 * dirCount b + 16 * k

/-- Offset of constant k. -/
def constOff (b : List Byte) (k : Nat) : Nat := nodeOff b (nodeCount b) + 8 * k

/-- The graph of directory entry i, which generation `born` brings. -/
def graphAt (b : List Byte) (born i : Nat) : Nat × Graph :=
  let o := 16 + 48 * i
  let tasks := (List.range (min 8 (byteAt b (o + 2)))).map (fun k =>
    (byteAt b (o + 16 + 4 * k), byteAt b (o + 17 + 4 * k), byteAt b (o + 18 + 4 * k)))
  let nodes := (List.range (leAt b (o + 8) 2)).map (fun k => nodeAt b (nodeOff b (leAt b (o + 4) 4 + k)))
  let consts := (List.range (leAt b (o + 10) 2)).map (fun k => leAt b (constOff b (leAt b (o + 12) 4 + k)) 8)
  (leAt b o 2, { born := born, item := byteAt b (o + 3) % 2 == 1, tasks := tasks, nodes := nodes, consts := consts })

/-- The graphs of a body. -/
def graphsOf (b : List Byte) (born : Nat) : List (Nat × Graph) :=
  (List.range (dirCount b)).foldl (fun t i => let g := graphAt b born i; tabSet t g.1 g.2) []

/-! ### Nodes (R255 to R258, R261) -/

/-- An operand source of the node at index i of its task is in range (R256). -/
def sourceOk (i consts v : Nat) : Bool :=
  let x := v % 2 ^ 20
  match v / 2 ^ 20 with
  | 0 => x == 0
  | 1 => decide (x < i)
  | 2 => x == 0
  | 3 => decide (x ≤ 18)
  | 4 => decide (natFld x 18 16 ≤ 4) && (x &&& 0x80E00) == 0
  | 5 => decide (x < 8)
  | 6 => decide (x < 256 ∧ x < consts)
  | _ => false

/-- OPC and FN are defined (R258, R261, R370). -/
def opcodeOk (opc fn : Nat) : Bool :=
  match opc with
  | 0x01 => decide (fn ≤ 16)
  | 0x02 => decide (fn ≤ 6)
  | 0x03 => fn == 0
  | 0x04 => decide (fn ≤ 2)
  | 0x05 => decide (fn ≤ 6)
  | 0x06 => fn == 0
  | 0x07 => decide (fn ≤ 3)
  | 0x08 => decide (fn ≤ 5) || decide (0x10 ≤ fn ∧ fn ≤ 0x1B)
  | 0x09 => fn == 0
  | 0x0A => decide (fn ≤ 2)
  | 0x0B => decide (fn ≤ 3)
  | 0x0C => decide (fn ≤ 1)
  | _ => false

/-- The node at index i of its task meets R255 to R258. -/
def nodeOk (i consts : Nat) (n : Node) : Bool :=
  opcodeOk n.opc n.fn && n.pred != 3 &&
  (n.pred == 0 || !(n.opc == 3 || n.opc == 0x0C || (n.opc == 5 && n.fn == 4))) &&
  !(n.opc == 8 && n.fn == 0x10 && decide (4 < natFld n.imm 18 16)) &&
  sourceOk i consts n.a && sourceOk i consts n.b && sourceOk i consts n.c

/-! ### Graphs (R254, R260, R370) -/

/-- The nodes of task k, in order. -/
def Graph.taskNodes (g : Graph) (k : Nat) : List Node :=
  let t := g.tasks.getD k (0, 0, 0)
  (g.nodes.drop t.2.1).take t.2.2

/-- The mask of task k. -/
def Graph.mask (g : Graph) (k : Nat) : Nat := (g.tasks.getD k (0, 0, 0)).1

/-- USER flags that the END of task k sets. -/
def Graph.sets (g : Graph) (k : Nat) : Nat :=
  match (g.taskNodes k).getLast? with
  | some n => if n.opc = 0x0C then n.imm &&& 0xE0 else 0
  | none => 0

/-- The tasks of a graph. -/
def Graph.taskNos (g : Graph) : List Nat := List.range g.tasks.length

/-- The tasks that can become ready when the first flags are `flags`, after n rounds. -/
def Graph.reach (g : Graph) : Nat → Nat → List Nat
  | 0, flags => g.taskNos.filter (fun k => (flags &&& g.mask k) == g.mask k)
  | n + 1, flags =>
    let now := g.taskNos.filter (fun k => (flags &&& g.mask k) == g.mask k)
    g.reach n (now.foldl (fun f k => f ||| g.sets k) flags)

/-- Tasks that wait on AUTH (R260). -/
def Graph.waitsAuth (g : Graph) (k : Nat) : Bool := !(g.reach 8 0x0F).contains k

/-- The nodes of an operation. -/
def Graph.count (g : Graph) (opc : Nat) : Nat := (g.nodes.filter (fun n => n.opc == opc)).length

/-- The tasks tile the nodes in order, each of 1 to 32 (R254). -/
def tiles : List (Nat × Nat × Nat) → Nat → Option Nat
  | [], at_ => some at_
  | t :: r, at_ => if t.2.1 = at_ ∧ 1 ≤ t.2.2 ∧ t.2.2 ≤ 32 then tiles r (at_ + t.2.2) else none

/-- The task rules of R260: END last and only there, sources, LENGTH and the record under their masks. -/
def Graph.taskBad (g : Graph) (k : Nat) : Bool :=
  let ns := g.taskNodes k
  let m := g.mask k
  let len (v : Nat) : Bool := v == 3 * 2 ^ 20 + 1
  !m.testBit 0 ||
  (List.range ns.length).any (fun i =>
    match ns[i]? with
    | none => false
    | some n =>
      !nodeOk i g.consts.length n || ((n.opc == 0x0C) != (i + 1 == ns.length)) ||
      (!m.testBit 3 && (len n.a || len n.b || len n.c)) || (!m.testBit 2 && (n.opc == 6 || n.opc == 7)))

/-- The rules of R260 and R370 on a graph alone. -/
def Graph.bad (g : Graph) : Bool :=
  tiles g.tasks 0 != some g.nodes.length || g.taskNos.any g.taskBad || decide ((g.reach 8 0x1F).length < g.tasks.length) ||
  decide (1 < g.count 0x0B) || decide (8 < g.count 8) || (g.item && g.tasks.length != 1) ||
  decide (1 < (g.taskNos.filter (fun k => (g.taskNodes k).any (fun n => n.opc == 7))).length) ||
  (g.nodes.any (fun n => n.opc == 8 && n.fn == 0x1B) && !g.nodes.any (fun n => n.opc == 0x0B && (n.fn == 1 || n.fn == 2)))

/-- Directory entry i of a body breaks R254 or R260. -/
def dirBad (b : List Byte) (i : Nat) : Bool :=
  let o := 16 + 48 * i
  let tasks := byteAt b (o + 2)
  let nodes := leAt b (o + 8) 2
  let consts := leAt b (o + 10) 2
  let first := leAt b (o + 4) 4
  decide (4095 < leAt b o 2) || tasks == 0 || decide (8 < tasks) || decide (1 < byteAt b (o + 3)) || nodes == 0 ||
  decide (256 < nodes) || decide (256 < consts) || decide (nodeCount b < first + nodes) ||
  decide (constCount b < leAt b (o + 12) 4 + consts) ||
  (List.range 8).any (fun k => byteAt b (o + 19 + 4 * k) != 0 || (decide (tasks ≤ k) && byteAt b (o + 18 + 4 * k) != 0)) ||
  (List.range i).any (fun j => leAt b (16 + 48 * j) 2 == leAt b o 2) ||
  (List.range nodes).any (fun k => !zeroAt b (nodeOff b (first + k)) 3 0xC00000) ||
  (graphAt b 0 i).2.bad

/-- The rules of section 0x08 on its body alone. -/
def graphsBad (b : List Byte) : Option Nat :=
  let d := dirCount b
  let n := nodeCount b
  let c := constCount b
  if b.length < 16 ∨ d = 0 ∨ 4096 < d ∨ n = 0 ∨ 65536 < n ∨ 16384 < c ∨ leAt b 12 4 ≠ 0 ∨
      b.length ≠ 16 + 48 * d + 16 * n + 8 * c then some 0
  else (firstBad d 48 (dirBad b)).map (· + 16)

/-! ### Steps and chains (R258, R274, R191) -/

/-- Latency of a node in steps (R258). -/
def nodeSteps (n : Node) : Nat :=
  if (n.opc = 1 ∧ n.fn = 10) ∨ n.opc = 4 then 2 else if n.opc = 5 then (if n.fn = 5 ∨ n.fn = 6 then 4 else 8) else 1

/-- When each node of a task has its result, in steps from the task's start: a node follows its KIND 1 operands, and END
every other node (R250). -/
def finishTimes (ns : List Node) : List Nat :=
  ns.foldl (fun fin n =>
    let of (v : Nat) : Nat := if v / 2 ^ 20 = 1 then fin.getD (v % 32) 0 else 0
    let from_ := if n.opc = 0x0C then fin.foldl max 0 else max (of n.a) (max (of n.b) (of n.c))
    fin ++ [from_ + nodeSteps n]) []

/-- The length of a task's longest chain to its END. -/
def Graph.inner (g : Graph) (k : Nat) : Nat := (finishTimes (g.taskNodes k)).getLastD 0

/-- When task k starts, from the ends of the tasks known so far: at the latest of its USER flags, each set by the setter whose
chain is shortest (R274). -/
def Graph.startOf (g : Graph) (ends : List (Nat × Nat)) (k : Nat) : Option Nat :=
  [5, 6, 7].foldl (fun t b =>
    if !(g.mask k).testBit b then t
    else
      let ts := (ends.filter (fun e => (g.sets e.1).testBit b)).map (·.2)
      match t, ts with
      | some x, y :: ys => some (max x (ys.foldl min y))
      | _, _ => none) (some 0)

/-- The ends of the tasks after n rounds. -/
def Graph.ends (g : Graph) : Nat → List (Nat × Nat)
  | 0 => []
  | n + 1 =>
    let e := g.ends n
    g.taskNos.filterMap (fun k => (g.startOf e k).map (fun x => (k, x + g.inner k)))

/-- The critical path of a graph (R274). -/
def Graph.critical (g : Graph) : Nat := ((g.ends 9).map (·.2)).foldl max 0

/-- The chain from the latest of START, LOOKUP and RECORD to the release of R270 (R191). -/
def Graph.release (g : Graph) : Nat :=
  let e := g.ends 9
  let chains (k : Nat) : List Nat :=
    let ns := g.taskNodes k
    ((ns.zip (finishTimes ns)).filter (fun x => x.1.opc == 7)).map (fun x => (g.startOf e k).getD 0 + x.2)
  if 0 < g.count 7 then (g.taskNos.flatMap chains).foldl max 0
  else ((e.filter (fun x => (g.taskNodes x.1).any (fun n => n.opc == 6))).map (·.2)).foldl max 0

/-! ### Graphs and the classes that use them (R173, R260, R274, R191, R295), over a trial state whose sections and
generation g are those of the image -/

/-- The record words that a CWR of class c may name (R171, R260). -/
def stateWordsOf (t : State) (g c : Nat) : List Nat :=
  if layUse t (clsLayout t g c) = 2 then [6, 8, 9, 10, 11, 12, 13] else [4, 5, 6]

/-- Class c breaks a rule on its graph `x`. -/
def useBad (t : State) (g c : Nat) (x : Graph) : Bool :=
  let stateful := clsStateful t g c
  let words := stateWordsOf t g c
  (!stateful && decide (0 < x.count 6 + x.count 7)) ||
  (stateful && x.nodes.any (fun n => n.opc == 7 && n.fn != 3 && !words.contains (n.imm % 16))) ||
  (clsUrgent t g c && (x.item || x.taskNos.any (fun k => (x.mask k &&& 0x18) != 0) || decide (32 < x.critical) ||
    decide (8 < x.release)))

/-- AUTH lies in a mask and nothing can set it (R260). -/
def authBad (t : State) (g no : Nat) (x : Graph) : Bool :=
  x.taskNos.any (fun k => (x.mask k).testBit 4) &&
  !(List.range 64).any (fun c => clsGraph t g c == no && clsCheck t g c == 1) &&
  !x.taskNos.any (fun k => !x.waitsAuth k && (x.taskNodes k).any (fun n => n.opc == 0x0B))

/-- The rules that tie classes, layouts, graphs and lanes together: DETAIL and, for a class, its number. -/
def crossBad (t : State) (g : Nat) : Option (Nat × Nat) :=
  let known (c : Nat) : Bool := clsGraph t g c == 0xFFFF || (clsGraphOf t g c).isSome
  let layBad (c : Nat) : Bool := clsStateful t g c &&
    (layUse t (clsLayout t g c) == 0 ||
      (layUse t (clsLayout t g c) == 1 && clsWideLayout t g c != 0xFF && layUse t (clsWideLayout t g c) != 2))
  let graphBad (c : Nat) : Bool := match clsGraphOf t g c with
    | some x => useBad t g c x
    | none => false
  let admission := (List.range 64).foldl (fun n c => n + clsAdmMin t g c) 0
  let ports (q : Nat) : Nat := ((List.range 4).filter (fun i => decide (1 ≤ laneMode t (4 * q + i) ∧ laneMode t (4 * q + i) ≤ 6))).length
  match (List.range 64).find? (fun c => !known c) with
  | some c => some (0x04, c)
  | none =>
    if (List.range 64).any layBad then some (0x06, 0)
    else if (List.range 64).any graphBad then some (0x08, 0)
    else if (genOf t g).graphs.any (fun x => authBad t g x.1 x.2) then some (0x08, 0)
    else if (List.range 16).any (fun q => decide (4096 < ports q * admission)) then some (0x04, 0)
    else none

end Sys2Proof.Machine
end

