-- ==== Sys2Proof/Machine/Deep.lean ====
section
/-! DEFINITION. The deep memory controller (R214 to R248): the deep-store map, channel queues and command slots, the page
predictor, refresh, neighbour refresh, self-refresh, training and the read-eye probe. -/
namespace Sys2Proof.Machine

/-! ### The deep-store map (R218 to R220) -/

/-- log2 of the channels in use. -/
def chanBits (s : State) : Nat := 6 - rf s Reg.DEEP_MAP 1 0

/-- Row-address bits and rows per bank of DENSITY (R214, R231). -/
def rowBits (s : State) : Nat := [15, 16, 16, 17, 17].getD (rf s Reg.DEEP_MAP 6 4) 17
def bankRows (s : State) : Nat := [32768, 49152, 65536, 98304, 131072].getD (rf s Reg.DEEP_MAP 6 4) 131072

/-- Ranks per channel. -/
def rankCount (s : State) : Nat := 1 + rf s Reg.DEEP_MAP 2 2

/-- Where a line of the Deep Store lies (R220). -/
structure DeepAddr where
  ch : Nat
  rank : Nat
  bank : Nat
  row : Nat
  col : Nat
deriving DecidableEq, Repr

/-- The map of R220. -/
def deepAddr (s : State) (line : Nat) : DeepAddr :=
  let n := chanBits s
  let g := line / 32
  let j := g / 2 ^ n
  let m := j / 8
  let two := rankCount s == 2
  { ch := (g % 2 ^ n) ^^^ (j % 2 ^ n) ^^^ (j / 2 ^ n % 2 ^ n)
    rank := if two then m % 2 else 0
    bank := (j % 8) ^^^ (j / 8 % 8)
    row := if two then m / 2 else m
    col := 32 * (line % 32) }

/-- The index of a bank among the 16 of a channel. -/
def DeepAddr.bankIdx (a : DeepAddr) : Nat := 8 * a.rank + a.bank

/-! ### Channels, banks and ranks -/

/-- Channel c beside its registers. -/
def chanOf (s : State) (c : Nat) : Chan := tabGet s.deep c {}

/-- Put channel c. -/
def chanPut (s : State) (c : Nat) (x : Chan) : State := { s with deep := tabPut s.deep c x {} }

/-- A bank of channel c. -/
def dbank (s : State) (c b : Nat) : Bank := tabGet (chanOf s c).banks b {}

/-- Put a bank of channel c. -/
def dbankPut (s : State) (c b : Nat) (x : Bank) : State :=
  chanPut s c { chanOf s c with banks := tabPut (chanOf s c).banks b x {} }

/-- A rank of channel c. -/
def drank (s : State) (c r : Nat) : Rank := tabGet (chanOf s c).ranks r {}

/-- Put a rank of channel c. -/
def drankPut (s : State) (c r : Nat) (x : Rank) : State :=
  chanPut s c { chanOf s c with ranks := tabPut (chanOf s c).ranks r x {} }

/-- Event k of channel c (R247). -/
def chanEvent (s : State) (c k part d1 : Nat) : State := raise s (0x900 + 16 * c + k) (pack2 c part) d1

/-- FAILED of channel c (R237). -/
def chanFailed (s : State) (c : Nat) : Bool := rb s (Reg.DEEP_CHc_STATUS c) 1

/-- POWER of channel c: 0 ACTIVE, 1 DRAIN, 2 PRECHARGE, 3 SRE, 4 EXIT, 5 ASLEEP. -/
def chanPower (s : State) (c : Nat) : Nat := rf s (Reg.DEEP_CHc_STATUS c) 4 2

/-- Set POWER of channel c; DEEP_ASLEEP shows SRE and ASLEEP. -/
def chanPowerSet (s : State) (c p : Nat) : State :=
  let s := wf (wf s (Reg.DEEP_CHc_STATUS c) 4 2 p) Reg.DEEP_ASLEEP c c (b2n (p == 3 || p == 5))
  chanPut s c { chanOf s c with since := nowNs s }

/-- A retraining runs on channel c. -/
def retraining (s : State) (c : Nat) : Bool := rb s (Reg.DEEP_CHc_STATUS c) 5

/-- D of a rank (R227). -/
def debt (s : State) (c r : Nat) : Int := signed 8 (rf s (Reg.DEEP_CHc_DEBT c) (8 * r + 7) (8 * r))

/-- Set D of a rank, within its 8 bits. -/
def debtSet (s : State) (c r : Nat) (d : Int) : State :=
  wf s (Reg.DEEP_CHc_DEBT c) (8 * r + 7) (8 * r) (unsigned 8 (max (-128) (min 127 d)))

/-- The debt limit in force of a rank. -/
def debtLimit (s : State) (c r : Nat) : Nat := rf s (Reg.DEEP_CHc_DEBT c) (16 + 8 * r + 6) (16 + 8 * r)

/-- Set the debt limit of a rank. -/
def debtLimitSet (s : State) (c r l : Nat) : State := wf s (Reg.DEEP_CHc_DEBT c) (16 + 8 * r + 6) (16 + 8 * r) l

/-- Refresh rate of a rank: 0 = 1×, 1 = 2×, 2 = 4×, 3 = 4× derated. -/
def rateOf (s : State) (c r : Nat) : Nat := rf s (Reg.DEEP_CHc_STATUS c) (10 + 3 * r) (8 + 3 * r)

/-- Due interval per bank refresh in ns, and debt limit, of a rate (R226). -/
def dueInterval (rate : Nat) : Nat := [488, 244, 122, 122].getD rate 122
def limitOf (rate : Nat) : Nat := [64, 32, 0, 0].getD rate 0

/-! ### Page predictor (R224, R225) -/

/-- The outcome of a decision shifts into HISTORY and moves STATE. -/
def predOutcome (s : State) (c b : Nat) (same : Bool) : State :=
  let a := Reg.DEEP_CHc_PREDb c b
  let h := rf s a 7 0
  let st := rf s a 9 8
  wrn s a ((2 * h + b2n same) % 256 + (if same then min 3 (st + 1) else st - 1) * 256)

/-- A precharge closes the row of a bank; a hint on it ends unfulfilled. -/
def closeRow (s : State) (c b : Nat) : State :=
  let x := dbank s c b
  let s := emit s (.dram c (b / 8) .precharge (b % 8) 0 0)
  dbankPut s c b { x with row := none, hint := none }

/-- A refresh closes the row of a bank: a hinted row closed before its write is counted (R225). -/
def closeForRefresh (s : State) (c b : Nat) : State :=
  let x := dbank s c b
  if x.row.isNone then s
  else closeRow (if x.hint.isSome then cnt s (Reg.DEEP_CHc_PRED_BROKEN c) 1 else s) c b

/-- A draw for a neighbour refresh at each activate (R230, R232): a free value of probability 2^−NR_K. -/
def nrDraw (s : State) (c b row : Nat) : State :=
  if !rb s Reg.DEEP_CFG 5 then s
  else
    let (v, s) := fresh s
    if v % 2 ^ rf s Reg.DEEP_CFG 4 0 ≠ 0 then s
    else
      let x := dbank s c b
      if x.nr.length < 4 then dbankPut s c b { x with nr := x.nr ++ [row] }
      else chanEvent (cnt s (Reg.DEEP_CHc_NR_DROPPED c) 1) c 11 b 1

/-- Activate a row for a request: the outcome of the last decision of the bank is known. -/
def activateRow (s : State) (c b row : Nat) : State :=
  let x := dbank s c b
  let s := match x.decided with
    | some (r, _) => predOutcome s c b (r == row)
    | none => s
  let s := dbankPut s c b { x with row := some row, decided := none, used := nowNs s }
  let s := cntWrap (emit s (.dram c (b / 8) .activate (b % 8) row 0)) (Reg.DEEP_CHc_ACTIVATES c) 1
  nrDraw s c b row

/-- A column access to the open row of a bank (R224): it fixes the outcome of a row kept open, and decides whether the
row stays open now; a hint keeps it open. -/
def columnAccess (s : State) (c b row : Nat) : State :=
  let x := dbank s c b
  let s := if x.decided = some (row, true) then predOutcome s c b true else s
  let keep := decide (2 ≤ rf s (Reg.DEEP_CHc_PREDb c b) 9 8)
  dbankPut s c b { x with row := if keep || x.hint.isSome then some row else none
                          decided := some (row, keep), used := nowNs s }

/-! ### Queues (R221, R222) -/

/-- What a read request meets: data at once (forwarded), an uncorrectable line, a place in the queue, or a full queue. -/
inductive Fetched where
  | data (words : List W64)
  | bad
  | queued
  | full
deriving Repr

/-- A line as stored: seven words. -/
def lineWords (x : Line) : List W64 := (List.range 7).map (fun i => x.words.getD i 0)

/-- Words in the canonical form of a stored line. -/
def packLine (ws : List W64) : List W64 :=
  let ws := (List.range 7).map (fun i => ws.getD i 0)
  if ws.all (· == 0) then [] else ws

/-- Write a line of the Deep Store with a fresh code (R210). -/
def lineStore (s : State) (line : Nat) (ws : List W64) : State :=
  { s with cask := { s.cask with lines := tabPut s.cask.lines line { words := packLine ws } {} } }

/-- The write queued for a line, if there is one. -/
def queuedWrite (s : State) (line : Nat) : Option DeepReq :=
  let x := chanOf s (deepAddr s line).ch
  match x.writeWait.find? (fun q => q.line == line) with
  | some q => some q
  | none => x.writes.find? (fun q => q.line == line)

/-- The newest contents of a line below the Cellar and the ledger: from its queued write, or as stored; and whether the
line is uncorrectable (R210, R237). -/
def deepLine (s : State) (line : Nat) : List W64 × Bool :=
  match queuedWrite s line with
  | some q => (q.words, false)
  | none =>
    let x := tabGet s.cask.lines line {}
    (lineWords x, x.bad != [] || chanFailed s (deepAddr s line).ch)

/-- A request reaches a channel that is entering or in self-refresh, or asleep (R234, R235). -/
def srRequest (s : State) (c : Nat) : State :=
  let h := 20 + c / 8
  match chanPower s c with
  | 1 | 2 =>
    let st := chanPower s c
    let s := chanEvent (cnt (chanPowerSet s c 0) (Reg.DEEP_CHc_ABORTS c) 1) c 9 0 st
    if humState s h = 1 then giveUp s h (0x0900 + c) else s
  | 3 => if humState s h = 1 then giveUp (chanPowerSet s c 4) h (0x0900 + c) else s
  | 5 => wakeForWork s h
  | _ => s

/-- The queue peaks of a channel. -/
def queuePeaks (s : State) (c : Nat) : State :=
  let x := chanOf s c
  peak (peak s (Reg.DEEP_CHc_QPEAK c) 6 0 x.reads.length) (Reg.DEEP_CHc_QPEAK c) 14 8 x.writes.length

/-- A sample of a deep request (R484). -/
def deepSample (s : State) (q : DeepReq) (op : Nat) : Sample :=
  let a := deepAddr s q.line
  let outcome := if q.conflict then 2 else if q.committed then 1 else 0
  { kind := 2, tag := q.tag, seq := 0, tick := tickNo s, w16 := q.line % 2 ^ 32, b20 := a.ch
    b21 := a.rank + a.bank * 2 + op * 16 + outcome * 64, h22 := 0
    w24 := min (nowNs s - q.at_) (2 ^ 32 - 1), w28 := a.row % 2 ^ 17 + a.col / 32 * 2 ^ 17 }

/-- A read request for a line (R221, R222). -/
def deepRead (s : State) (line tag : Nat) (hint : Bool) : Fetched × State :=
  let c := (deepAddr s line).ch
  let s := touch s (20 + c / 8)
  if chanFailed s c then (.bad, s)
  else
    match queuedWrite s line with
    | some q =>
      let (seq, s) := psPick s 2 c
      let r : DeepReq := { line := line, at_ := nowNs s, tag := tag }
      (.data q.words, psRecord (cntWrap s (Reg.DEEP_CHc_RAW_FWD c) 1) seq (deepSample s r 2))
    | none =>
      let s := srRequest s c
      let x := chanOf s c
      if 64 ≤ x.reads.length then (.full, s)
      else
        let (seq, s) := psPick s 2 c
        let q : DeepReq := { line := line, at_ := nowNs s, tag := tag, hint := hint, sample := seq }
        (.queued, queuePeaks (chanPut s c { x with reads := x.reads ++ [q] }) c)

/-- A write-back of a line (R221, R222): it replaces a queued write of the same line in place; a full queue makes it
wait. A FAILED channel keeps nothing. -/
def deepWrite (s : State) (line : Nat) (words : List W64) : State :=
  let c := (deepAddr s line).ch
  let s := touch s (20 + c / 8)
  if chanFailed s c then s
  else
    let s := srRequest s c
    let x := chanOf s c
    let swap (l : List DeepReq) := l.map (fun q => if q.line == line then { q with words := words } else q)
    if x.writes.any (fun q => q.line == line) then chanPut s c { x with writes := swap x.writes }
    else if x.writeWait.any (fun q => q.line == line) then chanPut s c { x with writeWait := swap x.writeWait }
    else
      let (seq, s) := psPick s 2 c
      let q : DeepReq := { line := line, at_ := nowNs s, tag := 0xFFFF, words := words, sample := seq }
      if x.writes.length < 64 then queuePeaks (chanPut s c { x with writes := x.writes ++ [q] }) c
      else chanPut s c { x with writeWait := x.writeWait ++ [q] }

/-- The symbol errors of a read applied to the words of a line (R216). -/
def applyErrors (ws : List W64) (errs : List (Nat × Nat)) : List W64 :=
  errs.foldl (fun ws e =>
    if e.1 < 28 then listMod ws (e.1 / 4) (fun w => w ^^^ BitVec.ofNat 64 (e.2 % 2 ^ 16 * 2 ^ (16 * (e.1 % 4)))) else ws) ws

/-! ### Command slots (R223) -/

/-- A request has reached the age cap of 2 µs. -/
def ageCapped (s : State) (q : DeepReq) : Bool := elapsed s q.at_ 2000

/-- The write may not issue yet: an older read of its line is queued (R222). -/
def behindRead (x : Chan) (q : DeepReq) : Bool := x.reads.any (fun r => r.line == q.line && decide (r.at_ ≤ q.at_))

/-- Requests of a kind that could be served, oldest first: none on a rank in catch-up or during a retraining. -/
def servable (s : State) (c : Nat) (write : Bool) : List DeepReq :=
  let x := chanOf s c
  if retraining s c then []
  else
    (if write then x.writes.filter (fun q => !behindRead x q) else x.reads).filter (fun q =>
      (drank s c (deepAddr s q.line).rank).catchup.isNone)

/-- The row that a request needs is open. -/
def rowOpen (s : State) (q : DeepReq) : Bool :=
  let a := deepAddr s q.line
  (dbank s a.ch a.bankIdx).row == some a.row

/-- Issue the column burst of a request to its open row. -/
def issueColumn (s : State) (c : Nat) (write : Bool) (q : DeepReq) : State :=
  let a := deepAddr s q.line
  let b := a.bankIdx
  let s := if ageCapped s q then
      chanEvent (cntWrap s (Reg.DEEP_CHc_AGE_CAPPED c) 1) c 12 a.rank 0
    else s
  let s := if q.committed then s else tally (cntWrap s (Reg.DEEP_CHc_ROW_HITS c) 1) (0x10C0 + c) 1
  let s := emit s (.dram c a.rank (if write then .write else .read) a.bank a.row a.col)
  if write then
    let s := dbankPut s c b { dbank s c b with hint := none }
    let s := columnAccess (cntWrap s (Reg.DEEP_CHc_WRITES c) 1) c b a.row
    let x := chanOf s c
    let s := chanPut s c { x with writes := x.writes.filter (fun r => r.line != q.line), issued := x.issued + 1 }
    psRecord (lineStore s q.line q.words) q.sample (deepSample s q 1)
  else
    let s := if q.hint then dbankPut s c b { dbank s c b with hint := some (nowNs s + 1000, q.line) } else s
    let s := columnAccess (tally (cntWrap s (Reg.DEEP_CHc_READS c) 1) (0x1080 + c) 1) c b a.row
    let x := chanOf s c
    chanPut s c { x with reads := x.reads.filter (fun r => r != q), inflight := x.inflight ++ [q] }

/-- Mark a request in its queue. -/
def markReq (s : State) (c : Nat) (q q' : DeepReq) : State :=
  let x := chanOf s c
  let swap (l : List DeepReq) := l.map (fun r => if r == q then q' else r)
  chanPut s c { x with reads := swap x.reads, writes := swap x.writes }

/-- Serve a request: its column burst, or the activate or precharge that it needs first. -/
def serveRequest (s : State) (c : Nat) (write : Bool) (q : DeepReq) : State :=
  let a := deepAddr s q.line
  let b := a.bankIdx
  let x := dbank s c b
  if x.row = some a.row then issueColumn s c write q
  else if x.row = none then activateRow (markReq s c q { q with committed := true }) c b a.row
  else
    let s := match x.decided with
      | some (_, true) => dbankPut (predOutcome s c b false) c b { x with decided := none }
      | _ => s
    closeRow (markReq s c q { q with conflict := true }) c b

/-- One per-bank refresh of the next bank of a rank (R227). -/
def refreshBank (s : State) (c r : Nat) : State :=
  let x := drank s c r
  let s := emit s (.dram c r .refreshBank x.next 0 0)
  let s := debtSet (drankPut s c r { x with next := (x.next + 1) % 8 }) c r (debt s c r - 1)
  cntWrap s (Reg.DEEP_CHc_REFRESHES c) 1

/-- The ranks of a channel. -/
def ranksOf (s : State) : List Nat := List.range (rankCount s)

/-- The requests of either kind, oldest first: with whether it is a write. -/
def oldestFirst (rs ws : List DeepReq) : List (Bool × DeepReq) :=
  match rs, ws with
  | r :: _, w :: _ => if w.at_ < r.at_ then [(true, w), (false, r)] else [(false, r), (true, w)]
  | r :: _, [] => [(false, r)]
  | [], w :: _ => [(true, w)]
  | [], [] => []

/-- The physical row of a logical row and back (R231). -/
def physRow (s : State) (lr : Nat) : Nat :=
  (List.range (rowBits s)).foldl (fun p i =>
    let from_ := sec s 0x07 (12 + i) 1
    let from_ := if from_ = 0xFF then i else from_
    p + (b2n (lr.testBit from_) ^^^ b2n ((sec s 0x07 8 4).testBit i)) * 2 ^ i) 0
def logRow (s : State) (p : Nat) : Nat :=
  (List.range (rowBits s)).foldl (fun lr i =>
    let to_ := sec s 0x07 (12 + i) 1
    let to_ := if to_ = 0xFF then i else to_
    lr + (b2n (p.testBit i) ^^^ b2n ((sec s 0x07 8 4).testBit i)) * 2 ^ to_) 0

/-- The logical rows next to a row (R230, R231). -/
def neighbours (s : State) (row : Nat) : List Nat :=
  let p := physRow s row
  let radius := rf s Reg.DEEP_CFG 7 6
  let near := (List.range radius).flatMap (fun d => (if d + 1 ≤ p then [p - (d + 1)] else []) ++ [p + (d + 1)])
  (near.filter (fun q => decide (q < bankRows s))).filterMap (fun q =>
    let lr := logRow s q
    if lr < bankRows s then some lr else none)

/-- One activate and precharge of the neighbour refresh that a closed bank has pending (R232). -/
def neighbourRefresh (s : State) (c b : Nat) : State :=
  let x := dbank s c b
  match x.nrRows with
  | row :: rest =>
    let s := emit (emit s (.dram c (b / 8) .activate (b % 8) row 0)) (.dram c (b / 8) .precharge (b % 8) 0 0)
    dbankPut s c b { x with nrRows := rest }
  | [] =>
    match x.nr with
    | row :: rest =>
      cntWrap (dbankPut s c b { x with nr := rest, nrRows := neighbours s row }) (Reg.DEEP_CHc_NR_ISSUED c) 1
    | [] => s

/-- Demand 2 of R223 on a rank: the next command of a catch-up, or a forced refresh (R228). -/
def mustRefresh (s : State) (c r : Nat) : Option State :=
  let x := drank s c r
  let open_ := (List.range 8).filter (fun b => (dbank s c (8 * r + b)).row.isSome)
  match x.catchup with
  | some (t, n, done, lim) =>
    if n ≤ done then none
    else if open_ ≠ [] then some (open_.foldl (fun s b => closeForRefresh s c (8 * r + b)) s)
    else
      let s := emit s (.dram c r .refreshAll 0 0 0)
      some (cntWrap (drankPut s c r { x with catchup := some (t, n, done + 1, lim) }) (Reg.DEEP_CHc_REFRESHES c) 8)
  | none =>
    let d := debt s c r
    let lim := debtLimit s c r
    if 0 < d ∧ (lim : Int) ≤ d then
      if (dbank s c (8 * r + x.next)).row.isSome then some (closeForRefresh s c (8 * r + x.next))
      else some (refreshBank s c r)
    else none

/-- Demands 7 and 9 of R223 on a rank: a due refresh of an idle bank, or one pulled in while nothing is queued. -/
def mayRefresh (s : State) (c r : Nat) (pullIn : Bool) : Option State :=
  let x := chanOf s c
  let k := drank s c r
  let b := 8 * r + k.next
  let busy := (x.reads ++ x.writes).any (fun q => (deepAddr s q.line).bankIdx == b)
  let due := if pullIn then x.reads == [] && x.writes == [] && decide (-(debtLimit s c r : Int) < debt s c r)
    else decide (0 < debt s c r)
  if k.catchup.isNone && due && !busy && (dbank s c b).row.isNone then some (refreshBank s c r) else none

/-- Demand k of R223, if channel c has it: what serving it does. Orders 3 belongs to commands of its own. -/
def demand (s : State) (c k : Nat) : Option State :=
  let x := chanOf s c
  let reads := servable s c false
  let writes := servable s c true
  let mode := rb s (Reg.DEEP_CHc_STATUS c) 7
  let ofMode := if mode then writes else reads
  match k with
  | 1 =>
    match x.reads.find? (fun q => q.committed && rowOpen s q) with
    | some q => some (issueColumn s c false q)
    | none => (x.writes.find? (fun q => q.committed && rowOpen s q)).map (issueColumn s c true)
  | 2 => (ranksOf s).findSome? (mustRefresh s c)
  | 4 => ((oldestFirst (reads.filter (ageCapped s)) (writes.filter (ageCapped s))).head?).map (fun e =>
      serveRequest s c e.1 e.2)
  | 5 =>
    if retraining s c then none
    else
      ((List.range (8 * rankCount s)).find? (fun b =>
        let y := dbank s c b
        y.row.isNone && (y.nr != [] || y.nrRows != []) && (drank s c (b / 8)).catchup.isNone)).map (neighbourRefresh s c)
  | 6 => (ofMode.find? (rowOpen s)).map (issueColumn s c mode)
  | 7 => (ranksOf s).findSome? (fun r => mayRefresh s c r false)
  | 8 => (ofMode.head?).map (serveRequest s c mode)
  | 9 => (ranksOf s).findSome? (fun r => mayRefresh s c r true)
  | _ => none

/-- Read and write mode (R223), before the slot is given; writes that waited enter the queue. -/
def slotMode (s : State) (c : Nat) : State :=
  let x := chanOf s c
  let room := 64 - x.writes.length
  let x := { x with writes := x.writes ++ x.writeWait.take room, writeWait := x.writeWait.drop room }
  let s := chanPut s c x
  let n := x.writes.length
  let st := Reg.DEEP_CHc_STATUS c
  if rb s st 7 then
    if n = 0 ∨ (16 ≤ x.issued ∧ n < 32) then wf s st 7 7 0 else s
  else if 32 ≤ n ∨ x.writes.head?.any (ageCapped s) ∨ (x.reads = [] ∧ 0 < n) then
    wf (chanPut s c { x with issued := 0 }) st 7 7 1
  else s

/-- Channel c can issue commands: trained, powered and not in self-refresh. -/
def chanRuns (s : State) (c : Nat) : Bool :=
  rb s (Reg.DEEP_CHc_STATUS c) 0 && !chanFailed s c && decide (chanPower s c ≤ 1) && !humDown s (20 + c / 8)

/-- One command slot of channel c. -/
def commandSlot (s : State) (c : Nat) (blocked : List Nat) : State :=
  if !chanRuns s c then s
  else
    let s := slotMode s c
    (([1, 2, 4, 5, 6, 7, 8, 9].filter (fun k => !blocked.contains k)).findSome? (demand s c)).getD s

/-! ### The read-eye probe (R239 to R241) -/

/-- The eye of a pin: rank × 16 + pin. -/
def eyeOf (s : State) (c k : Nat) : Nat × Nat × Nat × Nat := tabGet (chanOf s c).eyes k (0, 0, 0, 0)

/-- Set the eye of a pin; the registers show rank 0 (assumption 12). -/
def eyeSet (s : State) (c k : Nat) (e : Nat × Nat × Nat × Nat) : State :=
  let s := chanPut s c { chanOf s c with eyes := tabSet (chanOf s c).eyes k e }
  if k < 16 then
    wrn s (Reg.DEEP_CHc_PINi_EYE c k)
      (e.1 % 64 + e.2.1 % 64 * 2 ^ 8 + e.2.2.1 % 128 * 2 ^ 16 + e.2.2.2 % 128 * 2 ^ 24)
  else s

/-- Show which pin is probed and whether the probe runs. -/
def showProbe (s : State) (c : Nat) : State :=
  let x := chanOf s c
  let on := rb s Reg.DEEP_CFG 8 && rb s (Reg.DEEP_CHc_STATUS c) 0 && x.probeStop == 0
  wf (wf s (Reg.DEEP_CHc_STATUS c) 6 6 (b2n on)) (Reg.DEEP_CHc_STATUS c) 19 16 (x.probe % 16)

/-- What a read of rank r with errors on some pins tells the probe (R239, R240). -/
def probeRead (s : State) (c r : Nat) (pins : List Nat) : State :=
  let x := chanOf s c
  if !rb s (Reg.DEEP_CHc_STATUS c) 6 then
    showProbe (chanPut s c { x with probeStop := x.probeStop - 1 }) c
  else if pins.any (fun p => p != x.probe % 16) || x.reads.any (ageCapped s) then
    showProbe (chanPut s c { x with probeStop := 1024 }) c
  else if x.probe / 16 ≠ r then s
  else
    let (nl, el, nr, er) := x.probeCount
    let e := b2n (pins != [])
    chanPut s c { x with probeCount := if (nl + nr) % 2 = 0 then (nl + 1, el + e, nr, er) else (nl, el, nr + 1, er + e) }

/-- A side's estimate after a window. -/
def estNext (est n e : Nat) : Nat :=
  if 1024 ≤ n ∧ e = 0 then min 63 (est + 1) else if n < e * 1024 then est - 1 else est

/-- The margin of byte lane l of a channel (R241). -/
def laneMargin (s : State) (c l : Nat) : Nat :=
  ((ranksOf s).flatMap (fun r => (List.range 8).map (fun i => eyeOf s c (16 * r + 8 * l + i)))).foldl
    (fun m e => min m (min e.1 e.2.1)) 63

/-- A retraining of channel c begins (R243). -/
def retrainStart (s : State) (c : Nat) : State :=
  chanPut (wf s (Reg.DEEP_CHc_STATUS c) 5 5 1) c { chanOf s c with retrain := some (nowNs s) }

/-- Why a retraining is refused (R243): RESULT, 0 when it is not. -/
def retrainRefusal (s : State) (c : Nat) : Nat :=
  if retraining s c then 1
  else if (List.range 8).any (fun i => retraining s (c / 8 * 8 + i)) then 2
  else if chanFailed s c then 3
  else if chanPower s c ≠ 0 then 4 else 0

/-- A host retraining command or the standing order: it starts or is refused. -/
def retrainAsk (s : State) (c : Nat) (host : Bool) : State :=
  let st := Reg.DEEP_CHc_CMD_STATUS c
  let r := retrainRefusal s c
  if r = 0 then retrainStart (if host then wf (wf s st 3 1 0) st 0 0 1 else s) c
  else chanEvent (wf s st 3 1 r) c 8 0 r

/-- The margins of the byte lanes of a channel are looked at again. -/
def laneLook (s : State) (c : Nat) : State :=
  let th := rf s Reg.DEEP_EYE_THRESH 5 0
  (List.range 2).foldl (fun s l =>
    let m := laneMargin s c l
    let x := chanOf s c
    let s := wrn s (Reg.DEEP_CHc_EYEl c l) (m + b2n (decide (m < th)) * 2 ^ 31)
    let s := slackReport s 1 (2 * c + l) m th
    if x.below.contains l then
      if th + 2 ≤ m then chanPut s c { x with below := x.below.filter (· != l) } else s
    else if m < th then
      let s := chanEvent (chanPut s c { x with below := l :: x.below }) c 5 l m
      let ready := match x.autoAt with
        | some t => elapsed s t 100000000
        | none => true
      if rb s Reg.DEEP_ORDER 0 && ready then
        retrainAsk (chanPut s c { chanOf s c with autoAt := some (nowNs s) }) c false
      else s
    else s) s

/-- The probe window on a pin ends (R239). -/
def probeEnd (s : State) (c : Nat) : State :=
  let x := chanOf s c
  if !rb s Reg.DEEP_CFG 8 || !chanRuns s c || !elapsed s x.probeAt 64000 then s
  else
    let (l, r, ctr, wd) := eyeOf s c x.probe
    let (nl, el, nr, er) := x.probeCount
    let l := estNext l nl el
    let r := estNext r nr er
    let ctr' := if l + 2 ≤ r then min 127 (ctr + 1) else if r + 2 ≤ l then ctr - 1 else ctr
    let s := eyeSet s c x.probe (l, r, ctr', wd)
    let s := if ctr' ≠ ctr ∧ (ctr' = 0 ∨ ctr' = 127) then chanEvent s c 6 (x.probe % 16 / 8) (x.probe % 16) else s
    let next := (x.probe + 1) % (16 * rankCount s)
    let s := chanPut s c { chanOf s c with probe := next, probeAt := nowNs s, probeCount := (0, 0, 0, 0) }
    laneLook (showProbe s c) c

/-! ### Reads that return (R217) -/

/-- The outcome of a read: its request, the words, and whether the line is uncorrectable. -/
def deepReturn (s : State) (c : Nat) (errors : List (Nat × Nat)) : Option (DeepReq × List W64 × Bool) × State :=
  match (chanOf s c).inflight with
  | [] => (none, s)
  | q :: rest =>
    let s := chanPut s c { chanOf s c with inflight := rest }
    let a := deepAddr s q.line
    let x := tabGet s.cask.lines q.line {}
    let errs := if x.bad ≠ [] then x.bad else (errors.filter (fun e => e.2 != 0)).foldl (fun t e => tabSet t e.1 e.2) []
    let pins := (errs.map (fun e => e.1 % 16)).eraseDups
    if 2 < errs.length then
      if rb s (Reg.DEEP_CHc_STATUS c) 6 && !q.again then
        let s := cnt (emit s (.dram c a.rank .read a.bank a.row a.col)) (Reg.DEEP_CHc_PROBE_REREADS c) 1
        let y := chanOf s c
        (none, chanPut s c { y with inflight := { q with again := true } :: y.inflight })
      else
        let s := psRecord s q.sample (deepSample s q 0)
        let s := chanEvent (cntWrap s (Reg.DEEP_CHc_UNCORRECTABLE c) 1) c 0 0 q.line
        let s := { s with cask := { s.cask with lines := tabPut s.cask.lines q.line { x with bad := errs } {} } }
        (some (q, applyErrors (lineWords x) errs, true), s)
    else
      let s := psRecord s q.sample (deepSample s q 0)
      let s := errs.foldl (fun s e =>
        cntWrap (cnt s (Reg.DEEP_CHc_PINi_CORR c (e.1 % 16)) 1) (Reg.DEEP_CHc_CORR_SYMBOLS c) 1) s
      let s := if errs = [] then s else
        let s := cntWrap s (Reg.DEEP_CHc_CORRECTED c) 1
        chanPut s c { chanOf s c with corrected := (chanOf s c).corrected + 1 }
      let s := if q.again then s else probeRead s c a.rank pins
      (some (q, lineWords x, false), s)

/-- Registers of the DEEP block whose value is computed from the state. -/
def deepView (s : State) (a : Nat) : Option W64 :=
  let c := (a - 0x01400000) / 0x10000
  if 0x01400000 ≤ a ∧ a < 0x01800000 ∧ a = Reg.DEEP_CHc_QUEUE c then
    some (BitVec.ofNat 64 ((chanOf s c).reads.length + (chanOf s c).writes.length * 256))
  else none

/-! ### The commands -/

/-- ROW_HOLD_TIMEOUT (R224): due 60 ns × (1 + the ones in HISTORY) after the last access to a row kept open. -/
def execRowHoldTimeout (ch : Fin 64) (bank : Fin 16) (s : State) : Host.Outcome State Fault Refusal :=
  let c := ch.val
  let b := bank.val
  let x := dbank s c b
  let h := rf s (Reg.DEEP_CHc_PREDb c b) 7 0
  let ones := (List.range 8).foldl (fun n i => n + b2n (h.testBit i)) 0
  .next (match x.row, x.decided with
    | some row, some (r, true) =>
      if r = row ∧ x.hint.isNone ∧ elapsed s x.used (60 * (1 + ones)) then
        closeRow (dbankPut (predOutcome s c b false) c b { x with decided := none }) c b
      else s
    | _, _ => s)

/-- HINT_EXPIRY (R225): a hinted row's 1 µs has passed; STATE decides again whether it stays open. -/
def execHintExpiry (ch : Fin 64) (bank : Fin 16) (s : State) : Host.Outcome State Fault Refusal :=
  let c := ch.val
  let b := bank.val
  let x := dbank s c b
  .next (match x.hint with
    | some (t, _) =>
      if t ≤ nowNs s then
        let s := dbankPut s c b { x with hint := none }
        if x.row.isSome && x.decided.all (fun d => !d.2) then closeRow s c b else s
      else s
    | none => s)

/-- REFRESH_DUE (R227): the due interval of the rank's rate has elapsed. -/
def execRefreshDue (ch : Fin 64) (rank : Fin 2) (s : State) : Host.Outcome State Fault Refusal :=
  let c := ch.val
  let r := rank.val
  let x := drank s c r
  .next (if chanRuns s c && decide (r < rankCount s) && elapsed s x.dueAt (dueInterval (rateOf s c r)) then
      debtSet (drankPut s c r { x with dueAt := x.dueAt + dueInterval (rateOf s c r) }) c r (debt s c r + 1)
    else s)

/-- The index of the staggered period of a rank that has begun by now (R226): the period and the offset in ns. -/
def staggerIndex (s : State) (c r period : Nat) : Nat :=
  (nowNs s + period - (2 * c + r) * (period / 128)) / period

/-- MR4 gives a rank its refresh rate (R226, R228). -/
def mr4Poll (s : State) (c r v : Nat) : State :=
  let op := v % 8
  let old := rateOf s c r
  let new := if op ≤ 3 then 0 else if op = 4 then 1 else if op = 5 then 2 else 3
  let was := rf s (Reg.DEEP_CHc_MR4 c) (8 * r + 2) (8 * r)
  let s := wf s (Reg.DEEP_CHc_MR4 c) (8 * r + 7) (8 * r) v
  let s := if (op = 0 ∨ op = 7) ∧ was ≠ op then chanEvent s c 4 r v else s
  let d := debt s c r
  if new = old then s
  else
    let s := wf s (Reg.DEEP_CHc_STATUS c) (10 + 3 * r) (8 + 3 * r) new
    if dueInterval new = dueInterval old then s
    else
      let s := chanEvent s c 2 r (pack4 old new (unsigned 16 d) 0)
      let x := drank s c r
      let lim := limitOf new
      if dueInterval new < dueInterval old then
        if 0 < d then
          let s := drankPut s c r { x with catchup := some (nowNs s, (d.toNat + 7) / 8, 0, lim) }
          wf s (Reg.DEEP_CHc_STATUS c) (14 + r) (14 + r) 1
        else debtSet (debtLimitSet s c r lim) c r (max d (-(lim : Int)))
      else debtLimitSet s c r lim

/-- MR4_POLL (R226): every 4 ms, staggered over the ranks of the device. -/
def execMr4Poll (ch : Fin 64) (rank : Fin 2) (value : BitVec 8) (s : State) : Host.Outcome State Fault Refusal :=
  let c := ch.val
  let r := rank.val
  let x := drank s c r
  let i := staggerIndex s c r 4000000
  .next (if chanRuns s c && decide (r < rankCount s ∧ x.mr4At < i) then
      let s := emit s (.dram c r .modeRead 0 4 0)
      mr4Poll (drankPut s c r { x with mr4At := i }) c r value.toNat
    else s)

/-- CATCHUP_COMPLETE (R228): the last REFab has completed. -/
def execCatchupComplete (ch : Fin 64) (rank : Fin 2) (s : State) : Host.Outcome State Fault Refusal :=
  let c := ch.val
  let r := rank.val
  let x := drank s c r
  .next (match x.catchup with
    | some (t, n, done, lim) =>
      if n ≤ done then
        let s := drankPut s c r { x with catchup := none }
        let s := debtSet (debtLimitSet s c r lim) c r (max (debt s c r - 8 * n) (-(lim : Int)))
        let s := cnt (wf s (Reg.DEEP_CHc_STATUS c) (14 + r) (14 + r) 0) (Reg.DEEP_CHc_CATCHUPS c) 1
        chanEvent s c 3 r (pack2 (nowNs s - t) n)
      else s
    | none => s)

/-- NR_RESEED (R230): once a second the generator takes a new seed, which cannot be read. -/
def execNrReseed (ch : Fin 64) (s : State) : Host.Outcome State Fault Refusal :=
  let c := ch.val
  .next (if elapsed s (chanOf s c).seededAt 1000000000 then
      let (v, s) := fresh s
      chanPut s c { chanOf s c with gen := v, seededAt := nowNs s }
    else s)

/-- DEEP_CORR_WINDOW (R217): a window of 1 ms ends. -/
def execDeepCorrWindow (ch : Fin 64) (s : State) : Host.Outcome State Fault Refusal :=
  let c := ch.val
  let x := chanOf s c
  .next (if elapsed s x.corrAt 1000000 then
      let s := chanPut s c { x with corrected := 0, corrAt := nowNs s }
      if rf s Reg.DEEP_CORR_THRESH 19 0 ≤ x.corrected then chanEvent s c 1 0 x.corrected else s
    else s)

/-- DQS_OSC_READ (R238): the write DQ delay of every pin moves by the change that the count since the baseline gives. -/
def execDqsOscRead (ch : Fin 64) (rank : Fin 2) (count : BitVec 16) (shift : Int) (s : State) :
    Host.Outcome State Fault Refusal :=
  let c := ch.val
  let r := rank.val
  let x := drank s c r
  let i := staggerIndex s c r 1000000
  .next (if chanRuns s c && decide (r < rankCount s ∧ x.oscAt < i) then
      let s := emit s (.dram c r .modeRead 0 18 0)
      let s := wf s (Reg.DEEP_CHc_DQSOSC c) (16 * r + 15) (16 * r) count.toNat
      let s := drankPut s c r { x with oscAt := i }
      (List.range 16).foldl (fun s p =>
        let (l, e, ctr, wd) := eyeOf s c (16 * r + p)
        eyeSet s c (16 * r + p) (l, e, ctr, (max 0 (min 127 ((wd : Int) + shift))).toNat)) s
    else s)

/-- PROBE_WINDOW_END (R239). -/
def execProbeWindowEnd (ch : Fin 64) (s : State) : Host.Outcome State Fault Refusal := .next (probeEnd s ch.val)

/-- ZQ_START (R242): every 128 ms, staggered over the ranks. -/
def execZqStart (ch : Fin 64) (rank : Fin 2) (s : State) : Host.Outcome State Fault Refusal :=
  let c := ch.val
  let r := rank.val
  let x := drank s c r
  let i := staggerIndex s c r 128000000
  .next (if rb s Reg.DEEP_CFG 9 && chanRuns s c && decide (r < rankCount s ∧ x.zqAt < i) then
      emit (drankPut s c r { x with zqAt := i, zqDue := some (nowNs s + 1000) }) (.dram c r .zqStart 0 0 0)
    else s)

/-- ZQ_LATCH (R242): tZQCAL after the start. -/
def execZqLatch (ch : Fin 64) (rank : Fin 2) (s : State) : Host.Outcome State Fault Refusal :=
  let c := ch.val
  let r := rank.val
  let x := drank s c r
  .next (match x.zqDue with
    | some t => if t ≤ nowNs s then emit (drankPut s c r { x with zqDue := none }) (.dram c r .zqLatch 0 0 0) else s
    | none => s)

/-- A write of DEEP_CHc_CMD: the fields are set, and GO with the operation starts it unless BUSY reads 1. `data` is what a
mode register reads. -/
def deepCommand (s : State) (c v data : Nat) : State :=
  let st := Reg.DEEP_CHc_CMD_STATUS c
  let s := regWrite s (Reg.DEEP_CHc_CMD c) (BitVec.ofNat 64 (v % 2 ^ 31))
  if v / 2 ^ 31 % 2 = 0 ∨ rb s st 0 then s
  else
    let r := rf s (Reg.DEEP_CHc_CMD c) 3 3
    match rf s (Reg.DEEP_CHc_CMD c) 2 0 with
    | 1 => retrainAsk s c true
    | 2 =>
      let s := wf s st 3 1 0
      emit (drankPut s c r { drank s c r with zqDue := some (nowNs s + 1000) }) (.dram c r .zqStart 0 0 0)
    | 3 =>
      let s := emit s (.dram c r .modeRead 0 (rf s (Reg.DEEP_CHc_CMD c) 13 8) 0)
      wf (wf s st 3 1 0) st 15 8 data
    | _ => s

/-- RETRAIN_COMPLETE (R244): the new eyes are in place and the held requests resume. -/
def execRetrainComplete (ch : Fin 64) (eyes : List (Nat × Nat × Nat × Nat)) (s : State) :
    Host.Outcome State Fault Refusal :=
  let c := ch.val
  .next (match (chanOf s c).retrain with
    | some t =>
      let s := eyes.zipIdx.foldl (fun s e => eyeSet s c e.2 e.1) s
      let s := chanPut (wf s (Reg.DEEP_CHc_STATUS c) 5 5 0) c { chanOf s c with retrain := none }
      let s := wf s (Reg.DEEP_CHc_CMD_STATUS c) 0 0 0
      laneLook (chanEvent s c 7 0 (nowNs s - t)) c
    | none => s)

/-- INITIAL_TRAINING_COMPLETE (R237): a channel in use is trained, or FAILED. -/
def execInitialTrainingComplete (ch : Fin 64) (failed : Option (Fin 9 × Fin 16)) (eyes : List (Nat × Nat × Nat × Nat))
    (counts : List (BitVec 16)) (s : State) : Host.Outcome State Fault Refusal :=
  let c := ch.val
  let st := Reg.DEEP_CHc_STATUS c
  .next (if rb s st 0 || chanFailed s c || decide (2 ^ chanBits s ≤ c) then s
    else
      match failed with
      | some (step, pin) =>
        let s := wf (wf s st 1 1 1) Reg.DEEP_FAILED c c 1
        chanEvent s c 13 0 (pack2 step.val pin.val)
      | none =>
        let s := wf s st 0 0 1
        let s := eyes.zipIdx.foldl (fun s e => eyeSet s c e.2 e.1) s
        let s := (ranksOf s).foldl (fun s r =>
          drankPut (debtLimitSet s c r 64) c r { drank s c r with
            oscBase := (counts[r]?).map (·.toNat), dueAt := nowNs s }) s
        let s := chanPut s c { chanOf s c with probeAt := nowNs s, corrAt := nowNs s, seededAt := nowNs s }
        laneLook (showProbe s c) c)

/-- SR_QUEUES_EMPTY (R234): DRAIN becomes PRECHARGE; owed refresh is paid. -/
def execSrQueuesEmpty (ch : Fin 64) (s : State) : Host.Outcome State Fault Refusal :=
  let c := ch.val
  let x := chanOf s c
  .next (if chanPower s c = 1 ∧ x.reads = [] ∧ x.writes = [] ∧ x.writeWait = [] ∧ x.inflight = [] then
      let s := (List.range (8 * rankCount s)).foldl (fun s b => closeForRefresh s c b) s
      let s := (ranksOf s).foldl (fun s r =>
        let d := debt s c r
        if 0 < d then
          let n := (d.toNat + 7) / 8
          let s := (List.range n).foldl (fun s _ => emit s (.dram c r .refreshAll 0 0 0)) s
          debtSet (cntWrap s (Reg.DEEP_CHc_REFRESHES c) (8 * n)) c r
            (max (d - 8 * n) (-(debtLimit s c r : Int)))
        else s) s
      chanPowerSet s c 2
    else s)

/-- SR_PRECHARGE_COMPLETE (R234): SRE to every rank. -/
def execSrPrechargeComplete (ch : Fin 64) (s : State) : Host.Outcome State Fault Refusal :=
  let c := ch.val
  .next (if chanPower s c = 2 then
      let s := (ranksOf s).foldl (fun s r => emit s (.dram c r .selfRefreshEntry 0 0 0)) s
      chanEvent (chanPowerSet s c 3) c 10 0 0
    else s)

/-- SR_EXIT_COMPLETE (R234): tSR after SRE, SRX and tXSR; D becomes 0. -/
def execSrExitComplete (ch : Fin 64) (s : State) : Host.Outcome State Fault Refusal :=
  let c := ch.val
  .next (if chanPower s c = 4 ∧ elapsed s (chanOf s c).since 15 then
      let s := (ranksOf s).foldl (fun s r =>
        debtSet (emit s (.dram c r .selfRefreshExit 0 0 0)) c r 0) s
      chanEvent (chanPowerSet s c 0) c 10 0 1
    else s)

end Sys2Proof.Machine
end

