-- ==== Sys2Proof/Machine/Locks.lean ====
section
/-! DEFINITION. The lock protocol of table slots and cask slots (R136, R137), as it acts on the words of one slot. -/
namespace Sys2Proof.Machine

/-- What a compare-and-swap on word 0 of a slot does (R136). -/
inductive CasStep where
  | nothing
  | take
  | unlocked
  | stage
  | clear
deriving DecidableEq, Repr

/-- The row of R136 for a CAS: `word0` is word 0 as a host read returns it. -/
def casStep (locked : Bool) (word0 compare swap : W64) : CasStep :=
  if compare ≠ word0 then .nothing
  else
    match locked, bitOf swap 63 with
    | false, true => .take
    | false, false => .unlocked
    | true, true => .stage
    | true, false => .clear

/-- The words of a string of bytes, little-endian (R9). -/
def wordsOf (n : Nat) (bs : List Byte) : List W64 := (List.range n).map (fun i => BitVec.ofNat 64 (leAt bs (8 * i) 8))

/-- The bytes of words. -/
def bytesOf (ws : List W64) : List Byte := ws.flatMap (fun w => toLE 8 w.toNat)

/-- Words with some of their bytes overwritten. -/
def stageBytes (ws : List W64) (off : Nat) (data : List Byte) : List W64 :=
  wordsOf ws.length (overwrite (bytesOf ws) off data)

/-- A write clears the lock: it covers byte 7 of word 0 with bit 63 = 0. -/
def clearsLock (off : Nat) (data : List Byte) : Bool :=
  decide (off ≤ 7 ∧ 7 < off + data.length) && decide (byteAt data (7 - off) < 128)

end Sys2Proof.Machine
end

