-- ==== Sys2Proof/Machine/CaskStore.lean ====
section
/-! DEFINITION. Records of the Cask store at rest: their words and keys (R168 to R172), placement in the Deep Store (R174
to R178), the Cellar (R181 to R184), commits (R194) and uncorrectable lines (R210, R211). -/
namespace Sys2Proof.Machine

/-! ### Words of a record (R168 to R171) -/

/-- A record is wide. -/
def wideRec (ws : List W64) : Bool := decide (7 < ws.length)

/-- The first word numbers of the three state words that every graph may use (R171). -/
def stateWord (wide : Bool) (k : Nat) : Nat := if wide then [6, 8, 9].getD k 6 else 4 + k

/-- Word 0's VALID, PINNED, LAYOUT and VERSION. -/
def recValid (ws : List W64) : Bool := bitOf (ws.getD 0 0) 62
def recPinned (ws : List W64) : Bool := bitOf (ws.getD 0 0) 57
def recLayout (ws : List W64) : Nat := fld (ws.getD 0 0) 54 52
def recVersion (ws : List W64) : Nat := fld (ws.getD 0 0) 50 48

/-- A bit of word 0 set or cleared. -/
def recBit (ws : List W64) (i : Nat) (b : Bool) : List W64 := listMod ws 0 (fun w => setFld w i i (b2n b))

/-- Context and endpoints of a key as record words 0 to 3, or 0 to 5 when wide (R170). -/
def recKeyWords (wide : Bool) (ctx lo hi : Nat) : List W64 :=
  let w (n : Nat) : W64 := BitVec.ofNat 64 n
  if wide then
    [w (ctx % 2 ^ 48), w (lo / 2 ^ 80), w (lo / 2 ^ 16), w (lo % 2 ^ 16 * 2 ^ 48 + hi / 2 ^ 96), w (hi / 2 ^ 32),
     w (hi % 2 ^ 32 * 2 ^ 32)]
  else
    [w (ctx % 2 ^ 48), w (lo / 2 ^ 32), w (lo % 2 ^ 32 * 2 ^ 32 + hi / 2 ^ 64), w hi]

/-- Endpoints LO and HI of a record (R170). -/
def recEnds (ws : List W64) : Nat × Nat :=
  let w (i : Nat) : Nat := (ws.getD i 0).toNat
  if wideRec ws then
    (w 1 * 2 ^ 80 + w 2 * 2 ^ 16 + w 3 / 2 ^ 48, w 3 % 2 ^ 48 * 2 ^ 96 + w 4 * 2 ^ 32 + w 5 / 2 ^ 32)
  else (w 1 * 2 ^ 32 + w 2 / 2 ^ 32, w 2 % 2 ^ 32 * 2 ^ 64 + w 3)

/-- The key of a record as key words. -/
def recKey (ws : List W64) : List W64 :=
  let e := recEnds ws
  recKeyWords (wideRec ws) (fld (ws.getD 0 0) 47 0) e.1 e.2

/-- The record exists and holds the key. -/
def recHolds (ws key : List W64) : Bool := recValid ws && recKey ws == key

/-- H1 and H2 of a key given as key words (R115, R116): a key of AF 3 has wide endpoints. -/
def keyHashes (s : State) (wide : Bool) (key : List W64) : Nat × Nat :=
  let e := recEnds (key ++ List.replicate (if wide then 8 else 3) 0)
  let n := if fld (key.getD 0 0) 45 44 = 3 then 18 else 12
  let input := toBE 6 (fld (key.getD 0 0) 47 0) ++ toBE n e.1 ++ toBE n e.2
  (crc32c input, crc32c (toBE 4 (rdn s Reg.GRIST_SEED) ++ input))

/-! ### Placement (R117, R174) -/

/-- First row and rows of region n of section 0x07. -/
def regionBase (s : State) (n : Nat) : Nat := sec s 0x07 (32 + 32 * n) 4 % 2 ^ 27
def regionRows (s : State) (n : Nat) : Nat := sec s 0x07 (36 + 32 * n) 4 % 2 ^ 28
def regionUsed (s : State) (n : Nat) : Bool := sec s 0x07 (40 + 32 * n) 1 % 2 == 1

/-- The region that holds a line. -/
def regionOfLine (s : State) (line : Nat) : Option Nat :=
  (List.range 8).find? (fun n => regionUsed s n && decide (regionBase s n ≤ line / 32 ∧
    line / 32 < regionBase s n + regionRows s n))

/-- Records of the region that holds a line are wide. -/
def wideLine (s : State) (line : Nat) : Bool :=
  match regionOfLine s line with
  | some g => (List.range 8).any (fun n => layUse s n == 2 && layRegion s n == g)
  | none => false

/-- The line whose LOCK governs a line (R200). -/
def govLine (s : State) (line : Nat) : Nat := if wideLine s line then line / 2 * 2 else line

/-- Row r of a key in its region, and the spill row of r. -/
def recRow (rows h1 : Nat) : Nat := h1 * rows / 2 ^ 32
def spillRow (rows r : Nat) : Nat := if r < rows / 2 then r + rows / 2 else r - rows / 2

/-- The candidates c0 and c1 as column numbers in a row; for wide records the even line of each pair. -/
def recCands (wide : Bool) (h2 : Nat) : List Nat :=
  if wide then
    let a := h2 / 2 % 16
    let b := h2 / 64 % 16
    [2 * a, 2 * (if b = a then a ^^^ 1 else b)]
  else
    let a := h2 % 32
    let b := h2 / 32 % 32
    [a, if b = a then a ^^^ 1 else b]

/-- The line in a row of region g. -/
def lineAt (s : State) (g row col : Nat) : Nat := (regionBase s g + row) * 32 + col

/-- The Cellar set of a key. -/
def cellarSet (h1 h2 : Nat) : Nat := (h2 / 2 ^ 16) ^^^ (h1 % 2 ^ 16)

/-- The candidate lines of a key under a layout in its row and in its spill row. -/
def candLines (s : State) (lay h1 h2 : Nat) : List Nat × List Nat :=
  let g := layRegion s lay
  let rows := regionRows s g
  let r := recRow rows h1
  let cs := recCands (layUse s lay == 2) h2
  (cs.map (lineAt s g r), cs.map (lineAt s g (spillRow rows r)))

/-- The spill-map bit that covers a global row (R177). -/
def spillBit (s : State) (globalRow : Nat) : Nat := globalRow / 2 ^ rf s Reg.CASK_SPILL_SHIFT 1 0

/-- The spill-map bit of the row that a key hashes to is set. -/
def spilled (s : State) (lay h1 : Nat) : Bool :=
  let g := layRegion s lay
  s.cask.spill.contains (spillBit s (regionBase s g + recRow (regionRows s g) h1))

/-! ### The Cellar (R181 to R183) -/

/-- The ways of a set, least recently used first. -/
def setWays (s : State) (set : Nat) : List Way := tabGet s.cask.cellar set []

/-- Put the ways of a set. -/
def setWaysPut (s : State) (set : Nat) (ws : List Way) : State :=
  { s with cask := { s.cask with cellar := tabPut s.cask.cellar set ws [] } }

/-- The set and the way that cache a line. -/
def wayOfLine (s : State) (line : Nat) : Option (Nat × Way) :=
  s.cask.cellar.findSome? (fun e => (e.2.find? (fun w => w.line == line)).map (fun w => (e.1, w)))

/-- The way of a set that holds a key. -/
def wayOfKey (s : State) (set : Nat) (key : List W64) : Option Way := (setWays s set).find? (fun w => recHolds w.words key)

/-- Ways that an entry of a set takes. -/
def Way.size (w : Way) : Nat := if wideRec w.words then 2 else 1

/-- A way that is pinned, locked or poisoned. -/
def wayFixed (s : State) (w : Way) : Bool := recPinned w.words || w.poisoned || (tabFind s.cask.locks w.line).isSome

/-- Pinned, locked and poisoned ways of a set. -/
def fixedWays (s : State) (set : Nat) : Nat :=
  ((setWays s set).filter (wayFixed s)).foldl (fun n w => n + w.size) 0

/-- A set's quarter is powered. -/
def setAwake (s : State) (set : Nat) : Bool :=
  let h := 32 + set / 16384
  !humDown s h

/-- Replace the way that caches a line. -/
def wayMod (s : State) (line : Nat) (f : Way → Way) : State :=
  match wayOfLine s line with
  | some (set, _) => setWaysPut s set ((setWays s set).map (fun w => if w.line = line then f w else w))
  | none => s

/-- The way of a line becomes the most recently used of its set. -/
def wayTouch (s : State) (line : Nat) : State :=
  match wayOfLine s line with
  | some (set, w) => setWaysPut (touch s (32 + set / 16384)) set ((setWays s set).filter (fun x => x.line != line) ++ [w])
  | none => s

/-- The way of a line is freed. -/
def wayDrop (s : State) (line : Nat) : State :=
  match wayOfLine s line with
  | some (set, _) => setWaysPut s set ((setWays s set).filter (fun x => x.line != line))
  | none => s

/-! ### The newest version of a record -/

/-- The newest committed version at a line: from the ledger, the Cellar, or the Deep Store below them. -/
def recordAt (s : State) (line : Nat) : List W64 :=
  match tabFind s.cask.copies line with
  | some ws => ws
  | none =>
    match wayOfLine s line with
    | some (_, w) => w.words
    | none =>
      let a := (deepLine s line).1
      if wideLine s line then a ++ (deepLine s (line + 1)).1 else a

/-- A record or a free line cannot be read correctly: its way is poisoned, or its lines in the Deep Store are
uncorrectable while no other copy exists. -/
def recordBad (s : State) (line : Nat) : Bool :=
  if (tabFind s.cask.copies line).isSome then false
  else
    match wayOfLine s line with
    | some (_, w) => w.poisoned
    | none => (deepLine s line).2 || (wideLine s line && (deepLine s (line + 1)).2)

/-- An open ledger entry holds the line, or works on the key of the record there. -/
def lineHeld (s : State) (line : Nat) : Bool :=
  s.cask.ledger.any (fun e => e.2.host.isNone && e.2.line == some line) ||
  (let r := recordAt s line
   recValid r && s.cask.ledger.any (fun e => e.2.host.isNone && e.2.keyw == recKey r))

/-- A line that an insertion may take (R175, R202). -/
def lineFree (s : State) (line : Nat) : Bool :=
  !recValid (recordAt s line) && (tabFind s.cask.locks (govLine s line)).isNone && !recordBad s line &&
    !s.cask.ledger.any (fun e => e.2.line == some line)

/-- A record that may move (R175). -/
def lineMovable (s : State) (line : Nat) : Bool :=
  let r := recordAt s line
  recValid r && !recPinned r && (tabFind s.cask.locks (govLine s line)).isNone && !recordBad s line && !lineHeld s line

/-! ### Changes -/

/-- A lead mirrors the words of a record that differ from what they were (R414, R415). -/
def mirrorRec (s : State) (line : Nat) (old new : List W64) : State :=
  let part (k : Nat) : List (Nat × W64) :=
    (List.range 7).filterMap (fun i =>
      let v := new.getD (7 * k + i) 0
      if old.getD (7 * k + i) 0 = v ∧ old.length = new.length then none else some (i, v))
  let put (s : State) (k : Nat) : State := if part k = [] then s else mirror s 0 (line + k) (part k)
  let s := put s 0
  if wideRec new then put s 1 else s

/-- Write a record's lines to the Deep Store. -/
def writeLines (s : State) (line : Nat) (ws : List W64) : State :=
  let s := deepWrite s line (ws.take 7)
  if wideRec ws then deepWrite s (line + 1) (ws.drop 7) else s

/-- The batch in which the version at a line was committed moves with it (R200). -/
def batchMove (s : State) (src dst : Nat) : State :=
  let b := tabGet s.cask.batches src 0
  { s with cask := { s.cask with batches := tabPut (tabPut s.cask.batches src 0 0) dst b 0 } }

/-- Move the record at one line to another: the destination is written, then the source is made not VALID (R175). -/
def moveRecord (s : State) (src dst : Nat) : State :=
  let r := recordAt s src
  let gone := recBit r 62 false
  let s := writeLines s dst r
  let s := writeLines s src gone
  let s := wayMod s src (fun w => { w with line := dst, dirty := false })
  let s := mirrorRec s dst (recordAt s dst) r
  let s := mirror s 0 src [(0, gone.getD 0 0)]
  batchMove s src dst

/-- Write a record back (R178): to its c0 in row r when that line is free, else where it lies. The line where it lies
now. -/
def writeBack (s : State) (line : Nat) (ws : List W64) : Nat × State :=
  let s := writeLines s line ws
  let lay := recLayout ws
  if !rb s Reg.CASK_CFG 2 || !recValid ws || layUse s lay == 0 then (line, s)
  else
    let (h1, h2) := keyHashes s (wideRec ws) (recKey ws)
    match (candLines s lay h1 h2).1 with
    | c0 :: _ =>
      if c0 ≠ line ∧ lineFree s c0 ∧ regionOfLine s c0 = regionOfLine s line ∧
          (tabFind s.cask.locks line).isNone then
        let gone := recBit ws 62 false
        let s := writeLines (writeLines s c0 ws) line gone
        let s := mirror (mirrorRec s c0 [] ws) 0 line [(0, gone.getD 0 0)]
        (c0, batchMove s line c0)
      else (line, s)
    | [] => (line, s)

/-- Evict a way (R182): a dirty one is written back, a clean one dropped. -/
def evict (s : State) (w : Way) : State :=
  let s := wayDrop s w.line
  if w.dirty then (writeBack s w.line w.words).2 else s

/-- A way that may be replaced. -/
def replaceable (s : State) (w : Way) : Bool :=
  !wayFixed s w && !s.cask.ledger.any (fun e => e.2.line == some w.line) && (tabFind s.cask.copies w.line).isNone

/-- Make room for n ways in a set: the least recently used replaceable ways are evicted. -/
def makeRoom : Nat → State → Nat → Nat → Option State
  | 0, _, _, _ => none
  | fuel + 1, s, set, n =>
    let used := (setWays s set).foldl (fun t w => t + w.size) 0
    if used + n ≤ 16 then some s
    else
      match (setWays s set).find? (replaceable s) with
      | some w => makeRoom fuel (evict s w) set n
      | none => none

/-- Allocate a record in its set (R182), if a way qualifies and its quarter is awake; true when it is resident now. -/
def allocate (s : State) (set line : Nat) (ws : List W64) (dirty : Bool) : Bool × State :=
  if !setAwake s set then (false, s)
  else
    let w : Way := { line := line, words := ws, dirty := dirty }
    match makeRoom 17 s set w.size with
    | some s => (true, setWaysPut (touch s (32 + set / 16384)) set (setWays s set ++ [w]))
    | none => (false, s)

/-- Admit a pin or a lock of the record at a line (R183): the set has room below CASK_PIN_WAYS, and the record becomes
resident. -/
def admitFixed (s : State) (line : Nat) : Bool × State :=
  let r := recordAt s line
  let (h1, h2) := keyHashes s (wideRec r) (recKey r)
  let set := cellarSet h1 h2
  let already := match wayOfLine s line with
    | some (_, w) => wayFixed s w
    | none => false
  if !already && decide (rf s Reg.CASK_PIN_WAYS 3 0 ≤ fixedWays s set) then (false, s)
  else if (wayOfLine s line).isSome then (true, s)
  else
    let dirty := (tabFind s.cask.copies line).isSome
    let (ok, s) := allocate s set line r dirty
    (ok, if ok then { s with cask := { s.cask with copies := tabDel s.cask.copies line } } else s)

/-- A pin refused (R183). -/
def pinRefused (s : State) (line : Nat) : State :=
  let r := recordAt s line
  let (h1, h2) := keyHashes s (wideRec r) (recKey r)
  raise (cnt s Reg.CASK_PIN_REFUSED 1) 0x70A line (cellarSet h1 h2)

/-- A set has passed CASK_PIN_WAYS through poisoning or a mirrored pin (R183): `was` is its count before. -/
def setOver (s : State) (set was : Nat) : State :=
  let now := fixedWays s set
  let lim := rf s Reg.CASK_PIN_WAYS 3 0
  if was ≤ lim ∧ lim < now then raise (cnt s Reg.CASK_SET_OVER 1) (0x748 + set / 16384) set now else s

/-- Put the newest version of a record in its place: its way, the ledger's copy while the chain goes on, or the Deep
Store. -/
def putVersion (s : State) (line : Nat) (ws : List W64) (more : Bool) : State :=
  if (wayOfLine s line).isSome then
    wayTouch (wayMod s line (fun w => { w with words := ws, dirty := true, poisoned := false })) line
  else if more then { s with cask := { s.cask with copies := tabSet s.cask.copies line ws } }
  else
    let s := { s with cask := { s.cask with copies := tabDel s.cask.copies line } }
    (writeBack s line ws).2

/-- LAST_SEEN as it would be written now (R171). -/
def lastSeenNow (s : State) : Nat := tickNo s / 1024 % 2 ^ 32

/-- The record words after a commit (R194): LAST_SEEN, OWNER, EXPIRED and VERSION. `old` is the version that stood at the
line. -/
def stampCommit (s : State) (old new : List W64) : List W64 :=
  let wide := wideRec new
  let version := if recValid new && !recValid old then 0 else (recVersion old + 1) % 8
  let owner := if twinOn s then rf s Reg.TWIN_STATUS 4 4 else 0
  let new := listMod new (stateWord wide 0) (fun w => setFld w 31 0 (lastSeenNow s))
  listMod new 0 (fun w => setFld (setFld (setFld (setFld (setFld w 63 63 0) 61 58 0) 56 56 owner) 51 51 0) 50 48 version)

/-- A commit at a line (R194): the new version is put, its batch noted, and a lead emits the delta; a frame operation that
changed no state word emits one only when its LAST_SEEN moved. -/
def commitLine (s : State) (line : Nat) (old new : List W64) (more quiet : Bool) : State :=
  let changed := old.getD (stateWord (wideRec new) 0) 0 != new.getD (stateWord (wideRec new) 0) 0
  let s := { s with cask := { s.cask with batches := tabPut s.cask.batches line (batchNo s) 0 } }
  let s := if quiet && !changed then s else mirrorRec s line old new
  putVersion s line new more

/-- Make the record at a line not VALID, as a commit (R194, R272). -/
def commitDelete (s : State) (line : Nat) (more : Bool) : State :=
  let old := recordAt s line
  let new := recBit (recBit old 62 false) 57 false
  let new := listMod new 0 (fun w => setFld w 50 48 ((recVersion old + 1) % 8))
  let s := { s with cask := { s.cask with
    batches := tabPut s.cask.batches line (batchNo s) 0, copies := tabDel s.cask.copies line } }
  let s := mirrorRec s line old new
  let locked := (tabFind s.cask.locks (govLine s line)).isSome
  let s := if locked then wayMod s line (fun w => { w with words := new, dirty := true, poisoned := false })
    else wayDrop s line
  if more then { s with cask := { s.cask with copies := tabSet s.cask.copies line new } }
  else if locked && (wayOfLine s line).isSome then s else writeLines s line new

/-! ### Uncorrectable lines (R210, R211) -/

/-- A read found a line uncorrectable: reports, and under the standing order the line is invalidated, unless a record
resident in the Cellar will rewrite it. -/
def lineUncorrectable (s : State) (line : Nat) : State :=
  let s := wrn (cnt s Reg.CASK_POISON_OPS 1) Reg.CASK_POISON_LAST (line % 2 ^ 32)
  let s := raise s 0x707 line (deepAddr s line).ch
  if !rb s Reg.CASK_ORDER 0 then s
  else if (wayOfLine s line).isSome || (wayOfLine s (govLine s line)).isSome then s
  else
    let s := lineStore s line []
    let s := { s with cask := { s.cask with batches := tabPut s.cask.batches line (batchNo s) 0 } }
    let s := mirror s 0 line ((List.range 7).map (fun i => (i, (0 : W64))))
    raise s 0x708 line 0

/-- The Cellar way of a record is found uncorrectable: a clean one is dropped, one that holds the only copy is
poisoned. -/
def wayUncorrectable (s : State) (line : Nat) : State :=
  match wayOfLine s line with
  | none => s
  | some (set, w) =>
    if !w.dirty then wayDrop s line
    else
      let was := fixedWays s set
      let s := wayMod s line (fun w => { w with poisoned := true })
      let i := ((setWays s set).findIdx? (fun x => x.line == line)).getD 0
      let s := wrn (cnt s Reg.CASK_POISON_OPS 1) Reg.CASK_POISON_LAST (line % 2 ^ 32 + 2 ^ 32)
      let s := raise s (0x740 + set / 16384) (pack2 set i) line
      let s := setOver s set was
      if rb s Reg.CASK_ORDER 0 then
        let s := wayDrop s line
        let zero : List W64 := w.words.map (fun _ => 0)
        let s := mirrorRec s line w.words zero
        let s := { s with cask := { s.cask with batches := tabPut s.cask.batches line (batchNo s) 0 } }
        raise (writeLines s line zero) 0x708 line 1
      else s

/-! ### Insertion (R175 to R179) -/

/-- The other candidate of the record at a line, in the same row, when it lies at one of its own candidates. -/
def otherCand (s : State) (line : Nat) : Option Nat :=
  let r := recordAt s line
  let (_, h2) := keyHashes s (wideRec r) (recKey r)
  let row := line / 32
  match recCands (wideRec r) h2 with
  | [a, b] =>
    if 32 * row + a = line then some (32 * row + b)
    else if 32 * row + b = line then some (32 * row + a) else none
  | _ => none

/-- Breadth-first search for a chain of moves that frees one of the lines: chains as lists of lines, from the one freed
to the free one. -/
def moveChains (s : State) : Nat → List (List Nat) → List Nat → Option (List Nat)
  | 0, _, _ => none
  | n + 1, chains, seen =>
    let next := chains.filterMap (fun c =>
      match c.getLast? with
      | some l =>
        if lineMovable s l then
          match otherCand s l with
          | some o => if seen.contains o && !lineFree s o then none else some (c ++ [o])
          | none => none
        else none
      | none => none)
    match next.find? (fun c => (c.getLast?).any (lineFree s)) with
    | some c => some c
    | none => moveChains s n next (seen ++ next.filterMap List.getLast?)

/-- Carry out a chain of moves, the free end first. -/
def doMoves (s : State) : List Nat → State
  | a :: b :: t => moveRecord (doMoves s (b :: t)) a b
  | _ => s

/-- A line for a new record among two candidates of a row: free, or freed by at most `n` moves (steps 1 and 2 of R175).
How many moves it took. -/
def placeRow (s : State) (cands : List Nat) (n : Nat) : Option (Nat × List Nat) :=
  match cands.find? (lineFree s) with
  | some l => some (l, [])
  | none =>
    match moveChains s n (cands.map (fun c => [c])) cands with
    | some c => (c.head?).map (fun l => (l, c))
    | none => none

/-- The line for a new record (R175), its moves made; step 3 sets the spill-map bit of row r. -/
def placeRecord (s : State) (lay h1 h2 : Nat) : Option Nat × State :=
  let (here, there) := candLines s lay h1 h2
  let n := rf s Reg.CASK_DISP_MAX 4 0
  match placeRow s here n with
  | some (l, c) => (some l, doMoves s c)
  | none =>
    match placeRow s there n with
    | some (l, c) =>
      let s := doMoves s c
      let g := layRegion s lay
      let b := spillBit s (regionBase s g + recRow (regionRows s g) h1)
      let add (x : List Nat) : List Nat := if x.contains b then x else x ++ [b]
      (some l, cnt { s with cask := { s.cask with spill := add s.cask.spill, spillSeen := add s.cask.spillSeen } }
        Reg.CASK_SPILLED 1)
    | none => (none, s)

/-- The row pair of a key: the region and the lower row. -/
def rowPair (s : State) (lay h1 : Nat) : Nat :=
  let g := layRegion s lay
  let rows := regionRows s g
  let r := recRow rows h1
  g * 2 ^ 28 + min r (spillRow rows r)

/-- An insertion finds no line (R179): counted, and the rehash request of the pair's window. -/
def caskInsFail (s : State) (lay h1 : Nat) : State :=
  let r := recRow (regionRows s (layRegion s lay)) h1
  let s := raise (cnt s Reg.CASK_INS_FAIL 1) 0x705 1 r
  let p := rowPair s lay h1
  let (w, req) := windowFail (nowNs s) (rf s Reg.CASK_INS_WINDOW 15 0) (rf s Reg.CASK_INS_THRESH 15 0)
    (tabFind s.cask.windows p)
  let s := { s with cask := { s.cask with windows := tabSet s.cask.windows p w } }
  if req then raise s 0x706 r w.failures else s

/-- The words of a new record (R175): key, LAYOUT, WIDE and the INIT words. -/
def newRecord (s : State) (lay : Nat) (key : List W64) : List W64 :=
  let wide := layUse s lay == 2
  let ws := key ++ List.replicate ((if wide then 14 else 7) - key.length) 0
  let ws := listMod ws 0 (fun w => setFld (setFld (setFld w 62 62 1) 55 55 (b2n wide)) 54 52 lay)
  (List.range 3).foldl (fun ws k =>
    ws.set (stateWord wide k) (BitVec.ofNat 64 (layInit s lay k + if k = 0 then lastSeenNow s else 0))) ws

end Sys2Proof.Machine
end

