-- ==== Sys2Proof/Machine/Editor.lean ====
section
/-! DEFINITION. The frame editor (R344, R350 to R354, R367, R369, R393, R394, R397) and the stomped FCS (R315). -/
namespace Sys2Proof.Machine

/-- A copy under edit: its bytes without the FCS, each with the place in the received frame that it came from (plus 1; 0 = a
new byte); the bytes inserted, the bytes appended at the tail, and how many of the received bytes were removed there. -/
structure Edit where
  buf : List (Nat × Byte)
  ins : Nat := 0
  app : List Byte := []
  cut : Nat := 0

/-- A frame before any edit. -/
def Edit.of (bytes : List Byte) : Edit :=
  { buf := (bytes.take (bytes.length - 4)).zipIdx.map (fun (b, i) => (i + 1, b)) }

/-- The bytes under edit. -/
def Edit.bytes (e : Edit) : List Byte := e.buf.map (·.2)

/-- Where a byte of the received frame now stands, if it is still there. -/
def Edit.place (e : Edit) (i : Nat) : Option Nat := e.buf.findIdx? (fun x => x.1 == i + 1)

/-- A big-endian field of the bytes under edit. -/
def Edit.get (e : Edit) (pos n : Nat) : Nat := beNat (((e.buf.drop pos).take n).map (·.2))

/-- Overwrite bytes. -/
def Edit.put (e : Edit) (pos : Nat) (bs : List Byte) : Edit :=
  { e with buf := e.buf.zipIdx.map (fun (x, i) => if pos ≤ i ∧ i < pos + bs.length then (x.1, bs.getD (i - pos) 0) else x) }

/-- Insert bytes before a position. -/
def Edit.insert (e : Edit) (pos : Nat) (bs : List Byte) : Edit :=
  { e with buf := e.buf.take pos ++ bs.map (fun b => (0, b)) ++ e.buf.drop pos, ins := e.ins + bs.length }

/-- Remove n bytes. -/
def Edit.remove (e : Edit) (pos n : Nat) : Edit := { e with buf := e.buf.take pos ++ e.buf.drop (pos + n) }

/-- Append bytes at the tail. -/
def Edit.append (e : Edit) (bs : List Byte) : Edit := { e with app := e.app ++ bs }

/-- Where an accepted header now stands; none when it is absent or was removed. -/
def Edit.hdr (e : Edit) (h : Option Hdr) : Option Nat := h.bind (fun h => e.place h.off)

/-! ### Walking the types in front of the payload -/

/-- Is a VLAN TPID. -/
def isTpid (t : Nat) : Bool := t == 0x8100 || t == 0x88A8

/-- Positions of the EtherTypes from the source address on, through VLAN tags, HSR tags, R-TAGs and SecTAGs; the last is the
payload's. -/
def Edit.types (e : Edit) : Nat → Nat → List (Nat × Nat)
  | 0, _ => []
  | fuel + 1, pos =>
    let t := e.get pos 2
    let n := if isTpid t then 4
      else if t = 0xF1C1 ∨ t = 0x892F then 6
      else if t = 0x88E5 then (if e.get (pos + 2) 1 / 32 % 2 = 1 then 16 else 8)
      else 0
    if n = 0 ∨ e.buf.length < pos + n + 2 then [(pos, t)] else (pos, t) :: e.types fuel (pos + n)

/-- The types of a frame. -/
def Edit.walk (e : Edit) : List (Nat × Nat) := e.types 12 12

/-- The position of the payload's EtherType. -/
def Edit.typePos (e : Edit) : Nat := ((e.walk.getLast?).getD (12, 0)).1

/-- The position of the outermost VLAN tag's TPID. -/
def Edit.tagPos (e : Edit) : Option Nat := (e.walk.find? (fun t => isTpid t.2)).map (·.1)

/-- The position of the top MPLS label. -/
def Edit.labelPos (e : Edit) : Option Nat :=
  let p := e.typePos
  if e.get p 2 = 0x8847 ∨ e.get p 2 = 0x8848 then some (p + 2) else none

/-! ### Checksums (R351) -/

/-- One's complement sum of 16-bit words into 16 bits. -/
def fold16 (n : Nat) : Nat := let a := n % 2 ^ 16 + n / 2 ^ 16; a % 2 ^ 16 + a / 2 ^ 16

/-- Incremental update by RFC 1624: HC' = ~(~HC + ~m + m'). -/
def cksum (hc : Nat) (old new : List Byte) : Nat :=
  let words (bs : List Byte) : List Nat := (List.range ((bs.length + 1) / 2)).map (fun i => beAt bs (2 * i) 2)
  let s := (words old).foldl (fun a w => a + (0xFFFF - w)) (0xFFFF - hc)
  0xFFFF - fold16 (fold16 ((words new).foldl (· + ·) s))

/-- Update the checksum at a position when it is not zero; UDP sends a zero as ones. -/
def Edit.fixCk (e : Edit) (pos : Nat) (udp : Bool) (old new : List Byte) : Edit :=
  let c := e.get pos 2
  if c = 0 ∨ e.buf.length < pos + 2 then e
  else
    let c := cksum c old new
    e.put pos (toBE 2 (if udp && c == 0 then 0xFFFF else c))

/-! ### Directives (R261, R351, R352) -/

/-- NAT of the layer-0 IPv4 address at an offset of its header, and of the port. -/
def editNat (e : Edit) (p : Parsed) (addr port : Nat) (dst : Bool) : Option Edit :=
  let ip := p.find 0 [.ipv4]
  match e.hdr ip with
  | none => none
  | some o =>
    let ao := o + if dst then 16 else 12
    let old := toBE 4 (e.get ao 4)
    let new := toBE 4 addr
    let e := (e.put ao new).put (o + 10) (toBE 2 (cksum (e.get (o + 10) 2) old new))
    if ip.any (fun h => h.frag == 2) then some e
    else
      let l4 := p.find 0 [.udp, .tcp, .sctp]
      match l4, e.hdr l4 with
      | some h, some lo =>
        let po := lo + if dst then 2 else 0
        let oldP := toBE 2 (e.get po 2)
        let newP := toBE 2 port
        let e := e.put po newP
        match h.kind with
        | .udp => some (e.fixCk (lo + 6) true (old ++ oldP) (new ++ newP))
        | .tcp => some (e.fixCk (lo + 16) false (old ++ oldP) (new ++ newP))
        | _ => some e
      | _, _ => some e

/-- DEC_TTL: the top label's TTL, the IPv4 TTL, or the hop limit; 1 and 0 stay. -/
def editTtl (e : Edit) (p : Parsed) : Option Edit :=
  match e.labelPos, e.hdr (p.find 0 [.ipv4]), e.hdr (p.find 0 [.ipv6]) with
  | some l, _, _ => some (if e.get (l + 3) 1 ≤ 1 then e else e.put (l + 3) (toBE 1 (e.get (l + 3) 1 - 1)))
  | none, some o, _ =>
    let t := e.get (o + 8) 1
    if t ≤ 1 then some e
    else
      let old := toBE 2 (e.get (o + 8) 2)
      let new := toBE 2 (e.get (o + 8) 2 - 256)
      some ((e.put (o + 8) (toBE 1 (t - 1))).put (o + 10) (toBE 2 (cksum (e.get (o + 10) 2) old new)))
  | none, none, some o => some (if e.get (o + 7) 1 ≤ 1 then e else e.put (o + 7) (toBE 1 (e.get (o + 7) 1 - 1)))
  | none, none, none => none

/-- OVERWRITE: the header that IMM names must be present, and the bytes outside the span of the run's FN 1 job (R370). -/
def editOverwrite (e : Edit) (fr : Frame) (d : Directive) : Option Edit :=
  let h := fr.parsed.hdrs[natFld d.imm 15 12]?
  let n := [1, 2, 4, 6, 8].getD (natFld d.imm 18 16) 1
  let off := natFld d.imm 8 0
  match h, e.hdr h with
  | some h, some p =>
    let i := h.off + off
    let inSpan := decide (fr.span.2 ≠ 0 ∧ i < fr.span.1 + fr.span.2 ∧ fr.span.1 < i + n)
    if inSpan || decide (e.buf.length < p + off + n) then none else some (e.put (p + off) (toBE n d.a.toNat))
  | _, _ => none

/-- PUSH_MPLS: above the stack, or a new stack. -/
def editPushMpls (e : Edit) (lse : Nat) : Edit :=
  match e.labelPos with
  | some l => e.insert l (toBE 4 lse)
  | none =>
    let p := e.typePos
    (e.put p (toBE 2 0x8847)).insert (p + 2) (toBE 4 (lse ||| 0x100))

/-- POP_MPLS: a bottom label must be followed by IPv4 or IPv6. -/
def editPopMpls (e : Edit) : Option Edit :=
  match e.labelPos with
  | none => none
  | some l =>
    if e.get (l + 2) 1 % 2 = 1 then
      let k := if l + 4 < e.buf.length then e.get (l + 4) 1 / 16 else 0
      if k = 4 then some ((e.put (l - 2) (toBE 2 0x0800)).remove l 4)
      else if k = 6 then some ((e.put (l - 2) (toBE 2 0x86DD)).remove l 4)
      else none
    else some (e.remove l 4)

/-- APPEND_ICV: the value of the run's job; for FN 1 the extension length is written into Reserved 1 (R370). -/
def editIcv (e : Edit) (fr : Frame) : Edit :=
  let e := e.append fr.icv
  match (if fr.span.2 = 0 then none else e.place (fr.span.1 + 5)) with
  | some p => e.put p [BitVec.ofNat 8 fr.icv.length]
  | none => e

/-- One directive of step 1; none when it cannot be applied (R352). -/
def editDirective (e : Edit) (fr : Frame) (d : Directive) : Option Edit :=
  match d.fn with
  | 0x10 => editOverwrite e fr d
  | 0x11 => some (e.insert 12 (toBE 4 d.a.toNat))
  | 0x12 => e.tagPos.map (fun p => e.remove p 4)
  | 0x13 => some (editPushMpls e (d.a.toNat % 2 ^ 32))
  | 0x14 => editPopMpls e
  | 0x15 => e.labelPos.map (fun l => e.put l (toBE 4 (e.get l 4 % 2 ^ 12 + d.a.toNat % 2 ^ 20 * 2 ^ 12)))
  | 0x16 => editNat e fr.parsed (d.a.toNat % 2 ^ 32) (d.b.toNat % 2 ^ 16) false
  | 0x17 => editNat e fr.parsed (d.a.toNat % 2 ^ 32) (d.b.toNat % 2 ^ 16) true
  | 0x18 => editTtl e fr.parsed
  | 0x1A => if fr.parsed.hdrs.any (fun h => h.kind == .ptp) then some e else none
  | 0x1B => some (editIcv e fr)
  | _ => some e

/-- The directives in list order; on a failure the FN of the one that failed. -/
def editDirectives (fr : Frame) : List Directive → Edit → Except Nat Edit
  | [], e => .ok e
  | d :: t, e =>
    match editDirective e fr d with
    | some e => editDirectives fr t e
    | none => .error d.fn

/-! ### Next hop, tags and redundancy (R134, R122, R344) -/

/-- The words of a next hop that the editor writes. -/
def editNextHop (e : Edit) (w0 w1 w2 : W64) : Edit :=
  let vid := fld w1 27 16
  let e := (e.put 0 (toBE 6 (fld w0 47 0))).put 6 (toBE 6 (fld w2 47 0))
  match e.tagPos with
  | some p => e.put (p + 2) (toBE 2 (e.get (p + 2) 2 / 2 ^ 12 * 2 ^ 12 + vid))
  | none => e.insert 12 (toBE 4 (0x8100 * 2 ^ 16 + vid))

/-- The profile under which the editor looks for a PRP trailer: that of the ingress quad. -/
def editProfile (s : State) (fr : Frame) : Profile :=
  if fr.inject.isSome then { depth := 512, enables := 2 ^ 20 - 1, vxlan := 4789, geneve := 6081, rgoose := 102 }
  else profileOf s (fr.port / 4)

/-- STRIP_RED: R-TAG, HSR tag and PRP trailer go. -/
def editStrip (e : Edit) (fr : Frame) (prp : Nat) : Edit :=
  let drop (e : Edit) (k : HdrKind) : Edit :=
    match e.hdr (fr.parsed.hdrs.find? (fun h => h.kind == k)) with
    | some p => e.remove (p - 2) 6
    | none => e
  let e := drop (drop e .rtag) .hsr
  { e with buf := e.buf.take (e.buf.length - prp), cut := e.cut + prp }

/-- After the outermost VLAN tags. -/
def Edit.afterTags (e : Edit) : Nat → Nat → Nat
  | 0, p => p
  | n + 1, p => if isTpid (e.get p 2) then e.afterTags n (p + 4) else p

/-- PUSH_RTAG: the tag that RED of the egress port calls for; a trailer comes after padding to the 60 bytes of the frame. LSDU
sizes are written at step 6. -/
def editPushRed (e : Edit) (red seq : Nat) : Edit :=
  match red with
  | 0 => e.insert (e.afterTags 8 12) (toBE 2 0xF1C1 ++ toBE 2 0 ++ toBE 2 seq)
  | 3 => e.insert 12 (toBE 2 0x892F ++ toBE 2 0 ++ toBE 2 seq)
  | _ =>
    let e := e.append (List.replicate (54 - (e.buf.length + e.app.length)) 0#8)
    e.append (toBE 2 seq ++ toBE 2 ((if red = 1 then 0xA else 0xB) * 2 ^ 12) ++ toBE 2 0x88FB)

/-- Step 6: the LSDU size of the HSR tag and of the PRP trailer of a body of n bytes. -/
def editLsdu (e : Edit) (n : Nat) (kept : Option Nat) (pushed : Bool) : Edit :=
  let size (v : Nat) : Nat := v / 2 ^ 12 * 2 ^ 12 + (n - 14) % 2 ^ 12
  let e := match e.walk.find? (fun t => t.2 == 0x892F) with
    | some t => e.put (t.1 + 2) (toBE 2 (size (e.get (t.1 + 2) 2)))
    | none => e
  let e := match kept.bind e.place with
    | some p => e.put p (toBE 2 (size (e.get p 2)))
    | none => e
  if pushed then
    let k := e.app.length - 4
    { e with app := overwrite e.app k (toBE 2 (size (beAt e.app k 2))) }
  else e

/-! ### SecTAG (R367, R369) -/

/-- STRIP of a verified KIND 0 frame: its SecTAG goes, and the ICV with what follows it. -/
def editUntagSec (e : Edit) (fr : Frame) : Edit :=
  match fr.parsed.find 0 [.sectag] with
  | none => e
  | some h =>
    let n := if byteAt fr.bytes h.off / 32 % 2 = 1 then 16 else 8
    let sl := byteAt fr.bytes (h.off + 1) % 64
    let tail := if sl = 0 then 16 else fr.bytes.length - 4 - (h.off + (n - 2) + sl)
    let e := { e with buf := e.buf.take (e.buf.length - tail), cut := e.cut + tail }
    match e.hdr (some h) with
    | some p => e.remove (p - 2) n
    | none => e

/-- The SecTAG of an SA on a port, for `data` bytes of user data. -/
def secTag (s : State) (port sa pn data : Nat) : List Byte :=
  let tx := rd s (Reg.AUTH_PORTp_TX port)
  let tci := b2n (bitOf tx 13) * 64 + b2n (bitOf tx 12) * 32 + b2n (bitOf tx 14) * 16 + rf s (Reg.AUTH_SAs_CFG sa) 17 16
  toBE 2 0x88E5 ++ [BitVec.ofNat 8 tci, BitVec.ofNat 8 (if data < 48 then data else 0)] ++ toBE 4 pn ++
    (if bitOf tx 12 then toBE 8 (rdn s (Reg.AUTH_SAs_SCI sa)) else [])

/-! ### The one-step correction (R394, R397) -/

/-- Add to the correctionField of the frame's PTP header, with its limit; the UDP checksum follows. -/
def editCorrect (e : Edit) (fr : Frame) (add : Int) (origin : Option Nat) : Edit :=
  match e.hdr (fr.parsed.hdrs.find? (fun h => h.kind == .ptp)) with
  | none => e
  | some p =>
    let old := e.get (p + 8) 8
    let max : Int := 2 ^ 63 - 1
    let new := if old = 2 ^ 63 - 1 then old else unsigned 64 (min max (signed 64 old + add))
    let udp := e.hdr (fr.parsed.hdrs.reverse.find? (fun h => h.kind == .udp))
    let fix (e : Edit) (old new : List Byte) : Edit := match udp with
      | some u => e.fixCk (u + 6) true old new
      | none => e
    let e := fix (e.put (p + 8) (toBE 8 new)) (toBE 8 old) (toBE 8 new)
    match origin with
    | none => e
    | some t =>
      let x := split16 t
      let v := toBE 6 x.1 ++ toBE 4 x.2.1
      fix (e.put (p + 34) v) (toBE 10 (e.get (p + 34) 10)) v

/-! ### FCS (R315, R353) -/

/-- The register after t zero bytes. -/
def crcAdvance (t v : Nat) : Nat := crcRun 0xEDB88320 (List.replicate t 0#8) v

/-- n steps of the register run backwards. -/
def crcBackSteps : Nat → Nat → Nat
  | 0, c => c
  | n + 1, c => crcBackSteps n (if 2 ^ 31 ≤ c then ((c ^^^ 0xEDB88320) * 2 + 1) % 2 ^ 32 else c * 2)

/-- The register run backwards over bytes. -/
def crcBack (bs : List Byte) (c : Nat) : Nat := bs.reverse.foldl (fun c b => crcBackSteps 8 c ^^^ b.toNat) c

/-- S(X): the register after X from ones. -/
def crcReg (bs : List Byte) : Nat := crcRun 0xEDB88320 bs 0xFFFFFFFF

/-- Bytes at the end of an edited copy that are unchanged since reception: T of R353. -/
def keptTail (f : List Byte) (stop : Nat) : List (Nat × Byte) → Nat → Nat
  | [], n => n
  | (i, b) :: t, n => if i = stop - n ∧ i ≠ 0 ∧ f.getD (i - 1) 0 = b then keptTail f stop t (n + 1) else n

/-- The FCS of an edited copy, from the received one: over E and E', back over a removed tail, on over an appended one. -/
def carryFcs (f : List Byte) (fcs : Nat) (e : Edit) : Nat :=
  let stop := f.length - e.cut
  let t := keptTail f stop e.buf.reverse 0
  let head := f.take (stop - t)
  let new := (e.buf.take (e.buf.length - t)).map (·.2)
  let reg := crcBack (f.drop stop) (fcs ^^^ 0xFFFFFFFF)
  let reg := reg ^^^ crcAdvance t (crcReg head ^^^ crcReg new)
  crcRun 0xEDB88320 e.app reg ^^^ 0xFFFFFFFF

/-- The bytes of a frame that ends with the stomped FCS after what is on the wire (R315). -/
def stompBytes (sent : List Byte) : List Byte :=
  let body := sent ++ List.replicate (60 - sent.length) 0#8
  body ++ toLE 4 (crc32 body ^^^ 0xFFFFFFFF)

/-! ### A copy (R350) -/

/-- The class of a frame generates 802.1AE protection (R367). -/
def protects (s : State) (fr : Frame) : Bool :=
  clsCheck s fr.gen fr.cls == 2 && rf s (Reg.AUTH_CLASSc_CFG fr.cls) 1 0 == 0

/-- Its copies leave without the SecTAG and ICV of a verified frame (R369). -/
def stripsSec (s : State) (fr : Frame) : Bool :=
  clsCheck s fr.gen fr.cls == 1 && rf s (Reg.AUTH_CLASSc_CFG fr.cls) 1 0 == 0 && rb s (Reg.AUTH_CLASSc_CFG fr.cls) 3 &&
    fr.auth % 4 == 3

/-- The next-hop words of a frame; `some none` when it names an absent next hop (R134). -/
def copyNextHop (s : State) (fr : Frame) : Option (Option Slot) :=
  fr.nextHop.map (fun n =>
    match indexLook s .published 3 n with
    | .hit x => some x
    | _ => none)

/-- Step 3 of R350 on one port: UNTAG, STRIP_RED, PUSH_RTAG. The result names whether a PRP trailer was pushed. -/
def editPort (s : State) (e : Edit) (fr : Frame) (port vid prp : Nat) : Edit × Bool :=
  let untag := match vlanOf s vid with
    | some v => bitOf (v.word 2) port
    | none => false
  let e := match (if untag then e.tagPos else none) with
    | some p => e.remove p 4
    | none => e
  let e := if rb s (Reg.EGRESS_PORTp_CFG port) 0 then editStrip e fr prp else e
  match (fr.dirs.filter (fun d => d.fn == 0x19)).getLast? with
  | some d =>
    let red := rf s (Reg.EGRESS_PORTp_CFG port) 2 1
    (editPushRed e red (d.a.toNat % 2 ^ 16), red == 1 || red == 2)
  | none => (e, false)

/-- Build a copy for a port (R350): the edited bytes without the FCS, then the FCS under R353. `pn` is the SA and PN of R367. On
a failure the FN of the last directive (R352). -/
def editCopy (s : State) (fr : Frame) (port : Nat) (correction : Int) (origin : Option Nat) (pn : Option (Nat × Nat)) :
    Except Nat (List Byte) :=
  let prp := prpLen (editProfile s fr) fr.bytes
  match editDirectives fr fr.dirs (Edit.of fr.bytes) with
  | .error fn => .error fn
  | .ok e =>
    let hop := (copyNextHop s fr).bind id
    let e := match hop with
      | some x => editNextHop e (x.word 0) (x.word 1) (x.word 2)
      | none => e
    let vid := match hop with
      | some x => fld (x.word 1) 27 16
      | none => fr.vid
    let (e, pushed) := editPort s e fr port vid prp
    let e := if stripsSec s fr then editUntagSec e fr else e
    let e := match pn with
      | some (sa, n) => e.insert 12 (secTag s port sa n (e.buf.length + e.app.length - 12))
      | none => e
    let e := if correction = 0 ∧ origin = none then e else editCorrect e fr correction origin
    let icvLen := if pn.isSome then 16 else 0
    let kept := if prp = 0 then none else some (fr.bytes.length - 8)
    let e := editLsdu e (max 60 (e.buf.length + e.app.length + icvLen)) kept pushed
    let e := match pn with
      | some (sa, n) =>
        match keyFor s (rf s (Reg.AUTH_SAs_CFG sa) 15 4) 9 true with
        | some key => e.append (aesGmac key (saNonce s sa (rdn s (Reg.AUTH_SAs_SCI sa)) n) (e.bytes ++ e.app))
        | none => e
      | none => e
    let tail : Nat := (fr.dirs.filter (fun d => d.fn == 0x1B)).length * fr.icv.length + (if pushed then 6 else 0) + icvLen
    if decide (64 < e.ins) || decide (32 < tail) then
      .error (((fr.dirs.getLast?).map (·.fn)).getD 0)
    else
      let e := e.append (List.replicate (60 - (e.buf.length + e.app.length)) 0#8)
      let f := fr.bytes.take (fr.bytes.length - 4)
      .ok (e.bytes ++ e.app ++ toLE 4 (carryFcs f (leNat (fr.bytes.drop (fr.bytes.length - 4))) e))

end Sys2Proof.Machine
end

