-- ==== Sys2Proof/Machine/Egress.lean ====
section
/-! DEFINITION. Transmission: eligibility, selection, shaping, holding and preemption (R326 to R340), what a frame in transmission
carries (R364, R367, R393 to R398), and how it ends (R83, R314, R315, R322, R331). -/
namespace Sys2Proof.Machine

/-! ### Eligibility (R328, R332, R336) -/

/-- A copy's bytes are at its output: all, or for cut-through those up to the parse depth (R314). -/
def copyHere (s : State) (c : Copy) : Bool :=
  c.st == 1 &&
    match xingOf s c.xing, frameOf s c.frame with
    | some x, some fr => !x.lost && (xingCrossed s x || (c.ct && decide (16 + (profileOf s (fr.port / 4)).depth ≤ x.arrived)))
    | _, _ => false

/-- The last sealed batch covers batch b (R20, R21). -/
def batchSealed (s : State) (b : Nat) : Bool :=
  match s.twin.lastSealed with
  | some k => decide (b ≤ k)
  | none => false

/-- A copy is held until its frame's batch is sealed (R332); an injected frame never is (R517). -/
def copyHeld (s : State) (c : Copy) : Bool :=
  match frameOf s c.frame with
  | none => false
  | some fr =>
    clsCommitting s fr.gen fr.cls && fr.inject.isNone && !fr.own && !fr.goes && decide (c.port < 64) &&
      !(match fr.commitBatch with
        | some b => batchSealed s b
        | none => false)

/-- Copies held at an output (EGRESS_HELD). -/
def heldCopies (s : State) : List (Nat × Copy) := s.mere.copies.filter (fun c => copyHere s c.2 && copyHeld s c.2)

/-- Keep EGRESS_HELD_PEAK. -/
def heldPeak (s : State) : State := peak s Reg.EGRESS_HELD_PEAK 17 0 (heldCopies s).length

/-- The place of a copy in its queue: the order in which the first cell of its crossing came. -/
def copyPlace (s : State) (c : Copy) : Nat :=
  match xingOf s c.xing with
  | some x => x.place
  | none => 0

/-- A copy heads its class in its queue, and of injected frames its ring (R328, R517). -/
def headsClass (s : State) (n : Nat) (c : Copy) : Bool :=
  let place := copyPlace s c
  let fr := frameOf s c.frame
  let ring (f : Option Frame) : Option Nat := f.bind (fun f => f.inject.map (·.ring))
  !s.mere.copies.any (fun d => d.1 != n && d.2.port == c.port && d.2.queue == c.queue && decide (d.2.st ≤ 1) &&
    ((d.2.st == 1 && d.2.cls == c.cls && (xingOf s d.2.xing).any (fun x => decide (0 < x.arrived)) &&
      (decide (copyPlace s d.2 < place) || (copyPlace s d.2 == place && decide (d.1 < n)))) ||
     ((ring fr).isSome && ring (frameOf s d.2.frame) == ring fr && decide (d.2.frame < c.frame))))

/-- Queue k of port p is sent as express (R338). -/
def express (s : State) (p k : Nat) : Bool :=
  !rb s (Reg.EGRESS_PORTp_STATUS p) 8 || (rf s (Reg.EGRESS_PORTp_CFG p) 23 16).testBit k

/-- When the gate of queue k closes, and the operation of the entry that closes it; none within the entries of a cycle. -/
def gateCloses (s : State) (p k : Nat) : Nat → GateList → Option (Nat × Nat)
  | 0, _ => none
  | n + 1, g =>
    let h := { g with pending := none }.move 0 (operInterval s p)
    if (operStates s p h.entry).testBit k then gateCloses s p k n h else some (g.nextAt, operOp s p h.entry)

/-- The wire time of n wire bytes in ns. -/
def wireNs (s : State) (p n : Nat) : Nat := (n * 8000 + portRate s p - 1) / max 1 (portRate s p)

/-- The gate of queue k is open with room for `wire` bytes (R336). -/
def gateRoom (s : State) (p k wire : Nat) : Bool :=
  (gateStates s p).testBit k &&
    (!gated s p ||
      let g := (eport s p).gates
      match gateCloses s p k (g.len + 1) g with
      | none => true
      | some (t, op) =>
        let n := if op = 1 ∧ !express s p k then min wire (64 * (1 + rf s (Reg.EGRESS_PORTp_CFG p) 7 6) + 20) else wire
        decide (timeN s + wireNs s p n ≤ t))

/-! ### Shapers (R330) -/

/-- RATE and BURST of the shaper of queue k, or of the port for k = 8. -/
def shaperOf (s : State) (p k : Nat) : Nat × Nat :=
  if k = 8 then (rf s (Reg.EGRESS_PORTp_PSHAPE p) 23 0, rf s (Reg.EGRESS_PORTp_PSHAPE p) 55 32)
  else (rf s (Reg.EGRESS_PORTp_QCFGk p k) 55 32, rf s (Reg.EGRESS_PORTp_QBURSTk p k) 23 0)

/-- The bucket of a shaper now, in 10^−6 bytes; it starts full. -/
def bucketNow (s : State) (p k : Nat) : Int :=
  let (rate, burst) := shaperOf s p k
  let full : Int := (burst * 1000000 : Nat)
  match tabFind (eport s p).buckets k with
  | some (v, t) => min full (v + (rate * (nowNs s - t) : Nat))
  | none => full

/-- A shaper lets a copy start. -/
def shaperOpen (s : State) (p k : Nat) : Bool := (shaperOf s p k).1 == 0 || decide (0 ≤ bucketNow s p k)

/-- Take wire bytes from a shaper. -/
def shaperTake (s : State) (p k wire : Nat) : State :=
  if (shaperOf s p k).1 = 0 then s
  else
    let v := bucketNow s p k - (wire * 1000000 : Nat)
    let x := eport s p
    eportPut s p { x with buckets := tabSet x.buckets k (v, nowNs s) }

/-! ### Selection (R329) -/

/-- Wire bytes that a copy is taken for before it is edited whole: its length, or MAX_LEN while that is not known. -/
def copyWire (s : State) (c : Copy) : Nat :=
  match frameOf s c.frame with
  | some fr =>
    (if fr.done then
      match editCopy s fr c.port 0 none (if protects s fr then some (0, 0) else none) with
      | .ok b => b.length
      | .error _ => fr.bytes.length
     else rf s (Reg.PORT_LANEl_MAX_LEN c.port) 13 0) + 20
  | none => 0

/-- A copy is eligible on its port (R328). -/
def eligible (s : State) (n : Nat) (c : Copy) : Bool :=
  copyHere s c && !copyHeld s c && headsClass s n c && shaperOpen s c.port c.queue && shaperOpen s c.port 8 &&
    portUp s c.port && !paused s c.port c.queue && (express s c.port c.queue || !held s c.port) &&
    gateRoom s c.port c.queue (copyWire s c)

/-- The oldest eligible copy of queue k. -/
def queueHead (s : State) (p k : Nat) (only : Copy → Bool) : Option (Nat × Copy) :=
  (s.mere.copies.filter (fun c => c.2.port == p && c.2.queue == k && only c.2 && eligible s c.1 c.2)).foldl (fun b c =>
    match b with
    | none => some c
    | some d => if copyPlace s c.2 < copyPlace s d.2 then some c else b) none

/-- The deficit of queue k. -/
def deficitOf (s : State) (p k : Nat) : Int := tabGet (eport s p).deficit k 0

/-- Choose the next copy of a port: the highest strict queue, else the DWRR queue after the one last served whose deficit is
positive once quanta have been added. -/
def selectCopy (s : State) (p : Nat) (only : Copy → Bool) : Option (Nat × Copy) × State :=
  let heads := (List.range 8).filterMap (fun k => (queueHead s p k only).map (fun c => (k, c)))
  let strict (k : Nat) : Bool := rb s (Reg.EGRESS_PORTp_SCHED p) k
  match (heads.filter (fun h => strict h.1)).getLast? with
  | some h => (some h.2, s)
  | none =>
    let ks := (heads.filter (fun h => !strict h.1)).map (·.1)
    let quantum (k : Nat) : Nat := rf s (Reg.EGRESS_PORTp_QCFGk p k) 31 16
    let rounds := if ks.any (fun k => decide (0 < deficitOf s p k)) then 0
      else (ks.filter (fun k => quantum k != 0)).foldl (fun (m : Nat) k =>
        let need : Nat := ((0 - deficitOf s p k).toNat + quantum k) / quantum k
        if m = 0 then need else min m need) 0
    let x := eport s p
    let s := if rounds = 0 then s
      else eportPut s p { x with deficit := ks.foldl (fun t k =>
        tabSet t k (deficitOf s p k + (rounds * quantum k : Nat))) x.deficit }
    let pos := ks.filter (fun k => decide (0 < deficitOf s p k))
    match ((List.range 8).map (fun i => (x.last + 1 + i) % 8)).find? (fun k => pos.contains k) with
    | some k => ((heads.find? (fun h => h.1 == k)).map (·.2), s)
    | none => (none, s)

/-! ### The end of a transmission -/

/-- A frame or fragment leaves on a port: MIB and bandwidth counters (R92, R481); with near-end loopback it comes back (R95). -/
def sendBytes (s : State) (p : Nat) (bytes : List Byte) (stomped : Bool) : State :=
  let s := mib (emit s (.frame p bytes stomped)) p 11 bytes.length
  let s := bwCount s p bytes.length true
  let s := if rb s (Reg.PORT_LANEl_CTRL p) 2 then
      let x := laneOf s p
      lanePut s p { x with loop := x.loop ++ [bytes] }
    else s
  if stomped then mib s p 17 1 else mib (mib s p 12 1) p (13 + castOf bytes) 1

/-- The copy in transmission on p is over: the DWRR deficit follows, and the port is free. -/
def endTransmission (s : State) (p n wire : Nat) : State :=
  let x := eport s p
  match copyOf s n with
  | none => eportPut s p { x with cur := none }
  | some c =>
    let dwrr := !rb s (Reg.EGRESS_PORTp_SCHED p) c.queue
    let x := if dwrr then
        { x with deficit := tabSet x.deficit c.queue (deficitOf s p c.queue - (wire : Nat)), last := c.queue }
      else x
    copyGone (eportPut s p { x with cur := none }) n

/-- The bytes of a copy as received, with the errors of an uncorrectable line that it is sent with (R322). -/
def asRead (s : State) (c : Copy) (fr : Frame) : Frame :=
  match xingOf s c.xing with
  | some x =>
    { fr with bytes := x.errs.foldl (fun bs e => listMod bs e.1 (· ^^^ e.2)) fr.bytes }
  | none => fr

/-- The origin time that an injected frame asks for (R397). -/
def copyOrigin (fr : Frame) (c : Copy) : Option Nat :=
  match fr.inject with
  | some i => if i.mode = 2 then some c.stamp else none
  | none => none

/-- The edited bytes of a copy, FCS included. -/
def copyFinal (s : State) (c : Copy) : List Byte :=
  match frameOf s c.frame with
  | none => []
  | some fr =>
    match editCopy s (asRead s c fr) c.port c.correction (copyOrigin fr c) c.pn with
    | .ok b => b
    | .error _ => fr.bytes

/-- End a transmission after `sent` bytes of the edited copy with the stomped FCS (R315). -/
def cutStomped (s : State) (p n sent : Nat) : State :=
  match copyOf s n with
  | none => s
  | some c =>
    let b := copyFinal s c
    let body := b.take (min sent (b.length - 4))
    endTransmission (sendBytes s p (stompBytes body) true) p n (body.length + 24)

/-- A copy's transmission has begun. -/
def Copy.begun (c : Copy) : Bool := decide (3 ≤ c.st)

/-- Forget a copy that is not sent; a preempted one frees its place. -/
def discardCopy (s : State) (n : Nat) : State :=
  match copyOf s n with
  | none => s
  | some c =>
    let x := eport s c.port
    copyGone (if x.preempted = some n then eportPut s c.port { x with preempted := none } else s) n

/-- The longest run of bytes that a transmission could have sent: what is at the output. -/
def sentLimit (s : State) (c : Copy) : Nat :=
  match xingOf s c.xing with
  | some x => x.arrived - 16
  | none => 0

/-! ### PTP (R390 to R397) -/

/-- A signed board delay of 1/256 ns in 2^−16 ns. -/
def board (s : State) (a : Nat) : Int := signed 32 (rdn s a) * 256

/-- A stamp of port p at its reference plane. -/
def ingressRef (s : State) (p stamp : Nat) : Int := stamp - board s (Reg.TIME_PORTp_BRD_RX p)
def egressRef (s : State) (p stamp : Nat) : Int := stamp + board s (Reg.TIME_PORTp_BRD_TX p)

/-- ASYM of a port. -/
def asymOf (s : State) (p : Nat) : Int :=
  if rb s (Reg.TIME_PORTp_CFG p) 2 then board s (Reg.TIME_PORTp_ASYM p) else 0

/-- Whether FU_MISS_POLICY drops the copy, its correction, and the state after the residence table has served it (R394, R395). -/
def ptpPlan (s : State) (fr : Frame) (p stamp : Nat) : (Bool × Int) × State :=
  match fr.parsed.hdrs.find? (fun h => h.kind == .ptp) with
  | none => ((false, 0), s)
  | some h =>
    let b := fr.bytes
    let kind := byteAt b h.off % 16
    let twoFlag := byteAt b (h.off + 6) / 2 % 2 = 1
    let domain := byteAt b (h.off + 4)
    let ident := slice b (h.off + 20) 10
    let seqId := beAt b (h.off + 30) 2
    let p2p (q : Nat) : Bool := rb s (Reg.TIME_PORTp_CFG q) 0
    let two := rb s (Reg.TIME_PORTp_CFG p) 1
    let r := egressRef s p stamp - ingressRef s fr.port fr.stamp
    let l : Int := if p2p fr.port then rf s (Reg.TIME_PORTp_LDELAY fr.port) 47 0 else 0
    let down := r + l + asymOf s fr.port
    let up := r - asymOf s p
    let add (v : Int) (s : State) : (Bool × Int) × State := ((false, v), cnt s Reg.TIME_ONESTEP 1)
    let skip : (Bool × Int) × State := ((false, 0), cnt s Reg.TIME_ONESTEP_SKIP 1)
    let record (port : Nat) (v : Int) : (Bool × Int) × State :=
      ((false, 0), recordResidence s { port := port, identity := ident, domain := domain, seqId := seqId, value := v
                                       written := nowNs s })
    let use (id : List Byte) : (Bool × Int) × State :=
      match takeResidence s p id domain seqId with
      | (some v, s) => ((false, v), s)
      | (none, s) =>
        let drop := rb s Reg.TIME_CFG 0
        ((drop, 0), raise (cnt s Reg.TIME_RES_MISS 1) 0x08A 0 (b2n drop))
    match kind with
    | 0 => if !two || !twoFlag then add down s else record p down
    | 1 => if two then record fr.port up else add up s
    | 2 => if p2p p || p2p fr.port then skip else add r s
    | 3 => if p2p p || p2p fr.port then skip else add r s
    | 8 => if two then use ident else ((false, 0), s)
    | 9 => if two then use (slice b (h.off + 44) 10) else ((false, 0), s)
    | _ => skip

/-- A copy carries PTP_ONESTEP (R393). -/
def oneStep (fr : Frame) : Bool := fr.dirs.any (fun d => d.fn == 0x1A)

/-- It is never fragmented (R340, R397). -/
def unbroken (fr : Frame) : Bool := oneStep fr || fr.inject.any (fun i => decide (2 ≤ i.mode))

/-! ### Starting a copy -/

/-- Drop a copy at transmission for a counter. -/
def dropAt (s : State) (n a : Nat) : State := copyGone (cnt s a 1) n

/-- What keeps a chosen copy from starting: the state without it (R134, R331, R352, R367, R368). -/
def refuseStart (s : State) (n : Nat) (c : Copy) (fr : Frame) : Option State :=
  let sa := rf s (Reg.AUTH_PORTp_TX c.port) 11 1
  let cfg := rd s (Reg.AUTH_SAs_CFG sa)
  if protects s fr && !rb s (Reg.AUTH_PORTp_TX c.port) 0 then some (dropAt s n Reg.AUTH_TX_NO_SA)
  else if protects s fr && !(bitOf cfg 0 && bitOf cfg 1) then some (dropAt s n (failCounter 4))
  else if protects s fr && decide (lastPn s sa ≤ rdn s (Reg.AUTH_SAs_NEXT_PN sa)) then some (dropAt s n (failCounter 8))
  else if protects s fr && (keyFor s (fld cfg 15 4) 9 true).isNone then some (dropAt s n (failCounter 7))
  else if copyNextHop s fr == some none then some (dropAt s n Reg.FWD_NH_DROPS)
  else
    match editCopy s fr c.port 0 none (if protects s fr then some (sa, 0) else none) with
    | .error fn => some (raise (dropAt s n Reg.EGRESS_EDIT_FAILS) 0xE46 0 fn)
    | .ok b =>
      if fr.done && decide (rf s (Reg.PORT_LANEl_MAX_LEN c.port) 13 0 < b.length) then
        some (dropAt s n (Reg.EGRESS_PORTp_OVERSIZE c.port))
      else none

/-- Begin the transmission of a copy: PN, PTP terms and stamp are fixed, and the shapers pay (R330, R367, R393, R397). -/
def startCopy (s : State) (p n : Nat) (c : Copy) (fr : Frame) (stamp : Nat) : Option State :=
  let sa := rf s (Reg.AUTH_PORTp_TX p) 11 1
  let ((drop, corr), s') := if oneStep fr then ptpPlan s fr p stamp else ((false, 0), s)
  if drop then none
  else
    let s := s'
    let (pn, s) := if protects s fr then
        let k := rdn s (Reg.AUTH_SAs_NEXT_PN sa)
        (some (sa, k), setPn s sa (k + 1))
      else (none, s)
    let ref := egressRef s p stamp
    let (corr, s) := match fr.inject with
      | some i =>
        let s := if i.mode = 1 ∨ i.record then recordStamp s p i.cookie ref.toNat else s
        (if i.mode = 2 then ((ref.toNat % 2 ^ 16 : Nat) : Int) else if i.mode = 3 then ref - i.stamp else corr, s)
      | none => (corr, s)
    let wire := copyWire s c
    let s := shaperTake (shaperTake s p c.queue wire) p 8 wire
    let s := copyMod s n (fun c => { c with st := 3, stamp := ref.toNat, correction := corr, pn := pn })
    let x := eport s p
    some (eportPut s p { x with cur := some n, since := nowNs s })

/-- A line of the copy is uncorrectable when it is read for transmission (R322): it is dropped, or sent as read and stomped. -/
def poisonCopy (s : State) (n : Nat) (c : Copy) (cell : Nat) (errs : List (Nat × Byte)) : State :=
  let q := c.port / 4
  let act := rf s Reg.MERE_POLICY 0 0
  let s := cnt (cnt s (Reg.MERE_Qq_UNCORRECTABLE q) 1) Reg.MERE_UNCORR_FRAMES 1
  let s := raise s (0xE00 + q) cell act
  if act = 0 then copyGone s n
  else xingMod (copyMod s n (fun c => { c with stomp := true })) c.xing (fun x => { x with errs := x.errs ++ errs })

/-- A free port takes its next copy; a copy that cannot start is dropped and the next is looked at. -/
def serveFree : Nat → State → Nat → Nat → Option (Nat × List (Nat × Byte)) → State
  | 0, s, _, _, _ => s
  | fuel + 1, s, p, stamp, bad =>
    let x := eport s p
    let only (c : Copy) : Bool := x.preempted.isNone || express s p c.queue
    match selectCopy s p only with
    | (none, s) =>
      match x.preempted with
      | some n =>
        if held s p || !portUp s p then s
        else eportPut (copyMod s n (fun c => { c with st := 3 })) p { eport s p with cur := some n, preempted := none, since := nowNs s }
      | none => s
    | (some (n, c), s) =>
      match frameOf s c.frame with
      | none => s
      | some fr =>
        match refuseStart s n c fr with
        | some s => serveFree fuel s p stamp bad
        | none =>
          let s := match bad with
            | some (cell, errs) => poisonCopy s n c cell errs
            | none => s
          match copyOf s n with
          | none => serveFree fuel s p stamp none
          | some c =>
            match startCopy s p n c fr stamp with
            | some s => s
            | none => serveFree fuel (copyGone ((ptpPlan s fr p stamp).2) n) p stamp none

/-- An express copy, or hold, interrupts a preemptible copy of which `sent` bytes are on the wire (R339, R340). -/
def preempt (s : State) (p n sent : Nat) : Option State :=
  match copyOf s n with
  | none => none
  | some c =>
    match frameOf s c.frame with
    | none => none
    | some fr =>
      let b := copyFinal s c
      let least := 64 * (1 + rf s (Reg.EGRESS_PORTp_CFG p) 7 6)
      let want := held s p || (List.range 8).any (fun k => express s p k && (queueHead s p k (fun _ => true)).isSome)
      if express s p c.queue || (eport s p).preempted.isSome || unbroken fr || !want ||
          decide (sent - c.sent < least ∨ b.length < sent + 64) then none
      else
        let s := emit s (.frame p (slice b c.sent (sent - c.sent)) false)
        let s := cnt s (Reg.EGRESS_PORTp_FRAG_TX p) 1
        let s := copyMod s n (fun c => { c with st := 4, sent := sent })
        some (eportPut s p { eport s p with cur := none, preempted := some n })

/-- TRANSMISSION_SELECT (R329): `sub` places the SFD within the nanosecond, in 2^−16 ns. -/
def selectOn (s : State) (p sub sent : Nat) (bad : Option (Nat × List (Nat × Byte))) : State :=
  if !isPort s p || humDown s (p / 4) then s
  else
    let stamp := time16 s + sub + 256 * rf s (Reg.PORT_LANEl_TS_TX p) 23 0
    let go (s : State) : State := heldPeak (serveFree (s.mere.copies.length + 1) (touch s (p / 4)) p stamp bad)
    match (eport s p).cur with
    | none => go s
    | some n =>
      match preempt s p n sent with
      | some s => go s
      | none => s

/-- The copy in transmission is complete when all of it is at the output. -/
def completeOn (s : State) (p : Nat) : State :=
  match (eport s p).cur with
  | none => s
  | some n =>
    match copyOf s n with
    | none => s
    | some c =>
      let whole := match xingOf s c.xing, frameOf s c.frame with
        | some x, some fr => xingCrossed s x && fr.verdict.isSome
        | _, _ => false
      if !whole then s
      else
        let b := copyFinal s c
        let limit := rf s (Reg.PORT_LANEl_MAX_LEN p) 13 0
        if limit < b.length then cutStomped (cnt s (Reg.EGRESS_PORTp_OVERSIZE p) 1) p n limit
        else if c.stomp then
          endTransmission (sendBytes s p (stompBytes (b.take (b.length - 4))) true) p n (b.length + 20)
        else
          endTransmission (sendBytes s p (b.drop c.sent) false) p n (b.length + 20)

/-- A cut-through copy meets a byte that is not there (R314). -/
def underrunOn (s : State) (p sent : Nat) : State :=
  match (eport s p).cur with
  | none => s
  | some n =>
    match copyOf s n with
    | none => s
    | some c =>
      let short := match xingOf s c.xing with
        | some x => c.ct && !xingCrossed s x
        | none => false
      if !short then s
      else raise (cutStomped (cnt s (Reg.MERE_Qq_CT_UNDERRUN (p / 4)) 1) p n (min sent (sentLimit s c))) 0xE35 0 p

/-- The egress crossing FIFO of a port runs empty during a frame (R18): possible below 0.70 V only. -/
def fifoUnderrunOn (s : State) (p sent : Nat) : State :=
  match (eport s p).cur with
  | none => s
  | some n => laneEvent (mib (cutStomped s p n sent) p 18 1) p 5 0

/-! ### Link loss (R83, R327) -/

/-- The copy in transmission, and a preempted one, are cut off. -/
def cutOff (s : State) (p sent : Nat) : State :=
  let x := eport s p
  let s := match x.cur with
    | none => s
    | some n =>
      match copyOf s n with
      | none => s
      | some c =>
        let b := (copyFinal s c).take sent
        let s := mib (emit (mib s p 11 b.length) (.frame p b true)) p 17 1
        copyGone (eportPut s p { eport s p with cur := none }) n
  match x.preempted with
  | none => s
  | some n => copyGone (eportPut (mib s p 17 1) p { eport s p with preempted := none }) n

/-- Every copy queued for a port that has been down for EGRESS_DOWN_TIMEOUT is discarded (R327). -/
def downOn (s : State) (p : Nat) : State :=
  match (laneOf s p).downAt with
  | none => s
  | some t =>
    if !elapsed s t (1000 * rf s Reg.EGRESS_DOWN_TIMEOUT 15 0) then s
    else
      let cs := s.mere.copies.filter (fun c => c.2.port == p && !c.2.begun)
      if cs.isEmpty then s
      else raise (cs.foldl (fun s c => copyGone (cnt s (Reg.EGRESS_PORTp_DOWN_DROPS p) 1) c.1) s) 0xE45 p cs.length

/-- A port has gone down: what it was sending is cut off, and with a timeout of 0 its queues are discarded. -/
def portDown (s : State) (p sent : Nat) : State :=
  let s := cutOff (noteDown s p) p sent
  if rf s Reg.EGRESS_DOWN_TIMEOUT 15 0 = 0 then downOn s p else s

/-- The link of port p goes down (R79, R83). -/
def linkDownOn (s : State) (p sent : Nat) : State :=
  let st := Reg.PORT_LANEl_STATUS p
  if !isPort s p || !linkUp s p || humDown s (p / 4) then s
  else
    let was := rdn s st
    let s := wf (wf s st 0 0 0) st 3 3 0
    portDown (mib (laneEvent s p 1 was) p 21 1) p sent

/-- Held copies past EGRESS_HOLD_TIMEOUT (R333). -/
def holdTimeouts (s : State) : State :=
  (heldCopies s).foldl (fun s x =>
    match copyOf s x.1 with
    | none => s
    | some c =>
      let due := match xingOf s c.xing with
        | some x => elapsed s x.outAt (1000 * rf s Reg.EGRESS_HOLD_TIMEOUT 15 0)
        | none => false
      if c.told || !due then s
      else
        let batch := match (frameOf s c.frame).bind (·.commitBatch) with
          | some b => b
          | none => batchNo s
        let s := raise (cnt s Reg.EGRESS_HOLD_TIMEOUTS 1) 0xE44 (pack2 c.port c.queue) batch
        if rb s Reg.EGRESS_CFG 0 then copyGone (cnt s (Reg.EGRESS_PORTp_HELD_DISCARDS c.port) 1) x.1
        else copyMod s x.1 (fun c => { c with told := true })) s

/-- The queue of the copy in transmission. -/
def curQueue (s : State) (p : Nat) : Option Nat := ((eport s p).cur.bind (copyOf s)).map (·.queue)

/-- Preemption becomes active on a port, or verify ends (R338). -/
def verifyDone (s : State) (p : Nat) (ok : Bool) : State :=
  let cfg := rd s (Reg.EGRESS_PORTp_CFG p)
  let st := Reg.EGRESS_PORTp_STATUS p
  if !bitOf cfg 5 || bitOf cfg 8 || !isPort s p || decide (portRate s p < 1000) then s
  else
    let v := if ok then 2 else 3
    let s := wf (wf s st 10 9 v) st 8 8 (b2n ok)
    raise s 0xE43 p v

/-- PREEMPT_EN or VERIFY_DIS was written: PREEMPT_ACTIVE and VERIFY_STATUS follow (R338). -/
def preemptConfig (s : State) (p : Nat) (old : W64) : State :=
  let cfg := rd s (Reg.EGRESS_PORTp_CFG p)
  let st := Reg.EGRESS_PORTp_STATUS p
  if fld cfg 5 5 = fld old 5 5 ∧ fld cfg 8 8 = fld old 8 8 then s
  else
    let on := bitOf cfg 5 && decide (1000 ≤ portRate s p)
    wf (wf s st 8 8 (b2n (on && bitOf cfg 8))) st 10 9 (if on && !bitOf cfg 8 then 1 else 0)

/-- Registers of Egress that are computed. -/
def egressView (s : State) (a : Nat) : Option W64 :=
  if a = Reg.EGRESS_HELD then some (BitVec.ofNat 64 (heldCopies s).length) else none

/-! ### The commands -/

/-- TRANSMISSION_SELECT (R329). -/
def execTransmissionSelect (port : Fin 64) (sub : BitVec 16) (sent : Nat) (bad : Option (Nat × List (Nat × Byte))) (s : State) :
    Host.Outcome State Fault Refusal := .next (selectOn s port.val sub.toNat sent bad)

/-- TRANSMIT_COMPLETE (R329). -/
def execTransmitComplete (port : Fin 64) (s : State) : Host.Outcome State Fault Refusal := .next (completeOn s port.val)

/-- CT_UNDERRUN (R314). -/
def execCtUnderrun (port : Fin 64) (sent : Nat) (s : State) : Host.Outcome State Fault Refusal :=
  .next (underrunOn s port.val sent)

/-- EGRESS_FIFO_UNDERRUN (R18). -/
def execEgressFifoUnderrun (port : Fin 64) (sent : Nat) (s : State) : Host.Outcome State Fault Refusal :=
  .next (fifoUnderrunOn s port.val sent)

/-- LINK_DOWN_TIMEOUT (R327). -/
def execLinkDownTimeout (port : Fin 64) (s : State) : Host.Outcome State Fault Refusal := .next (downOn s port.val)

/-- HOLD_TIMEOUT (R333). -/
def execHoldTimeout (s : State) : Host.Outcome State Fault Refusal := .next (holdTimeouts s)

/-- GATE_ENTRY_CHANGE (R335). -/
def execGateEntryChange (port : Fin 64) (s : State) : Host.Outcome State Fault Refusal :=
  .next (gateMove s port.val (curQueue s port.val))

/-- GCL_CONFIG_START (R337). -/
def execGclConfigStart (port : Fin 64) (s : State) : Host.Outcome State Fault Refusal :=
  .next (gateBegin s port.val (curQueue s port.val))

/-- PREEMPT_VERIFY_DONE (R338). -/
def execPreemptVerifyDone (port : Fin 64) (ok : Bool) (s : State) : Host.Outcome State Fault Refusal :=
  .next (verifyDone s port.val ok)

/-- PORT_LANEl_CTRL is written (R79, R95): with both enables off the PCS is held down; without TX_EN the port counts as down;
AN_RESTART starts a negotiation. A lane absorbed by another port ignores it. -/
def laneCtrl (s : State) (l value sent : Nat) : State :=
  if portMode s l = 7 then s
  else
    let a := Reg.PORT_LANEl_CTRL l
    let restart := value / 8 % 2 = 1
    let s := wf (regWrite s a (BitVec.ofNat 64 value)) a 3 3 0
    let s := if restart && isPort s l && laneNegotiates s l then wf s (Reg.PORT_LANEl_STATUS l) 3 3 0 else s
    if !isPort s l then s
    else if rf s a 1 0 = 0 then wf (linkDownOn s l sent) (Reg.PORT_LANEl_STATUS l) 2 2 0
    else
      let s := noteDown s l
      if !portUp s l && rf s Reg.EGRESS_DOWN_TIMEOUT 15 0 == 0 then downOn s l else s

/-- LINK_DOWN (R79): `sent` bytes of the frame in transmission are on the wire. -/
def execLinkDown (lane : Fin 64) (signal lock : Bool) (sent : Nat) (s : State) : Host.Outcome State Fault Refusal :=
  let st := Reg.PORT_LANEl_STATUS lane.val
  .next (if isPort s lane.val && !humDown s (lane.val / 4) then
    wf (wf (linkDownOn s lane.val sent) st 1 1 (b2n signal)) st 2 2 (b2n lock)
  else s)

/-- REMOTE_FAULT_RECEIVED (R83): from 10GBASE-R upward. -/
def execRemoteFaultReceived (lane : Fin 64) (sent : Nat) (s : State) : Host.Outcome State Fault Refusal :=
  let l := lane.val
  .next (if isPort s l && decide (3 ≤ portMode s l) && !humDown s (l / 4) then
    let s := laneEvent s l 7 0
    let s := linkDownOn s l sent
    wf s (Reg.PORT_LANEl_STATUS l) 5 5 1
  else s)

/-- SGMII_SPEED_CHANGE (R80): the link goes down and up again. -/
def execSgmiiSpeedChange (lane : Fin 64) (speed : Fin 3) (sent : Nat) (s : State) : Host.Outcome State Fault Refusal :=
  let l := lane.val
  let st := Reg.PORT_LANEl_STATUS l
  .next (if portMode s l = 1 && laneAn37 s l && !humDown s (l / 4) && rf s st 7 6 != speed.val then
    let up := linkUp s l
    let s := linkDownOn s l sent
    let s := laneEvent (wf s st 7 6 speed.val) l 10 speed.val
    if up then bringUp s l else s
  else s)

end Sys2Proof.Machine
end

