-- ==== Sys2Proof/Machine/Install.lean ====
section
/-! DEFINITION. Installation of a full bill (R42): the parts of the device that each section initialises, the trial placement of
section 0x09 (R145, R582), and the placement of graphs. -/
namespace Sys2Proof.Machine

/-- Put the registers of [lo, hi) at their reset values. -/
def clearRegs (s : State) (lo hi : Nat) : State :=
  { s with regs := s.regs.filter (fun r => !decide (lo ≤ r.1 ∧ r.1 < hi)) }

/-- The bodies of an image's sections. -/
def takeSections (img : List Byte) (secs : List (Nat × Nat × Nat)) : List (Nat × List Byte) :=
  secs.map (fun x => (x.1, slice img (x.2.1 + 16) x.2.2))

/-! ### Sections 0x01 to 0x03 (R498, R77, R80, R86, R98) -/

def installHummocks (s : State) : State :=
  (List.range 40).foldl (fun s h =>
    let o := 8 * h
    let s := wrn s (Reg.POWER_Hh_CFG h) (sec s 0x01 o 1 % 32)
    let s := wrn s (Reg.POWER_Hh_FW h) (sec s 0x01 (o + 2) 2 % 1024 + sec s 0x01 (o + 1) 1 * 2 ^ 16)
    let s := wrn s (Reg.POWER_Hh_IDLE h) (sec s 0x01 (o + 4) 4)
    humPut (humEnter s h 0) h { hum s h with agreed := 0, idleSince := nowNs s, held := [] }) s

/-- TS_RX and TS_TX in tenths of a nanosecond (R86). -/
def stampConstants (mode fec : Nat) : Nat × Nat :=
  match mode, fec with
  | 1, _ => (1265, 980)
  | 2, _ => (1265, 980)
  | 3, 0 => (413, 336)
  | 3, _ => (2474, 379)
  | 4, 0 => (228, 184)
  | 4, 1 => (1061, 202)
  | 4, _ => (2317, 246)
  | 5, 0 => (209, 172)
  | 5, _ => (1280, 269)
  | _, 0 => (209, 172)
  | _, _ => (775, 273)

/-- A constant in units of 1/256 ns, to the nearest. -/
def stampUnits (tenths : Nat) : Nat := (tenths * 256 + 5) / 10

def installLanes (s : State) : State :=
  (List.range 64).foldl (fun s l =>
    let o := 8 * l
    let mode := laneMode s l
    let st := Reg.PORT_LANEl_STATUS l
    let s := wf (linkDownOn s l 0) (Reg.PORT_LANEl_CTRL l) 1 0 0
    let s := wf s st 2 2 0
    let s := if portMode s l = mode then s else wf s st 5 0 0
    let speed := if mode ≠ 1 then 3 else if laneAn37 s l then 2 else sec s 0x02 (o + 2) 1 / 4 % 4
    let s := wf (wf s st 11 8 mode) st 7 6 speed
    let s := wf s (Reg.PORT_LANEl_CTRL l) 6 5 (sec s 0x02 (o + 6) 1 % 4)
    if 1 ≤ mode ∧ mode ≤ 6 then
      let (rx, tx) := stampConstants mode (laneFec s l)
      let s := wrn s (Reg.PORT_LANEl_MAX_LEN l) (sec s 0x02 (o + 4) 2)
      wrn (wrn s (Reg.PORT_LANEl_TS_RX l) (stampUnits rx)) (Reg.PORT_LANEl_TS_TX l) (stampUnits tx)
    else s) s

def installParser (s : State) : State :=
  let s := wrn (clearRegs s (Reg.GRIST_CLSELi 0) (Reg.GRIST_CLSELi 1024)) Reg.GRIST_SEED (sec s 0x03 12 4)
  (List.range 16).foldl (fun s q =>
    let o := 16 * q
    let s := wrn s (Reg.GRIST_Qq_PROFILE q) (sec s 0x03 o 1 % 16)
    let s := wrn s (Reg.GRIST_Qq_ENABLES q) (sec s 0x03 (o + 2) 4)
    let s := wrn s (Reg.GRIST_Qq_PORTS q) (sec s 0x03 (o + 6) 4)
    wrn s (Reg.GRIST_Qq_RGOOSE q) (sec s 0x03 (o + 10) 2)) s

/-! ### Sections 0x05 and 0x09 (R144, R145) -/

/-- The forwarding block: a field of zero leaves its register at the reset value. -/
def installFwdBlock (s : State) : State :=
  let put (s : State) (a hi off len : Nat) : State :=
    let v := sec s 0x05 off len
    if v = 0 then wrn s a (regReset a).toNat else wf s a hi 0 v
  let s := (List.range 4).foldl (fun s w => put s (Reg.FWD_FDB_SEED0 + 4 * w) 31 (4 * w) 4) s
  let age := sec s 0x05 16 2
  let s := wf s Reg.FWD_FDB_AGE 15 0 (if age = 0 then fld (regReset Reg.FWD_FDB_AGE) 15 0 else age)
  let s := put s Reg.FWD_LEARN_MARGIN 15 20 2
  let s := put s Reg.FWD_INS_THRESH 15 22 2
  let s := put s Reg.FWD_MOVE_DAMP 19 24 4
  let s := put s Reg.FWD_INS_WINDOW 15 28 2
  let s := put s Reg.FWD_LOCK_TIMEOUT 17 32 4
  let s := put s Reg.FWD_LOCK_HOLD_LIMIT 19 36 4
  let x := sec s 0x05 18 1
  let apply := x.testBit 7
  let s := wf s Reg.FWD_FDB_AGE 16 16 (if apply then x % 2 else fld (regReset Reg.FWD_FDB_AGE) 16 16)
  wf s Reg.FWD_CFG 3 2 (if apply then x / 2 % 4 else fld (regReset Reg.FWD_CFG) 3 2)

/-- Every table and the Lauter array start empty. -/
def clearTables (s : State) : State :=
  { s with fwd := { cmds := s.fwd.cmds }, lauter := { cmd := s.lauter.cmd } }

/-- Insert a Lauter entry at p with its moves at once (R160). -/
def lauterInsertNow (s : State) (p : Nat) (even odd : List W64) : Option State :=
  (moveChain s (entriesFrom s p) []).map (fun chain =>
    let s := (chain.zip (chain.drop 1)).reverse.foldl (fun s m =>
      let s := slotPut s 8 m.2 (slotOf s 8 m.1)
      if bankWide s (bankOf p) then slotPut s 8 (m.2 + 1) (slotOf s 8 (m.1 + 1)) else s) s
    lauterPublish s p even odd)

/-- Apply entry i of section 0x09: none when R145 refuses it. -/
def initEntry (s : State) (i : Nat) : Option State :=
  let b := section_ s 0x09
  let o := 72 * i
  let target := byteAt b o
  let mode := byteAt b (o + 1)
  let idx := leAt b (o + 4) 4
  let ws := wordsOf 8 (slice b (o + 8) 64)
  let wide := bankWide s (bankOf idx)
  let odd : Bool := target == 8 && wide && idx % 2 == 1
  let insert : Bool := target == 0 && mode == 1
  let present : Bool := target == 0 && bitOf (ws.getD 0 0) 62 &&
    (fdbFind s (fld (ws.getD 1 0) 11 0) (fld (ws.getD 0 0) 47 0)).isSome
  let next := o + 72
  let pair : List W64 := if byteAt b next = 8 ∧ leAt b (next + 4) 4 = idx + 1 ∧ next < b.length then
    wordsOf 8 (slice b (next + 8) 64) else []
  if 8 < target ∨ 1 < mode ∨ leAt b (o + 2) 2 ≠ 0 ∨ (mode = 1 ∧ target ≠ 0 ∧ target ≠ 8) ∨
      bitOf (ws.getD 0 0) 63 = true ∨ fld (ws.getD 7 0) 31 0 ≠ checkOf ws ∨ (!insert && decide (tblSize target ≤ idx)) ∨ present then none
  else if target = 8 then
    if odd then
      if i ≠ 0 ∧ byteAt b (o - 72) = 8 ∧ leAt b (o - 68) 4 + 1 = idx then some s else none
    else if badLauter s idx ws then none
    else if mode = 1 then lauterInsertNow s idx ws pair
    else some (lauterPublish s idx ws pair)
  else if (badEntry target idx ws).isSome then none
  else if insert then
    match fdbPlace s ws with
    | (some _, s) => some s
    | (none, _) => none
  else some (publish s target idx ws)

/-- Apply the entries of section 0x09 in list order: the number of the entry refused, or the state with all in place. -/
def initEntries (s : State) : List Nat → Except Nat State
  | [] => .ok s
  | i :: t => match initEntry s i with
    | some s => initEntries s t
    | none => .error i

/-- The tables of a bill whose sections are in the state: emptied, shaped and filled. The routes are those of lookups at once. -/
def buildTables (s : State) : Except Nat State :=
  let st := twinState s
  let s := installFwdBlock (clearTables (wf s Reg.TWIN_STATUS 3 0 0))
  (initEntries s (List.range ((section_ s 0x09).length / 72))).map (fun s =>
    let s := wf s Reg.TWIN_STATUS 3 0 st
    { s with fwd := { s.fwd with lpm := s.fwd.lpmPending.foldl (fun t e => tabPut t e.1 e.2 []) s.fwd.lpm, lpmPending := [] } })

/-! ### Section 0x07 (R218, R177, R42) -/

def installDeepMap (s : State) (b : List Byte) : State :=
  let used := (List.range 8).foldl (fun m r => m + (byteAt b (40 + 32 * r) % 2) * 2 ^ r) 0
  let s := wrn s Reg.DEEP_MAP (byteAt b 0 % 4 + byteAt b 1 % 2 * 4 + byteAt b 2 % 8 * 16 + used * 256)
  wf (wf s Reg.DEEP_CFG 4 0 (byteAt b 3)) Reg.DEEP_CFG 7 6 (byteAt b 4)

/-- Every line is not VALID, nothing is on its way, and the spill map fits the regions. -/
def installCasks (s : State) : State :=
  let top := (List.range 8).foldl (fun m r => if regionUsed s r then max m (regionBase s r + regionRows s r) else m) 0
  let shift := ((List.range 4).find? (fun k => decide (top ≤ 2 ^ (24 + k)))).getD 3
  let s := { s with
    cask := { cmd := s.cask.cmd, result := s.cask.result, periodAt := nowNs s }
    deep := s.deep.map (fun c => (c.1, { c.2 with reads := [], writes := [], writeWait := [], inflight := [] })) }
  wrn s Reg.CASK_SPILL_SHIFT shift

/-! ### Section 0x08: placement in the graph store (R249, R287) -/

/-- A place for n elements among occupied ranges (first, count): where the device puts a graph is its own choice. -/
def placeRange (s : State) (size n : Nat) (occupied : List (Nat × Nat)) : Nat × State :=
  let clear (a : Nat) : Bool := decide (a + n ≤ size) && occupied.all (fun r => decide (a + n ≤ r.1 ∨ r.1 + r.2 ≤ a ∨ r.2 = 0))
  match choose s ((0 :: occupied.map (fun r => r.1 + r.2)).filter clear) with
  | (some a, s) => (a, s)
  | (none, s) => let (v, s) := fresh s; (v % size, s)

/-- Place the graphs that generation `born` brings. -/
def placeGraphs (s : State) (born : Nat) (gs : List (Nat × Graph)) : State :=
  gs.foldl (fun s g =>
    let (first, s) := placeRange s 65536 g.2.nodes.length (s.ferm.placed.map (fun p => (p.first, p.nodes)))
    let (cfirst, s) := placeRange s 16384 g.2.consts.length (s.ferm.placed.map (fun p => (p.cfirst, p.consts)))
    { s with ferm := { s.ferm with placed := s.ferm.placed ++
        [⟨g.1, born, first, g.2.nodes.length, cfirst, g.2.consts.length⟩] } }) s

/-! ### Section 0x0A (R355) -/

/-- A write of an EGRESS register with what it starts (R335 to R338, R343). -/
def egressWrite (s : State) (a : Nat) (v : W64) : State :=
  let old := rd s a
  let port := (a - 0x02010000) / 0x400
  let off := (a - 0x02010000) % 0x400
  let gate := (a - 0x02220000) / 0x40
  if decide (0x02010000 ≤ a ∧ a < 0x02020000) then
    let was := gateStates s port
    let s := regWrite s a v
    if off = 0 then showGates (preemptConfig s port old) port (curQueue s port) was
    else if off = 0x14 then showGates s port (curQueue s port) was
    else if off = 0x118 then
      let s := wr s a 0
      if bitOf v 0 then gateConfig s port else s
    else s
  else if decide (0x02220000 ≤ a ∧ a < 0x02224000) && (a - 0x02220000) % 0x40 == 0x14 then
    let s := wf (regWrite s a v) a 0 0 0
    if bitOf v 0 then sgateConfig s gate else s
  else regWrite s a v

/-- An entry of section 0x0A: read-only registers are set too. -/
def egressEntry (s : State) (i : Nat) : State :=
  match egressValue (section_ s 0x0A) i with
  | none => s
  | some (a, r, high, n) =>
    let v := BitVec.ofNat 64 (if high then n + rdn s a % 2 ^ 32 else n)
    egressWrite (wr s a ((rd s a &&& ~~~ BitVec.ofNat 64 r.ro) ||| (v &&& BitVec.ofNat 64 r.ro))) a v

def installEgress (s : State) : State :=
  let s := { clearRegs s 0x02000000 0x02400000 with egress := {} }
  (List.range (sec s 0x0A 0 4)).foldl egressEntry s

/-! ### Section 0x0B (R387, R405) -/

def installTime (s : State) : State :=
  let st := Reg.TIME_STATUS
  let s := wf (wf s st 5 4 (sec s 0x0B 0 1)) st 10 8 (sec s 0x0B 1 1)
  let s := wrn (wrn s Reg.TIME_SYNC_TIMEOUT (sec s 0x0B 4 2)) Reg.TIME_SERVO_TIMEOUT (sec s 0x0B 6 2)
  let s := wrn (wrn s Reg.TIME_FU_TIMEOUT (sec s 0x0B 8 4)) Reg.TIME_LDELAY_TOL (sec s 0x0B 12 1)
  let s := clearRegs s (Reg.TIME_PORTp_CFG 0) (Reg.TIME_PORTp_CFG 64)
  let s := (List.range (sec s 0x0B 2 1)).foldl (fun s i =>
    let o := 64 + 16 * i
    let p := sec s 0x0B o 1
    let s := wrn s (Reg.TIME_PORTp_CFG p) (sec s 0x0B (o + 1) 1 + sec s 0x0B (o + 2) 1 * 256)
    let s := wrn s (Reg.TIME_PORTp_BRD_RX p) (sec s 0x0B (o + 4) 4)
    let s := wrn s (Reg.TIME_PORTp_BRD_TX p) (sec s 0x0B (o + 8) 4)
    wrn s (Reg.TIME_PORTp_ASYM p) (sec s 0x0B (o + 12) 4)) s
  let tick := tickOfTime s
  let ev := s.ev
  { s with
    time := { s.time with tick := tick, jumps := [], ppsEn := sec s 0x0B 3 1 % 2 == 1, lastSync := [], measured := [] }
    ev := { ev with
      openTick := tick, occ := ev.occ.map (fun o => { o with tick := tick }), soft := ev.soft.map (fun w => (min w.1 tick, w.2))
      routeHold := ev.routeHold.map (fun h => (min h.1 tick, h.2)) }
    perf := { s.perf with ctlHold := s.perf.ctlHold.map (fun h => (min h.1 tick, h.2)) } }

/-! ### Section 0x0C (R439, R441) -/

def installTwin (s : State) : State :=
  let x := sec s 0x0C 0 1
  let st := twinState s
  let cfg := Reg.TWIN_CFG
  let s := wf (wf s cfg 0 0 (x / 8)) cfg 1 1 (x / 4)
  let s := wf s Reg.TWIN_STATUS 4 4 (x / 2)
  let s := if x % 2 = 0 then { wf (wf s Reg.TWIN_STATUS 7 0 (x / 2 % 2 * 16)) Reg.TWIN_STATUS 13 10 0 with twin := {} }
    else if st = 0 then wf s Reg.TWIN_STATUS 3 0 1 else s
  { s with twin := { s.twin with openBatch := batchOfTick s s.time.tick, deltas := [], nextSeq := 0, staged := [], sealed := [] } }

def installFen (s : State) : State :=
  let base := Reg.FEN_CFG
  let s := clearRegs (clearRegs (clearRegs s base Reg.FEN_CMD) Reg.FEN_KEY (Reg.FEN_KEY + 4))
    (Reg.FEN_MEMBERi_CFG 0) (Reg.FEN_MEMBERi_CFG 1024)
  let s := { s with fen := { lastBeat := nowNs s, bucketAt := nowNs s } }
  let b := section_ s 0x0C
  if sec s 0x0C 8 1 % 2 = 0 then s
  else
    let s := wrn s base (1 + sec s 0x0C 8 1 / 2 % 4 * 2)
    let s := wrn (wrn s Reg.FEN_HOP_LIMIT (sec s 0x0C 9 1)) Reg.FEN_DEV_ID (sec s 0x0C 10 2)
    let s := wrn (wrn s Reg.FEN_SRC_MAC (beAt b 12 6)) Reg.FEN_GROUP_MAC (beAt b 18 6)
    let s := wrn (wrn s Reg.FEN_VID (sec s 0x0C 24 2)) Reg.FEN_HB_PERIOD (sec s 0x0C 26 2)
    let s := wrn (wrn s Reg.FEN_HB_LAPSE (sec s 0x0C 28 1)) Reg.FEN_RATE (sec s 0x0C 30 2)
    let s := wrn s Reg.FEN_KEY (sec s 0x0C 34 2)
    (List.range (sec s 0x0C 32 2)).foldl (fun s i =>
      let o := 48 + 16 * i
      wrn s (Reg.FEN_MEMBERi_CFG (sec s 0x0C o 2))
        (beAt b (o + 2) 6 + sec s 0x0C (o + 8) 2 * 2 ^ 48 + 2 ^ 60 + sec s 0x0C (o + 10) 1 % 2 * 2 ^ 61)) s

/-! ### Sections 0x0D and 0x0E, and the Mere (R463, R323, R294) -/

/-- The route that section 0x0D gives a source. -/
def routeOf (s : State) (src : Nat) : Nat := if (srcInfo src).isSome then sec s 0x0D (2 * src) 2 % 1024 else 0

def installRoutes (s : State) : State :=
  (List.range 4096).foldl (fun s src => wf s (Reg.EVENT_SRCs_ROUTE src) 9 0 (routeOf s src))
    { s with ev := { s.ev with routeHold := [] } }

def installPolicies (s : State) : State := wf s Reg.MERE_POLICY 0 0 ((policy s 0x0E01).getD 0)

def installMere (s : State) : State :=
  let s := { s with mere := { nextCopy := s.mere.nextCopy, nextXing := s.mere.nextXing, ordered := s.mere.ordered } }
  (List.range 16).foldl (fun s q =>
    let n := ((List.range 4).filter (fun i => isPort s (4 * q + i))).foldl (fun n i =>
      n + cellsOf (rf s (Reg.PORT_LANEl_MAX_LEN (4 * q + i)) 13 0)) 12
    wf s (Reg.MERE_Qq_RX_RESERVE q) 13 0 n) s

end Sys2Proof.Machine
end

