-- ==== Sys2Proof/Machine/TwinLink.lean ====
section
/-! DEFINITION. Twin frames (R410, R411): their form, the checks on reception (R412), and the frames that wait to be sent. -/
namespace Sys2Proof.Machine

/-- Entry into a state of R428, with IN_SYNC and GUARANTEE (R436): a promotion keeps GUARANTEE until the next join. -/
def twinEnter (s : State) (st : Nat) : State :=
  let keep : Bool := rb s Reg.TWIN_STATUS 7 && (st == 2 || st == 4 || (st == 1 && !follower s))
  let s := wf (wf s Reg.TWIN_STATUS 3 0 st) Reg.TWIN_STATUS 6 6 (b2n (st == 4 || st == 7))
  wf (wf s Reg.TWIN_STATUS 7 7 (b2n (keep || st == 7 || st == 8))) Reg.TWIN_STATUS 13 10 0

/-- The twin key, if its slot holds a key for control frames (R434). -/
def twinKey (s : State) : Option (List Byte) := keyFor s (sec s 0x0C 4 2) 10 true

/-- The header of R410. -/
def twinHead (s : State) (type len batch seq : Nat) : List Byte :=
  let role := b2n (follower s)
  toBE 1 type ++ toBE 1 (rf s Reg.TWIN_STATUS 4 4 + 2 * role) ++ toBE 2 len ++ toBE 6 batch ++ toBE 4 seq ++ toBE 2 0

/-- A frame without its trailer. -/
def twinFrame (s : State) (type batch seq : Nat) (body : List Byte) : List Byte :=
  twinHead s type body.length batch seq ++ body

/-- The trailer of R410: CRC-32C for DELTA and COPY, else 8 bytes of the CMAC under the twin key. -/
def twinTrailer (s : State) (frame : List Byte) : Option (List Byte) :=
  if byteAt frame 0 = 1 ∨ byteAt frame 0 = 5 then some (toBE 4 (crc32c frame))
  else (twinKey s).map (fun k => (aesCmac k frame).take 8)

/-- A lane is in use and up. -/
def twinLane (s : State) (l : Nat) : Bool := (sec s 0x0C 2 2).testBit l && (rf s Reg.TWIN_STATUS 31 16).testBit l

/-- The fence input keeps the device from sending (R431). -/
def fenced (s : State) : Bool := rb s Reg.TWIN_STATUS 9 && rb s Reg.TWIN_CFG 1

/-- A frame waits to be sent. -/
def twinQueue (s : State) (frame : List Byte) : State := { s with twin := { s.twin with queue := s.twin.queue ++ [frame] } }

/-- A CONTROL frame of a CTYPE with its parameters. -/
def twinControl (s : State) (ctype : Nat) (params : List Byte) : List Byte :=
  twinFrame s 6 s.twin.openBatch 0 (toBE 2 ctype ++ toBE 2 0 ++ params)

/-- A frame leaves on a lane. -/
def twinEmit (s : State) (lane : Nat) (frame : List Byte) : State :=
  match twinTrailer s frame with
  | some t => if fenced s then s else emit s (.twin lane (frame ++ t))
  | none => s

/-- A control frame on every lane up (R428, R432). -/
def twinEvery (s : State) (frame : List Byte) : State :=
  (List.range 16).foldl (fun s l => if twinLane s l then twinEmit s l frame else s) s

/-- The first 8 bytes of the effective bill hash. -/
def hash8 (s : State) : List Byte := (s.bill.hash ++ List.replicate 8 0#8).take 8

/-- A received frame: its fields once it has passed R412. -/
structure TwinRx where
  role : Nat
  batch : Nat
  seq : Nat
  body : List Byte

/-- A frame that fails a check is discarded and counted (R412). -/
def twinReject (s : State) (type : Nat) : State :=
  let a := if type = 1 ∨ type = 5 then Reg.TWIN_CRC_FAILS else Reg.TWIN_CMAC_FAILS
  let s := cnt s a 1
  if type = 1 ∨ type = 5 then s else raise s 0xF8A 0 type

/-- Receive a frame of a TYPE, and of a CTYPE for CONTROL, on a lane (R410, R412): what it carries when it passes. A frame of another
defined TYPE is another command's. -/
def twinReceive (s : State) (lane : Nat) (frame : List Byte) (type ctype : Nat) : Option TwinRx × State :=
  if !twinLane s lane || humDown s (16 + lane / 4) || !twinOn s then (none, s)
  else
    let t := byteAt frame 0
    let trail := if t = 1 ∨ t = 5 then 4 else 8
    let len := beAt frame 2 2
    let inner := frame.take (16 + len)
    let ct := beAt frame 16 2
    let s' := cntWrap s (Reg.TWIN_LANEl_FRAMES lane) 1
    let reserved : Bool := t == 0 || decide (6 < t) || (t == 6 && (ct == 0 || decide (8 < ct)))
    if !reserved && (t != type || (t == 6 && ct != ctype)) then (none, s)
    else if reserved || decide (2048 < len) || frame.length != 16 + len + trail ||
        twinTrailer s inner != some (frame.drop (16 + len)) then (none, twinReject s' t)
    else
      (some { role := byteAt frame 1 / 2 % 2, batch := beAt frame 4 6, seq := beAt frame 10 4, body := inner.drop 16 }, s')

/-- A valid frame of the peer clears MISSED (R426). -/
def twinHeard (s : State) (rx : TwinRx) : State :=
  let lead := 2 ≤ twinState s ∧ twinState s ≤ 4
  if lead ∧ rx.role = 1 ∨ !lead ∧ rx.role = 0 then
    { wf s Reg.TWIN_STATUS 13 10 0 with twin := { s.twin with heardAt := nowNs s } }
  else s

end Sys2Proof.Machine
end

