-- ==== Sys2Proof/Machine/Bill.lean ====
section
/-! DEFINITION. The BILL block (R40 to R53): its states, the two passes, staging and application of amendments. -/
namespace Sys2Proof.Machine

/-! ### States and refusals (R50, R52, R53) -/

/-- BILL_STATUS.STATE. -/
def billState (s : State) : Nat := rf s Reg.BILL_STATUS 2 0

/-- Enter a state; ORPHAN shows state 5. -/
def billTo (s : State) (st : Nat) : State := wf (wf s Reg.BILL_STATUS 2 0 st) Reg.BILL_STATUS 5 5 (b2n (st == 5))

/-- Set CODE, DETAIL and BILL_DETAIL. -/
def billCode (s : State) (r : Refuse) : State :=
  wrn (wf (wf s Reg.BILL_STATUS 15 8 r.1) Reg.BILL_STATUS 23 16 r.2.1) Reg.BILL_DETAIL r.2.2

/-- Refuse a load or an amendment: codes, the count and event 0x011 or 0x014. -/
def billRefuse (s : State) (r : Refuse) (amend : Bool) : State :=
  raise (cnt (billCode s r) Reg.BILL_REFUSALS 1) (if amend then 0x014 else 0x011) (pack2 r.1 r.2.1) r.2.2

/-- A bill is in force. -/
def billInForce (s : State) : Bool := s.bill.sections != []

/-- Leave CHECK after a refusal. -/
def billBack (s : State) : State := billTo { s with bill := { s.bill with image := none, waitFollower := false } }
  (if billInForce s then 3 else 0)

/-- Drained as R42 defines it; a device with no bill in force always is. -/
def billDrained (s : State) : Bool :=
  !billInForce s || (drained s && (List.range 64).all (fun l => !rb s (Reg.PORT_LANEl_CTRL l) 0))

/-- The effective bill hash and its registers. -/
def setHash (s : State) (h : List Byte) : State :=
  (List.range 8).foldl (fun s n => wrn s (Reg.BILL_HASHn n) (leAt h (4 * n) 4)) { s with bill := { s.bill with hash := h } }

/-- The first 8 bytes of a hash in a detail word: byte 0 in [7:0], as BILL_HASH0 holds it. -/
def hashWord (h : List Byte) : Nat := leAt h 0 8

/-- Registers of the BILL block whose value is computed from the state. -/
def billView (s : State) (a : Nat) : Option W64 :=
  if a = Reg.BILL_STATUS then some (setFld (rd s a) 3 3 (b2n (billDrained s)))
  else if a = Reg.BILL_KEYS then
    let has (f : Nat) : Nat := b2n (tabFind s.chip.fuses f).isSome
    some (BitVec.ofNat 64 (has 1 + 2 * has 2 + 4 * has 3 + 8 * has 4))
  else none

/-! ### The first pass (R41) -/

/-- The sections of the bill that an image would put in force. -/
def nextSections (s : State) (img : List Byte) (secs : List (Nat × Nat × Nat)) (amend : Bool) : List (Nat × List Byte) :=
  (takeSections img secs).foldl (fun t x => if x.1 = 0x0F then t else tabSet t x.1 x.2) (if amend then s.bill.sections else [])

/-- The generation that an image would bring: its number, and what it binds. -/
def nextGen (s : State) (img : List Byte) (secs : List (Nat × Nat × Nat)) (amend : Bool) : Nat × Gen :=
  let g := if amend then (billGen s + 1) % 2 ^ 16 else 1
  let bodies := takeSections img secs
  let old : Gen := if amend then genOf s (billGen s) else {}
  let new := (tabFind bodies 0x08).map (fun b => graphsOf b g)
  (g, { classes := tabGet bodies 0x04 old.classes
        graphs := (new.getD []).foldl (fun t x => tabSet t x.1 x.2) old.graphs })

/-- The state in which the content rules are read: the sections and the generation of the image. -/
def trialState (s : State) (img : List Byte) (secs : List (Nat × Nat × Nat)) (amend : Bool) : State :=
  { s with bill := { s.bill with sections := nextSections s img secs amend, gens := [nextGen s img secs amend] } }

/-- Reserved bits of the bill header, of section headers and of section 0x0F (R34, R35, R38). -/
def headersBad (img : List Byte) (secs : List (Nat × Nat × Nat)) : Option Refuse :=
  let f := tagSection secs
  if 1 < byteAt img 15 then some (0x0A, 0, 15)
  else if leAt img 0x16 2 ≠ 0 then some (0x0A, 0, 0x16)
  else if leAt img 0x1C 4 ≠ 0 then some (0x0A, 0, 0x1C)
  else match secs.find? (fun x => byteAt img (x.2.1 + 1) != 0 || leAt img (x.2.1 + 12) 4 != 0) with
    | some x => some (0x0A, x.1, x.2.1)
    | none => if leAt img (f + 17) 15 ≠ 0 then some (0x0A, 0x0F, f + 17) else none

/-- The rules of a section's chapter on its body. -/
def bodyBad (t : State) (code : Nat) : Option Nat :=
  let b := section_ t code
  match code with
  | 0x01 => hummockMapBad b
  | 0x02 => laneMapBad b
  | 0x03 => parserMapBad b
  | 0x04 => classMapBad b
  | 0x05 => tableShapesBad b
  | 0x06 => layoutsBad b (section_ t 0x07)
  | 0x07 => deepMapBad b
  | 0x08 => graphsBad b
  | 0x09 => if b.length % 72 = 0 then none else some 0
  | 0x0A => egressMapBad b
  | 0x0B => timeMapBad b (section_ t 0x02)
  | 0x0C => twinMapBad b
  | 0x0D => routesBad b
  | 0x0E => policiesBad b
  | _ => none

/-- A class that is stateful in the bill in force and whose key or record an amendment changes (R45). -/
def classChanged (s t : State) (g : Nat) : Option Nat :=
  (List.range 64).find? (fun c =>
    let h := billGen s
    clsStateful s h c && (!clsStateful t g c || clsLayout s h c != clsLayout t g c ||
      clsWideLayout s h c != clsWideLayout t g c || clsKeyProfile s h c != clsKeyProfile t g c))

/-- Step 10 of R41: the content rules; for a full bill also the trial placement (R582), whose state is answered. -/
def contentCheck (s : State) (img : List Byte) (secs : List (Nat × Nat × Nat)) (amend : Bool) : Except Refuse State :=
  let t := trialState s img secs amend
  let g := (nextGen s img secs amend).1
  let off (code : Nat) : Nat := match secs.find? (fun x => x.1 == code) with
    | some x => x.2.1 + 16
    | none => 0
  match headersBad img secs with
  | some r => .error r
  | none =>
    match secs.findSome? (fun x => (bodyBad t x.1).map (fun o => (x.1, o))) with
    | some (code, o) => .error (0x0A, code, off code + o)
    | none =>
      match (if amend then classChanged s t g else none) with
      | some c => .error (0x0A, 0x04, off 0x04 + 32 * c)
      | none =>
        match crossBad t g with
        | some (detail, c) => .error (0x0A, detail, (match off detail with | 0 => 0 | o + 1 => o + 1 + 32 * c))
        | none =>
          if amend then .ok t
          else match buildTables t with
            | .error i => .error (0x0A, 0x09, off 0x09 + 72 * i)
            | .ok t => .ok t

/-- Steps 1 to 10 of R41 on an image: its sections and the trial state. -/
def checkImage (s : State) (img : List Byte) (amend : Bool) (avail : Nat) :
    Except Refuse (List (Nat × Nat × Nat) × State) :=
  match headerBad img amend avail with
  | some r => .error r
  | none =>
    match sectionWalk img amend with
    | .error r => .error r
    | .ok secs =>
      match valuesBad s img secs with
      | some r => .error r
      | none => (contentCheck s img secs amend).map (fun t => (secs, t))

/-- Step 11 of R41: base hash and room (R45). -/
def amendBad (s : State) (img : List Byte) (secs : List (Nat × Nat × Nat)) : Option Refuse :=
  let new := ((tabFind (takeSections img secs) 0x08).map (fun b => graphsOf b 0)).getD []
  let used (f : Placed → Nat) : Nat := s.ferm.placed.foldl (fun n p => n + f p) 0
  if slice img 0x40 32 ≠ s.bill.hash then some (0x0C, 0, 0x40)
  else if 65536 < used (·.nodes) + new.foldl (fun n x => n + x.2.nodes.length) 0 ∨
      16384 < used (·.consts) + new.foldl (fun n x => n + x.2.consts.length) 0 then some (0x0D, 0x08, 0)
  else none

/-- The target of R46 for a BILL_TARGET_BATCH, or none when it has already begun. -/
def amendTarget (s : State) : Option Nat :=
  let t := rf s Reg.BILL_TARGET_BATCH 47 0
  let b := s.twin.openBatch
  if t = 0 then some (b + 2) else if t ≤ b then none else some t

/-- Staging completes: the target is fixed and event 0x012 raised, or the amendment is late. -/
def stage (s : State) (x : Image) : State :=
  match amendTarget s with
  | none => billBack (billRefuse s (0x12, 0, 0) true)
  | some t =>
    let s := billTo { s with bill := { s.bill with image := some { x with target := t }, waitFollower := false } } 4
    raise s 0x012 t (hashWord (slice x.bytes 0x20 32))

/-- The AMEND_DATA frames of an image (R48, R411). -/
def amendFrames (s : State) (img : List Byte) : List (List Byte) :=
  (List.range ((img.length + 1023) / 1024)).map (fun i =>
    twinControl s 6 (toBE 4 (1024 * i) ++ toBE 4 img.length ++ slice img (1024 * i) 1024))

/-- The image was accepted under the all-zero key (R39). -/
def acceptedKey (s : State) (img : List Byte) (secs : List (Nat × Nat × Nat)) (amend : Bool) : Bool × State :=
  let slot := byteAt img (tagSection secs + 16)
  let zero := billKeyZero s slot
  (zero, if zero then raise s 0x016 slot (b2n amend) else s)

/-- The first pass ends (R41). `again` is what the second pass of an amendment reads. -/
def firstPass (s : State) (img again : List Byte) : State :=
  if billState s ≠ 1 ∨ s.bill.waitFollower = true then s
  else
    let amend : Bool := s.bill.op == 3
    let avail := if s.bill.op = 1 ∨ s.bill.op = 3 then min img.length (rdn s Reg.BILL_SRC_LEN) else img.length
    match checkImage s img amend avail with
    | .error r => billBack (billRefuse s r amend)
    | .ok (secs, t) =>
      let img := img.take (leAt img 8 4)
      if !amend then
        let (zero, s) := acceptedKey s img secs false
        let x : Image := { bytes := img, amend := false, zeroKey := zero, trial := s.free }
        let s := { s with free := t.free, bill := { s.bill with image := some x } }
        billTo (installDeepMap s (tabGet t.bill.sections 0x07 [])) 2
      else
        match amendBad s img secs with
        | some r => billBack (billRefuse s r true)
        | none =>
          if (amendTarget s).isNone then billBack (billRefuse s (0x12, 0, 0) true)
          else
            let (zero, s) := acceptedKey s img secs true
            let x : Image := { bytes := img, amend := true, zeroKey := zero }
            match secondBad s img again secs with
            | some r => billBack (billRefuse s r true)
            | none =>
              if mirroring s then
                let s := { s with bill := { s.bill with image := some { x with mirrored := true }, waitFollower := true } }
                (amendFrames s img).foldl twinQueue s
              else stage s x

/-! ### Installation (R42, R582) -/

/-- What every installation does once the sections are in the state, the tables and section 0x0B apart. -/
def installParts (s : State) : State :=
  let s := installParser (installLanes s)
  let s := installEgress (installCasks s)
  installMere (installPolicies (installRoutes (installFen (installTwin s))))

/-- The second pass of a full bill failed: no bill stays in force. -/
def installFailed (s : State) (r : Refuse) : State :=
  let s := { s with bill := {}, ferm := { s.ferm with placed := [] } }
  let s := installParts (clearTables s)
  let s := wrn (wrn (setHash s []) Reg.BILL_GEN 0) Reg.BILL_COMPILER 0
  billTo (billRefuse (wf s Reg.BILL_STATUS 4 4 0) r false) 0

/-- The second pass of a full bill is complete. -/
def installBill (s : State) (again : List Byte) : State :=
  match s.bill.image with
  | none => s
  | some x =>
    if billState s ≠ 2 then s
    else
      match sectionWalk x.bytes false with
      | .error r => installFailed s r
      | .ok secs =>
        match secondBad s x.bytes again secs with
        | some r => installFailed s r
        | none =>
          let img := x.bytes
          let gen := nextGen s img secs false
          let free := s.free
          let s := { s with
            free := x.trial
            bill := { sections := nextSections s img secs false, gens := [gen] }
            ferm := { s.ferm with placed := [] } }
          match buildTables s with
          | .error i => installFailed s (0x0A, 0x09, i)
          | .ok s =>
            let s := placeGraphs { s with free := free } 1 gen.2.graphs
            let s := installTime (installHummocks s)
            let s := installParts s
            let s := setHash (wrn s Reg.BILL_GEN 1) (slice img 0x20 32)
            let s := wrn (wf s Reg.BILL_STATUS 4 4 (b2n x.zeroKey)) Reg.BILL_COMPILER (leAt img 0x10 4)
            fenResync (raise (billTo s 3) 0x010 1 (hashWord s.bill.hash))

/-- A read error during either pass (R582). -/
def fetchError (s : State) : State :=
  if billState s = 2 then installFailed s (0x11, 0, 0)
  else if billState s = 1 ∧ s.bill.waitFollower = false then billBack (billRefuse s (0x11, 0, 0) (s.bill.op == 3))
  else s

/-! ### Amendments in force (R44, R46, R47, R48) -/

/-- A staged amendment takes effect in the boundary tick. -/
def applyAmendment (s : State) : State :=
  match s.bill.image with
  | none => s
  | some x =>
    match sectionWalk x.bytes true with
    | .error _ => s
    | .ok secs =>
      let (g, gen) := nextGen s x.bytes secs true
      let own := gen.graphs.filter (fun e => e.2.born == g)
      let hash := sha256 (s.bill.hash ++ slice x.bytes 0x20 32)
      let has (c : Nat) : Bool := secs.any (fun e => e.1 == c)
      let last := s.time.tick - 1
      let s := { s with bill := { s.bill with
        sections := nextSections s x.bytes secs true, gens := tabSet s.bill.gens g gen, image := none } }
      let s := placeGraphs s g own
      let s := if has 0x0D then
          (List.range 4096).foldl (fun s src =>
            let a := Reg.EVENT_SRCs_ROUTE src
            if rf s a 9 0 = routeOf s src then s
            else wf { s with ev := { s.ev with routeHold := s.ev.routeHold ++ [(last, src, rd s a)] } } a 9 0 (routeOf s src)) s
        else s
      let s := if has 0x0E then installPolicies s else s
      let s := if x.zeroKey then wf s Reg.BILL_STATUS 4 4 1 else s
      let s := setHash (wrn s Reg.BILL_GEN g) hash
      raise (billTo s 3) 0x013 g (hashWord hash)

/-- The staged amendment takes effect with a batch (R46, R553); on a follower one that came from the lead waits for the seal
that names it (R48). -/
def amendDue (s : State) (batch : Nat) : Bool :=
  billState s == 4 && s.bill.image.any (fun x => decide (x.target ≤ batch) && !(follower s && x.mirrored))

/-- Generation and hash in force from a batch on, as its predecessor's seal names them. -/
def namedNext (s : State) (batch : Nat) : Nat × List Byte :=
  if amendDue s batch then
    ((billGen s + 1) % 2 ^ 16, sha256 (s.bill.hash ++ ((s.bill.image.map (fun x => slice x.bytes 0x20 32)).getD [])))
  else (billGen s, s.bill.hash)

/-- An amendment under check is abandoned when the twin detaches or the device is promoted (R50). -/
def billAbandon (s : State) : State :=
  if billState s = 1 ∧ s.bill.op = 3 then
    let s := billCode { s with bill := { s.bill with image := none, waitFollower := false } } (0x14, 0, 0)
    billTo (raise (cnt s Reg.BILL_REFUSALS 1) 0x014 (pack2 0x14 0) 0) 3
  else s

/-- A follower is promoted before the seal that names its staged amendment (R48): the amendment is an orphan. Its target batch is
the lead's, which no frame names. -/
def billOrphan (s : State) : State :=
  if billState s = 4 then
    let h := ((s.bill.image.map (fun x => slice x.bytes 0x20 32)).getD [])
    let (v, s) := fresh s
    raise (billTo s 5) 0x015 (v % 2 ^ 48) (hashWord h)
  else s

/-! ### Commands (R50) -/

/-- A load command: 0 is the boot load, 1 to 5 are BILL_CMD.OP. -/
def billCommand (s : State) (op : Nat) : State :=
  let st := billState s
  let amend : Bool := decide (3 ≤ op)
  let start (s : State) : State :=
    billTo (billCode { s with bill := { s.bill with op := op, image := none, waitFollower := false } } (0, 0, 0)) 1
  if 5 < op then s
  else if st = 1 ∨ st = 2 then cnt s Reg.BILL_REFUSALS 1
  else if st = 0 then
    if op ≤ 2 then start s else billRefuse s (if op = 3 then 0x0C else 0x13, 0, 0) true
  else if st = 3 then
    if op ≤ 2 then (if billDrained s then start s else billRefuse s (0x0E, 0, 0) false)
    else if op = 3 then
      if twinState s = 6 ∨ twinState s = 7 then billRefuse s (0x10, 0, 0) true else start s
    else billRefuse s (0x13, 0, 0) true
  else if op = 5 then billTo { s with bill := { s.bill with image := none } } 3
  else if op = 4 ∧ st = 5 then
    match amendTarget s with
    | none => billRefuse s (0x12, 0, 0) true
    | some t => billTo { s with bill := { s.bill with image := s.bill.image.map (fun x => { x with target := t, mirrored := false }) } } 4
  else billRefuse s (if op = 4 then 0x13 else 0x0F, 0, 0) amend

/-- BOOT_LOAD (R40, R542): after reset, with BOOT_SRC = 0 and no bill in force. -/
def execBootLoad (s : State) : Host.Outcome State Fault Refusal :=
  .next (if rb s Reg.CHIP_STRAPS 0 || billState s != 0 then s else billCommand s 0)

/-- FULL_LOAD_HOST (R40, R50). -/
def execFullLoadHost (s : State) : Host.Outcome State Fault Refusal := .next (billCommand s 1)

/-- FULL_LOAD_FLASH (R40, R50). -/
def execFullLoadFlash (s : State) : Host.Outcome State Fault Refusal := .next (billCommand s 2)

/-- AMENDMENT_LOAD (R44, R50). -/
def execAmendmentLoad (s : State) : Host.Outcome State Fault Refusal := .next (billCommand s 3)

/-- RESTAGE_ORPHAN (R48, R50). -/
def execRestageOrphan (s : State) : Host.Outcome State Fault Refusal := .next (billCommand s 4)

/-- DISCARD_AMENDMENT (R50). -/
def execDiscardAmendment (s : State) : Host.Outcome State Fault Refusal := .next (billCommand s 5)

/-- FIRST_PASS_COMPLETE (R41). -/
def execFirstPassComplete (image again : List Byte) (s : State) : Host.Outcome State Fault Refusal := .next (firstPass s image again)

/-- INSTALL_COMPLETE (R42, R582). -/
def execInstallComplete (again : List Byte) (s : State) : Host.Outcome State Fault Refusal := .next (installBill s again)

/-- BILL_FETCH_ERROR (R582). -/
def execBillFetchError (s : State) : Host.Outcome State Fault Refusal := .next (fetchError s)

end Sys2Proof.Machine
end

