-- ==== Sys2Proof/Machine/CaskHost.lean ====
section
/-! DEFINITION. What a host operation does to casks once its ledger entry is in service: slot images, locks and publishes
of the window (R200 to R205), and the CASK command set (R206, R207, R180). -/
namespace Sys2Proof.Machine

/-- The line of a cask slot at a BAR2 offset (R200). -/
def caskLine (s : State) (addr : Nat) : Nat := rf s Reg.CASK_APERTURE_BASE 31 25 * 2 ^ 25 + (addr - 0x80000000) / 64

/-- The lock that governs a line. -/
def caskLock (s : State) (line : Nat) : Option SlotLock := tabFind s.cask.locks (govLine s line)

/-- The seven words of one line of the newest version, as stored where it is uncorrectable (R210). -/
def lineNow (s : State) (line : Nat) : List W64 :=
  let g := govLine s line
  let ws := if recordBad s g && (wayOfLine s g).isNone then
      applyErrors (deepLine s line).1 (tabGet s.cask.lines line {}).bad
    else (recordAt s g).drop (7 * (line - g))
  (List.range 7).map (fun i => ws.getD i 0)

/-- A slot image of R200: words 0 to 7 as a host read returns them. -/
def caskSlot (s : State) (line : Nat) : List W64 :=
  let g := govLine s line
  match caskLock s line with
  | some l =>
    let ws := (List.range 8).map (fun i => l.staged.getD (8 * (line - g) + i) 0)
    listMod ws 0 (fun w => setFld (setFld (setFld w 63 63 1) 61 61 0) 60 59 (2 * b2n l.written))
  | none =>
    let ws := lineNow s line
    let check := checkOf ws
    let ws := if recordBad s g then recBit ws 58 true else ws
    let batch := if follower s then s.twin.lastSealed.getD 0 else tabGet s.cask.batches g 0
    ws ++ [BitVec.ofNat 64 (check + batch % 2 ^ 32 * 2 ^ 32)]

/-- A host access that reads an uncorrectable line finds it so too (R210, R217, R247). -/
def hostReadReports (s : State) (line : Nat) : State :=
  let g := govLine s line
  if (caskLock s line).isNone && recordBad s g && (wayOfLine s g).isNone then
    let c := (deepAddr s line).ch
    let s := if chanFailed s c then s else chanEvent (cntWrap s (Reg.DEEP_CHc_UNCORRECTABLE c) 1) c 0 0 line
    lineUncorrectable s line
  else s

/-- Why a published image is refused at a line (R204): 0 CHECK, 1 layout, 2 placement, 3 duplicate key (with the other
line). `ws` are the record's words, `checks` tells whether the CHECK words are right. -/
def badRecord (s : State) (line : Nat) (ws : List W64) (checks : Bool) : Option (Nat × Nat) :=
  let lay := recLayout ws
  let wide := bitOf (ws.getD 0 0) 55
  if !checks then some (0, 0)
  else if !recValid ws then none
  else if layUse s lay == 0 || wide != (layUse s lay == 2) || regionOfLine s line != some (layRegion s lay) then some (1, 0)
  else
    let key := recKey ws
    let (h1, h2) := keyHashes s wide key
    let (here, there) := candLines s lay h1 h2
    let homes := here ++ there
    if !homes.contains line then some (2, 0)
    else
      match homes.find? (fun l => l != line && recHolds (recordAt s l) key) with
      | some l => some (3, l)
      | none => none

/-- The record words of slot images, and whether their CHECK words are right: one image, or two for a wide record. -/
def imageRecord (ws : List W64) (pair : Bool) : List W64 × Bool :=
  let half (k : Nat) : List W64 := (List.range 7).map (fun i => ws.getD (8 * k + i) 0)
  let right (k : Nat) : Bool := fld (ws.getD (8 * k + 7) 0) 31 0 == checkOf (half k)
  if pair then (half 0 ++ half 1, right 0 && right 1) else (half 0, right 0)

/-- Publish a record at a line as one commit (R194, R204). -/
def caskPublish (s : State) (line : Nat) (ws : List W64) : State :=
  let old := recordAt s line
  let pinned := recPinned old
  let new := recBit (stampCommit s old ws) 57 (pinned && recValid ws)
  let new := listMod new 0 (fun w => setFld w 61 58 0)
  let s := commitLine s line old new false false
  if recValid new then s
  else
    match wayOfLine s line with
    | some _ => writeLines (wayDrop s line) line new
    | none => s

/-- A clearing write or CAS of a cask's lock (R204): the staged copy is published or discarded, and the lock is gone. -/
def caskClear (s : State) (line : Nat) : State :=
  match tabFind s.cask.locks line with
  | none => s
  | some l =>
    let (ws, checks) := imageRecord l.staged (wideLine s line)
    let s := { s with cask := { s.cask with locks := tabDel s.cask.locks line } }
    match badRecord s line ws checks with
    | some (why, _) => raise (cnt s Reg.CASK_CHECK_FAILS 1) 0x704 line why
    | none => caskPublish s line ws

/-- A write to an unlocked slot is dropped (R136, R204). -/
def caskUnlocked (s : State) (addr : Nat) : State := accReport (cnt s Reg.CASK_UNLOCKED_WR 1) 4 1 true addr

/-- A window write to a cask slot: `off` is the offset within the slot. -/
def caskWrite (s : State) (line off : Nat) (data : List Byte) (addr : Nat) : State :=
  let g := govLine s line
  if follower s then accReport s 11 1 true addr
  else
    match tabFind s.cask.locks g with
    | none => caskUnlocked s addr
    | some l =>
      let at_ := 64 * (line - g) + off
      let l := { l with staged := stageBytes l.staged at_ data, written := true }
      let s := { s with cask := { s.cask with locks := tabSet s.cask.locks g l } }
      if clearsLock at_ data then caskClear s g else s

/-- Take the lock of a cask (R202). -/
def caskTake (s : State) (line : Nat) : Bool × State :=
  let r := recordAt s line
  let staged := if wideLine s line then
      (caskSlot s line) ++ (caskSlot s (line + 1)) else caskSlot s line
  let (ok, s) := if recValid r then admitFixed s line else (true, s)
  if ok then
    (true, { s with cask := { s.cask with locks := tabSet s.cask.locks line { staged := staged, since := nowNs s } } })
  else (false, cnt s Reg.CASK_LOCK_REFUSED 1)

/-- A 64-bit compare-and-swap on word 0 of a cask slot (R136, R202): the completion's word and the state. -/
def caskCas (s : State) (line : Nat) (compare swap : W64) (addr : Nat) : W64 × State :=
  let g := govLine s line
  let s := hostReadReports s line
  let word0 := (caskSlot s line).getD 0 0
  let locked := (caskLock s line).isSome
  if follower s then (word0, accReport s 11 1 true addr)
  else
    match casStep locked word0 compare swap with
    | .nothing => (word0, s)
    | .unlocked => (word0, caskUnlocked s addr)
    | .take =>
      if line ≠ g then (word0, caskUnlocked s addr)
      else
        let (ok, s) := caskTake s line
        if ok then (word0, s) else (setFld word0 63 63 1, accReport s 5 1 true addr)
    | .stage | .clear =>
      let s := { s with cask := { s.cask with locks := tabMap s.cask.locks g (fun l =>
        { l with staged := l.staged.set (8 * (line - g)) swap, written := true }) } }
      if casStep locked word0 compare swap = .clear ∧ line = g then (word0, caskClear s g) else (word0, s)

/-! ### Commands (R206) -/

/-- DATA0 to DATA15. -/
def caskData (s : State) : List W64 := (List.range 16).map (fun w => rd s (Reg.CASK_DATAw w))

/-- Put slot images into DATA. -/
def caskDataPut (s : State) (line : Nat) : State :=
  let put (s : State) (k : Nat) (ws : List W64) : State :=
    (List.range 8).foldl (fun s w => wr s (Reg.CASK_DATAw (8 * k + w)) (ws.getD w 0)) s
  let g := govLine s line
  if wideLine s line then put (put s 0 (caskSlot s g)) 1 (caskSlot s (g + 1)) else put s 0 (caskSlot s line)

/-- The record words in DATA, its endpoints in the LO, HI order (R206), and whether its CHECK words are right. -/
def dataRecord (s : State) : List W64 × Bool :=
  let d := caskData s
  let wide := bitOf (d.getD 0 0) 55
  let (ws, ok) := imageRecord d wide
  let e := recEnds ws
  let key := recKeyWords wide (fld (ws.getD 0 0) 47 0) (min e.1 e.2) (max e.1 e.2)
  (ws.zipIdx.map (fun (w, i) =>
    if i = 0 then w else if i < key.length then (if wide && i == 5 then (w &&& 0xFFFFFFFF) ||| key.getD i 0 else key.getD i 0)
    else w), ok)

/-- The line of the record with the key in DATA under its LAYOUT, and whether a line that could hold it is
uncorrectable. -/
def findRecord (s : State) (ws : List W64) : Option Nat × Bool :=
  let key := recKey ws
  let (h1, h2) := keyHashes s (wideRec ws) key
  match wayOfKey s (cellarSet h1 h2) key with
  | some w => (some w.line, false)
  | none =>
    let (here, there) := candLines s (recLayout ws) h1 h2
    let homes := here ++ there
    (homes.find? (fun l => !recordBad s l && recHolds (recordAt s l) key), homes.any (recordBad s))

/-- Move the records of a row that hash to the other row of its pair back to it (R180). -/
def repackRow (s : State) (g row : Nat) (wide : Bool) : State :=
  (List.range (if wide then 16 else 32)).foldl (fun s i =>
    let line := lineAt s g row (if wide then 2 * i else i)
    let r := recordAt s line
    let (h1, h2) := keyHashes s wide (recKey r)
    let lay := recLayout r
    if lineMovable s line && layRegion s lay == g && recRow (regionRows s g) h1 != row then
      match placeRow s (candLines s lay h1 h2).1 16 with
      | some (l, c) => moveRecord (doMoves s c) line l
      | none => s
    else s) s

/-- The record at a line is pinned or unpinned as a change that the lead mirrors with it. -/
def setPinned (s : State) (line : Nat) (on : Bool) : State :=
  let old := recordAt s line
  let new := recBit old 57 on
  let s := mirrorRec s line old new
  if (wayOfLine s line).isSome then wayMod s line (fun w => { w with words := new, dirty := true })
  else (writeBack s line new).2

/-- Write back every dirty way that is not poisoned (R206). -/
def flushCellar (s : State) : State :=
  (s.cask.cellar.flatMap (fun e => e.2)).foldl (fun s w =>
    if w.dirty && !w.poisoned then
      let (l, s) := writeBack s w.line w.words
      wayMod s w.line (fun x => { x with line := l, dirty := false })
    else s) s

/-- Execute a CASK command (R206): RESULT and state. -/
def caskRun (s : State) (op line : Nat) : Nat × State :=
  let index (s : State) (l : Nat) : State := wrn s Reg.CASK_LINE l
  let (ws, checks) := dataRecord s
  let lay := recLayout ws
  let layoutBad := layUse s lay == 0 || wideRec ws != (layUse s lay == 2)
  let restricted := op == 2 || op == 3 || op == 4 || op == 6 || op == 7 || op == 9
  if follower s && restricted then (8, s)
  else if (op == 1 || op == 2 || op == 9 || op == 10) && (regionOfLine s line).isNone then (5, s)
  else
    let g := govLine s line
    match op with
    | 1 =>
      let bad := (caskLock s line).isNone && recordBad s g
      let s := hostReadReports s line
      (if bad then 11 else 0, caskDataPut s line)
    | 2 =>
      if (caskLock s line).isSome then (1, s)
      else
        let (raw, ok) := imageRecord (caskData s) (wideLine s line)
        match badRecord s g raw ok with
        | some (0, _) => (4, s)
        | some (1, _) => (9, s)
        | some (2, _) => (12, s)
        | some (_, l) => (6, index s l)
        | none => (0, caskPublish s g raw)
    | 3 =>
      if !checks then (4, s)
      else if layoutBad then (9, s)
      else
        match findRecord s ws with
        | (some l, _) => (6, index s l)
        | (none, true) => (11, s)
        | (none, false) =>
          let (h1, h2) := keyHashes s (wideRec ws) (recKey ws)
          match placeRecord s lay h1 h2 with
          | (some l, s) => (0, index (caskPublish s l (recBit ws 62 true)) l)
          | (none, s) => (3, caskInsFail s lay h1)
    | 4 | 5 | 6 | 7 =>
      if layoutBad then (9, s)
      else
        match findRecord s ws with
        | (none, bad) => (if bad then 11 else 2, s)
        | (some l, _) =>
          if op = 5 then (0, caskDataPut (index s l) l)
          else if op = 4 then (if (caskLock s l).isSome then (1, s) else (0, commitDelete s l false))
          else if op = 6 then
            if recPinned (recordAt s l) then (0, s)
            else
              let (ok, s) := admitFixed s l
              if ok then (0, setPinned s l true) else (10, pinRefused s l)
          else (0, setPinned { s with cask := { s.cask with pinWait := s.cask.pinWait.filter (· != l) } } l false)
    | 8 => (0, flushCellar s)
    | 9 =>
      match regionOfLine s line with
      | none => (5, s)
      | some n =>
        let row := line / 32 - regionBase s n
        let rows := regionRows s n
        let r := min row (spillRow rows row)
        (0, repackRow (repackRow s n r (wideLine s line)) n (spillRow rows r) (wideLine s line))
    | 10 =>
      let first := line / 32 * 32
      let bytes := (List.range 32).flatMap (fun i => bytesOf (caskSlot s (first + i)))
      (0, emit s (.hostWrite (rdn s Reg.CASK_BULK_ADDR) bytes))
    | _ => (7, s)

end Sys2Proof.Machine
end

