-- ==== Sys2Proof/Machine/Cask.lean ====
section
/-! DEFINITION. The in-flight ledger (R187 to R194, R203): admission, probe, fetch, insertion, delivery, chains, commit; the
pre-state queues (R196 to R198); ageing (R208). -/
namespace Sys2Proof.Machine

/-! ### Ledger entries -/

/-- The entry under a tag. -/
def entryOf (s : State) (t : Nat) : Option Entry := tabFind s.cask.ledger t

/-- Put an entry. -/
def ledgerPut (s : State) (t : Nat) (e : Entry) : State :=
  { s with cask := { s.cask with ledger := tabSet s.cask.ledger t e } }

/-- Change an entry, if it is open. -/
def ledgerMod (s : State) (t : Nat) (f : Entry → Entry) : State :=
  { s with cask := { s.cask with ledger := tabMap s.cask.ledger t f } }

/-- Stateless frames and runs that hold a ledger entry for a lock wait (R138, R199). -/
def lockWaits (s : State) : Nat :=
  (s.frames.filter (fun e => e.2.waitAt.isSome && !clsStateful s e.2.gen e.2.cls)).length +
  (s.ferm.runs.filter (fun e => !e.2.held && e.2.tasks.any (fun t => t.looking != []))).length

/-- Entries that are not FREE. -/
def ledgerUsed (s : State) : Nat := s.cask.ledger.length + lockWaits s

/-- The ledger admits (R187): `kind` 0 a non-urgent frame, 1 an urgent one, 2 the host. -/
def ledgerRoom (s : State) (kind : Nat) : Bool :=
  let free := 16384 - ledgerUsed s
  let u := rf s Reg.CASK_LEDGER_CFG 13 0
  let h := rf s Reg.CASK_LEDGER_CFG 20 16
  decide ((match kind with | 0 => u + h | 1 => h | _ => 0) < free)

/-- The lowest free tag. -/
def freeTag (s : State) : Nat :=
  ((List.range (s.cask.ledger.length + 1)).find? (fun t => (tabFind s.cask.ledger t).isNone)).getD 0

/-- Open an entry. -/
def openEntry (s : State) (e : Entry) : Nat × State :=
  let t := freeTag s
  let s := tally (cntWrap (ledgerPut s t { e with admitted := nowNs s }) Reg.CASK_OPS 1) 0x1100 1
  (t, peak s Reg.CASK_LEDGER_PEAK 14 0 (ledgerUsed s))

/-- The entry chained behind another. -/
def successor (s : State) (t : Nat) : Option Nat := (s.cask.ledger.find? (fun e => e.2.pred == some t)).map (·.1)

/-- The last entry of the chain that an entry belongs to. -/
def chainEnd (s : State) : Nat → Nat → Nat
  | 0, t => t
  | n + 1, t =>
    match successor s t with
    | some u => chainEnd s n u
    | none => t

/-- The last entry of the chain that works on a key. -/
def chainOfKey (s : State) (key : List W64) : Option Nat :=
  (s.cask.ledger.find? (fun e => e.2.keyw == key)).map (fun e => chainEnd s 16384 e.1)

/-- The last entry of the chain whose record is at a line. A chain whose head waits in LOCKWAIT holds no host access up: the
access that publishes the copy is what ends the wait (R192). DEDUCED (log 25). -/
def chainOfLine (s : State) (line : Nat) : Option Nat :=
  (s.cask.ledger.find? (fun e => e.2.line == some line && e.2.st != 2 && e.2.st != 6)).map (fun e => chainEnd s 16384 e.1)

/-- Operations of the chain of a key. -/
def chainLength (s : State) (key : List W64) : Nat := (s.cask.ledger.filter (fun e => e.2.keyw == key)).length

/-! ### Service -/

/-- The record, or its absence, reaches the run (R192, R251). -/
def giveRecord (s : State) (n : Nat) (rec : Option (List W64)) (created : Bool) : State :=
  runMod s n (fun r => { r with record := rec, isNew := created }.set 4 (nowNs s))

/-- What passes to the next operation of a chain: nothing is known, the record's absence, or the record at a line. -/
inductive Carry where
  | unknown
  | absent
  | at_ (line : Nat)
deriving Repr

/-- The run whose entry is closed holds it no longer: an aborted run is over, another one commits if it may. -/
def runFreed (s : State) (t n : Nat) : State :=
  match runOf s n with
  | none => s
  | some r =>
    if r.tag ≠ some t then s
    else
      let s := runPut s n { r with held := false, committed := r.committed || r.aborted }
      if r.aborted && (frameOf s n).isNone then { s with ferm := { s.ferm with runs := tabDel s.ferm.runs n } }
      else tryCommit 4096 s n

/-- Remove an entry; its chain's copy of a record is written back when none follows (R188). The successor, if any. -/
def closeEntry (s : State) (t : Nat) : Option Nat × State :=
  match entryOf s t with
  | none => (none, s)
  | some e =>
    let next := successor s t
    let s := { s with cask := { s.cask with ledger := tabDel s.cask.ledger t } }
    let s := if e.host.isSome then s else runFreed s t e.run
    match next, e.line with
    | none, some l =>
      match tabFind s.cask.copies l with
      | some ws =>
        let s := { s with cask := { s.cask with copies := tabDel s.cask.copies l } }
        (none, (writeBack s l ws).2)
      | none => (none, s)
    | _, _ => (next, s)

/-- A recovery operation ends without a record (R348, R43): RCV_FAIL decides where none could be created. -/
def recoveryFails (s : State) (n f : Nat) (cls policy reason : Nat) : State :=
  let s := frameMod (giveRecord s n none false) f (fun x => { x with rcvWait := false })
  let s := runMod s n Run.cancel
  if reason = 0x04 then
    let fail := rf s (Reg.EGRESS_CLASSc_RCV cls) 10 10
    let s := raise (cnt s Reg.EGRESS_RCV_NO_RECORD 1) 0xE4A 0 fail
    if fail = 1 then frameMod s f (fun x => { x with rcvBad := true, fate := some none }) else s
  else frameFate s f policy reason

/-- The run of an operation whose entry ends with a policy of its class (R43): it goes on without a record, or its frame is
dropped or trapped. -/
def fallBack (s : State) (e : Entry) (policy reason : Nat) : State :=
  if e.dropped then s
  else if let some f := (runOf s e.run).bind (·.recovery) then recoveryFails s e.run f e.cls policy reason
  else if policy = 0 then tryCommit 4096 (giveRecord s e.run none false) e.run
  else frameFate (dropRun s e.run) e.run policy reason

/-- Lines that a candidate takes. -/
def candSize (s : State) (e : Entry) : Nat := if layUse s e.lay = 2 then 2 else 1

/-- Issue the reads of a candidate: lines that answer at once are noted, lines that cannot be read as well. -/
def issueReads (s : State) (t : Nat) (lines : List Nat) (hint : Bool) : State :=
  lines.foldl (fun s line =>
    let (r, s) := deepRead (tally (cntWrap s Reg.CASK_LINE_READS 1) 0x1102 1) line t hint
    match r with
    | .data ws => ledgerMod s t (fun e => { e with have_ := e.have_ ++ [(line, ws)] })
    | .bad => lineUncorrectable (ledgerMod s t (fun e => { e with badLine := some line })) line
    | .queued => ledgerMod s t (fun e => { e with outstanding := e.outstanding ++ [line] })
    | .full =>
      let s := { s with cask := { s.cask with readWait := s.cask.readWait ++ [(line, t, hint)] } }
      ledgerMod s t (fun e => { e with outstanding := e.outstanding ++ [line] })) s

/-- What a service step asks for next. -/
inductive Serve where
  /-- the record at a line is delivered -/
  | found (line : Nat)
  /-- the key has no record -/
  | absent
  /-- a line that could hold the key is uncorrectable -/
  | poisoned
  /-- reads are outstanding -/
  | wait
deriving Repr

/-- The fetch of R174: candidates are read one after the other until one holds the key. -/
def fetchLoop : Nat → State → Nat → Serve × State
  | 0, s, _ => (.wait, s)
  | fuel + 1, s, t =>
    match entryOf s t with
    | none => (.wait, s)
    | some e =>
      if e.outstanding ≠ [] then (.wait, s)
      else
        let n := candSize s e
        let line? := (e.have_.head?).map (fun h => if n = 2 then h.1 / 2 * 2 else h.1)
        let words := match line? with
          | some l => (List.range n).flatMap (fun i => (tabFind (e.have_.foldl (fun m h => tabSet m h.1 h.2) []) (l + i)).getD [])
          | none => []
        match line? with
        | some l =>
          if words.length = 7 * n ∧ recHolds words e.keyw then (.found l, ledgerPut s t { e with have_ := [] })
          else fetchLoop fuel (ledgerPut s t { e with have_ := [] }) t
        | none =>
          match e.todo with
          | [] => (if e.badLine.isSome then .poisoned else .absent, s)
          | c :: rest =>
            let s := ledgerPut s t { e with todo := rest, have_ := [] }
            fetchLoop fuel (issueReads s t ((List.range n).map (c + ·)) (layStreams s e.lay)) t

/-- Move an entry into SERVE with its record, or LOCKWAIT when the host holds the record (R192). A run already aborted is
discarded by the caller. -/
def enterServe (s : State) (t : Nat) (e : Entry) (line : Option Nat) (rec : Option (List W64)) (created : Bool) : State :=
  let locked := match line with
    | some l => (caskLock s l).isSome && !created && !e.readOnly
    | none => false
  if locked then ledgerPut s t { e with st := 6, line := line, got := rec }
  else giveRecord (ledgerPut s t { e with st := 5, line := line, got := rec, created := created }) e.run rec created

/-- Another insertion holds the row pair of a layout and hash (R176): any insertion, or only one that moves records. -/
def pairBusy (s : State) (t lay h1 : Nat) (onlyMoving : Bool) : Option Nat :=
  (s.cask.ledger.find? (fun e => e.1 != t && e.2.st == 4 && e.2.host.isNone && rowPair s e.2.lay e.2.h1 == rowPair s lay h1 &&
    (!onlyMoving || e.2.moving))).map (·.1)

/-- An entry enters INSERT, or waits for the row pair (R176). -/
def enterInsert (s : State) (t : Nat) (e : Entry) : State :=
  match pairBusy s t e.lay e.h1 false with
  | some i => ledgerPut s t { e with st := 2, inter := some i, wantInsert := true }
  | none =>
    let moving := !((candLines s e.lay e.h1 e.h2).1.any (lineFree s))
    ledgerPut s t { e with st := 4, inter := none, moving := moving, wantInsert := false }

/-- The record is absent: INSERT when CREATE = 0, else SERVE with HIT = 0 (R192). -/
def enterAbsent (s : State) (t : Nat) (e : Entry) : State :=
  if layCreates s e.lay && !e.readOnly then enterInsert s t { e with line := none, got := none }
  else enterServe s t e none none false

/-- A record fetched from the Deep Store is served (R192, R182): allocated in the Cellar when its layout caches. -/
def fetched (s : State) (t : Nat) (e : Entry) (line : Nat) : State :=
  let rec_ := recordAt s line
  let s := if (candLines s e.lay e.h1 e.h2).1.head? = some line then s else cnt s Reg.CASK_SECONDARY 1
  let s := ledgerPut s t { e with line := some line }
  let s := if layStreams s e.lay then s
    else if (wayOfLine s line).isSome then s
    else (allocate s (cellarSet e.h1 e.h2) line rec_ false).2
  enterServe s t e (some line) (some rec_) false

/-- Run a host operation whose turn has come (R201): what it leaves to the chain. -/
def hostRun (s : State) (e : Entry) (h : HostOp) : Carry × State :=
  let line := e.line.getD 0
  let left (s : State) : Carry :=
    let g := govLine s line
    if recValid (recordAt s g) then .at_ g else .absent
  match h.kind with
  | 0 =>
    let s := hostReadReports s line
    let bytes := slice (bytesOf (caskSlot s line)) h.addr h.len
    let s := emit s (.readData bytes)
    (left s, s)
  | 1 =>
    let (w, s) := caskCas s line h.compare h.swap (0x80000000 + h.addr)
    let s := emit s (.readData (toLE 8 w.toNat))
    (left s, s)
  | 2 =>
    let s := caskWrite s line (h.addr % 64) h.data (0x80000000 + h.addr)
    (left s, s)
  | _ =>
    match s.cask.cmd with
    | some c =>
      let (r, s) := caskRun s c.op c.index
      (.unknown, { s with cask := { s.cask with result := some r } })
    | none => (.unknown, s)

/-- A probe (R192): chained, held by the row interlock, found in the Cellar, or to be fetched. -/
def probeEntry (s : State) (t : Nat) (e : Entry) (wayBad : Bool) : Serve × State :=
  match pairBusy s t e.lay e.h1 true with
  | some i => (.wait, ledgerPut s t { e with st := 2, inter := some i })
  | none =>
    let set := cellarSet e.h1 e.h2
    let s := match wayOfKey s set e.keyw with
      | some w => if wayBad then wayUncorrectable s w.line else s
      | none => s
    let fetch (s : State) : Serve × State :=
      let (here, there) := candLines s e.lay e.h1 e.h2
      let todo := here ++ (if spilled s e.lay e.h1 then there else [])
      fetchLoop 16 (ledgerPut s t { e with st := 3, todo := todo, inter := none }) t
    match wayOfKey s set e.keyw with
    | some w =>
      if !setAwake s set then fetch s
      else if w.poisoned then (.poisoned, tally (cntWrap s Reg.CASK_CELLAR_HITS 1) 0x1101 1)
      else (.found w.line, wayTouch (tally (cntWrap s Reg.CASK_CELLAR_HITS 1) 0x1101 1) w.line)
    | none => fetch s

/-- A discarded operation is counted (R193). -/
def countDiscard (s : State) (t : Nat) : State := raise (tally (cnt s Reg.CASK_VERDICT_DISCARDS 1) 0x1104 1) 0x70C 0 t

/-- The work that a change of the ledger leaves: entries to be probed again, entries that receive what their predecessor
leaves, and runs of host operations. At most `fuel` entries are advanced. -/
def advance : Nat → State → List (Nat × Carry) → State
  | 0, s, _ => s
  | _, s, [] => s
  | fuel + 1, s, (t, c) :: work =>
    match entryOf s t with
    | none => advance fuel s work
    | some e0 =>
      let e := { e0 with pred := none }
      let finish (s : State) (c : Carry) : State × List (Nat × Carry) :=
        let waiting := (s.cask.ledger.filter (fun x => x.2.inter == some t)).map (fun x => (x.1, Carry.unknown))
        let (next, s) := closeEntry s t
        (s, (match next with | some u => [(u, c)] | none => []) ++ waiting)
      let served (r : Serve × State) : State × List (Nat × Carry) :=
        let (r, s) := r
        let e := ((entryOf s t).getD e)
        match r with
        | .wait => (s, [])
        | .poisoned => finish (fallBack s e (clsPoison s e.gen e.cls) 0x05) .unknown
        | .absent =>
          if e.dropped then finish (countDiscard s t) .absent else (enterAbsent s t e, [])
        | .found l =>
          if e.dropped then finish (countDiscard s t) (.at_ l)
          else if e.st = 3 then (fetched s t e l, [])
          else (enterServe s t e (some l) (some (recordAt s l)) false, [])
      let (s, more) : State × List (Nat × Carry) :=
        match e.host with
        | some h =>
          let (c, s) := hostRun (ledgerPut s t e) e h
          finish s c
        | none =>
          let s := ledgerPut s t { e with st := 1 }
          let e := { e with st := 1 }
          if e.inter.isSome && e.wantInsert then (enterInsert s t { e with inter := none }, [])
          else
            match c with
            | .unknown => served (probeEntry s t { e with inter := none } false)
            | .absent => served (.absent, s)
            | .at_ l =>
              if recordBad s l then served (.poisoned, s)
              else if recHolds (recordAt s l) e.keyw then served (.found l, s) else served (.absent, s)
      advance fuel s (work ++ more)

/-- Free an entry and let its chain and the entries that its insertion held go on. -/
def freeEntry (s : State) (t : Nat) (c : Carry) : State :=
  let waiting := (s.cask.ledger.filter (fun x => x.2.inter == some t)).map (fun x => (x.1, Carry.unknown))
  let (next, s) := closeEntry s t
  advance 32768 s ((match next with | some u => [(u, c)] | none => []) ++ waiting)

/-- Discard an operation in SERVE (R193): its successor receives what it received. -/
def discardEntry (s : State) (t : Nat) (e : Entry) : State :=
  freeEntry (countDiscard s t) t (match e.line with
    | some l => if e.created then .absent else .at_ l
    | none => .absent)

/-- The operation of a run aborted under R252 is discarded: at once in SERVE, else when its record is delivered. -/
def discardRun (s : State) (n : Nat) : State :=
  match s.cask.ledger.find? (fun e => e.2.run == n && e.2.host.isNone && !e.2.dropped) with
  | none => s
  | some (t, e) =>
    let e := { e with dropped := true }
    let s := ledgerPut s t e
    if e.st = 5 then discardEntry s t e else s

/-- Abort a run (R252): its tasks and its cask operation. -/
def abortRun (s : State) (n : Nat) : State := discardRun (dropRun s n) n

/-- Serve what a step found for an entry. -/
def afterServe (s : State) (t : Nat) (r : Serve) : State :=
  match entryOf s t with
  | none => s
  | some e =>
    match r with
    | .wait => s
    | .poisoned =>
      let s := fallBack s e (clsPoison s e.gen e.cls) 0x05
      freeEntry s t .unknown
    | .absent => if e.dropped then discardEntry s t e else enterAbsent s t e
    | .found l =>
      if e.dropped then discardEntry s t { e with line := some l }
      else if e.st = 3 then fetched s t e l
      else enterServe s t e (some l) (some (recordAt s l)) false

/-- A freshly admitted entry: chained behind its key's chain, or probed. -/
def startEntry (s : State) (t : Nat) (wayBad : Bool) : State :=
  match entryOf s t with
  | none => s
  | some e =>
    let others := { s with cask := { s.cask with ledger := tabDel s.cask.ledger t } }
    match chainOfKey others e.keyw with
    | some u => ledgerPut s t { e with st := 2, pred := some u }
    | none =>
      let (r, s) := probeEntry s t e wayBad
      afterServe s t r

/-- Entries that wait for a lock that is gone resume (R192): against the published record, or its absence. -/
def resumeLocked (s : State) : State :=
  (s.cask.ledger.filter (fun x => x.2.st == 6)).foldl (fun s x =>
    match entryOf s x.1 with
    | some e =>
      match e.line with
      | some l =>
        if (caskLock s l).isSome then s
        else if recHolds (recordAt s l) e.keyw then afterServe s x.1 (.found l)
        else afterServe s x.1 .absent
      | none => s
    | none => s) s

/-- Read requests that waited for room in a read queue are issued again (R221). -/
def pumpReads (s : State) : State :=
  let waiting := s.cask.readWait
  waiting.foldl (fun s (line, t, hint) =>
    let (r, s) := deepRead s line t hint
    match r with
    | .full => { s with cask := { s.cask with readWait := s.cask.readWait ++ [(line, t, hint)] } }
    | .queued => s
    | .data ws =>
      let s := ledgerMod s t (fun e => { e with outstanding := e.outstanding.filter (· != line), have_ := e.have_ ++ [(line, ws)] })
      let (r, s) := fetchLoop 16 s t
      afterServe s t r
    | .bad =>
      let s := lineUncorrectable (ledgerMod s t (fun e =>
        { e with outstanding := e.outstanding.filter (· != line), badLine := some line })) line
      let (r, s) := fetchLoop 16 s t
      afterServe s t r) { s with cask := { s.cask with readWait := [] } }

/-! ### Pre-state queues (R196 to R198) -/

/-- The queue of a class in a quad. -/
def psqOf (s : State) (q c : Nat) : List Nat := tabGet s.cask.psq (64 * q + c) []

/-- Put the queue of a class in a quad. -/
def psqPut (s : State) (q c : Nat) (l : List Nat) : State :=
  { s with cask := { s.cask with psq := tabPut s.cask.psq (64 * q + c) l [] } }

/-- Descriptors in a quad's queue. -/
def psqCount (s : State) (q : Nat) : Nat := (List.range 64).foldl (fun n c => n + (psqOf s q c).length) 0

/-- OVER: the pressure condition of a class on a quad holds (R197). -/
def psqOver (s : State) (q c : Nat) : Bool := rb s (Reg.CASK_PSQq_CLASSc q c) 16

/-- The pause key of a class under a generation: its PFC priority, or 8 for PAUSE; none under policy 2. -/
def pressureKey (s : State) (g c : Nat) : Option Nat :=
  match clsPressure s g c with
  | 0 => some (clsPfcPrio s g c)
  | 1 => some 8
  | _ => none

/-- Classes of a quad whose pressure condition holds with a pause key, other than one class. -/
def otherPressure (s : State) (q c key : Nat) : Bool :=
  (List.range 64).any (fun d => d != c && psqOver s q d && pressureKey s (billGen s) d == some key)

/-- A frame of a stateful class enters its pre-state queue, or is dropped (R197, R198): true when it entered. -/
def psqEnter (s : State) (f : Nat) (fr : Frame) : Bool × State :=
  let q := quadOf fr.port
  let c := fr.cls
  if 2048 ≤ psqCount s q then (false, raise (cnt s (Reg.CASK_PSQq_FULL_DROP q) 1) (0x720 + q) 0 c)
  else if psqOver s q c && clsPressure s fr.gen c == 2 then (false, cnt s (Reg.CASK_PSQq_PRESSURE_DROP q) 1)
  else
    let s := psqPut s q c (psqOf s q c ++ [f])
    let s := peak s (Reg.CASK_PSQq_PEAK q) 11 0 (psqCount s q)
    let ports := (psqOf s q c).filterMap (fun g => (frameOf s g).map (·.port))
    if psqOver s q c then
      match pressureKey s fr.gen c with
      | some key => (true, pauseStart s fr.port key)
      | none => (true, s)
    else if clsThresh s fr.gen c ≤ (psqOf s q c).length then
      let s := raise (cnt (wf s (Reg.CASK_PSQq_CLASSc q c) 16 16 1) (Reg.CASK_PSQq_PAUSES q) 1) (0x710 + q) c
        (clsPressure s fr.gen c)
      match pressureKey s fr.gen c with
      | some key => (true, ports.eraseDups.foldl (fun s p => pauseStart s p key) s)
      | none => (true, s)
    else (true, s)

/-- A descriptor has left a class's queue: its pressure condition may clear. -/
def psqEased (s : State) (q c g : Nat) : State :=
  if psqOver s q c && decide ((psqOf s q c).length ≤ clsThresh s g c / 2) then
    let s := wf s (Reg.CASK_PSQq_CLASSc q c) 16 16 0
    match pressureKey s g c with
    | some key =>
      if otherPressure s q c key then s else (List.range 4).foldl (fun s i => pauseStop s (4 * q + i) key) s
    | none => s
  else s

/-- The layout that a frame's record takes (R113, R171): its class's, or the wide one for a key of AF 3; none when there is
none. -/
def layoutOf (s : State) (fr : Frame) : Option Nat :=
  let lay := clsLayout s fr.gen fr.cls
  if layUse s lay = 2 ∨ !fr.key.wide then some lay
  else
    let w := clsWideLayout s fr.gen fr.cls
    if w = 0xFF then none else some w

/-- The run of a frame, ready to be created (R250, R251). -/
def frameRun (s : State) (fr : Frame) (quarter : Nat) : Run :=
  { graph := (clsGraphOf s fr.gen fr.cls).getD {}, graphNo := clsGraph s fr.gen fr.cls, cls := fr.cls, gen := fr.gen
    quarter := quarter, urgent := clsUrgent s fr.gen fr.cls
    flags := 1 + b2n fr.looked * 2 + b2n (!clsStateful s fr.gen fr.cls) * 4 + b2n (fr.verdict == some true) * 8 +
      (fr.auth % 2) * 16 }

/-- Key words of a frame's record under a layout. -/
def frameKey (s : State) (fr : Frame) (lay : Nat) : List W64 :=
  recKeyWords (layUse s lay == 2) fr.key.ctx fr.key.lo fr.key.hi

/-- The class's graph runs in item mode (R280). -/
def clsItem (s : State) (fr : Frame) : Bool := ((clsGraphOf s fr.gen fr.cls).getD {}).item

/-- A class of a quad whose head can leave: the chain has room and its run's task slots are available (R190, R264). -/
def headReady (s : State) (q c : Nat) : Option (Nat × Frame × Nat) :=
  match psqOf s q c with
  | [] => none
  | f :: _ =>
    match frameOf s f with
    | none => some (f, {}, 0)
    | some fr =>
      let n := if clsItem s fr then 0 else (((clsGraphOf s fr.gen fr.cls).getD {}).tasks).length
      let room := match layoutOf s fr with
        | some lay => decide (chainLength s (frameKey s fr lay) < rf s Reg.CASK_LEDGER_CFG 31 24)
        | none => true
      match slotQuarter s (q % 4) n (!clsUrgent s fr.gen fr.cls) with
      | some h => if room then some (f, fr, h) else none
      | none => none

/-- Create the run of a stateful frame with its ledger entry (R187, R264), in an item domain or none. -/
def statefulRun (s : State) (f : Nat) (fr : Frame) (quarter : Nat) (domain : Option Nat) (wayBad : Bool) : State :=
  let run := { frameRun s fr quarter with domain := domain }
  match layoutOf s fr with
  | none =>
    let s := createRun (cnt s Reg.CASK_INS_FAIL 1) f run
    fallBack s { run := f } (clsInsFail s fr.gen fr.cls) 0x04
  | some lay =>
    let e : Entry := { run := f, keyw := frameKey s fr lay, lay := lay, h1 := fr.h1, h2 := fr.h2, cls := fr.cls
                       gen := fr.gen, dropped := fr.verdict == some false }
    let (t, s) := openEntry s e
    startEntry (createRun s f { run with tag := some t, held := true }) t wayBad

/-- A descriptor leaves the pre-state queue of a quad (R196): urgent classes before others, round-robin over classes. -/
def psqDepart (s : State) (q : Nat) (wayBad : Bool) : State :=
  let urgentOf (c : Nat) : Bool :=
    match psqOf s q c with
    | f :: _ => (frameOf s f).any (fun fr => clsUrgent s fr.gen fr.cls)
    | [] => false
  let pick (urg : Bool) : Option (Nat × Nat × Frame × Nat) :=
    if !ledgerRoom s (b2n urg) then none
    else
      let start := tabGet s.cask.psqNext (2 * q + b2n urg) 0
      ((List.range 64).map (fun i => (start + i) % 64)).findSome? (fun c =>
        if psqOf s q c != [] && urgentOf c == urg then (headReady s q c).map (fun h => (c, h)) else none)
  let go (urg : Bool) (x : Nat × Nat × Frame × Nat) : State :=
    let (c, f, fr, quarter) := x
    let s := psqPut s q c (psqOf s q c).tail
    let s := { s with cask := { s.cask with psqNext := tabSet s.cask.psqNext (2 * q + b2n urg) ((c + 1) % 64) } }
    let s := psqEased s q c fr.gen
    if (frameOf s f).isNone || fr.fate.isSome || fr.verdict == some false then s
    else if clsItem s fr then itemQueue s (itemDomain s fr) f none
    else statefulRun s f fr quarter none wayBad
  match pick true with
  | some x => go true x
  | none =>
    match pick false with
    | some x => go false x
    | none => if (List.range 64).any (fun c => psqOf s q c != []) then wakeQuarters s else s

/-! ### Commit (R189, R194) -/

/-- Commit the operation of an entry in SERVE whose run has released its record and whose verdict is good. -/
def commitEntry (s : State) (t : Nat) : State :=
  match entryOf s t with
  | none => s
  | some e =>
    match runOf s e.run with
    | none => s
    | some r =>
      if e.st ≠ 5 || e.dropped || e.host.isSome || !r.released || !r.flag 3 || storeFull s || !mayCommit s e.run r then s
      else
        let more := (successor s t).isSome
        let close (s : State) (c : Carry) : State :=
          let s := noteCommit (flushCounts s e.run) e.run
          tryCommit 4096 (freeEntry s t c) e.run
        if e.readOnly then
          close (if r.wrote || r.delete then cnt s Reg.CASK_LOCK_READONLY 1 else s)
            (match e.line with | some l => .at_ l | none => .absent)
        else
          match e.line, r.record with
          | some l, some rec_ =>
            if r.delete then close (if e.created then s else commitDelete s l more) .absent
            else
              let old := recordAt s l
              let new := stampCommit s old rec_
              if e.created then
                let s := tally (cntWrap s Reg.CASK_CREATES 1) 0x1103 1
                let (kept, s) := if layStreams s e.lay then (false, s)
                  else allocate s (cellarSet e.h1 e.h2) l new true
                let s := commitLine s l (old.map (fun _ => 0)) new (more && !kept) false
                let s := if layAutoPin s e.lay then
                    let (ok, s) := admitFixed s l
                    if ok then setPinned s l true else pinRefused s l
                  else s
                close s (.at_ l)
              else close (commitLine s l old new more (!r.wrote)) (.at_ l)
          | _, _ => close s .absent

/-- The insertion of an entry in INSERT (R175, R179). -/
def insertEntry (s : State) (t : Nat) : State :=
  match entryOf s t with
  | none => s
  | some e =>
    if e.st ≠ 4 || e.host.isSome then s
    else
      let waiting := (s.cask.ledger.filter (fun x => x.2.inter == some t)).map (fun x => (x.1, Carry.unknown))
      if e.dropped then discardEntry s t e
      else
        match placeRecord s e.lay e.h1 e.h2 with
        | (some l, s) =>
          let s := enterServe s t e (some l) (some (newRecord s e.lay e.keyw)) true
          advance 32768 s waiting
        | (none, s) =>
          let s := caskInsFail s e.lay e.h1
          freeEntry (fallBack s e (clsInsFail s e.gen e.cls) 0x04) t .absent

/-- Lock waits that have reached CASK_LOCK_TIMEOUT (R203). -/
def caskLockTimeouts (s : State) : State :=
  (s.cask.ledger.filter (fun x => x.2.st == 6)).foldl (fun s x =>
    match entryOf s x.1 with
    | some e =>
      if e.st = 6 ∧ elapsed s e.admitted (4 * rf s Reg.CASK_LOCK_TIMEOUT 17 0) then
        let pol := rf s Reg.CASK_CFG 0 0
        let line := e.line.getD 0
        let s := raise (cnt s Reg.CASK_LOCK_TIMEOUTS 1) 0x702 line pol
        if pol = 0 then
          let s := ledgerPut s x.1 { e with readOnly := true }
          afterServe s x.1 (if recHolds (recordAt s line) e.keyw then .found line else .absent)
        else freeEntry (fallBack s e (clsInsFail s e.gen e.cls) 0x04) x.1 (.at_ line)
      else s
    | none => s) s

/-! ### Host operations (R187, R201) -/

/-- A host operation on a line: it takes an entry, chains behind the open entries at that line, or runs at once. It waits for
an entry by staying in the ledger's order (R187). -/
def hostOperation (s : State) (line : Nat) (key : List W64) (h : HostOp) : State :=
  let behind := match chainOfLine s (govLine s line) with
    | some t => some t
    | none => if key = [] then none else chainOfKey s key
  let e : Entry := { st := 2, host := some h, line := some line, pred := behind }
  let (t, s) := openEntry s e
  if behind.isSome then s else resumeLocked (advance 32768 s [(t, .unknown)])

/-- The key that a command works on, when it works on a key. -/
def cmdKey (s : State) (op : Nat) : List W64 :=
  if 3 ≤ op ∧ op ≤ 7 then recKey (dataRecord s).1 else []

/-- Try to start the command in progress: it waits while the ledger has no entry or, for a change, the delta store is
full. -/
def caskCmdTry (s : State) : State :=
  match s.cask.cmd, s.cask.result with
  | some c, none =>
    let running := s.cask.ledger.any (fun e => e.2.host.any (fun h => h.kind == 3))
    let changes := c.op == 2 || c.op == 3 || c.op == 4 || c.op == 6 || c.op == 7
    if running || !ledgerRoom s 2 then s
    else if changes && storeFull s then storeStall s
    else
      let line := if c.op = 1 ∨ c.op = 2 ∨ c.op = 9 ∨ c.op = 10 then c.index else 2 ^ 32
      hostOperation s line (cmdKey s c.op) { kind := 3 }
  | _, _ => s

/-- GO of CASK_CMD with an operation: ignored while BUSY (R207). -/
def caskCommand (s : State) (op : Nat) : State :=
  if rb s Reg.CASK_CMD_STATUS 0 then s
  else
    let s := wf (wf s Reg.CASK_CMD 3 0 op) Reg.CASK_CMD_STATUS 0 0 1
    caskCmdTry { s with cask := { s.cask with
      cmd := some { op := op, index := rdn s Reg.CASK_LINE, data := [] }, result := none } }

/-- A command ends with its RESULT (R207). -/
def caskCmdDone (s : State) : State :=
  let s := caskCmdTry s
  match s.cask.cmd, s.cask.result with
  | some c, some r =>
    let s := wf (wf s Reg.CASK_CMD_STATUS 0 0 0) Reg.CASK_CMD_STATUS 7 4 r
    let s := { s with cask := { s.cask with cmd := none, result := none } }
    if 8 ≤ c.op then raise s 0x70D c.op r else s
  | _, _ => s

/-! ### Ageing (R208, R209, R177) -/

/-- Classes of the bill in force whose records take a layout. -/
def layoutClasses (s : State) (lay : Nat) : List Nat :=
  (List.range 64).filter (fun c => clsStateful s (billGen s) c &&
    (clsLayout s (billGen s) c == lay ||
      (layUse s (clsLayout s (billGen s) c) == 1 && clsWideLayout s (billGen s) c == lay)))

/-- The last line of the regions in use. -/
def lastLine (s : State) : Nat :=
  (List.range 8).foldl (fun m n =>
    if regionUsed s n then max m (32 * (regionBase s n + regionRows s n) - 1) else m) 0

/-- A full pass of the scan has ended: bits under which it found no spilled record are cleared. -/
def passDone (s : State) : State :=
  { s with cask := { s.cask with
      spill := s.cask.spill.filter (fun b => s.cask.spillSeen.contains b), spillSeen := [] } }

/-- The ageing scan reaches a line. -/
def ageScan (s : State) (line : Nat) : State :=
  match regionOfLine s line with
  | none => s
  | some g =>
    let r := recordAt s line
    let lay := recLayout r
    let rows := regionRows s g
    let cls := layoutClasses s lay
    let limits := cls.map (fun c => clsAgeLimit s (billGen s) c)
    let L := limits.foldl max 0
    let last := fld (r.getD (stateWord (wideRec r) 0) 0) 31 0
    let idle := (lastSeenNow s + 2 ^ 32 - last) % 2 ^ 32
    let head := govLine s line == line
    let s := if recValid r && head then
        let row := recRow rows (keyHashes s (wideRec r) (recKey r)).1
        let b := spillBit s (regionBase s g + row)
        if regionBase s g + row ≠ line / 32 ∧ !s.cask.spillSeen.contains b then
          { s with cask := { s.cask with spillSeen := s.cask.spillSeen ++ [b] } } else s
      else s
    let s := if rb s Reg.CASK_CFG 1 && !follower s && head && recValid r && !bitOf (r.getD 0 0) 51 && !recordBad s line &&
        (caskLock s line).isNone && !lineHeld s line && cls != [] && !limits.contains 0 && decide (L ≤ idle) && !storeFull s then
        if cls.all (fun c => clsAgeRemove s (billGen s) c) then
          raise (cnt (commitDelete s line false) Reg.CASK_AGED_REMOVED 1) 0x709 1 0
        else
          let version := (recVersion r + 1) % 8
          let new := listMod r 0 (fun w => setFld (setFld w 51 51 1) 50 48 version)
          raise (cnt (commitLine s line r new false false) Reg.CASK_AGED_REPORTED 1) 0x709 0 1
      else s
    if line = lastLine s then passDone s else s

/-- Registers of the CASK block whose value is computed from the state. -/
def caskView (s : State) (a : Nat) : Option W64 :=
  let ways := s.cask.cellar.flatMap (·.2)
  let count (p : Way → Bool) : Nat := (ways.filter p).foldl (fun n w => n + w.size) 0
  let n (v : Nat) : Option W64 := some (BitVec.ofNat 64 v)
  let q := (a - Reg.CASK_PSQq_STATUS 0) / 0x40
  let cq := (a - Reg.CASK_PSQq_CLASSc 0 0) / 0x100
  let cc := (a - Reg.CASK_PSQq_CLASSc 0 0) % 0x100 / 4
  if a = Reg.CASK_LEDGER_STATUS then n (ledgerUsed s)
  else if a = Reg.CASK_DRAM_READS then n (s.deep.foldl (fun t c => t + c.2.reads.length) 0)
  else if a = Reg.CASK_PIN_COUNT then n (count (fun w => recPinned w.words))
  else if a = Reg.CASK_CELLAR_DIRTY then n (count (fun w => w.dirty))
  else if a = Reg.CASK_SPILL_ROWS then n s.cask.spill.length
  else if q < 16 ∧ a = Reg.CASK_PSQq_STATUS q then n (psqCount s q)
  else if cq < 16 ∧ cc < 64 ∧ a = Reg.CASK_PSQq_CLASSc cq cc then
    n ((psqOf s cq cc).length + b2n (psqOver s cq cc) * 2 ^ 16)
  else none

end Sys2Proof.Machine
end

