-- ==== Sys2Proof/Machine/Flow.lean ====
section
/-! DEFINITION. What moves frames on between the commands: their lookups and the waits on locked slots (R123, R138, R158, R199),
stream filtering (R342), recovery (R345 to R349), and the disposition of frames whose run has ended. -/
namespace Sys2Proof.Machine

/-! ### Lookups of a frame -/

/-- The ledger group of a frame (R187). -/
def ledgerKind (s : State) (fr : Frame) : Nat := b2n (clsUrgent s fr.gen fr.cls)

/-- The Lauter result of the frame's class (R153). -/
def classLauter (s : State) (rule : LockRule) (fr : Frame) : Look W64 :=
  let p := clsLauter s fr.gen fr.cls
  if 64 ≤ p then .miss else lauterLook s rule p (lauterKey s fr p)

/-- The frame fails its stream filter (R342): it is dropped with its copies. -/
def psfpFail (s : State) (f : Nat) : State :=
  let s := frameMod s f (fun x => { x with psfpDrop := true })
  ((copiesOf s f).filter (fun c => c.2.st == 0)).foldl (fun s c =>
    copyGone (if c.2.port < 64 then cnt s (Reg.MERE_PORTp_COPY_DROPS c.2.port) 1 else s) c.1) s

/-- The checks of a frame's stream filter, once (R342). -/
def psfpCheck (s : State) (f h : Nat) (fr : Frame) : State :=
  let ((pass, dei), s) := filterChecks s h fr.bytes.length fr.gateShut
  let s := frameMod (filterCount s h pass) f (fun x => { x with dei := dei, psfpDone := true })
  if pass then s else psfpFail s f

/-- The lookups of step 4 are complete: LOOKUP is set, and the stream gate is taken (R342, R343). -/
def completeLook (s : State) (f : Nat) (fr : Frame) : State :=
  let fr := { fr with looked := true, waitAt := none }
  let s := runMod (countTie (framePut s f fr) fr.lauter) f (fun r => r.set 2 (nowNs s))
  match streamFilter s fr.cls (bitOf fr.lauter 0) (lauterTag fr.lauter) with
  | none => s
  | some h =>
    let filter := rd s (Reg.EGRESS_SFh h)
    let g := fld filter 11 4
    let fr := if bitOf filter 3 then { fr with gateShut := gateClosed s g, ipv := sgateIpv s g } else fr
    let s := framePut s f fr
    if filterAtTail s h && !fr.done then s else psfpCheck s f h fr

/-- A lookup meets a locked slot: it waits, unless its frame is stateless and the ledger has no entry for it (R138, R199).
The result says whether it waits. -/
def waitOn (s : State) (f : Nat) (fr : Frame) (t i : Nat) : Bool × State :=
  match fr.waitAt with
  | some (since, u, _) =>
    let since := if (t == 8) == (u == 8) then since else nowNs s
    (true, framePut s f { fr with waitAt := some (since, t, i) })
  | none =>
    if !clsStateful s fr.gen fr.cls && !ledgerRoom s (ledgerKind s fr) then
      (false, raise (cnt s Reg.CASK_LOCKWAIT_REFUSED 1) 0x70B 0 fr.cls)
    else (true, framePut s f { fr with waitAt := some (nowNs s, t, i) })

/-- The Lauter lookup of a frame whose forwarding result is known. -/
def lookLauter (s : State) (f : Nat) (fr : Frame) (rule : LockRule) : State :=
  let done (w : W64) (s : State) : State := completeLook s f { fr with lauter := w }
  match classLauter s rule fr with
  | .hit w => done w s
  | .miss => done 0 s
  | .wait t i =>
    match waitOn s f fr t i with
    | (true, s) => s
    | (false, s) =>
      match classLauter s (lauterPolicy s) fr with
      | .hit w => done w s
      | _ => done 0 s

/-- The lookups of a frame (R123, R153): the forwarding result, then the Lauter result; a frame that waits on the Lauter array
has its forwarding result. -/
def lookFrame (s : State) (f : Nat) (fwdRule lauRule : LockRule) : State :=
  match frameOf s f with
  | none => s
  | some fr =>
    if fr.looked then s
    else
      let past := match fr.waitAt with
        | some (_, t, _) => t == 8
        | none => false
      if past then lookLauter s f fr lauRule
      else
        match forwardFrame s fwdRule fr with
        | .hit x => lookLauter s f { fr with fwd := x } lauRule
        | .miss => lookLauter s f { fr with fwd := {} } lauRule
        | .wait t i =>
          match waitOn s f fr t i with
          | (true, s) => s
          | (false, s) =>
            match forwardFrame s (fwdPolicy s) fr with
            | .hit x => lookLauter s f { fr with fwd := x } lauRule
            | _ => lookLauter s f { fr with fwd := {} } lauRule

/-- Settle a frame; a lookup of its disposition that meets a lock waits in the same way. -/
def settleFrame (s : State) (f : Nat) : State :=
  match frameOf s f with
  | none => s
  | some fr =>
    if fr.disposed then s
    else
      let s' := settle s .wait f
      match fr.waitAt, (frameOf s' f).bind (·.waitAt) with
      | none, some _ =>
        if fr.looked && !clsStateful s fr.gen fr.cls && !ledgerRoom s (ledgerKind s fr) then
          settle (raise (cnt s Reg.CASK_LOCKWAIT_REFUSED 1) 0x70B 0 fr.cls) (fwdPolicy s) f
        else s'
      | _, _ => s'

/-! ### Recovery (R345 to R348) -/

/-- EGRESS_CLASSc_RCV of a class. -/
def rcvCfg (s : State) (c : Nat) : W64 := rd s (Reg.EGRESS_CLASSc_RCV c)

/-- The sequence number by which a class of recovery mode 1 to 3 knows a frame, if its header has come: an R-TAG with a stream
handle, an HSR tag, or a PRP trailer at the tail. -/
def rcvSeq (s : State) (fr : Frame) : Option Nat :=
  match fld (rcvCfg s fr.cls) 1 0 with
  | 1 =>
    if bitOf fr.lauter 0 && decide (lauterTag fr.lauter < 2048) then
      (fr.parsed.hdrs.find? (fun h => h.kind == .rtag)).map (fun h => beAt fr.bytes (h.off + 2) 2)
    else none
  | 2 => (fr.parsed.hdrs.find? (fun h => h.kind == .hsr)).map (fun h => beAt fr.bytes (h.off + 2) 2)
  | 3 =>
    if fr.done && prpLen (profileOf s (quadOf fr.port)) fr.bytes == 6 then
      some (beAt fr.bytes (fr.bytes.length - 10) 2)
    else none
  | _ => none

/-- Issue the recovery operation of a frame (R345): its ledger entry, or a wait for one. The run of the operation holds the
sequence number. -/
def rcvStart (s : State) (f : Nat) (fr : Frame) (seq : Nat) : State :=
  let s := framePut s f { fr with rcvWait := true }
  if !ledgerRoom s (ledgerKind s fr) then
    { s with egress := { s.egress with
        rcvWait := if s.egress.rcvWait.contains f then s.egress.rcvWait else s.egress.rcvWait ++ [f] } }
  else
    let s := { s with egress := { s.egress with rcvWait := s.egress.rcvWait.filter (· != f) } }
    let cfg := rcvCfg s fr.cls
    let mode := fld cfg 1 0
    let w := seq / (32 * 2 ^ fld cfg 3 2)
    let lay := fld cfg 9 7
    let ctx := keyContext 0 0 (0xF0 + mode) (if mode = 1 then 0 else fr.fid) (w % (fld cfg 6 4 + 1))
    let a := if mode = 1 then lauterTag fr.lauter else beAt fr.bytes 6 6 * 2 ^ 16
    let key := recKeyWords false ctx 0 a
    let (h1, h2) := keyHashes s false key
    let n := s.nextFrame
    let good := fr.verdict == some true
    let e : Entry := { run := n, keyw := key, lay := lay, h1 := h1, h2 := h2, cls := fr.cls, gen := fr.gen
                       dropped := fr.verdict == some false }
    let (t, s) := openEntry { s with nextFrame := n + 1 } e
    let r : Run := { cls := fr.cls, gen := fr.gen, flags := 1 + b2n good * 8, recovery := some f, tag := some t, held := true
                     created := nowNs s, words := [BitVec.ofNat 64 seq] }
    startEntry (runPut s n r) t false

/-- The recovery operation of a frame, as soon as its sequence number is known. -/
def rcvIssue (s : State) (f : Nat) : State :=
  match frameOf s f with
  | none => s
  | some fr =>
    match rcvSeq s fr with
    | some seq => rcvStart s f fr seq
    | none => s

/-- The verdict of R346 for sequence number `seq` against the state words of a record: 0 pass, 1 duplicate, 2 rogue, whether the
history was reset, and the new words 4 to 6. -/
def rcvDecide (cfg : W64) (now seq : Nat) (hit : Bool) (w4 w5 w6 : W64) : Nat × Bool × W64 × W64 × W64 :=
  let ws := 32 * 2 ^ fld cfg 3 2
  let w := seq / ws
  let b := seq % ws
  let m := 65536 / ws
  let win := fld w4 42 32
  let bits := w5.toNat + w6.toNat * 2 ^ 64
  let set (x : Nat) : W64 × W64 :=
    let y := x ||| 2 ^ b
    (BitVec.ofNat 64 y, BitVec.ofNat 64 (y / 2 ^ 64))
  let stale := decide (fld cfg 31 16 < (now + 2 ^ 32 - fld w4 31 0) % 2 ^ 32)
  if !hit || stale then
    let (a, c) := set 0
    (0, hit, setFld w4 42 32 w, a, c)
  else if win = w then
    if bits.testBit b then (1, false, w4, w5, w6)
    else
      let (a, c) := set bits
      (0, false, w4, a, c)
  else if (w + m - win % m) % m < m / 2 then
    let (a, c) := set 0
    (0, false, setFld w4 42 32 w, a, c)
  else (2, false, w4, w5, w6)

/-- A frame is dropped with all its copies by its recovery verdict, and its flow operation is discarded (R348). -/
def rcvDrop (s : State) (f : Nat) : State :=
  let s := frameMod s f (fun x => { x with rcvBad := true, rcvWait := false })
  dropFrame (abortRun s f) f

/-- The record of a recovery operation has come: the frame is decided (R346, R348). -/
def rcvVerdict (s : State) (n : Nat) (r : Run) (f : Nat) : State :=
  let cfg := rcvCfg s r.cls
  let hit := r.record.isSome && !r.isNew
  let ws := r.record.getD []
  let seq := (r.words.getD 0 0).toNat
  let (v, reset, w4, w5, w6) := rcvDecide cfg (lastSeenNow s) seq hit (ws.getD 4 0) (ws.getD 5 0) (ws.getD 6 0)
  let record := r.record.map (fun ws => ((ws.set 4 w4).set 5 w5).set 6 w6)
  let s := runPut s n { r with record := record, wrote := decide (v = 0), ended := true }
  let s := if reset then cnt s Reg.EGRESS_RCV_RESETS 1 else s
  match v with
  | 0 => frameMod s f (fun x => { x with rcvWait := false })
  | 1 => rcvDrop (cnt s Reg.EGRESS_RCV_DUPLICATES 1) f
  | _ => rcvDrop (raise (cnt s Reg.EGRESS_RCV_ROGUE 1) 0xE48 0 r.cls) f

/-- The recovery operations of a frame. -/
def rcvRuns (s : State) (f : Nat) : List Nat := (s.ferm.runs.filter (fun e => e.2.recovery == some f)).map (·.1)

/-- Decide the recovery operations whose record has come. At most `fuel` are decided: a drop may deliver further records. -/
def rcvPump : Nat → State → State
  | 0, s => s
  | fuel + 1, s =>
    match s.ferm.runs.find? (fun e => e.2.recovery.isSome && !e.2.ended && e.2.flag 2) with
    | some (n, r) => rcvPump fuel (rcvVerdict s n r (r.recovery.getD 0))
    | none => s

/-- Recovery operations that wait for a ledger entry are tried again. -/
def rcvRetry (s : State) : State :=
  s.egress.rcvWait.foldl (fun s f =>
    match frameOf s f with
    | none => { s with egress := { s.egress with rcvWait := s.egress.rcvWait.filter (· != f) } }
    | some fr => match rcvSeq s fr with
      | some seq => rcvStart s f fr seq
      | none => s) s

/-- Recovery operations whose entry is closed are over. -/
def rcvClean (s : State) : State :=
  { s with ferm := { s.ferm with runs := s.ferm.runs.filter (fun e => e.2.recovery.isNone || e.2.held) } }

/-- An HSR frame that this device originated comes back (R349): its source MAC has an FDB entry with DEST 64. -/
def hsrOwn (s : State) (fr : Frame) : Bool :=
  fr.parsed.has .hsr &&
    match fdbLook s .published fr.fid (beAt fr.bytes 6 6) with
    | .hit i => fld ((slotOf s 0 i).word 1) 29 16 == 64 && !bitOf ((slotOf s 0 i).word 0) 56
    | _ => false

/-! ### What every change of the pipeline leaves to do -/

/-- Frames whose lookups wait are looked up again, recovery operations go on, and every frame that can be decided is. -/
def flowPump (s : State) : State :=
  let s := (s.frames.filter (fun e => e.2.waitAt.isSome && !e.2.looked)).foldl (fun s e => lookFrame s e.1 .wait .wait) s
  let s := rcvClean (rcvPump 65536 (rcvRetry s))
  let s := (s.frames.filter (fun e => !e.2.disposed)).foldl (fun s e => settleFrame s e.1) s
  let s := (s.frames.filter (fun e => e.2.disposed && e.2.rcvBad)).foldl (fun s e => dropWaiting s e.1) s
  (s.frames.filter (fun e => e.2.disposed)).foldl (fun s e => frameCheck s e.1) s

end Sys2Proof.Machine
end

