-- ==== Sys2Proof/Machine/Ferm.lean ====
section
/-! DEFINITION. The Fermenter's nodes and scheduling (R255 to R285): operands, the node operations, cells, lookups of nodes, the
run timeout, run queues and item dispatch, and the registers it computes. -/
namespace Sys2Proof.Machine

/-- A word from a number. -/
def w64 (n : Nat) : W64 := BitVec.ofNat 64 n

/-! ### Operands (R256, R257) -/

/-- Bytes of a width code of KIND 4. -/
def widthBytes (code : Nat) : Nat := [1, 2, 4, 6, 8].getD code 0

/-- A frame field: network byte order; zero outside the header, the parse depth and the frame. -/
def frameField (s : State) (fr : Frame) (src : Nat) : W64 :=
  match fr.parsed.hdrs[natFld src 15 12]? with
  | none => 0
  | some h =>
    let depth := (profileOf s (quadOf fr.port)).depth
    let off := natFld src 8 0
    let n := widthBytes (natFld src 18 16)
    w64 ((List.range n).foldl (fun v i =>
      let at_ := h.off + off + i
      v * 256 + (if off + i < h.len ∧ at_ < depth then byteAt fr.bytes at_ else 0)) 0)

/-- Metadata word j (R257) of run n. -/
def metaWord (s : State) (n : Nat) (r : Run) (j : Nat) : W64 :=
  let fr := (frameOf s n).getD {}
  let free := w64 (Config.freeNat s.free)
  match j with
  | 0 => w64 (fr.port + fr.cls * 2 ^ 8 + fr.vid * 2 ^ 16 + fr.ftype * 2 ^ 28 + b2n fr.key.dir * 2 ^ 32 +
      b2n r.record.isSome * 2 ^ 33 + b2n fr.parsed.depth * 2 ^ 34 + b2n fr.parsed.conflict * 2 ^ 35 + fr.pass * 2 ^ 36)
  | 1 => w64 (fr.bytes.length % 2 ^ 14)
  | 2 => w64 (fr.stamp / 2 ^ 16)
  | 3 => w64 (fr.h1 + fr.h2 * 2 ^ 32)
  | 4 => if r.flag 1 then w64 (fr.fwd.dest + fr.fwd.nh * 2 ^ 16 + b2n fr.fwd.routed * 2 ^ 32 + b2n fr.fwd.fdbHit * 2 ^ 33)
         else free
  | 5 => if r.flag 1 then fr.lauter else free
  | 6 => w64 r.tick
  | 7 => w64 (r.batch % 2 ^ 48)
  | 8 => w64 (r.tag.getD (Config.freeNat s.free % 2 ^ 14) + r.gen * 2 ^ 16 + b2n r.isNew * 2 ^ 32)
  | 9 => w64 (if r.auth = 0 then fr.auth else r.auth)
  | 10 => w64 (fr.key.ctx % 2 ^ 48)
  | 11 => w64 fr.key.a
  | 12 => w64 (fr.key.a / 2 ^ 64)
  | 13 => w64 fr.key.b
  | 14 => w64 (fr.key.b / 2 ^ 64)
  | 15 => fr.passValue
  | 16 => match r.event with
    | some e => w64 (e.source % 2 ^ 12 + e.tick % 2 ^ 48 * 2 ^ 16)
    | none => 0
  | 17 => w64 ((r.event.map (·.d0)).getD 0)
  | 18 => w64 ((r.event.map (·.d1)).getD 0)
  | _ => 0

/-- An operand of a node of task k: none while the node it names has no result. -/
def operand (s : State) (n : Nat) (r : Run) (k : Nat) (node : Node) (src : Nat) : Option W64 :=
  match natFld src 23 20 with
  | 1 => tabFind (r.tasks.getD k {}).done (natFld src 4 0)
  | 2 => some (BitVec.ofInt 64 (signed 32 node.imm))
  | 3 => some (metaWord s n r (natFld src 5 0))
  | 4 => some (match frameOf s n with
    | some fr => frameField s fr src
    | none => 0)
  | 5 => some (r.words.getD (natFld src 2 0) 0)
  | 6 => some (w64 (r.graph.consts.getD (natFld src 7 0) 0))
  | _ => some 0

/-! ### Pure operations (R258) -/

/-- Bytes of a word in the other order. -/
def byteSwap (a : W64) : W64 := w64 (leNat (toBE 8 a.toNat))

/-- Set bits of a word. -/
def popCount (a : W64) : Nat := (List.range 64).foldl (fun n i => n + b2n (bitOf a i)) 0

/-- OPC 0x01. -/
def aluOp (fn : Nat) (a b : W64) (imm : Nat) : W64 :=
  let sh := b.toNat % 64
  let lo := natFld imm 5 0
  let width := natFld imm 11 6 + 1
  match fn with
  | 0 => a + b
  | 1 => a - b
  | 2 => a &&& b
  | 3 => a ||| b
  | 4 => a ^^^ b
  | 5 => a &&& ~~~b
  | 6 => a <<< sh
  | 7 => a >>> sh
  | 8 => a.sshiftRight sh
  | 9 => a.rotateLeft sh
  | 10 => a * b
  | 11 => if a.toNat ≤ b.toNat then a else b
  | 12 => if a.toNat ≤ b.toNat then b else a
  | 13 => (a >>> lo) &&& w64 (2 ^ width - 1)
  | 14 =>
    let mask := w64 (2 ^ width - 1)
    (a &&& ~~~(mask <<< lo)) ||| ((b &&& mask) <<< lo)
  | 15 => w64 (popCount a)
  | 16 => byteSwap a
  | _ => 0

/-- OPC 0x02. -/
def cmpOp (fn : Nat) (a b : W64) : W64 :=
  let v := match fn with
    | 0 => a == b
    | 1 => a != b
    | 2 => a.ult b
    | 3 => a.ule b
    | 4 => a.slt b
    | 5 => a.sle b
    | 6 => (a &&& b) != 0
    | _ => false
  w64 (b2n v)

/-- OPC 0x04. -/
def hashOp (fn : Nat) (a b : W64) (imm : Nat) : W64 :=
  let two (x y : Nat) : List Byte := toBE 8 x ++ toBE 8 y
  let x := a.toNat
  let y := b.toNat
  match fn with
  | 0 => w64 (crc32c (two x y))
  | 1 => w64 (crc32c (toBE 4 imm ++ two x y))
  | 2 => w64 (crc32c (two (min x y) (max x y)))
  | _ => 0

/-! ### Lookup nodes (OPC 0x05) -/

/-- The result of a lookup node. -/
def lookNode (s : State) (fr : Frame) (rule : LockRule) (node : Node) (a b c : W64) : Look W64 :=
  let route (t addr : Nat) : Look W64 :=
    match lpmLook s t (fld a 3 0) addr with
    | some r => .hit (setFld (r.2.getD 0 0) 63 59 16)
    | none => .hit 0
  let p := natFld node.imm 5 0
  match node.fn with
  | 0 =>
    match fdbLook s rule (fld a 59 48) (fld a 47 0) with
    | .hit i => .hit (setFld ((slotOf s 0 i).word 1) 63 63 1)
    | .miss => .hit 0
    | .wait t i => .wait t i
  | 1 => route 1 (fld b 31 0)
  | 2 => route 2 b.toNat
  | 3 => lauterLook s rule p (lauterKey s fr p)
  | 4 =>
    let k := a.toNat + b.toNat * 2 ^ 64 + c.toNat * 2 ^ 128
    lauterLook s rule p (if profUse s p = 2 then k else k % 2 ^ 160)
  | 5 =>
    if 65536 ≤ a.toNat then .hit 0
    else
      match indexLook s rule 3 a.toNat with
      | .hit x => .hit (setFld (setFld (x.word 1) 61 60 (fld (x.word 0) 57 56)) 63 63 1)
      | .miss => .hit 0
      | .wait t i => .wait t i
  | 6 =>
    if 4096 ≤ a.toNat then .hit (w64 (2 ^ 63))
    else
      match ecmpLook s rule a.toNat fr.h1 fr.h2 with
      | .hit i => .hit (w64 i)
      | .miss => .hit (w64 (2 ^ 63))
      | .wait t i => .wait t i
  | _ => .hit 0

/-- LOCK_POLICY of the table that a lookup node searches. -/
def nodePolicy (s : State) (node : Node) : LockRule := if node.fn = 3 ∨ node.fn = 4 then lauterPolicy s else fwdPolicy s

/-- The value of a lookup's answer; a miss is zero. -/
def Look.value (x : Look W64) : W64 :=
  match x with
  | .hit w => w
  | _ => 0

/-! ### Records (OPC 0x06 and 0x07) -/

/-- The record word that a node's word number addresses (R171), if it addresses one. -/
def recWord (s : State) (r : Run) (ws : List W64) (j : Nat) : Option Nat :=
  if wideRec ws && layUse s (clsLayout s r.gen r.cls) != 2 then
    match j with
    | 0 => some 0
    | 4 => some 6
    | 5 => some 8
    | 6 => some 9
    | _ => none
  else some j

/-- The word is a state word. -/
def isStateWord (wide : Bool) (i : Nat) : Bool :=
  if wide then i == 6 || decide (8 ≤ i ∧ i ≤ 13) else decide (4 ≤ i ∧ i ≤ 6)

/-- Read a word of the run's copy. -/
def readWord (s : State) (r : Run) (j : Nat) : W64 :=
  match r.record with
  | none => 0
  | some ws => match recWord s r ws j with
    | some i => ws.getD i 0
    | none => 0

/-- A CWR on the run's copy: the new word and the run. -/
def writeWord (s : State) (r : Run) (fn j : Nat) (a b : W64) : W64 × Run :=
  match r.record with
  | none => (0, r)
  | some ws =>
    if fn = 3 then (0, { r with delete := true })
    else
      match recWord s r ws j with
      | none => (0, r)
      | some i =>
        let old := ws.getD i 0
        let new := match fn with
          | 0 => a
          | 1 => old + a
          | _ => (old &&& ~~~b) ||| (a &&& b)
        if isStateWord (wideRec ws) i then (new, { r with record := some (ws.set i new), wrote := true }) else (0, r)

/-! ### Tasks -/

/-- A task of a run. -/
def Run.task (r : Run) (k : Nat) : Task := r.tasks.getD k {}

/-- Change a task of a run. -/
def Run.taskMod (r : Run) (k : Nat) (g : Task → Task) : Run := { r with tasks := listMod r.tasks k g }

/-- A node has its result. -/
def Task.has (t : Task) (i : Nat) : Bool := (tabFind t.done i).isSome

/-- The predicate of a node: none while C is not known. -/
def predicate (s : State) (n : Nat) (r : Run) (k : Nat) (node : Node) : Option Bool :=
  if node.pred = 0 then some true
  else (operand s n r k node node.c).map (fun c => (c != 0) == (node.pred == 1))

/-- Nodes of a resident task whose predicate is false issue without effect and produce 0 (R255). -/
def predOff (s : State) (n : Nat) (r : Run) (k : Nat) : Run :=
  (r.nodes k).zipIdx.foldl (fun r (node, i) =>
    let t := r.task k
    if t.st = 2 && !t.has i && predicate s n r k node == some false then
      r.taskMod k (fun t => { t with done := tabSet t.done i 0 }) else r) r

/-- A node can issue: its predicate holds and its operands exist; END only after every other node of its task. -/
def nodeReady (s : State) (n : Nat) (r : Run) (k i : Nat) (node : Node) : Bool :=
  let t := r.task k
  let others := (List.range (r.count k)).all (fun j => j == i || t.has j)
  !t.has i && !t.looking.any (fun l => l.1 == i) && predicate s n r k node == some true &&
    [node.a, node.b, node.c].all (fun src => (operand s n r k node src).isSome) && (node.opc != 0x0C || others)

/-- The node that task k issues next: the lowest that is ready. -/
def nextNode (s : State) (n : Nat) (r : Run) (k : Nat) : Option (Nat × Node) :=
  ((r.nodes k).zipIdx.find? (fun (node, i) => nodeReady s n r k i node)).map (fun (node, i) => (i, node))

/-- Give a node its result. -/
def nodeResult (s : State) (n k i : Nat) (v : W64) : State :=
  match runOf s n with
  | none => s
  | some r =>
    let r := r.taskMod k (fun t => { t with done := tabSet t.done i v, looking := t.looking.filter (fun l => l.1 != i) })
    runPut s n (predOff s n r k)

/-- A policy of this chapter decides the frame of an aborted run (R276 to R278): drop, or trap with reason 0x06. -/
def fermPolicy (s : State) (n trap : Nat) : State :=
  let s := abortRun s n
  let s := if trap = 1 ∧ (frameOf s n).isSome then cnt s Reg.FERM_TRAPS 1 else s
  frameFate s n (trap + 1) 0x06

/-- Task k ends by its END node (R266): run words are exported, USER flags set, and with FN 1 the run ends. -/
def endTask (s : State) (n k : Nat) (node : Node) : State :=
  match runOf s n with
  | none => s
  | some r =>
    let t := r.task k
    let words := (r.nodes k).zipIdx.foldl (fun ws (nd, i) =>
      match nd.exp with
      | some j => if predicate s n r k nd == some false then ws else ws.set j ((tabFind t.done i).getD 0)
      | none => ws) r.words
    let s := sampleTask s r k
    let r := { r.taskMod k (fun t => { t with st := 3 }) with words := words }
    let r := r.set (natFld node.imm 7 5 * 2 ^ 5) (nowNs s)
    if node.fn = 1 then runPut (sampleTasks s r) n r.cancel
    else runPut s n { r with ended := r.tasks.all (fun t => t.st == 3) }

/-- Bytes that a node's check-value job counts for. -/
def authBytes (fr : Frame) (fn : Nat) (b : W64) : Nat :=
  if 2 ≤ fn then (cmacSpan fr b).2
  else match pduHeader fr with
    | some h => beAt fr.bytes (h.off + 2) 2
    | none => 0

/-- The AUTH node (R370): a check-value job, or status 11 at once when the queue is full (R361). The handle is an open value. -/
def authNode (s : State) (n k i : Nat) (r : Run) (node : Node) (a b : W64) : State :=
  let (h, s) := fresh s
  let j : Job := { user := .graph, core := 8, slot := a.toNat % 4096
                   bytes := authBytes ((frameOf s n).getD {}) node.fn b, owner := n, fn := node.fn, b := b }
  let (num, s) := admitJob s j
  let s := match num with
    | some m => runMod s n (fun r => { r with job := some m })
    | none =>
      let s := countFailure (jobRefused s 1) r.cls 11
      runMod s n (fun r => { r with auth := 1 + 11 * 2 ^ 8 }.set 16 (nowNs s))
  nodeResult s n k i (w64 (h % 2 ^ 16))

/-- A lookup node: its result, or a wait on a locked slot (R259, R199). -/
def lookupNode (s : State) (n k i : Nat) (r : Run) (node : Node) (a b c : W64) : State :=
  let fr := (frameOf s n).getD {}
  let done (s : State) (x : Look W64) : State :=
    nodeResult (if node.fn = 3 ∨ node.fn = 4 then countTie s x.value else s) n k i x.value
  match lookNode s fr .wait node a b c with
  | .wait t j =>
    if !r.held && !r.tasks.any (fun t => t.looking != []) && !ledgerRoom s (b2n r.urgent) then
      let s := raise (cnt s Reg.CASK_LOCKWAIT_REFUSED 1) 0x70B 0 r.cls
      done s (lookNode s fr (nodePolicy s node) node a b c)
    else
      runMod s n (fun r => r.taskMod k (fun x => { x with looking := x.looking ++ [(i, nowNs s, slotKey t j)] }))
  | x => done s x

/-- Issue node i of task k (R258). -/
def issueNode (s : State) (n k i : Nat) (r : Run) (node : Node) : State :=
  let get (src : Nat) : W64 := (operand s n r k node src).getD 0
  let a := get node.a
  let b := get node.b
  let c := get node.c
  let q := r.quarter
  let s := touch (tally (cntWrap (cntWrap s Reg.FERM_OPS 1) (Reg.FERM_Qq_OPS q) 1) 0x1105 1) (28 + q)
  let s := { s with free := s.free + 1 }
  let put (v : W64) : State := nodeResult s n k i v
  match node.opc with
  | 0x01 => put (aluOp node.fn a b node.imm)
  | 0x02 => put (cmpOp node.fn a b)
  | 0x03 => put (if c = 0 then b else a)
  | 0x04 => put (hashOp node.fn a b node.imm)
  | 0x05 => lookupNode s n k i r node a b c
  | 0x06 => put (readWord s r (natFld node.imm 3 0))
  | 0x07 =>
    let (v, r) := writeWord s r node.fn (natFld node.imm 3 0) a b
    nodeResult (runPut s n r) n k i v
  | 0x08 =>
    if 8 ≤ r.dirs.length then
      fermPolicy (raise (cnt s Reg.FERM_OVERFLOWS 1) 0xD01 r.cls r.graphNo) n (rf s Reg.FERM_CFG 2 2)
    else
      let d : Directive := { task := k, idx := i, fn := node.fn, a := a, b := b, imm := node.imm }
      nodeResult (runPut s n { r with dirs := r.dirs ++ [d] }) n k i 0
  | 0x09 => nodeResult (runPut s n { r with counts := r.counts ++ [(fld a 13 0, b.toNat)] }) n k i 0
  | 0x0A => put (match node.fn with
    | 0 => w64 (timeN s)
    | 1 => w64 (tickNo s)
    | _ => w64 (batchNo s % 2 ^ 48))
  | 0x0B => authNode s n k i r node a b
  | 0x0C => endTask (put 0) n k node
  | _ => put 0

/-- The index in the graph store of what failed its parity: the node record, or the constant that operand 1 to 3 names. -/
def storeIndex (s : State) (r : Run) (k i : Nat) (node : Node) (what : Nat) : Nat :=
  match s.ferm.placed.find? (fun p => p.graph == r.graphNo && p.born == r.graph.born) with
  | none => 0
  | some p =>
    let src := [0, node.a, node.b, node.c].getD what 0
    if what ≠ 0 ∧ natFld src 23 20 = 6 then p.cfirst + natFld src 7 0 else p.first + r.first k + i

/-- A node record or constant fails its parity on the fetch (R276). -/
def storeParity (s : State) (n k i : Nat) (r : Run) (node : Node) (what : Nat) : State :=
  let trap := rf s Reg.FERM_CFG 1 1
  fermPolicy (raise (cnt s Reg.FERM_PARITY_ERRS 1) 0xD02 (storeIndex s r k i node what) trap) n trap

/-! ### Scheduling (R266, R267) -/

/-- Tasks in a state, in a quarter, as (run, its number, task). -/
def tasksIn (s : State) (q st : Nat) : List (Nat × Run × Nat) :=
  (s.ferm.runs.filter (fun e => e.2.quarter == q)).flatMap (fun e =>
    ((List.range e.2.tasks.length).filter (fun k => (e.2.task k).st == st)).map (fun k => (e.1, e.2, k)))

/-- The first of tasks in the order of R267: urgent ones before others, then by run creation and task number. -/
def firstTask (ts : List (Nat × Run × Nat)) : Option (Nat × Run × Nat) :=
  ts.foldl (fun best x =>
    match best with
    | none => some x
    | some y =>
      if x.2.1.urgent && !y.2.1.urgent then some x
      else if x.2.1.urgent == y.2.1.urgent && decide (x.2.1.order < y.2.1.order) then some x
      else best) none

/-- The cell on which a task is placed: the fewest resident tasks, the lower number on a tie; an urgent task only where no other
urgent task is. -/
def placeCell (s : State) (q : Nat) (urgent : Bool) : Option Nat :=
  let res := tasksIn s q 2
  let load (c : Nat) : Nat := (res.filter (fun x => (x.2.1.task x.2.2).cell == c)).length
  let hot (c : Nat) : Bool := res.any (fun x => (x.2.1.task x.2.2).cell == c && x.2.1.urgent)
  ((List.range 64).map (64 * q + ·)).foldl (fun best c =>
    if 8 ≤ load c || (urgent && hot c) then best
    else
      match best with
      | none => some c
      | some b => if load c < load b then some c else best) none

/-- TASK_DISPATCH: the next READY task of a quarter becomes RESIDENT, if a cell has a place for it. -/
def dispatchTask (s : State) (q : Nat) : State :=
  let ready := tasksIn s q 1
  let go (x : Nat × Run × Nat) (c : Nat) : State :=
    let (n, r, k) := x
    let r := r.taskMod k (fun t => { t with st := 2, cell := c })
    runPut s n (predOff s n r k)
  let try_ (u : Bool) : Option State := (firstTask (ready.filter (fun x => x.2.1.urgent == u))).bind (fun x => (placeCell s q u).map (go x))
  match try_ true with
  | some s => s
  | none => (try_ false).getD s

/-- NODE_ISSUE: a cell issues its next node. -/
def cellIssue (s : State) (c : Nat) (bad : Option Nat) : State :=
  let mine := (tasksIn s (c / 64) 2).filter (fun x =>
    (x.2.1.task x.2.2).cell == c && (nextNode s x.1 x.2.1 x.2.2).isSome)
  match firstTask mine with
  | none => s
  | some (n, r, k) =>
    match nextNode s n r k with
    | none => s
    | some (i, node) =>
      match bad with
      | some what => storeParity s n k i r node what
      | none =>
        let s := issueNode s n k i r node
        tryCommit 4096 s n

/-- Lookups of nodes that wait on a locked slot are made again under a rule, for those that a test selects. -/
def relookNodes (s : State) (sel : Nat × Nat × Nat → Bool) (policy : Bool) : State :=
  (s.ferm.runs.filter (fun e => e.2.tasks.any (fun t => t.looking.any sel))).foldl (fun s e =>
    (List.range e.2.tasks.length).foldl (fun s k =>
      (((e.2.task k).looking.filter sel)).foldl (fun s l =>
        match runOf s e.1 with
        | none => s
        | some r =>
          let node := (r.nodes k).getD l.1 ⟨0, 0, 0, none, 0, 0, 0, 0⟩
          let get (src : Nat) : W64 := (operand s e.1 r k node src).getD 0
          let rule := if policy then nodePolicy s node else .wait
          match lookNode s ((frameOf s e.1).getD {}) rule node (get node.a) (get node.b) (get node.c) with
          | .wait t j =>
            runPut s e.1 (r.taskMod k (fun x => { x with looking := x.looking.map (fun y =>
              if y.1 = l.1 then (y.1, y.2.1, slotKey t j) else y) }))
          | x =>
            let s := if node.fn = 3 ∨ node.fn = 4 then countTie s x.value else s
            nodeResult s e.1 k l.1 x.value) s) s) s

/-- What a change of the pipeline leaves to do: lookups of nodes that wait are made again, then those of frames, recoveries and
dispositions. -/
def pump (s : State) : State := flowPump (relookNodes s (fun _ => true) false)

/-- RUN_TIMEOUT (R277): a run still open FERM_RUN_TIMEOUT after its creation. -/
def runTimeouts (s : State) : State :=
  let limit := rf s Reg.FERM_RUN_TIMEOUT 15 0 * 1000
  (s.ferm.runs.filter (fun e => e.2.recovery.isNone && !e.2.committed && elapsed s e.2.created limit)).foldl (fun s e =>
    match runOf s e.1 with
    | none => s
    | some r =>
      if r.committed then s
      else
        let s := raise (cnt s Reg.FERM_TIMEOUTS 1) 0xD00 (pack2 r.cls (r.tag.getD 0xFFFF)) r.flags
        fermPolicy s e.1 (rf s Reg.FERM_CFG 0 0)) s

/-! ### Run queues (R264, R265) -/

/-- The run queue of a quad. -/
def runQueue (s : State) (q : Nat) : List Nat := tabGet s.ferm.queues q []

/-- Put the run queue of a quad. -/
def runQueuePut (s : State) (q : Nat) (l : List Nat) : State :=
  { s with ferm := { s.ferm with queues := tabPut s.ferm.queues q l [] } }

/-- Create the run of a stateless frame in a quarter. -/
def statelessRun (s : State) (f : Nat) (fr : Frame) (quarter : Nat) (domain : Option Nat) : State :=
  tryCommit 4096 (createRun s f { frameRun s fr quarter with domain := domain }) f

/-- The quarter in which a frame's run can be created. -/
def frameQuarter (s : State) (fr : Frame) : Option Nat :=
  slotQuarter s (quadOf fr.port % 4) ((((clsGraphOf s fr.gen fr.cls).getD {}).tasks).length)
    (clsStateful s fr.gen fr.cls && !clsUrgent s fr.gen fr.cls)

/-- A stateless frame at classification: its run is created, it joins the run queue, or it is dropped (R264, R265); a frame of an
ITEM graph becomes an item. -/
def statelessStart (s : State) (f : Nat) (fr : Frame) : State :=
  let q := quadOf fr.port
  if clsItem s fr then itemQueue s (itemDomain s fr) f none
  else
    match (if runQueue s q = [] then frameQuarter s fr else none) with
    | some h => statelessRun s f fr h none
    | none =>
      if (runQueue s q).length < 256 then wakeQuarters (runQueuePut s q (runQueue s q ++ [f]))
      else raise (cnt (frameFate s f 1 0) (Reg.FERM_SQq_DROPS q) 1) (0xD10 + q) 0 fr.cls

/-- RUN_QUEUE_DEPART: the oldest frame of a quad's run queue gets its run once slots are free. -/
def runDepart (s : State) (q : Nat) : State :=
  match runQueue s q with
  | [] => s
  | f :: rest =>
    match frameOf s f with
    | none => runQueuePut s q rest
    | some fr =>
      if fr.fate.isSome || fr.disposed || fr.verdict == some false then runQueuePut s q rest
      else
        match frameQuarter s fr with
        | some h => statelessRun (runQueuePut s q rest) f fr h none
        | none => wakeQuarters s

/-! ### Item dispatch (R281, R282) -/

/-- The first item of a domain may start. -/
def itemMayStart (s : State) (d : Nat) : Bool :=
  rf s (Reg.FERM_DOMd_CFG d) 5 4 != 2 || tabGet s.ferm.started d [] == []

/-- Start an item of a domain, if its slots and its ledger entry are there. -/
def itemStart (s : State) (d n : Nat) (e : Option ItemEvent) (wayBad : Bool) : Option State :=
  let begun (s : State) : State :=
    { s with ferm := { s.ferm with started := tabSet s.ferm.started d (tabGet s.ferm.started d [] ++ [n]) } }
  match e with
  | some ev =>
    let g := (List.range 16).findSome? (fun i =>
      let r := Reg.FERM_EVT_ITEMi i
      if rf s r 11 0 == ev.source && rf s r 19 12 == d && rb s Reg.FERM_EVT_ITEM_EN i then some (rf s r 31 20) else none)
    let no := g.getD 0xFFF
    let graph := (tabFind (genOf s (billGen s)).graphs no).getD {}
    (slotQuarter s 0 graph.tasks.length false).map (fun h =>
      let r : Run := { graph := graph, graphNo := no, gen := billGen s, quarter := h, flags := 1 + 4 + 8, domain := some d
                       event := some ev }
      tryCommit 4096 (createRun (begun s) n r) n)
  | none =>
    match frameOf s n with
    | none => some s
    | some fr =>
      if fr.fate.isSome || fr.disposed || fr.verdict == some false then some s
      else
        match frameQuarter s fr with
        | none => none
        | some h =>
          if !clsStateful s fr.gen fr.cls then some (statelessRun (begun s) n fr h (some d))
          else if ledgerRoom s (ledgerKind s fr) then some (statefulRun (begun s) n fr h (some d) wayBad)
          else none

/-- ITEM_DISPATCH: domains by priority, round-robin among those of equal priority. -/
def itemDispatch (s : State) (wayBad : Bool) : State :=
  let order := (List.range 8).flatMap (fun p =>
    let start := tabGet s.ferm.domNext p 0
    ((List.range 256).map (fun i => (start + i) % 256)).filter (fun d => rf s (Reg.FERM_DOMd_CFG d) 2 0 == p))
  match order.findSome? (fun d =>
      match tabGet s.ferm.items d [] with
      | [] => none
      | (n, e) :: rest =>
        if itemMayStart s d then
          (itemStart (itemsPut s d rest) d n e wayBad).map (fun s =>
            { s with ferm := { s.ferm with domNext := tabSet s.ferm.domNext (rf s (Reg.FERM_DOMd_CFG d) 2 0) ((d + 1) % 256) } })
        else none) with
  | some s => s
  | none => if s.ferm.items.isEmpty then s else wakeQuarters s

/-! ### Registers that are computed (R287) -/

/-- A node record in the layout of R255. -/
def Node.bits (x : Node) : Nat :=
  x.opc + x.fn * 2 ^ 8 + x.pred * 2 ^ 16 + (x.exp.getD 0) * 2 ^ 18 + b2n x.exp.isSome * 2 ^ 21 + x.a * 2 ^ 24 + x.b * 2 ^ 48 +
    x.c * 2 ^ 72 + x.imm * 2 ^ 96

/-- The graph of a copy in the store. -/
def placedGraph (s : State) (p : Placed) : Graph :=
  (s.bill.gens.findSome? (fun g => match tabFind g.2.graphs p.graph with
    | some x => if x.born = p.born then some x else none
    | none => none)).getD {}

/-- Node record i and constant k of the store. -/
def storeNode (s : State) (i : Nat) : Nat :=
  match s.ferm.placed.find? (fun p => decide (p.first ≤ i ∧ i < p.first + p.nodes)) with
  | some p => match (placedGraph s p).nodes[i - p.first]? with
    | some x => x.bits
    | none => 0
  | none => 0
def storeConst (s : State) (k : Nat) : Nat :=
  match s.ferm.placed.find? (fun p => decide (p.cfirst ≤ k ∧ k < p.cfirst + p.consts)) with
  | some p => (placedGraph s p).consts.getD (k - p.cfirst) 0
  | none => 0

/-- Registers of the FERM block whose value is computed from the state. -/
def fermView (s : State) (a : Nat) : Option W64 :=
  let n (v : Nat) : Option W64 := some (w64 v)
  let quarter (r : Nat → Nat) : Option Nat := (List.range 4).find? (fun q => r q == a)
  let base := 0x01800000
  if a = Reg.FERM_GRAPH_FREE then n (65536 - s.ferm.placed.foldl (fun t p => t + p.nodes) 0)
  else if a = Reg.FERM_CONST_FREE then n (16384 - s.ferm.placed.foldl (fun t p => t + p.consts) 0)
  else if a = Reg.FERM_SLOTS_USED then n ((List.range 4).foldl (fun t q => t + slotsUsed s q) 0)
  else if a = Reg.FERM_ITEM_STATUS then n (itemCount s)
  else
    match quarter Reg.FERM_Qq_STATUS, quarter Reg.FERM_Qq_READY with
    | some q, _ =>
      let st := humState s (28 + q)
      n (slotsUsed s q + b2n (st == 1) * 2 ^ 14 + b2n (st == 3 || st == 4) * 2 ^ 15)
    | _, some q => n (tasksIn s q 1).length
    | none, none =>
      if base + 0x2000 ≤ a ∧ a < base + 0x2100 ∧ a % 16 = 0 then n (runQueue s ((a - base - 0x2000) / 16)).length
      else if base + 0x4000 ≤ a ∧ a < base + 0x4400 then
        let c := (a - base - 0x4000) / 4
        let res := (tasksIn s (c / 64) 2).filter (fun x => (x.2.1.task x.2.2).cell == c)
        n (res.length + b2n (res.any (fun x => x.2.1.urgent)) * 16)
      else if base + 0x9000 ≤ a ∧ a < base + 0x9000 + 8 * 4096 then
        let g := (a - base - 0x9000) / 8
        match (s.ferm.placed.filter (fun p => p.graph == g)).getLast? with
        | some p => n (p.first + p.nodes * 2 ^ 16 + p.cfirst * 2 ^ 32 + p.consts * 2 ^ 48 + 2 ^ 63)
        | none => n 0
      else if base + 0x100000 ≤ a ∧ a < base + 0x100000 + 16 * 65536 then
        n (storeNode s ((a - base - 0x100000) / 16) / 2 ^ (64 * (a / 8 % 2)))
      else if base + 0x200000 ≤ a ∧ a < base + 0x200000 + 8 * 16384 then n (storeConst s ((a - base - 0x200000) / 8))
      else none

/-! ### The commands -/

/-- TASK_DISPATCH (R267). -/
def execTaskDispatch (quarter : Fin 4) (s : State) : Host.Outcome State Fault Refusal := .next (dispatchTask s quarter.val)

/-- NODE_ISSUE (R258). -/
def execNodeIssue (cell : Fin 256) (bad : Option (Fin 4)) (s : State) : Host.Outcome State Fault Refusal :=
  .next (pump (cellIssue s cell.val (bad.map (·.val))))

/-- LOOKUP_NODE_COMPLETE (R259): lookups of nodes whose slot is unlocked complete. -/
def execLookupNodeComplete (s : State) : Host.Outcome State Fault Refusal := .next (pump s)

/-- RUN_TIMEOUT (R277): every run whose time has passed. -/
def execRunTimeout (s : State) : Host.Outcome State Fault Refusal := .next (pump (runTimeouts s))

/-- RUN_QUEUE_DEPART (R264). -/
def execRunQueueDepart (quad : Fin 16) (s : State) : Host.Outcome State Fault Refusal := .next (pump (runDepart s quad.val))

/-- ITEM_DISPATCH (R282). -/
def execItemDispatch (wayBad : Bool) (s : State) : Host.Outcome State Fault Refusal := .next (pump (itemDispatch s wayBad))

end Sys2Proof.Machine
end

