-- ==== Sys2Proof/Machine/CaskRows.lean ====
section
/-! DEFINITION. The commands of the Cask store and of the memory below it (R173 to R223): each change may deliver records, which
move runs and frames on. -/
namespace Sys2Proof.Machine

/-- PRESTATE_DEPART (R196). -/
def execPrestateDepart (quad : Fin 16) (wayBad : Bool) (s : State) : Host.Outcome State Fault Refusal :=
  .next (pump (psqDepart s quad.val wayBad))

/-- DEEP_READ_COMPLETE (R217). -/
def execDeepReadComplete (ch : Fin 64) (errors : List (Fin 32 × BitVec 16)) (s : State) :
    Host.Outcome State Fault Refusal :=
  let (r, s) := deepReturn s ch.val (errors.map (fun e => (e.1.val, e.2.toNat)))
  .next (pump (match r with
    | none => s
    | some (q, ws, bad) =>
      let s := if bad then lineUncorrectable s q.line else s
      let s := ledgerMod s q.tag (fun e =>
        if e.outstanding.contains q.line then
          let e := { e with outstanding := e.outstanding.filter (· != q.line) }
          if bad then { e with badLine := some q.line } else { e with have_ := e.have_ ++ [(q.line, ws)] }
        else e)
      match entryOf s q.tag with
      | some e =>
        if e.st = 3 then
          let (r, s) := fetchLoop 16 s q.tag
          pumpReads (afterServe s q.tag r)
        else pumpReads s
      | none => pumpReads s))

/-- CASK_INSERT (R175). -/
def execCaskInsert (tag : Fin 16384) (s : State) : Host.Outcome State Fault Refusal := .next (pump (insertEntry s tag.val))

/-- CASK_LOCK_TIMEOUT (R203). -/
def execCaskLockTimeout (s : State) : Host.Outcome State Fault Refusal := .next (pump (caskLockTimeouts s))

/-- CASK_COMMIT (R194). -/
def execCaskCommit (tag : Fin 16384) (s : State) : Host.Outcome State Fault Refusal := .next (pump (commitEntry s tag.val))

/-- CASK_INS_WINDOW_CLOSE (R179): due CASK_INS_WINDOW after the pair's window opened. -/
def execCaskInsWindowClose (region : Fin 8) (row : Nat) (s : State) : Host.Outcome State Fault Refusal :=
  let k := region.val * 2 ^ 28 + row
  .next (match tabFind s.cask.windows k with
    | some w =>
      if elapsed s w.opened (rf s Reg.CASK_INS_WINDOW 15 0 * 1000000) then
        { s with cask := { s.cask with windows := tabDel s.cask.windows k } }
      else s
    | none => s)

/-- CASK_READS_PERIOD (R185): a period of 100 µs ends. -/
def execCaskReadsPeriod (s : State) : Host.Outcome State Fault Refusal :=
  let u := s.cask
  .next (if elapsed s u.periodAt 100000 then
      let ops := rdn s Reg.CASK_OPS - u.periodOps
      let reads := rdn s Reg.CASK_LINE_READS - u.periodReads
      let s := { s with cask := { u with
        periodAt := nowNs s, periodOps := rdn s Reg.CASK_OPS, periodReads := rdn s Reg.CASK_LINE_READS } }
      if ops ≠ 0 ∧ rf s Reg.CASK_READS_LIMIT 9 0 * ops < reads * 100 then raise s 0x730 (reads * 100 / ops) ops else s
    else s)

/-- CASK_AGE_SCAN (R208). -/
def execCaskAgeScan (line : BitVec 32) (s : State) : Host.Outcome State Fault Refusal := .next (ageScan s line.toNat)

/-- CASK_CMD_READ (R206). -/
def execCaskCmdRead (s : State) : Host.Outcome State Fault Refusal := .next (pump (caskCommand s 1))
/-- CASK_CMD_WRITE (R206). -/
def execCaskCmdWrite (s : State) : Host.Outcome State Fault Refusal := .next (pump (caskCommand s 2))
/-- CASK_CMD_INSERT (R206). -/
def execCaskCmdInsert (s : State) : Host.Outcome State Fault Refusal := .next (pump (caskCommand s 3))
/-- CASK_CMD_DELETE (R206). -/
def execCaskCmdDelete (s : State) : Host.Outcome State Fault Refusal := .next (pump (caskCommand s 4))
/-- CASK_CMD_SEARCH (R206). -/
def execCaskCmdSearch (s : State) : Host.Outcome State Fault Refusal := .next (pump (caskCommand s 5))
/-- CASK_CMD_PIN (R183). -/
def execCaskCmdPin (s : State) : Host.Outcome State Fault Refusal := .next (pump (caskCommand s 6))
/-- CASK_CMD_UNPIN (R183). -/
def execCaskCmdUnpin (s : State) : Host.Outcome State Fault Refusal := .next (pump (caskCommand s 7))
/-- CASK_CMD_FLUSH (R206). -/
def execCaskCmdFlush (s : State) : Host.Outcome State Fault Refusal := .next (pump (caskCommand s 8))
/-- CASK_CMD_REPACK (R180). -/
def execCaskCmdRepack (s : State) : Host.Outcome State Fault Refusal := .next (pump (caskCommand s 9))
/-- CASK_CMD_READ_ROW (R206). -/
def execCaskCmdReadRow (s : State) : Host.Outcome State Fault Refusal := .next (pump (caskCommand s 10))
/-- CASK_CMD_COMPLETE (R207). -/
def execCaskCmdComplete (s : State) : Host.Outcome State Fault Refusal := .next (pump (caskCmdDone s))

/-- DRAM_COMMAND_SLOT (R223). -/
def execDramCommandSlot (ch : Fin 64) (blocked : List Nat) (s : State) : Host.Outcome State Fault Refusal :=
  .next (pump (pumpReads (commandSlot s ch.val blocked)))

end Sys2Proof.Machine
end

