-- ==== Sys2Proof/Machine/Fen.lean ====
section
/-! DEFINITION. Fen messages as they are received and relayed, learning digests and membership (R441 to R449). -/
namespace Sys2Proof.Machine

/-- A fen message in a frame (R442). -/
structure FenMsg where
  /-- what precedes the VLAN tag, and from the EtherType on: header and body, and the tag of the message -/
  dst : List Byte
  src : List Byte
  port : Nat
  msg : List Byte
  tag : List Byte

def FenMsg.type (m : FenMsg) : Nat := byteAt m.msg 2
def FenMsg.dev (m : FenMsg) : Nat := beAt m.msg 4 2 % 1024
def FenMsg.count (m : FenMsg) : Nat := beAt m.msg 6 2
def FenMsg.seq (m : FenMsg) : Nat := beAt m.msg 8 4
def FenMsg.hops (m : FenMsg) : Nat := byteAt m.msg 1 % 16

/-- The fen message in a frame received on a port with its FCS, when the frame is on the fen VLAN and has EtherType 0x88B5. -/
def fenMsgOf (s : State) (port : Nat) (frame : List Byte) : Option FenMsg :=
  let p := parseFrame (profileOf s (port / 4)) frame true
  let tagged : Bool := isTag (beAt frame 12 2)
  let o := if tagged then 16 else 12
  let vid := frameVid s port frame p
  if !rb s Reg.FEN_CFG 0 || !isPort s port || humDown s (port / 4) || !fcsGood frame || vid != rf s Reg.FEN_VID 11 0 ||
      !vlanAdmits s port vid || beAt frame o 2 != 0x88B5 then none
  else
    let m := frame.drop (o + 2)
    let type := byteAt m 2
    let body := if type = 2 then 10 else if type = 3 then 0 else 20 * beAt m 6 2
    some { dst := frame.take 6, src := slice frame 6 6, port := port, msg := m.take (16 + body), tag := slice m (16 + body) 8 }
where
  /-- The tag protocol of a VLAN tag. -/
  isTag (t : Nat) : Bool := t == 0x8100

def member (s : State) (i : Nat) : Member := tabGet s.fen.members i {}
def memberPut (s : State) (i : Nat) (x : Member) : State :=
  { s with fen := { s.fen with members := tabPut s.fen.members i x {} } }

/-- The sequence check of R444: 0 accepted, 1 seen before, 2 older than the window; and the window after it. -/
def seqCheck (live : Bool) (x : Member) (seq : Nat) : Nat × Member :=
  let ahead := (seq + 2 ^ 32 - x.last) % 2 ^ 32
  let back := (x.last + 2 ^ 32 - seq) % 2 ^ 32
  if !live then (0, { x with last := seq, window := [seq] })
  else if 0 < ahead ∧ ahead < 2 ^ 31 then
    let inWindow (w : Nat) : Bool := (seq + 2 ^ 32 - w) % 2 ^ 32 < 64
    (0, { x with last := seq, window := seq :: x.window.filter inWindow })
  else if 64 ≤ back then (2, x)
  else if x.window.contains seq then (1, x)
  else (0, { x with window := seq :: x.window })

/-- The checks of R444 in their order; the message when it is accepted. A message of another defined TYPE is another command's. -/
def fenReceive (s : State) (port : Nat) (frame : List Byte) (type : Nat) : Option FenMsg × State :=
  match fenMsgOf s port frame with
  | none => (none, s)
  | some m =>
    let known : Bool := byteAt m.msg 0 == 1 && decide (1 ≤ m.type ∧ m.type ≤ 4)
    let i := m.dev
    let cfg := rd s (Reg.FEN_MEMBERi_CFG i)
    let unknown (s : State) : Option FenMsg × State := (none, raise (cnt s Reg.FEN_RX_UNKNOWN 1) 0xFA5 0 i)
    if known && m.type != type then (none, s)
    else if !known then unknown s
    else if i = rf s Reg.FEN_DEV_ID 9 0 then (none, cnt s Reg.FEN_RX_DUP 1)
    else if !bitOf cfg 60 || beNat m.src != fld cfg 47 0 then unknown s
    else if fenTag s (fld cfg 59 48) m.msg ≠ some m.tag then (none, raise (cnt s Reg.FEN_RX_AUTH_FAIL 1) 0xFA2 0 i)
    else
      let st := Reg.FEN_MEMBERi_STATE i
      match seqCheck (rb s st 32) (member s i) m.seq with
      | (1, _) => (none, cnt s Reg.FEN_RX_DUP 1)
      | (2, _) => (none, raise (cnt s Reg.FEN_RX_REPLAY 1) 0xFA2 0 i)
      | (_, x) => (some m, wf (memberPut (cnt s Reg.FEN_RX_MSGS 1) i x) st 31 0 x.last)

/-- Relay an accepted message (R447): with one hop more and nothing else changed, when a token is there. -/
def fenRelay (s : State) (m : FenMsg) : State :=
  if !rb s Reg.FEN_CFG 1 || decide (rf s Reg.FEN_HOP_LIMIT 3 0 ≤ m.hops) then s
  else
    match fenToken s with
    | none => s
    | some s =>
      let msg := m.msg.set 1 (BitVec.ofNat 8 (byteAt m.msg 1 / 16 * 16 + m.hops + 1))
      originate (cnt s Reg.FEN_RELAYED 1) (rf s Reg.FEN_VID 11 0) m.dst m.src ([0x88#8, 0xB5#8] ++ msg ++ m.tag)
        ((fenPorts s).filter (· != m.port))

/-- The records of a LEARN or DIGEST message are applied (R444). -/
def fenApply (s : State) (m : FenMsg) : State :=
  if !rb s (Reg.FEN_MEMBERi_CFG m.dev) 61 || follower s then s
  else (List.range (min 64 m.count)).foldl (fun s k =>
    let r := slice m.msg (16 + 20 * k) 20
    learnOrWait s
      { fid := beAt r 0 2 / 16, prec := byteAt r 1 % 16, originPort := byteAt r 2 % 64, mac := beAt r 4 6, tick := beAt r 12 8
        srcDev := m.dev, dest := m.port, remote := true }) s

/-- A heartbeat makes its sender LIVE (R448). -/
def fenBeat (s : State) (m : FenMsg) : State :=
  let i := m.dev
  let s := memberPut s i { member s i with beat := some (nowNs s) }
  if rb s (Reg.FEN_MEMBERi_STATE i) 32 then s else raise (wf s (Reg.FEN_MEMBERi_STATE i) 32 32 1) 0xFA0 i m.seq

/-- A request for the learning digest (R449). -/
def digestAsk (s : State) : State :=
  if !fenSpeaks s then s
  else if s.fen.digest.isNone then { s with fen := { s.fen with digest := some 0 } }
  else { s with fen := { s.fen with again := true } }

/-- A DIGEST message: its records, and on LAST the end of the digest (R449). -/
def digestPart (s : State) (m : FenMsg) : State :=
  let i := m.dev
  let s := fenApply s m
  let n := (member s i).recs + m.count
  if byteAt m.msg 3 % 2 = 1 then
    raise (wf (memberPut s i { member s i with recs := 0 }) (Reg.FEN_MEMBERi_STATE i) 33 33 1) 0xFA4 i n
  else memberPut s i { member s i with recs := n }

/-- A message of a TYPE: checked, relayed, then acted on. -/
def fenMessage (s : State) (port : Nat) (frame : List Byte) (type : Nat) (act : State → FenMsg → State) : State :=
  match fenReceive s port frame type with
  | (some m, s) => act (fenRelay s m) m
  | (none, s) => s

/-! ### Sending -/

/-- A LEARN message leaves with 64 records, or 1 µs after its first record was queued (R443). -/
def sendLearns (s : State) : State :=
  let s := fenResyncPump s
  let recs := s.fen.pendingRecs.take 64
  match recs with
  | [] => s
  | r :: _ =>
    if recs.length < 64 && !elapsed s r.queued 1000 then s
    else
      match fenSend s 1 0 recs.length (recs.flatMap (fun l => fenRecord l.fid l.prec l.originPort l.mac l.tick)) with
      | some s => { s with fen := { s.fen with pendingRecs := s.fen.pendingRecs.drop 64 } }
      | none => s

/-- An FDB entry that the digest carries (R449): of a domain-scope VLAN, learned on this device. -/
def inDigest (s : State) (i : Nat) : Bool :=
  let x := slotOf s 0 i
  let fid := fld (x.word 1) 11 0
  let inScope (v : Slot) : Bool := v.valid && fld (v.word 0) 55 54 == 1 && fld (v.word 0) 11 0 == fid
  x.valid && !bitOf (x.word 0) 57 && (listedSlots s 5).any (fun v => inScope (slotOf s 5 v))

/-- The next DIGEST message of the digest in progress; the last one is marked, and a queued digest follows (R449). -/
def sendDigest (s : State) : State :=
  let s := fenResyncPump s
  match s.fen.digest with
  | none => s
  | some k =>
    let left := (listedSlots s 0).filter (fun i => decide (k ≤ i) && inDigest s i)
    let now := left.take 64
    let last : Bool := decide (left.length ≤ 64)
    let one (i : Nat) : List Byte :=
      let x := slotOf s 0 i
      fenRecord (fld (x.word 1) 11 0) (fld (x.word 1) 15 12) (fld (x.word 1) 35 30) (fld (x.word 0) 47 0) (x.word 2).toNat
    match fenSend s 4 (b2n last) now.length (now.flatMap one) with
    | none => s
    | some s =>
      let next := if !last then some (now.getLastD 0 + 1) else if s.fen.again then some 0 else none
      { s with fen := { s.fen with digest := next, again := s.fen.again && !last } }

/-- Members that are LIVE. -/
def liveMembers (s : State) : List Nat := (List.range 1024).filter (fun i => rb s (Reg.FEN_MEMBERi_STATE i) 32)

/-- A HEARTBEAT every HB_PERIOD (R448). -/
def sendBeat (s : State) : State :=
  let s := fenResyncPump s
  if !elapsed s s.fen.lastBeat (rf s Reg.FEN_HB_PERIOD 15 0 * 1000000) then s
  else
    match fenSend s 2 0 0 (toBE 8 (tickNo s) ++ toBE 2 (liveMembers s).length) with
    | some s => { s with fen := { s.fen with lastBeat := nowNs s } }
    | none => s

/-- A member loses LIVE (R441, R448). -/
def memberLapse (s : State) (i : Nat) : State :=
  let flush : Bool := rb s Reg.FEN_CFG 2
  let s := raise (wf s (Reg.FEN_MEMBERi_STATE i) 32 32 0) 0xFA1 i (b2n flush)
  if flush then { s with fen := { s.fen with flush := tabSet s.fen.flush i s.time.tick } } else s

/-- Members without a valid heartbeat for HB_LAPSE × HB_PERIOD (R448). -/
def memberLapses (s : State) : State :=
  let limit := rf s Reg.FEN_HB_LAPSE 7 0 * (rf s Reg.FEN_HB_PERIOD 15 0 * 1000000)
  (liveMembers s).foldl (fun s i =>
    if (member s i).beat.all (fun t => elapsed s t limit) then memberLapse s i else s) s

/-- A write of FEN_MEMBERi_CFG (R441). -/
def memberCfg (s : State) (i : Nat) (v : W64) : State :=
  let a := Reg.FEN_MEMBERi_CFG i
  let s := regWrite s a v
  if !rb s a 60 && rb s (Reg.FEN_MEMBERi_STATE i) 32 then memberLapse s i else s

/-- FEN registers computed from the state. -/
def fenView (s : State) (a : Nat) : Option W64 :=
  if a = Reg.FEN_STATUS then
    some (BitVec.ofNat 64 ((liveMembers s).length + s.fen.pendingRecs.length * 2 ^ 16 + b2n s.fen.digest.isSome * 2 ^ 29))
  else none

/-! ### The commands -/

/-- FEN_LEARN_RX (R444). -/
def execFenLearnRx (port : Fin 64) (frame : List Byte) (s : State) : Host.Outcome State Fault Refusal :=
  .next (fenMessage s port.val frame 1 fenApply)

/-- FEN_HEARTBEAT_RX (R448). -/
def execFenHeartbeatRx (port : Fin 64) (frame : List Byte) (s : State) : Host.Outcome State Fault Refusal :=
  .next (fenMessage s port.val frame 2 fenBeat)

/-- FEN_RESYNC_REQ_RX (R449). -/
def execFenResyncReqRx (port : Fin 64) (frame : List Byte) (s : State) : Host.Outcome State Fault Refusal :=
  .next (fenMessage s port.val frame 3 (fun s _ => digestAsk s))

/-- FEN_DIGEST_RX (R449). -/
def execFenDigestRx (port : Fin 64) (frame : List Byte) (s : State) : Host.Outcome State Fault Refusal :=
  .next (fenMessage s port.val frame 4 digestPart)

/-- FEN_LEARN_SEND (R443). -/
def execFenLearnSend (s : State) : Host.Outcome State Fault Refusal := .next (sendLearns s)

/-- FEN_DIGEST_SEND (R449). -/
def execFenDigestSend (s : State) : Host.Outcome State Fault Refusal := .next (sendDigest s)

/-- FEN_HEARTBEAT_SEND (R448). -/
def execFenHeartbeatSend (s : State) : Host.Outcome State Fault Refusal := .next (sendBeat s)

/-- FEN_MEMBER_LAPSE (R448). -/
def execFenMemberLapse (s : State) : Host.Outcome State Fault Refusal := .next (memberLapses s)

/-- FEN_RESYNC (R449). -/
def execFenResync (s : State) : Host.Outcome State Fault Refusal := .next (fenResync s)

/-- FEN_MEMBER_CFG_WRITE (R441). -/
def execFenMemberCfgWrite (index : Fin 1024) (value : BitVec 64) (s : State) : Host.Outcome State Fault Refusal :=
  .next (memberCfg s index.val value)

end Sys2Proof.Machine
end

