-- ==== Sys2Proof/Machine/Lode.lean ====
section
/-! DEFINITION. The Lode (R300 to R316, R322): cells, matching, launch, the resequencers and the planes. -/
namespace Sys2Proof.Machine

/-! ### Class streams and cells (R300, R301, R313) -/

/-- Crossings of the class stream (input, output, queue, class) that have bytes to launch, oldest first. -/
def streamOf (s : State) (i o k c : Nat) : List (Nat × Crossing) :=
  s.mere.xings.filter (fun x => x.2.input == i && x.2.output == o && x.2.queue == k && x.2.cls == c &&
    (decide (x.2.sent < xingBytes s x.2) || !xingWhole s x.2))

/-- The payload of the stream's next cell, as (crossing, from, to); a frame that is still arriving ends it. The result says
whether the frame of the last crossing has more bytes to come. -/
def takeSegs (s : State) : List (Nat × Crossing) → Nat → List (Nat × Nat × Nat) × Bool
  | [], _ => ([], false)
  | (n, x) :: t, room =>
    if room = 0 then ([], false)
    else
      let have_ := xingBytes s x - x.sent
      let k := min have_ room
      let seg := if k = 0 then [] else [(n, x.sent, x.sent + k)]
      if !xingWhole s x && k == have_ then (seg, true)
      else
        let (r, more) := takeSegs s t (room - k)
        (seg ++ r, more)

/-- Bytes of a payload. -/
def segsLen (segs : List (Nat × Nat × Nat)) : Nat := segs.foldl (fun n g => n + (g.2.2 - g.2.1)) 0

/-- The launch threshold of an ingress port (R313). -/
def launchThreshold (s : State) (p : Nat) : Nat :=
  if portRate s p ≤ 1000 then 56 else if portRate s p ≤ 10000 then 112 else 224

/-- The stream's next cell, if it is eligible (R300). -/
def nextPayload (s : State) (i o k c : Nat) : Option (List (Nat × Nat × Nat)) :=
  let xs := streamOf s i o k c
  let (segs, more) := takeSegs s xs 224
  let n := segsLen segs
  let threshold := match segs.getLast?.bind (fun g => xingOf s g.1) with
    | some x => match frameOf s x.frame with
      | some fr => launchThreshold s fr.port
      | none => 0
    | none => 0
  if n = 0 ∨ (more && decide (n < threshold)) then none else some segs

/-- Eligible cells of input i for output o: (queue, class, first crossing). -/
def eligibleCells (s : State) (i o : Nat) : List (Nat × Nat × Nat) :=
  let keys := (s.mere.xings.filter (fun x => x.2.input == i && x.2.output == o)).map (fun x => (x.2.queue, x.2.cls))
  keys.eraseDups.filterMap (fun kc =>
    match nextPayload s i o kc.1 kc.2 with
    | some (g :: _) => some (kc.1, kc.2, g.1)
    | _ => none)

/-- A class is urgent. -/
def urgentClass (s : State) (c : Nat) : Bool := clsUrgent s (billGen s) c

/-! ### Matching (R303, R304) -/

/-- Cells that an output's resequencer holds. -/
def reseqHeld (s : State) (o : Nat) : Nat :=
  (s.mere.reseq.filter (fun r => r.1 / 64 % 18 == o)).foldl (fun n r => n + r.2.held.length) 0

/-- Cells of an output's egress part. -/
def egressPart (s : State) (o : Nat) : Nat :=
  if o < 16 then rf s (Reg.MERE_Qq_EGRESS_CELLS o) 13 0 else if o = 16 then 2048 else Config.recircCells

/-- An output grants: 8 free cells in its egress part and at most 504 cells in its resequencer. -/
def outputGrants (s : State) (o : Nat) : Bool :=
  decide (egressUse s o + 8 ≤ egressPart s o) && decide (reseqHeld s o ≤ 504)

/-- Inputs withhold requests to output 16 or 17 while its part is full. -/
def requestsTo (s : State) (o : Nat) : Bool := decide (o < 16) || decide (egressUse s o < egressPart s o)

/-- The requests of all inputs, as (input, output, urgent). -/
def requests (s : State) : List (Nat × Nat × Bool) :=
  (List.range 18).flatMap (fun i => (List.range 18).filterMap (fun o =>
    if !requestsTo s o then none
    else
      match eligibleCells s i o with
      | [] => none
      | cs => some (i, o, cs.any (fun x => urgentClass s x.2.1))))

/-- The first of some numbers at or after a pointer, modulo 18. -/
def firstFrom (ptr : Nat) (l : List Nat) : Option Nat := ((List.range 18).map (fun i => (ptr + i) % 18)).find? (fun i => l.contains i)

/-- A pointer register's value for a level. -/
def ptrOf (s : State) (a : Nat) (urgent : Bool) : Nat := if urgent then rf s a 12 8 else rf s a 4 0

/-- Set a pointer for a level. -/
def ptrSet (s : State) (a : Nat) (urgent : Bool) (v : Nat) : State := if urgent then wf s a 12 8 v else wf s a 4 0 v

/-- One round: every unmatched output grants, every input accepts; in round 1 the pointers move. -/
def matchRound (p : Nat) (first : Bool) (reqs : List (Nat × Nat × Bool)) (sm : State × List (Nat × Nat)) :
    State × List (Nat × Nat) :=
  let (s, m) := sm
  let live := reqs.filter (fun r => !m.any (fun x => x.1 == r.1 || x.2 == r.2.1))
  let grants := (List.range 18).filterMap (fun o =>
    let rs := live.filter (fun r => r.2.1 == o)
    if !outputGrants s o then none
    else
      let urgent := rs.any (fun r => r.2.2)
      (firstFrom (ptrOf s (Reg.LODE_PLp_GPTRo p o) urgent) ((rs.filter (fun r => r.2.2 || !urgent)).map (·.1))).map
        (fun i => (i, o, urgent)))
  (List.range 18).foldl (fun (s, m) i =>
    let gs := grants.filter (fun g => g.1 == i)
    let urgent := gs.any (fun g => g.2.2)
    match firstFrom (ptrOf s (Reg.LODE_PLp_APTRi p i) urgent) ((gs.filter (fun g => g.2.2 || !urgent)).map (·.2.1)) with
    | none => (s, m)
    | some o =>
      let s := if first then
          ptrSet (ptrSet s (Reg.LODE_PLp_GPTRo p o) urgent ((i + 1) % 18)) (Reg.LODE_PLp_APTRi p i) urgent ((o + 1) % 18)
        else s
      (s, m ++ [(i, o)])) (s, m)

/-- The match of plane p for its next cell time. -/
def matchPlane (s : State) (p : Nat) : State :=
  let reqs := requests s
  let (s, m) := matchRound p false reqs (matchRound p false reqs (matchRound p true reqs (s, [])))
  { s with mere := { s.mere with matched := tabSet s.mere.matched p m } }

/-! ### Launch (R305, R309, R322) -/

/-- The class stream that an accepted pair launches from: an urgent one, else the next queue of the pair's round-robin; within
it the stream whose oldest copy entered first. -/
def chooseStream (s : State) (p i o : Nat) : Option (Nat × Nat × State) :=
  let cs := eligibleCells s i o
  let oldest (l : List (Nat × Nat × Nat)) : Option (Nat × Nat × Nat) := l.foldl (fun b c =>
    match b with
    | none => some c
    | some d => if c.2.2 < d.2.2 then some c else b) none
  match oldest (cs.filter (fun c => urgentClass s c.2.1)) with
  | some (k, c, _) => some (k, c, s)
  | none =>
    let key := (18 * i + o) * 4 + p
    let start := tabGet s.mere.queueNext key 0
    match ((List.range 8).map (fun j => (start + j) % 8)).find? (fun k => cs.any (fun c => c.1 == k)) with
    | none => none
    | some k =>
      (oldest (cs.filter (fun c => c.1 == k))).map (fun c =>
        (k, c.2.1, { s with mere := { s.mere with queueNext := tabSet s.mere.queueNext key ((k + 1) % 8) } }))

/-- An uncorrectable line met in a launch: the frame concerned follows the policy, or ends with the stomped FCS once its
transmission has begun. -/
def poisonXing (s : State) (input x cell : Nat) (errs : List (Nat × Byte)) : State :=
  let act := rf s Reg.MERE_POLICY 0 0
  let mine := s.mere.copies.filter (fun c => c.2.st != 0 && c.2.xing == x)
  let begun := mine.any (fun c => c.2.begun)
  let s := cnt s Reg.MERE_UNCORR_FRAMES 1
  let s := if input < 16 then
      raise (cnt s (Reg.MERE_Qq_UNCORRECTABLE input) 1) (0xE00 + input) cell (if begun then 2 else act)
    else s
  let s := xingMod s x (fun y => { y with poison := true, errs := y.errs ++ errs })
  mine.foldl (fun s c =>
    if c.2.begun || act == 1 then copyMod s c.1 (fun d => { d with stomp := true }) else copyGone s c.1) s

/-- Launch one cell of a class stream. `bad` is the uncorrectable line, if the cell is read from one: its Mere cell number and the
wrong bytes, as (place in the payload, XOR). -/
def launchCell (s : State) (p i o k c : Nat) (bad : Option (Nat × List (Nat × Byte))) : State :=
  match nextPayload s i o k c with
  | none => s
  | some segs =>
    let key := (18 * i + o) * 64 + c
    let (seq, prev) := tabGet s.mere.seqs key (0, 0)
    let offs : List (Nat × Nat × Nat × Nat) := (segs.foldl (fun (acc : List (Nat × Nat × Nat × Nat) × Nat) g =>
      (acc.1 ++ [(acc.2, g)], acc.2 + (g.2.2 - g.2.1))) ([], 0)).1
    let first := match offs.find? (fun x => x.2.2.1 == 0) with
      | some x => x.1
      | none => 0xFF
    let cell : Cell :=
      { seq := seq, input := i, output := o, cls := c, queue := k, urgent := urgentClass s c, first := first
        poison := bad.isSome, pp := prev, plane := p, segs := segs }
    let s := { s with mere := { s.mere with
      flying := s.mere.flying ++ [cell], seqs := tabSet s.mere.seqs key ((seq + 1) % 4096, p) } }
    let s := segs.foldl (fun s g => xingMod s g.1 (fun x => { x with sent := g.2.2 })) s
    let s := tally (cntWrap s (Reg.LODE_INi_CELLS i) 1) 0x1106 1
    match bad with
    | none => s
    | some (line, errs) =>
      let hit := match offs.find? (fun x => errs.any (fun e => decide (x.1 ≤ e.1 ∧ e.1 < x.1 + (x.2.2.2 - x.2.2.1)))) with
        | some x => some x
        | none => offs.head?
      match hit with
      | none => s
      | some (at_, x, lo, hi) =>
        let mine := errs.filter (fun e => decide (at_ ≤ e.1 ∧ e.1 < at_ + (hi - lo) ∧ 16 ≤ lo + (e.1 - at_)))
        poisonXing s i x line (mine.map (fun e => (lo + (e.1 - at_) - 16, e.2)))

/-- LODE_CELL_TIME of plane p (R302): the matched cells launch, then the next match is computed. A plane whose bit is set returns
to service at its cell time (R307); one in forced recalibration gets no match (R73). -/
def cellTime (s : State) (p t : Nat) (bad : List (Nat × Nat × List (Nat × Byte))) (corrected : List Nat) : State :=
  let st := Reg.LODE_STATUS
  let s := wrn s (Reg.LODE_PLANEp_CELLTIME p) (t % 2 ^ 12)
  let s := corrected.foldl (fun s q => cnt s (Reg.MERE_Qq_CORRECTED q) 1) s
  let back := rb s Reg.LODE_CFG p && (!rb s st p || rb s st (4 + p))
  let s := if back then raise (wf (wf s st p p 1) st (4 + p) (4 + p) 0) (0xE38 + p) 1 0 else s
  if !rb s st p then s
  else
    let s := (tabGet s.mere.matched p []).foldl (fun s m =>
      match chooseStream s p m.1 m.2 with
      | none => s
      | some (k, c, s) => launchCell s p m.1 m.2 k c ((bad.find? (fun b => b.1 == m.1)).map (fun b => b.2))) s
    if rb s st (4 + p) || s.core.recal == some (32 + p) then { s with mere := { s.mere with matched := tabSet s.mere.matched p [] } } else matchPlane s p

/-! ### Arrival (R309, R310, R316) -/

/-- Key of a stream's resequencer. -/
def reseqKey (c : Cell) : Nat := (18 * c.input + c.output) * 64 + c.cls

/-- Deliver a cell to egress: its bytes join their crossings. -/
def deliver (s : State) (c : Cell) : State :=
  let s := cntWrap s (Reg.LODE_OUTo_CELLS c.output) 1
  c.segs.foldl (fun s g =>
    match xingOf s g.1 with
    | none => s
    | some x =>
      let fresh_ := x.arrived == 0
      let x := { x with lost := x.lost || decide (x.arrived < g.2.1), arrived := max x.arrived g.2.2
                        place := if fresh_ then s.mere.nextPlace else x.place, outAt := if fresh_ then nowNs s else x.outAt }
      let s := { s with mere := { s.mere with xings := tabSet s.mere.xings g.1 x
                                              nextPlace := s.mere.nextPlace + b2n fresh_ } }
      let s := if x.output = 16 then peak s Reg.HOST_CPU_CELLS 27 16 (egressUse s 16) else s
      frameCheck s x.frame) s

/-- Deliver the held cells of a stream that follow in order. -/
def deliverHeld : Nat → State → Nat → State
  | 0, s, _ => s
  | fuel + 1, s, key =>
    let r := tabGet s.mere.reseq key {}
    match r.held.find? (fun c => c.seq == r.expect) with
    | none => s
    | some c =>
      let r := { r with expect := (r.expect + 1) % 4096, held := r.held.erase c, since := nowNs s }
      deliverHeld fuel (deliver { s with mere := { s.mere with reseq := tabSet s.mere.reseq key r } } c) key

/-- A cell reaches its resequencer. -/
def arriveCell (s : State) (c : Cell) : State :=
  let key := reseqKey c
  let r := tabGet s.mere.reseq key {}
  let r := { r with since := if r.held.isEmpty then nowNs s else r.since, held := r.held ++ [c] }
  let s := deliverHeld 513 { s with mere := { s.mere with reseq := tabSet s.mere.reseq key r } } key
  let s := peak s Reg.LODE_RESEQ_PEAK 9 0 (reseqHeld s c.output)
  heldPeak (if c.output < 16 then merePeak s c.output else s)

/-- LODE_CELL_ARRIVE: the oldest cell of the plane for the output arrives. -/
def cellArrive (s : State) (p o : Nat) (hcrcBad : Bool) : State :=
  match s.mere.flying.find? (fun c => c.plane == p && c.output == o) with
  | none => s
  | some c =>
    let s := { s with mere := { s.mere with flying := s.mere.flying.erase c } }
    if hcrcBad then
      let key := reseqKey c
      let r := tabGet s.mere.reseq key {}
      cnt { s with mere := { s.mere with reseq := tabSet s.mere.reseq key { r with lost := r.lost ++ [c] } } }
        (Reg.LODE_PLANEp_HCRC_ERRS p) 1
    else arriveCell s c

/-! ### Planes (R73, R307) -/

/-- A plane drains: no new match; 0 by the host, 1 by the standing order. -/
def drainPlane (s : State) (p cause : Nat) : State :=
  let st := Reg.LODE_STATUS
  if !rb s st p || rb s st (4 + p) then s
  else
    let by_ := s.mere.ordered.filter (· != p) ++ (if cause = 1 then [p] else [])
    let s := { s with mere := { s.mere with matched := tabSet s.mere.matched p [], ordered := by_ } }
    raise (wf s st (4 + p) (4 + p) 1) (0xE38 + p) 2 cause

/-- The standing order: MISS_LIMIT missing cells of a plane within 1 ms. -/
def planeMissed (s : State) (p : Nat) : State :=
  let times := (tabGet s.mere.misses p []).filter (fun t => decide (nowNs s < t + 1000000)) ++ [nowNs s]
  let s := { s with mere := { s.mere with misses := tabSet s.mere.misses p times } }
  if rb s Reg.LODE_ORDER 0 && decide (rf s Reg.LODE_ORDER 15 8 ≤ times.length) then
    let others := (List.range 4).any (fun q => q != p && rb s Reg.LODE_STATUS q && !rb s Reg.LODE_STATUS (4 + q))
    if others then drainPlane (wf s Reg.LODE_CFG p p 0) p 1 else s
  else s

/-- A draining plane leaves service once it holds no cell. -/
def planeDrained (s : State) (p : Nat) : State :=
  let st := Reg.LODE_STATUS
  if rb s st (4 + p) && !s.mere.flying.any (fun c => c.plane == p) then
    raise (wf (wf s st p p 0) st (4 + p) (4 + p) 0) (0xE38 + p) 0 (b2n (s.mere.ordered.contains p))
  else s

/-- A write of LODE_CFG: four zeros are reserved; a cleared bit drains its plane. -/
def lodeConfig (s : State) (v : Nat) : State :=
  if v % 16 = 0 then accReport s 1 0 true Reg.LODE_CFG
  else
    let s := wf s Reg.LODE_CFG 3 0 v
    (List.range 4).foldl (fun s p => if v.testBit p then s else drainPlane s p 0) s

/-! ### Losses (R310) -/

/-- The copies of a crossing with lost bytes: one in transmission ends at the gap, the others are discarded. -/
def loseXing (s : State) (x : Nat) : State :=
  match xingOf s x with
  | none => s
  | some y =>
    let s := xingMod s x (fun y => { y with lost := true })
    (s.mere.copies.filter (fun c => c.2.st != 0 && c.2.xing == x)).foldl (fun s c =>
      let p := c.2.port
      if c.2.begun && (eport s p).cur == some c.1 then cutStomped s p c.1 (y.arrived - 16)
      else discardCopy (if p < 64 then mib s p 17 1 else s) c.1) s

/-- A stream's gap is declared lost, and its held cells are released. -/
def releaseGap (s : State) (key : Nat) (r : Reseq) : State :=
  let dist (n : Nat) : Nat := (n + 4096 - r.expect) % 4096
  match r.held.foldl (fun (b : Option Cell) c =>
      match b with
      | none => some c
      | some d => if dist c.seq < dist d.seq then some c else b) none with
  | none => s
  | some next =>
    let gone := (List.range (dist next.seq)).map (fun n => (r.expect + n) % 4096)
    let lost := r.lost.filter (fun c => gone.contains c.seq)
    let r := { r with expect := next.seq, since := nowNs s, lost := r.lost.filter (fun c => !gone.contains c.seq) }
    let s := { s with mere := { s.mere with reseq := tabSet s.mere.reseq key r } }
    let p := next.pp
    let s := gone.foldl (fun s n =>
      planeMissed (raise (cnt s (Reg.LODE_PLANEp_MISSING p) 1) (0xE30 + p)
        (pack4 next.input next.output next.cls 0) n) p) s
    let s := lost.foldl (fun s c => c.segs.foldl (fun s g => loseXing s g.1) s) s
    heldPeak (deliverHeld 513 s key)

/-- Streams whose gap has been open for LODE_RESEQ_TIMEOUT. -/
def reseqTimeouts (s : State) : State :=
  (s.mere.reseq.filter (fun r => !r.2.held.isEmpty && elapsed s r.2.since (rf s Reg.LODE_RESEQ_TIMEOUT 15 0))).foldl
    (fun s r => releaseGap s r.1 r.2) s

/-- Grants are withheld in this tick for R311: the output that holds most cells, and how many. -/
def reseqFull (s : State) : Option (Nat × Nat) :=
  ((List.range 18).filterMap (fun o => if 505 ≤ reseqHeld s o then some (o, reseqHeld s o) else none)).getLast?

/-! ### The commands -/

/-- LODE_CELL_TIME (R302). -/
def execLodeCellTime (plane : Fin 4) (time : BitVec 12) (bad : List (Fin 18 × Nat × List (Nat × BitVec 8)))
    (corrected : List (Fin 16)) (s : State) : Host.Outcome State Fault Refusal :=
  .next (cellTime s plane.val time.toNat (bad.map (fun b => (b.1.val, b.2.1, b.2.2))) (corrected.map (·.val)))

/-- LODE_CELL_ARRIVE (R309). -/
def execLodeCellArrive (plane : Fin 4) (output : Fin 18) (hcrcBad : Bool) (s : State) : Host.Outcome State Fault Refusal :=
  .next (cellArrive s plane.val output.val hcrcBad)

/-- RESEQ_TIMEOUT (R310): every stream that is due. -/
def execReseqTimeout (s : State) : Host.Outcome State Fault Refusal := .next (reseqTimeouts s)

/-- PLANE_DRAINED (R307). -/
def execPlaneDrained (plane : Fin 4) (s : State) : Host.Outcome State Fault Refusal := .next (planeDrained s plane.val)

/-- LODE_CFG_WRITE (R307). -/
def execLodeCfgWrite (value : BitVec 32) (s : State) : Host.Outcome State Fault Refusal := .next (lodeConfig s value.toNat)

end Sys2Proof.Machine
end

