-- ==== Sys2Proof/Machine/Frames.lean ====
section
/-! DEFINITION. A frame from its head to its tail verdict (R12, R13, R26, R81, R104, R193, R252, R290, R293, R316, R362 to R366),
recirculation (R263), and the end of check-value jobs. -/
namespace Sys2Proof.Machine

/-! ### Classification (R12 steps 2 to 4, R103, R107, R123, R251, R264, R293) -/

/-- A frame is dropped at classification, its cells freed. -/
def dropHead (s : State) (f : Nat) : State :=
  let s := frameMod s f (fun x => { x with disposed := true, fate := some none, cells := 0 })
  frameCheck s f

/-- A frame is received and discarded whole: it makes no state change and learns nothing (R123, R290, R293). -/
def discardHead (s : State) (f : Nat) : State := dropHead (frameMod s f (fun x => { x with admitted := false })) f

/-- Count a parse: anomalies, peaks and unfolded keys of the quad (R118, R119). -/
def countParse (s : State) (q : Nat) (p : Parsed) : State :=
  let reached := p.hdrs.foldl (fun m h => max m (h.off + h.len)) 0
  let s := peak (peak s (Reg.GRIST_Qq_HDR_PEAK q) 4 0 p.hdrs.length) (Reg.GRIST_Qq_HDR_PEAK q) 14 8 (reached / 8)
  let s := if p.depth then cnt s (Reg.GRIST_Qq_DEPTH_CNT q) 1 else s
  let s := if p.conflict then cnt s (Reg.GRIST_Qq_LENCONF_CNT q) 1 else s
  if p.depth || p.conflict then raise s (0x500 + q) (b2n p.depth) (b2n p.conflict) else s

/-- The trap reason of an anomaly (R103). -/
def anomalyReason (p : Parsed) : Nat := b2n p.depth + 2 * b2n p.conflict

/-- Apply the class's ANOMALY policy to a frame (R103): true when the frame goes on. -/
def anomalyPolicy (s : State) (f : Nat) (fr : Frame) : Bool × State :=
  let q := quadOf fr.port
  let s := frameMod s f (fun x => { x with anomaly := true })
  match clsAnomaly s fr.gen fr.cls with
  | 0 => (true, s)
  | 1 => (false, dropHead (cnt s (Reg.GRIST_Qq_ANOM_DROP q) 1) f)
  | _ =>
    let s := cnt s (Reg.GRIST_Qq_ANOM_TRAP q) 1
    (false, frameMod s f (fun x => { x with fate := some (some (anomalyReason fr.parsed)), looked := true }))

/-- The key slot that a frame job is admitted against: that of its receive SA for KIND 0, else KEY of its class. -/
def frameKeySlot (s : State) (fr : Frame) : Nat :=
  let cfg := Reg.AUTH_CLASSc_CFG fr.cls
  if rf s cfg 1 0 ≠ 0 then rf s cfg 15 4
  else
    match fr.parsed.find 0 [.sectag] with
    | none => 0
    | some h =>
      let tci := byteAt fr.bytes h.off
      let sci := if tci / 32 % 2 = 1 then beAt fr.bytes (h.off + 6) 8 else beAt fr.bytes 6 6 * 2 ^ 16 + 1
      match (List.range 512).find? (fun i => rb s (Reg.AUTH_RXSCi_SA i) 44 && rdn s (Reg.AUTH_RXSCi_SCI i) == sci) with
      | some i =>
        let an := tci % 4
        rf s (Reg.AUTH_SAs_CFG (rf s (Reg.AUTH_RXSCi_SA i) (11 * an + 10) (11 * an))) 15 4
      | none => 0

/-- The frame's check-value job (R361, R362): admitted, or ended at once with status 11. -/
def frameJob (s : State) (f : Nat) (fr : Frame) : State :=
  match admitJob s { user := .frame, core := 8, slot := frameKeySlot s fr, bytes := fr.bytes.length, owner := f } with
  | (some _, s) => s
  | (none, s) =>
    let s := countFailure (jobRefused s 0) fr.cls 11
    frameMod s f (fun x => { x with auth := 1 + 11 * 2 ^ 8 })

/-- Start a frame's state operation and run (R196, R264, R429): it enters its pre-state queue, gets its run, waits for one, or is
dropped. -/
def startRun (s : State) (f : Nat) : State :=
  match frameOf s f with
  | none => s
  | some fr =>
    if clsStateful s fr.gen fr.cls then
      if follower s then dropHead (raise (cnt s Reg.TWIN_FOLLOWER_DROPS 1) 0xF8D 0 fr.cls) f
      else
        match psqEnter s f fr with
        | (true, s) => s
        | (false, s) => dropHead s f
    else statelessStart s f fr

/-- Steps 2 to 6 for a frame that has been put with its bytes, port and stamp; `cls` is given by RECIRCULATE, and `whole` tells
that the last byte is there. -/
def classify (s : State) (f : Nat) (cls : Option Nat) (whole : Bool) : State :=
  match frameOf s f with
  | none => s
  | some fr =>
    let q := quadOf fr.port
    let p := parseFrame (profileOf s q) fr.bytes whole
    let s := countParse s q p
    let gen := billGen s
    let c := cls.getD (selectClass s fr.port fr.bytes p)
    let s := tally s (0x1000 + c) 1
    let vid := frameVid s fr.port fr.bytes p
    let fid := match vlanOf s vid with
      | some x => fld (x.word 0) 11 0
      | none => 0
    let key := flowKey s (clsKeyProfile s gen c) fr.bytes p fid
    let (h1, h2) := keyHash (rdn s Reg.GRIST_SEED) key
    let (guess, s) := fresh s
    let fr := { fr with
      parsed := p, ftype := frameType p, cls := c, gen := gen, vid := vid, fid := fid, key := key, h1 := h1, h2 := h2
      lenGuess := guess % 2 ^ 14 }
    let s := framePut s f fr
    if !vlanAdmits s fr.port vid then discardHead (cnt s Reg.FWD_INGRESS_DROP 1) f
    else if !admits s gen fr.port c then discardHead (raise (cnt s (Reg.MERE_Qq_ADM_DROPS q) 1) (0xE20 + q) 0 c) f
    else
      let fr := { fr with admitted := true, cells := cellsOf fr.bytes.length }
      let s := merePeak (framePut s f fr) q
      let s := if key.wide then cnt s (Reg.GRIST_Qq_UNFOLDED q) 1 else s
      let (on, s) := if p.depth || p.conflict then anomalyPolicy s f fr else (true, s)
      if !on then pump s
      else if hsrOwn s fr then dropHead (cnt s Reg.EGRESS_RCV_DUPLICATES 1) f
      else
        let s := if clsCheck s gen c = 1 then frameJob s f fr else s
        let s := lookFrame s f .wait .wait
        let s := rcvIssue s f
        pump (startRun s f)

/-! ### Tail verdicts (R193, R252, R316) -/

/-- A cut-through copy of the frame has left the ingress. -/
def headLeft (s : State) (f : Nat) : Bool := (copiesOf s f).any (fun c => c.2.ct && c.2.st != 0)

/-- The flow operation and the recovery operations of a frame are discarded (R193, R347). -/
def abortFrame (s : State) (f : Nat) : State :=
  let open_ := match runOf s f with
    | some r => !r.committed
    | none => false
  let s := if open_ then cnt (abortRun s f) Reg.FERM_VERDICT_ABORTS 1 else s
  let s := (rcvRuns s f).foldl (fun s n => abortRun s n) s
  { s with egress := { s.egress with rcvWait := s.egress.rcvWait.filter (· != f) } }

/-- What becomes of the copies of a frame with a bad tail verdict (R316): those in transmission will end with the stomped FCS,
the others are gone. -/
def stompCopies (s : State) (f : Nat) (byAuth : Bool) : State :=
  let left := headLeft s f
  let port := match frameOf s f with
    | some fr => fr.port
    | none => 0
  let quad := quadOf port
  let s := (copiesOf s f).foldl (fun s c =>
    if c.2.begun then copyMod s c.1 (fun x => { x with stomp := true })
    else if c.2.st = 0 then copyGone s c.1
    else if c.2.ct then discardCopy s c.1
    else s) s
  if !left then s
  else
    let s := raise (cnt s (Reg.MERE_Qq_CT_STOMPED quad) 1) 0xE34 0 port
    if byAuth then raise (cnt s Reg.AUTH_CT_STOMPED 1) 0xF01 0 port else s

/-- A bad tail verdict: `status` is that of a failed verification, 0 for any other reason (R26, R193, R252, R365). -/
def verdictBad (s : State) (f status : Nat) : State :=
  match frameOf s f with
  | none => s
  | some fr =>
    let left := headLeft s f
    let traps := status != 0 && !left && clsVfail s fr.gen fr.cls == 1
    let fr := { fr with verdict := some false, rcvWait := false }
    let fr := if traps then { fr with disposed := false, waitAt := none, goes := true, fate := some (some (0x20 + status)) }
      else { fr with fate := some none }
    let s := stompCopies (abortFrame (framePut s f fr) f) f (status != 0)
    if fr.disposed then frameCheck s f else s

/-- A good tail verdict: VERDICT is set, the frame's stream filter is applied where it waits for the tail, NEXT_PN advances, and
the frame is learned from (R126, R251, R342, R366). -/
def verdictGood (s : State) (f : Nat) : State :=
  match frameOf s f with
  | none => s
  | some fr =>
    let fr := { fr with verdict := some true }
    let s := framePut s f fr
    let s := match fr.pnNext with
      | some (sa, pn) => if rdn s (Reg.AUTH_SAs_NEXT_PN sa) < pn then setPn s sa pn else s
      | none => s
    let s := match streamFilter s fr.cls (bitOf fr.lauter 0) (lauterTag fr.lauter) with
      | some h => if fr.looked && !fr.psfpDone && fr.admitted then psfpCheck s f h fr else s
      | none => s
    let set (s : State) (n : Nat) : State := runMod s n (fun r => r.set 8 (nowNs s))
    let s := (rcvRuns (set s f) f).foldl set (set s f)
    let s := if fr.pass = 0 ∧ fr.admitted ∧ !(fr.anomaly && clsAnomaly s fr.gen fr.cls != 0) then learnFrame s fr else s
    let s := tryCommit 4096 s f
    if fr.disposed then frameCheck s f else s

/-- The verification of a frame has ended with a status (R365): the verdict of a frame whose tail has arrived. -/
def verifyEnds (s : State) (f : Nat) (fr : Frame) (status : Nat) : State :=
  let strict := !rb s (Reg.AUTH_CLASSc_CFG fr.cls) 2
  if status = 0 then verdictGood s f
  else if strict then verdictBad s f status
  else verdictGood (if status ≤ 9 then cnt s Reg.AUTH_CHECK_PASSED 1 else s) f

/-- Contradicting lengths found at the tail (R102, R104): the headers from there on are not accepted, and the policy decides a
frame whose head has not left. -/
def conflictAtTail (s : State) (f off : Nat) : State :=
  match frameOf s f with
  | none => s
  | some fr =>
    let q := quadOf fr.port
    let p := { fr.parsed with hdrs := fr.parsed.hdrs.filter (fun h => decide (h.off < off)), conflict := true }
    let s := framePut s f { fr with parsed := p }
    let s := if fr.parsed.conflict then s else raise (cnt s (Reg.GRIST_Qq_LENCONF_CNT q) 1) (0x500 + q) 0 1
    if headLeft s f || fr.fate.isSome then verdictBad s f 0
    else
      let policy := if fr.anomaly then 0 else clsAnomaly s fr.gen fr.cls
      let s := abortFrame (frameMod s f (fun x => { x with verdict := some false, rcvWait := false, anomaly := true })) f
      match policy with
      | 1 => dropHead (dropWaiting (cnt s (Reg.GRIST_Qq_ANOM_DROP q) 1) f) f
      | 0 =>
        let s := if (runOf s f).isSome then s else runPut s f { ended := true, committed := true }
        let s := if fr.disposed then s else lookFrame s f (fwdPolicy s) (lauterPolicy s)
        frameMod s f (fun x => { x with goes := true })
      | _ =>
        let s := frameMod (cnt s (Reg.GRIST_Qq_ANOM_TRAP q) 1) f (fun x => { x with
          disposed := false, waitAt := none, goes := true, looked := true, fate := some (some (anomalyReason p)) })
        dropWaiting s f

/-- PRP trailers name the LAN that they belong to (R349). -/
def countWrongLan (s : State) (fr : Frame) : State :=
  let red := rf s (Reg.EGRESS_PORTp_CFG fr.port) 2 1
  if (red == 1 || red == 2) && prpLen (profileOf s (quadOf fr.port)) fr.bytes == 6 &&
      beAt fr.bytes (fr.bytes.length - 8) 2 / 4096 != (if red = 1 then 0xA else 0xB) then
    cnt s (Reg.EGRESS_PORTp_WRONG_LAN fr.port) 1
  else s

/-- A received Sync or Announce is inspected (R399). -/
def watchFrame (s : State) (fr : Frame) : State :=
  match fr.parsed.find 0 [.ptp] with
  | none => s
  | some h => syncWatch s fr.port (byteAt fr.bytes h.off % 16) (byteAt fr.bytes (h.off + 4)) (beAt fr.bytes (h.off + 53) 8)

/-- The tail of a frame: `ok` tells that the MAC's checks passed. -/
def tailVerdict (s : State) (f : Nat) (fr : Frame) (ok : Bool) : State :=
  if !fr.admitted then frameCheck (framePut s f { fr with verdict := some false }) f
  else
    let s := merePeak (framePut s f { fr with cells := if fr.disposed && fr.cells == 0 then 0 else cellsOf fr.bytes.length })
      (quadOf fr.port)
    if !ok then verdictBad s f 0
    else
      let s := countWrongLan (watchFrame s fr) fr
      match tailConflict (profileOf s (quadOf fr.port)) fr.parsed fr.bytes with
      | some off => conflictAtTail s f off
      | none =>
        let s := if fld (rcvCfg s fr.cls) 1 0 = 3 ∧ !fr.disposed then rcvIssue s f else s
        if clsCheck s fr.gen fr.cls = 1 ∧ !fr.anomaly ∧ fr.fate.isNone then
          if s.auth.jobs.any (fun j => j.2.user == .frame && j.2.owner == f) then s
          else if fr.auth = 1 + 11 * 2 ^ 8 then verifyEnds s f fr 11 else verdictGood s f
        else verdictGood s f

/-! ### Reception -/

/-- The frame in reception on a lane, of the express or of the preemptible MAC. -/
def receiving (s : State) (l : Nat) (pmac : Bool) : Option (Nat × Frame) :=
  s.frames.find? (fun e => e.2.port == l && !e.2.done && e.2.inject.isNone && !e.2.own && e.2.pmac == pmac)

/-- FRAME_HEAD_RECEIVED: the first bytes of a frame, at least up to the parse depth unless the frame is shorter; in PCS loopback
the oldest frame sent is received whole. -/
def frameHead (s : State) (l : Nat) (bytes : List Byte) (whole : Bool) (sub fifo : Nat) (full pmac : Bool) : State :=
  let x := laneOf s l
  let loop := rb s (Reg.PORT_LANEl_CTRL l) 2
  let q := quadOf l
  if !isPort s l || !linkUp s l || !rb s (Reg.PORT_LANEl_CTRL l) 0 || humDown s q || (receiving s l pmac).isSome ||
      (loop && x.loop == []) then s
  else
    let bytes := if loop then x.loop.headD [] else bytes
    let whole := whole || loop
    let s := if loop then lanePut s l { x with loop := x.loop.tail } else s
    let s := peak (touch s q) (Reg.PORT_Qq_IFIFO_PEAK q) 8 0 (min 511 ((fifo + 63) / 64))
    let stamp := time16 s + sub - 256 * rf s (Reg.PORT_LANEl_TS_RX l) 23 0
    let f := s.nextFrame
    let fr : Frame := { port := l, bytes := bytes, stamp := stamp, tick := stamp / 2 ^ 16 / tickNs s, pmac := pmac }
    let noRoom := decide (131072 ≤ descUsed s)
    let s := { s with nextFrame := f + 1 }
    if beAt bytes 12 2 = 0x8808 then discardHead (framePut s f fr) f
    else if full then
      discardHead (framePut (laneEvent s l 4 0) f { fr with lost := true }) f
    else if noRoom then discardHead (framePut (raise (cnt s Reg.MERE_DESC_DROPS 1) 0xE36 0 l) f fr) f
    else classify (framePut s f fr) f none whole

/-- FRAME_TAIL_RECEIVED: the rest of the frame in reception; `merge` is 0 for an express frame, else 1 for a frame that the MAC
merge has reassembled, 2 for an assembly error, 3 for an SMD error. -/
def frameTail (s : State) (l : Nat) (rest : List Byte) (codeError : Bool) (corrected uncorrected merge : Nat) : State :=
  let s := mib (mib s l 19 corrected) l 20 uncorrected
  let s := (List.range uncorrected).foldl (fun s _ => laneEvent s l 8 0) s
  match receiving s l (merge != 0) with
  | none => s
  | some (f, fr) =>
    let loop := rb s (Reg.PORT_LANEl_CTRL l) 2
    let total := if loop then fr.bytes else fr.bytes ++ rest
    let total := total.take (rf s (Reg.PORT_LANEl_MAX_LEN l) 13 0 + 1)
    let s := bwCount s l total.length false
    let fr := { fr with bytes := total, done := true }
    if beAt total 12 2 = 0x8808 then
      let s := if 2 ≤ merge then s else if codeError then (countReceived s l total true).2 else macControl s l total
      pump (frameCheck (framePut s f { fr with verdict := some false }) f)
    else
    let s := match merge with
      | 1 => cnt s (Reg.EGRESS_PORTp_ASSY_OK l) 1
      | 2 => cnt s (Reg.EGRESS_PORTp_ASSY_ERR l) 1
      | 3 => cnt s (Reg.EGRESS_PORTp_SMD_ERR l) 1
      | _ => s
    let (ok, s) :=
      if fr.lost then (false, mib (mib s l 0 total.length) l 10 1)
      else if 2 ≤ merge then (false, s)
      else countReceived s l total codeError
    pump (tailVerdict (framePut s f fr) f fr ok)

/-! ### Recirculation (R263) -/

/-- The oldest recirculation copy that has crossed whole. -/
def recircNext (s : State) : Option (Nat × Copy) :=
  (s.mere.copies.filter (fun c => c.2.port == 65 && c.2.st == 1 &&
    (xingOf s c.2.xing).any (fun x => xingCrossed s x && !x.lost))).foldl (fun b c =>
      match b with
      | none => some c
      | some d => if copyPlace s c.2 < copyPlace s d.2 then some c else b) none

/-- RECIRCULATION_REENTRY: a frame from output 17 re-enters at step 2 with the next pass number and the class given. -/
def recirculate (s : State) : State :=
  match recircNext s with
  | none => s
  | some (n, c) =>
    match frameOf s c.frame with
    | none => copyGone s n
    | some old =>
      let f := s.nextFrame
      let fr : Frame := { port := old.port, bytes := old.bytes, done := true, stamp := old.stamp, tick := old.tick
                          pass := old.pass + 1, passValue := old.passValue }
      let s := framePut { s with nextFrame := f + 1 } f fr
      let s := classify s f (some old.dest) true
      let s := copyGone s n
      match frameOf s f with
      | some fr => pump (tailVerdict s f fr true)
      | none => s

/-! ### The end of a check-value job (R359, R362, R364, R365) -/

/-- A frame job ends: its AUTH word and flag, and with the tail there, the verdict. -/
def frameJobEnd (s : State) (f : Nat) : State :=
  match frameOf s f with
  | none => s
  | some fr =>
    let cfg := Reg.AUTH_CLASSc_CFG fr.cls
    let (status, pn) : Nat × Option (Nat × Nat) :=
      if fr.verdict.isSome then (10, none)
      else match rf s cfg 1 0 with
        | 0 => verifyMacsec s fr
        | 1 => (verifyPdu s fr false (rf s cfg 17 16) (rf s cfg 15 4), none)
        | 2 => (verifyPdu s fr true (rf s cfg 17 16) (rf s cfg 15 4), none)
        | _ => (7, none)
    let s := if status = 0 then cnt s Reg.AUTH_VERIFY_OK 1 else countFailure s fr.cls status
    let fr := { fr with auth := 1 + 2 * b2n (status == 0) + 2 ^ 8 * status, pnNext := pn }
    let s := runMod (framePut s f fr) f (fun r => r.set 16 (nowNs s))
    if fr.verdict.isSome then s else verifyEnds s f fr status

/-- A graph job ends: its AUTH word and flag, and the value that APPEND_ICV takes (R370). -/
def graphJobEnd (s : State) (j : Job) : State :=
  let fr := (frameOf s j.owner).getD {}
  let (status, icv, span) :=
    if fr.verdict = some false then (10, [], (0, 0)) else nodeJob s fr j.fn j.slot j.b
  let s := if status ≠ 0 ∧ (j.fn = 0 ∨ j.fn = 3) then countFailure s fr.cls status else s
  let s := if j.fn = 1 ∨ j.fn = 2 then frameMod s j.owner (fun x => { x with icv := icv, span := span }) else s
  runMod s j.owner (fun r => { r with auth := 1 + 2 * b2n (status == 0) + 2 ^ 8 * status }.set 16 (nowNs s))

/-- AUTH_JOB_COMPLETE: the job that a core ends next; its key may fail its parity (R373). -/
def jobEnds (s : State) (core : Nat) (bad : Bool) : State :=
  match nextJob s core with
  | none => s
  | some (n, j) =>
    let s := if bad then keyParity s j.slot else s
    let s := endJob (touch s (38 + core / 4)) n j j.bytes
    match j.user with
    | .frame => frameJobEnd s j.owner
    | .graph => graphJobEnd s j
    | .host => match j.host with
      | some h => hostJobEnd s h
      | none => s

/-! ### The commands -/

/-- FRAME_HEAD_RECEIVED (R12). -/
def execFrameHeadReceived (lane : Fin 64) (bytes : List Byte) (whole : Bool) (sub : BitVec 16) (fifo : Nat) (full pmac : Bool)
    (s : State) : Host.Outcome State Fault Refusal :=
  .next (frameHead s lane.val bytes whole sub.toNat fifo full pmac)

/-- FRAME_TAIL_RECEIVED (R193). -/
def execFrameTailReceived (lane : Fin 64) (rest : List Byte) (codeError : Bool) (corrected uncorrected : Nat) (merge : Fin 4)
    (s : State) : Host.Outcome State Fault Refusal :=
  .next (frameTail s lane.val rest codeError corrected uncorrected merge.val)

/-- RECIRCULATION_REENTRY (R263). -/
def execRecirculationReentry (s : State) : Host.Outcome State Fault Refusal := .next (recirculate s)

/-- AUTH_JOB_COMPLETE (R362). -/
def execAuthJobComplete (core : Fin 8) (bad : Bool) (s : State) : Host.Outcome State Fault Refusal :=
  .next (pump (jobEnds s core.val bad))

end Sys2Proof.Machine
end

