-- ==== Sys2Proof/Machine/Windows.lean ====
section
/-! DEFINITION. The BAR2 window (R120, R136, R137, R148, R157, R201, R202, R508, R509): reads, writes and compare-and-swaps of slots,
lock timeouts and hold limits, and the end of table commands. -/
namespace Sys2Proof.Machine

/-- What a BAR2 offset names (R120): a table slot (t = 8 for the Lauter array), a cask slot, or nothing. -/
inductive Slot2 where
  | table (t i : Nat)
  | cask
  | nothing
deriving Repr

/-- The regions of tables 0 to 8: table, first and last offset. -/
def regions2 : List (Nat × Nat × Nat) :=
  [(0, 0x00000000, 0x01FFFFFF), (1, 0x02000000, 0x02FFFFFF), (2, 0x03000000, 0x037FFFFF), (3, 0x03800000, 0x03BFFFFF),
   (4, 0x03C00000, 0x03FFFFFF), (5, 0x04000000, 0x0403FFFF), (6, 0x04400000, 0x047FFFFF), (7, 0x04800000, 0x048FFFFF),
   (8, 0x05000000, 0x053FFFFF)]

/-- The slot at a BAR2 offset. -/
def slot2 (a : Nat) : Slot2 :=
  if 0x80000000 ≤ a then .cask
  else
    match regions2.find? (fun r => decide (r.2.1 ≤ a ∧ a ≤ r.2.2)) with
    | some (t, b, _) => .table t ((a - b) / 64)
    | none => .nothing

/-- The slot whose lock governs slot i of table t (R148). -/
def govSlot (s : State) (t i : Nat) : Nat := if t = 8 ∧ bankWide s (bankOf i) then i / 2 * 2 else i

/-- Words of a slot as a host read returns them (R137). -/
def winRead (s : State) (t i : Nat) : List W64 :=
  let x := slotOf s t i
  let g := govSlot s t i
  match (slotOf s t g).lock with
  | some l => slotRead { x with lock := some { l with staged := l.staged.drop (8 * (i - g)) } }
  | none => slotRead x

/-- Eight words of the published copy. -/
def eight (x : Slot) : List W64 := (List.range 8).map x.word

/-- Take the lock of a slot: the staged copy is the published one. -/
def winTake (s : State) (t i : Nat) : State :=
  let x := slotOf s t i
  let staged := eight x ++ (if t = 8 ∧ bankWide s (bankOf i) then eight (slotOf s 8 (i + 1)) else [])
  slotPut s t i { x with lock := some { staged := staged, since := nowNs s } }

/-- Publish the staged copy of a slot, or discard it when a check fails (R136, R157). -/
def winPublish (s : State) (t i : Nat) (l : SlotLock) : State :=
  let s := slotPut s t i { slotOf s t i with lock := none }
  let even := l.staged.take 8
  let odd := l.staged.drop 8
  let right (ws : List W64) : Bool := fld (ws.getD 7 0) 31 0 == checkOf ws
  if t = 8 then
    if !right even || (odd != [] && !right odd) then lauterDiscard s i 0
    else if badLauter s i even then lauterDiscard s i 1
    else lauterPublish s i even odd
  else
    let bad (why : Nat) : State := raise (cnt s Reg.FWD_CHECK_FAILS 1) 0x517 (pack2 t i) why
    if !right even then bad 0
    else match badEntry t i even with
      | some why => bad why
      | none => publish s t i even

/-- A clearing write or CAS of a slot: published at once, or once the delta store has room (R418). -/
def winClear (s : State) (t i : Nat) : State :=
  match (slotOf s t i).lock with
  | none => s
  | some l =>
    if storeFull s then storeStall (slotPut s t i { slotOf s t i with lock := some { l with clearing := true } })
    else winPublish s t i l

/-- A write or CAS of an unlocked slot is dropped (R136, R157). -/
def winUnlocked (s : State) (t addr : Nat) : State :=
  accReport (cnt s (if t = 8 then Reg.LAUTER_UNLOCKED_WR else Reg.FWD_UNLOCKED_WR) 1) 4 1 true addr

/-- An access to slot i of table t: a slot of the Lauter array lies in hummock 36 or 37 (R489, R496). -/
def winReach (s : State) (t i : Nat) : Reach × State := if t = 8 then reach s (36 + bankOf i / 8) else (.serve, s)

/-- A write of bytes into a slot of tables 0 to 8, in a powered hummock. -/
def winWrite (s : State) (t i off : Nat) (data : List Byte) (addr : Nat) : State :=
  let g := govSlot s t i
  match (slotOf s t g).lock with
  | none => winUnlocked s t addr
  | some l =>
    let at_ := 64 * (i - g) + off
    let s := slotPut s t g { slotOf s t g with lock := some { l with staged := stageBytes l.staged at_ data, written := true } }
    if clearsLock at_ data then winClear s t g else s

/-- A BAR2 write (R136, R508): dword-aligned, within one slot. -/
def bar2Write (s : State) (addr : Nat) (data : List Byte) : State :=
  let n := data.length
  if n = 0 ∨ 64 < n ∨ n % 4 ≠ 0 ∨ addr % 4 ≠ 0 then accReport s 8 1 true addr
  else if 64 < addr % 64 + n then accReport s 9 1 true addr
  else
    match slot2 addr with
    | .nothing => accReport s 2 1 true addr
    | .cask => hostOperation s (caskLine s addr) [] { kind := 2, addr := addr - 0x80000000, len := n, data := data }
    | .table t i =>
      let h := 36 + bankOf i / 8
      match winReach s t i with
      | (.serve, s) => if follower s then accReport s 11 1 true addr else winWrite s t i (addr % 64) data addr
      | (.hold, s) => holdAccess s h { bar := 1, addr := addr, len := n, data := some data }
      | (.refuse, s) => asleepAccess s h 1 true addr

/-- A compare-and-swap of word 0 of a slot of tables 0 to 8 (R136, R162). -/
def winCas (s : State) (t i : Nat) (compare swap : W64) (addr : Nat) : State :=
  let g := govSlot s t i
  let word0 := (winRead s t i).getD 0 0
  let back (s : State) : State := emit s (.readData (toLE 8 word0.toNat))
  if follower s then back (accReport s 11 1 true addr)
  else
    match (slotOf s t g).lock with
    | none =>
      match casStep false word0 compare swap with
      | .take => if i = g ∧ !(slotOf s t i).inMotion then back (winTake s t i) else back s
      | .unlocked => back (winUnlocked s t addr)
      | _ => back s
    | some l =>
      let staged (s : State) : State :=
        slotPut s t g { slotOf s t g with lock := some { l with staged := l.staged.set (8 * (i - g)) swap, written := true } }
      match casStep true word0 compare swap with
      | .stage => back (staged s)
      | .clear => back (if i = g then winClear (staged s) t g else staged s)
      | _ => back s

/-- A compare-and-swap whose address is word 0 of a BAR2 slot; any other is unsupported (R509). -/
def bar2Cas (s : State) (addr : Nat) (compare swap : W64) : State :=
  let no : State := emit (accReport s 10 1 true addr) .unsupported
  if addr % 64 ≠ 0 then no
  else
    match slot2 addr with
    | .nothing => no
    | .cask => hostOperation s (caskLine s addr) [] { kind := 1, addr := addr - 0x80000000, compare := compare, swap := swap }
    | .table t i =>
      let h := 36 + bankOf i / 8
      match winReach s t i with
      | (.serve, s) => winCas s t i compare swap addr
      | (.hold, s) => holdAccess s h { bar := 1, addr := addr, len := 8, data := none, cas := some (compare, swap) }
      | (.refuse, s) => emit (asleepAccess s h 1 true addr) (.readData (toLE 8 0))

/-- A read within one slot: its bytes, or none when it has to wait for hummock h. -/
def slotBytes (s : State) (addr n : Nat) : Except Nat (List Byte) × State :=
  match slot2 addr with
  | .table t i =>
    let h := 36 + bankOf i / 8
    match winReach s t i with
    | (.serve, s) => (.ok (slice (bytesOf (winRead s t i)) (addr % 64) n), s)
    | (.hold, s) => (.error h, s)
    | (.refuse, s) => (.ok (List.replicate n 0#8), asleepAccess s h 1 false addr)
  | _ => (.ok (List.replicate n 0#8), if n = 0 then s else accReport s 2 1 false addr)

/-- A BAR2 read (R137, R201, R508): slot by slot; a read of casks runs as ledger operations. -/
def bar2Read (s : State) (addr n : Nat) : State :=
  if n = 0 ∨ 64 < n ∨ n % 4 ≠ 0 ∨ addr % 4 ≠ 0 then emit (accReport s 8 1 false addr) (.readData (List.replicate n 0#8))
  else
    let first := min n (64 - addr % 64)
    let wait (s : State) (h : Nat) : State := holdAccess s h { bar := 1, addr := addr, len := n, data := none }
    if 0x80000000 ≤ addr then
      let op (s : State) (a len : Nat) : State :=
        if len = 0 then s
        else hostOperation s (caskLine s a) [] { kind := 0, addr := a % 64, len := len }
      op (op s addr first) (addr + first) (n - first)
    else
      match slotBytes s addr first with
      | (.error h, s) => wait s h
      | (.ok bs, s) =>
        if n = first then emit s (.readData bs)
        else
          match slotBytes s (addr + first) (n - first) with
          | (.error h, s) => wait s h
          | (.ok cs, s) => emit s (.readData (bs ++ cs))

/-! ### Timeouts and hold limits (R136, R138, R158, R202) -/

/-- Report lock timeouts of lookups on tables 0 to 7, or on the Lauter array. -/
def lockTimedOut (s : State) (t i : Nat) : State :=
  if t = 8 then raise (cnt s Reg.LAUTER_LOCK_TIMEOUTS 1) 0x601 i (rf s Reg.LAUTER_CFG 1 1)
  else raise (cnt s Reg.FWD_LOCK_TIMEOUTS 1) 0x516 (pack2 t i) (rf s Reg.FWD_CFG 2 2)

/-- Lookups that have waited for the timeout of their array go on under its LOCK_POLICY. -/
def lookTimeouts (s : State) (lauter : Bool) : State :=
  let limit := 4 * rf s (if lauter then Reg.LAUTER_LOCK_TIMEOUT else Reg.FWD_LOCK_TIMEOUT) 17 0
  let mine (t : Nat) : Bool := (t == 8) == lauter
  let due := s.frames.filter (fun e => match e.2.waitAt with
    | some (since, t, _) => mine t && elapsed s since limit
    | none => false)
  let s := due.foldl (fun s e =>
    match e.2.waitAt with
    | none => s
    | some (_, t, i) =>
      let s := lockTimedOut s t i
      if e.2.looked then settle s (fwdPolicy s) e.1
      else if lauter then lookFrame s e.1 .wait (lauterPolicy s)
      else lookFrame s e.1 (fwdPolicy s) .wait) s
  let sel (l : Nat × Nat × Nat) : Bool := mine (l.2.2 / 2 ^ 20) && elapsed s l.2.1 limit
  let nodes := s.ferm.runs.flatMap (fun e => e.2.tasks.flatMap (fun t => t.looking.filter sel))
  let s := nodes.foldl (fun s l => lockTimedOut s (l.2.2 / 2 ^ 20) (l.2.2 % 2 ^ 20)) s
  relookNodes s sel true

/-- Report locks held past their limit, once each. -/
def holdLimits (s : State) : State :=
  let due (l : SlotLock) (limit : Nat) : Bool := !l.told && elapsed s l.since (limit * 1000)
  let us (l : SlotLock) : Nat := (nowNs s - l.since) / 1000
  let s' := s.fwd.slots.foldl (fun s' e =>
    let t := e.1 / 2 ^ 20
    let i := e.1 % 2 ^ 20
    match e.2.lock with
    | some l =>
      let limit := rf s (if t = 8 then Reg.LAUTER_LOCK_HOLD_LIMIT else Reg.FWD_LOCK_HOLD_LIMIT) 19 0
      if due l limit then
        let s' := slotPut s' t i { e.2 with lock := some { l with told := true } }
        if t = 8 then raise s' 0x603 i (us l) else raise s' 0x519 (pack2 t i) (us l)
      else s'
    | none => s') s
  s.cask.locks.foldl (fun s' e =>
    if due e.2 (rf s Reg.CASK_LOCK_HOLD_LIMIT 19 0) then
      raise { s' with cask := { s'.cask with locks := tabSet s'.cask.locks e.1 { e.2 with told := true } } } 0x703 e.1 (us e.2)
    else s') s'

/-! ### Table commands (R143) -/

/-- FWD_TBL_CMD_COMPLETE: the command of table t runs and ends; a change waits for room in the delta store (R418). -/
def tblDone (s : State) (t : Nat) : State :=
  match tabFind s.fwd.cmds t with
  | none => s
  | some c =>
    if storeFull s && (c.op == 2 || c.op == 3 || c.op == 4) then storeStall s
    else
      let (r, s) := tblRun { s with fwd := { s.fwd with cmds := tabDel s.fwd.cmds t } } t c
      wf (wf s (Reg.FWD_TBLt_STATUS t) 0 0 0) (Reg.FWD_TBLt_STATUS t) 7 4 r

/-! ### The commands -/

/-- WINDOW_WRITE (R136). -/
def execWindowWrite (addr : BitVec 32) (data : List Byte) (s : State) : Host.Outcome State Fault Refusal :=
  .next (pump (bar2Write s addr.toNat data))

/-- WINDOW_CAS (R136). -/
def execWindowCas (addr : BitVec 32) (compare swap : BitVec 64) (s : State) : Host.Outcome State Fault Refusal :=
  .next (pump (bar2Cas s addr.toNat compare swap))

/-- CASK_WINDOW_LOCK (R202): a CAS of word 0 of a cask slot, by its place in the aperture. -/
def execCaskWindowLock (slot : Fin 33554432) (compare swap : BitVec 64) (s : State) : Host.Outcome State Fault Refusal :=
  .next (pump (bar2Cas s (0x80000000 + 64 * slot.val) compare swap))

/-- CASK_WINDOW_READ (R201). -/
def execCaskWindowRead (slot : Fin 33554432) (off len : Nat) (s : State) : Host.Outcome State Fault Refusal :=
  .next (pump (bar2Read s (0x80000000 + 64 * slot.val + off % 64) len))

/-- LOCK_HOLD_LIMIT_EXPIRY (R136, R158, R202): every lock whose limit has passed. -/
def execLockHoldLimitExpiry (s : State) : Host.Outcome State Fault Refusal := .next (holdLimits s)

/-- FWD_LOCK_TIMEOUT (R138): every lookup whose time has passed. -/
def execFwdLockTimeout (s : State) : Host.Outcome State Fault Refusal := .next (pump (lookTimeouts s false))

/-- LAUTER_LOCK_TIMEOUT (R158): every lookup whose time has passed. -/
def execLauterLockTimeout (s : State) : Host.Outcome State Fault Refusal := .next (pump (lookTimeouts s true))

/-- FWD_TBL_CMD_COMPLETE (R143). -/
def execFwdTblCmdComplete (t : Fin 8) (s : State) : Host.Outcome State Fault Refusal := .next (pump (tblDone s t.val))

end Sys2Proof.Machine
end

