-- ==== Sys2Proof/Machine/TwinFollow.lean ====
section
/-! DEFINITION. The follower of a twin (R421, R422, R424): deltas staged in sequence order, seals checked, images applied and
drained; the frames that lead it through a join (R428) and the amendments it is sent (R48). -/
namespace Sys2Proof.Machine

/-- FOL_COPY or FOL_SYNC, and no promotion has stopped it taking frames (R432). -/
def taking (s : State) : Bool := (twinState s == 6 || twinState s == 7) && s.twin.fenceSince.isNone

/-- The set bits of a word map. -/
def mapBits (m : Nat) : List Nat := (List.range 7).filter (fun i => m.testBit i)

/-- The deltas of a DELTA body (R415), numbered from `seq`. -/
def parseDeltas : Nat → List Byte → Nat → Nat → List Delta
  | 0, _, _, _ => []
  | fuel + 1, bs, batch, seq =>
    let h := beAt bs 0 8
    let ws := mapBits (natFld h 59 53)
    let n := 8 + 8 * ws.length
    if bs.length < n then []
    else
      let words := (ws.zip (List.range 7)).map (fun x => (x.1, BitVec.ofNat 64 (beAt bs (8 + 8 * x.2) 8)))
      let d : Delta := { space := natFld h 63 60, addr := natFld h 35 0, words := words, batch := batch, seq := seq }
      d :: parseDeltas fuel (bs.drop n) batch (seq + 1)

/-- The 32 deltas of a COPY body (R411, R420), numbered from `seq`. -/
def parseCopy (bs : List Byte) (batch seq : Nat) : List Delta :=
  (List.range 32).map (fun k =>
    { space := 0, addr := beAt bs 0 4 + k
      words := (List.range 7).map (fun i => (i, BitVec.ofNat 64 (beAt bs (8 + 56 * k + 8 * i) 8)))
      batch := batch, seq := seq + k, copy := true, poison := (beAt bs 4 4).testBit k })

/-- A delta merged into the images of its batch (R421): a COPY line replaces its image whole; SPACE 2 and 3 keep their order. -/
def mergeImage (imgs : List Delta) (d : Delta) : List Delta :=
  let at_ (e : Delta) : Bool := e.space == d.space && e.addr == d.addr
  if d.space = 2 ∨ d.space = 3 ∨ !imgs.any at_ then imgs ++ [d]
  else imgs.map (fun e => if at_ e then (if d.copy then d else { e with words := mergeWords e.words d.words, poison := false }) else e)

/-- One delta in sequence (R421). `noWay` lists the sequence numbers of deltas that find no free way, each with its set. -/
def mergeDelta (noWay : List (Nat × Nat)) (x : State × StagedBatch) (d : Delta) : State × StagedBatch :=
  let (s, b) := x
  let b := { b with merged := b.merged + 1, digest := b.digest ++ d.bytes }
  let s := cntWrap s Reg.TWIN_DELTAS_RX 1
  let s := if d.copy then { s with twin := { s.twin with copyLines := s.twin.copyLines + 1 } } else s
  match noWay.find? (fun e => e.1 == d.seq) with
  | some (_, set) =>
    (raise (cnt s Reg.TWIN_STAGE_OVF 1) 0xF88 d.batch set, { b with mark := if b.mark = 0 then 4 else b.mark })
  | none => (s, { b with images := mergeImage b.images d })

/-- Deltas of the reorder buffer that have become next in sequence. -/
def mergeWaiting (noWay : List (Nat × Nat)) : Nat → State × StagedBatch → State × StagedBatch
  | 0, x => x
  | fuel + 1, (s, b) =>
    match b.reorder with
    | d :: rest =>
      if d.seq = b.merged then mergeWaiting noWay fuel (mergeDelta noWay (s, { b with reorder := rest }) d) else (s, b)
    | [] => (s, b)

/-- Insert a delta into the reorder buffer, in sequence order. -/
def reorderInsert (d : Delta) : List Delta → List Delta
  | [] => [d]
  | e :: t => if d.seq < e.seq then d :: e :: t else if d.seq = e.seq then e :: t else e :: reorderInsert d t

/-- A delta arrives (R421). -/
def stageDelta (noWay : List (Nat × Nat)) (x : State × StagedBatch) (d : Delta) : State × StagedBatch :=
  let (s, b) := x
  if d.seq < b.merged then (s, b)
  else if d.seq = b.merged then mergeWaiting noWay (b.reorder.length + 1) (mergeDelta noWay (s, b) d)
  else if b.reorder.length < 8192 then (s, { b with reorder := reorderInsert d b.reorder })
  else (s, { b with mark := if b.mark = 0 then 1 else b.mark })

/-- Deltas of the batch are missing: they are known to exist and have not been merged. -/
def StagedBatch.gap (b : StagedBatch) : Bool := b.reorder != [] || b.sealMsg.any (fun x => decide (b.merged < x.count))

/-- A staged batch put back, with the age of its gap. `was` is its merged count before. -/
def stagedPut (s : State) (n : Nat) (b : StagedBatch) (was : Nat) : State :=
  let gapAt := if !b.gap then none else if b.merged = was ∧ b.gapAt.isSome then b.gapAt else some (nowNs s)
  { s with twin := { s.twin with staged := tabSet s.twin.staged n { b with gapAt := gapAt } } }

/-- The batch is one that this follower has yet to acknowledge. -/
def stagesBatch (s : State) (n : Nat) : Bool :=
  taking s && s.twin.joinBatch.any (fun j => decide (j ≤ n)) && s.twin.lastSealed.all (fun k => decide (k < n))

/-- A DELTA or COPY frame (R421, R437). -/
def stageFrame (s : State) (lane : Nat) (frame : List Byte) (type : Nat) (noWay : List (Nat × Nat)) : State :=
  match twinReceive s lane frame type 0 with
  | (none, s) => s
  | (some rx, s) =>
    if rx.role ≠ 0 || !stagesBatch s rx.batch then s
    else
      let ds := if type = 5 then parseCopy rx.body rx.batch rx.seq else parseDeltas rx.body.length rx.body rx.batch rx.seq
      let b := tabGet s.twin.staged rx.batch {}
      let (s, b') := ds.foldl (stageDelta noWay) (s, b)
      stagedPut s rx.batch b' b.merged

/-- A SEAL arrives (R422); it also counts as a heartbeat (R426). -/
def sealArrives (s : State) (lane : Nat) (frame : List Byte) : State :=
  match twinReceive s lane frame 2 0 with
  | (none, s) => s
  | (some rx, s) =>
    let s := twinHeard s rx
    if rx.role ≠ 0 || !stagesBatch s rx.batch then s
    else
      let f (off len : Nat) : Nat := beAt rx.body off len
      let m : Seal :=
        { batch := rx.batch, prev := f 0 6, count := f 8 4, digest := f 16 8, genNext := f 24 2, hashNext := f 32 8
          closeTick := f 40 8, closedAt := nowNs s }
      let b := tabGet s.twin.staged rx.batch {}
      stagedPut s rx.batch { b with sealMsg := some m } b.merged

/-- A gap has stayed open for TWIN_GAP_TIMEOUT (R421). -/
def gapTimeouts (s : State) : State :=
  let late (b : StagedBatch) : Bool := b.gapAt.any (fun t => elapsed s t (rf s Reg.TWIN_GAP_TIMEOUT 15 0))
  { s with twin := { s.twin with
    staged := s.twin.staged.map (fun e => if late e.2 && e.2.mark == 0 then (e.1, { e.2 with mark := 1 }) else e) } }

/-! ### Applying sealed images (R416, R424) -/

/-- The seven words of a line or slot with an image merged over them. -/
def overWords (ws : List W64) (d : Delta) : List W64 :=
  (List.range 7).map (fun i => tabGet d.words i (ws.getD i 0))

/-- The spill map covers a record that a delta places in a spill row, as the insertion on the lead did (R177). -/
def spillMirror (s : State) (line : Nat) : State :=
  let ws := recordAt s line
  match regionOfLine s line with
  | some g =>
    let (h1, _) := keyHashes s (wideRec ws) (recKey ws)
    let row := regionBase s g + recRow (regionRows s g) h1
    let b := spillBit s row
    if !recValid ws || row == line / 32 || s.cask.spill.contains b then s
    else { s with cask := { s.cask with spill := s.cask.spill ++ [b], spillSeen := s.cask.spillSeen ++ [b] } }
  | none => s

/-- A deliberately uncorrectable code on a line (R437): three symbols are wrong, which and how the spec leaves open. -/
def poisonLine (s : State) (line : Nat) (ws : List W64) : State :=
  let (v, s) := fresh s
  let bad := (List.range 3).map (fun k => ((v + k) % 56, 1 + v / 56 / 255 ^ k % 255))
  { s with cask := { s.cask with lines := tabSet s.cask.lines line { words := packLine ws, bad := bad } } }

/-- SPACE 0: the stored line, and its way when the record is resident. -/
def applyLine (s : State) (d : Delta) : State :=
  let line := d.addr
  let ws := overWords (deepLine s line).1 d
  let s := if d.poison then poisonLine s line ws
    else if (queuedWrite s line).isSome then deepWrite s line ws
    else lineStore s line ws
  let g := govLine s line
  let s := { s with cask := { s.cask with batches := tabPut s.cask.batches line d.batch 0 } }
  let s := match wayOfLine s g with
    | none => s
    | some _ =>
      let s := wayMod s g (fun w => { w with words := overwriteWords w.words (7 * (line - g)) ws, dirty := false })
      if d.poison || !recValid (recordAt s g) then wayDrop s g else s
  spillMirror s g
where
  /-- Words with a part overwritten. -/
  overwriteWords (old : List W64) (off : Nat) (new : List W64) : List W64 := old.take off ++ new ++ old.drop (off + 7)

/-- SPACE 1: a slot of tables 0 to 7; a route enters the set of R133 as a publish does. -/
def applySlot (s : State) (d : Delta) : State :=
  let t := d.addr / 2 ^ 32
  let i := d.addr % 2 ^ 20
  if tblSize t ≤ i ∨ 7 < t then s
  else
    let ws := storeWords (overWords (slotOf s t i).words d)
    let s := slotPut s t i { slotOf s t i with words := ws, suspect := false }
    if t = 1 ∨ t = 2 then { s with fwd := { s.fwd with lpmPending := s.fwd.lpmPending ++ [(slotKey t i, ws)] } } else s

/-- SPACE 3: the block move of R160 from p to f − 1, the highest entry first. -/
def applyMove (s : State) (p f : Nat) : State :=
  let step := if bankWide s (bankOf p) then 2 else 1
  let put (s : State) (i : Nat) (x : Slot) : State := slotPut s 8 i x
  let n := (f - p) / step
  (List.range n).foldl (fun s k =>
    let j := f - k * step
    let s := put s j (slotOf s 8 (j - step))
    if step = 2 then put s (j + 1) (slotOf s 8 (j - 1)) else s) s

/-- A sealed image takes its place (R416); a reserved SPACE names nothing. -/
def applyImage (s : State) (d : Delta) : State :=
  let w0 := (tabGet d.words 0 0#64).toNat
  match d.space with
  | 0 => applyLine s d
  | 1 => applySlot s d
  | 2 =>
    let i := d.addr % 65536
    slotPut s 8 i { slotOf s 8 i with words := storeWords (overWords (slotOf s 8 i).words d), suspect := false }
  | 3 => applyMove s (d.addr % 65536) (w0 % 65536)
  | 4 => wrn s (Reg.AUTH_SAs_NEXT_PN (d.addr % 2048)) w0
  | 5 => wrn s Reg.FEN_TX_SEQ (w0 % 2 ^ 32)
  | _ => s

/-- The oldest image whose rank is not in a catch-up is drained (R424, R547): a line is written to the Deep Store, and a pinned
record is kept resident (R183). -/
def drainImage (s : State) : State :=
  let stalled (d : Delta) : Bool := d.space == 0 &&
    (let a := deepAddr s d.addr
     (drank s a.ch a.rank).catchup.isSome)
  match s.twin.sealed.find? (fun d => !stalled d) with
  | none => s
  | some d =>
    let s := { s with twin := { s.twin with sealed := s.twin.sealed.erase d } }
    if d.space ≠ 0 then s
    else
      let (ws, bad) := deepLine s d.addr
      let s := if bad then s else deepWrite s d.addr ws
      let g := govLine s d.addr
      let r := recordAt s g
      if recValid r && recPinned r && (wayOfLine s g).isNone && !recordBad s g then
        let (h1, h2) := keyHashes s (wideRec r) (recKey r)
        let set := cellarSet h1 h2
        let was := fixedWays s set
        let (ok, s) := allocate s set g r false
        if ok then setOver s set was
        else { s with cask := { s.cask with pinWait := if s.cask.pinWait.contains g then s.cask.pinWait else s.cask.pinWait ++ [g] } }
      else s

/-! ### The check of a batch (R422) -/

/-- Generation and hash of the follower's own after a batch whose seal names a generation (R48). -/
def ownNext (s : State) (genNext : Nat) : Bool × Nat × List Byte :=
  let next := (billGen s + 1) % 2 ^ 16
  match s.bill.image with
  | some x =>
    if billState s = 4 ∧ x.mirrored ∧ genNext = next then (true, next, sha256 (s.bill.hash ++ slice x.bytes 0x20 32))
    else (false, billGen s, s.bill.hash)
  | none => (false, billGen s, s.bill.hash)

/-- The STATUS of R422 for a batch with its seal. -/
def sealStatus (s : State) (b : StagedBatch) (m : Seal) : Nat :=
  let (_, gen, hash) := ownNext s m.genNext
  if b.mark = 1 ∨ b.merged < m.count then 1
  else if crc64 b.digest ≠ m.digest then 2
  else if m.genNext ≠ gen ∨ m.hashNext ≠ beNat ((hash ++ List.replicate 8 0#8).take 8) then 3
  else if b.mark = 4 then 4
  else if s.twin.lastSealed.any (fun k => k != m.prev) then 5
  else 0

/-- The batch named by COPY_DONE is sealed: FOL_COPY becomes FOL_SYNC (R428). -/
def copyAcked (s : State) : State :=
  match s.twin.copyDone, s.twin.lastSealed with
  | some c, some k =>
    if twinState s = 6 ∧ c ≤ k then
      raise { twinEnter s 7 with twin := { s.twin with copyDone := none } } 0xF89 k s.twin.copyLines
    else s
  | _, _ => s

/-- The oldest batch whose seal is here and which is complete or marked is checked, and its SEAL_ACK is queued. -/
def checkSeal (s : State) : State :=
  let ready (b : StagedBatch) : Bool := b.sealMsg.any (fun m => decide (m.count ≤ b.merged) || b.mark != 0)
  if !taking s then s
  else
    match s.twin.staged.find? (fun e => ready e.2) with
    | some (n, { sealMsg := some m, merged, digest, images, reorder, mark, gapAt }) =>
      let b : StagedBatch := { sealMsg := some m, merged, digest, images, reorder, mark, gapAt }
      let st := sealStatus s b m
      let amend := (ownNext s m.genNext).1
      let s := { s with twin := { s.twin with staged := tabDel s.twin.staged n } }
      let s := if st ≠ 0 then s
        else
          let s := images.foldl applyImage s
          let s := { s with twin := { s.twin with sealed := s.twin.sealed ++ images, lastSealed := some n } }
          if amend then applyAmendment s else s
      let ack := twinFrame s 3 n 0 (toBE 1 st ++ toBE 3 0 ++ toBE 4 merged ++ hash8 s)
      copyAcked (twinQueue s ack)
    | _ => s

/-! ### Control frames that a follower takes (R411, R428) -/

/-- Unsealed images are discarded. -/
def dropStaged (s : State) : State := { s with twin := { s.twin with staged := [], amendIn := [], amendLen := 0 } }

/-- JOIN_START opens the copy (R428). -/
def joinStarts (s : State) (batch : Nat) : State :=
  if twinState s ≠ 5 then s
  else
    let s := twinEnter (dropStaged s) 6
    { s with twin := { s.twin with
      sealed := [], lastSealed := none, joinBatch := some batch, copyDone := none, copyLines := 0, heardAt := nowNs s } }

/-- A control frame of a CTYPE, handed on when it is valid. -/
def twinControlRx (s : State) (lane : Nat) (frame : List Byte) (ctype : Nat) (k : State → TwinRx → State) : State :=
  match twinReceive s lane frame 6 ctype with
  | (some rx, s) => k s rx
  | (none, s) => s

/-- The bytes collected of an amendment image, when it is complete. -/
def amendWhole (s : State) : Option (List Byte) :=
  let bs := s.twin.amendIn.foldl (fun b e => if e.1 = b.length then b ++ e.2 else b) []
  if s.twin.amendLen ≠ 0 ∧ s.twin.amendLen ≤ bs.length then some (bs.take s.twin.amendLen) else none

/-- A follower answers an amendment with a code of R52. -/
def amendAnswer (s : State) (code : Nat) : State := twinQueue s (twinControl s 7 (toBE 1 code))

/-- A follower validates a whole amendment image against its own effective bill hash (R48); the batch from which it will apply is
the lead's to name. -/
def amendValidate (s : State) (img : List Byte) : State :=
  let refuse (s : State) (r : Refuse) : State := amendAnswer (billRefuse s r true) r.1
  let st := billState s
  if st ≠ 3 then refuse s (if st = 0 then 0x0C else 0x0F, 0, 0)
  else
    match checkImage s img true img.length with
    | .error r => refuse s r
    | .ok (secs, _) =>
      let img := img.take (leAt img 8 4)
      match amendBad s img secs with
      | some r => refuse s r
      | none =>
        let (zero, s) := acceptedKey s img secs true
        let x : Image := { bytes := img, amend := true, zeroKey := zero, mirrored := true }
        let s := billTo { s with bill := { s.bill with image := some x } } 4
        let (v, s) := fresh s
        amendAnswer (raise s 0x012 (v % 2 ^ 48) (hashWord (slice img 0x20 32))) 0

/-- AMEND_DATA: a part of an amendment image. -/
def amendPart (s : State) (body : List Byte) : State :=
  if !taking s then s
  else
    let t := s.twin
    let s := { s with twin := { t with amendIn := tabSet t.amendIn (beAt body 4 4) (body.drop 12), amendLen := beAt body 8 4 } }
    match amendWhole s with
    | some img => amendValidate { s with twin := { s.twin with amendIn := [], amendLen := 0 } } img
    | none => s

/-! ### The commands -/

/-- DELTA_RX (R421). -/
def execDeltaRx (lane : Fin 16) (frame : List Byte) (noWay : List (Nat × Nat)) (s : State) : Host.Outcome State Fault Refusal :=
  .next (stageFrame s lane.val frame 1 noWay)

/-- COPY_RX (R437). -/
def execCopyRx (lane : Fin 16) (frame : List Byte) (noWay : List (Nat × Nat)) (s : State) : Host.Outcome State Fault Refusal :=
  .next (stageFrame s lane.val frame 5 noWay)

/-- SEAL_RX (R422). -/
def execSealRx (lane : Fin 16) (frame : List Byte) (s : State) : Host.Outcome State Fault Refusal :=
  .next (sealArrives s lane.val frame)

/-- SEAL_CHECK (R422). -/
def execSealCheck (s : State) : Host.Outcome State Fault Refusal := .next (checkSeal s)

/-- TWIN_GAP_TIMEOUT (R421). -/
def execTwinGapTimeout (s : State) : Host.Outcome State Fault Refusal := .next (gapTimeouts s)

/-- IMAGE_DRAIN (R424). -/
def execImageDrain (s : State) : Host.Outcome State Fault Refusal := .next (drainImage s)

/-- JOIN_START_RX (R428). -/
def execJoinStartRx (lane : Fin 16) (frame : List Byte) (s : State) : Host.Outcome State Fault Refusal :=
  .next (twinControlRx s lane.val frame 2 (fun s rx => joinStarts s (beAt rx.body 4 6)))

/-- JOIN_REFUSE_RX (R428). -/
def execJoinRefuseRx (lane : Fin 16) (frame : List Byte) (s : State) : Host.Outcome State Fault Refusal :=
  .next (twinControlRx s lane.val frame 3 (fun s rx =>
    if twinState s = 5 then raise s 0xF8C (byteAt rx.body 4) (rdn s Reg.TWIN_PEER_HASH) else s))

/-- COPY_DONE_RX (R428). -/
def execCopyDoneRx (lane : Fin 16) (frame : List Byte) (s : State) : Host.Outcome State Fault Refusal :=
  .next (twinControlRx s lane.val frame 4 (fun s rx =>
    if twinState s = 6 ∧ s.twin.fenceSince.isNone then
      copyAcked { s with twin := { s.twin with copyDone := some (beAt rx.body 4 6) } }
    else s))

/-- AMEND_DATA_RX (R48). -/
def execAmendDataRx (lane : Fin 16) (frame : List Byte) (s : State) : Host.Outcome State Fault Refusal :=
  .next (twinControlRx s lane.val frame 6 (fun s rx => amendPart s rx.body))

end Sys2Proof.Machine
end

