-- ==== Sys2Proof/Machine/TwinLead.lean ====
section
/-! DEFINITION. The lead of a twin (R414 to R427), the states of R428 with the commands of R434, promotion (R432), the copy cursor
(R437), and the batch boundary (R20, R557). -/
namespace Sys2Proof.Machine

/-! ### The delta store -/

/-- Deltas have left the store, or the device has left mirroring: what R418 stalled goes on. -/
def resumeStore (s : State) : State :=
  if storeFull s then s
  else
    let ready (x : Slot) : Bool := x.lock.any (·.clearing)
    let s := (s.fwd.slots.filter (fun e => ready e.2)).foldl (fun s e =>
      match e.2.lock with
      | some l => if storeFull s then s else winPublish s (e.1 / 2 ^ 20) (e.1 % 2 ^ 20) l
      | none => s) s
    let wait := s.fwd.learnWait
    let s := wait.foldl learnOrWait { s with fwd := { s.fwd with learnWait := [] } }
    pump (caskCmdTry (lauterResume s))

/-- Every closed and unsealed batch counts as sealed, in batch order (R427). -/
def sealClosed (s : State) : State :=
  match s.twin.closed.getLast? with
  | some k => { s with twin := { s.twin with lastSealed := some k, closed := [] } }
  | none => s

/-- SELF_SEAL changes (R427). -/
def selfSeal (s : State) (on : Bool) : State :=
  let s := wf s Reg.TWIN_STATUS 5 5 (b2n on)
  if on then sealClosed s else s

/-- Detaching (R428): DETACH on every lane up, no further DELTA, SEAL or COPY, the delta store freed. -/
def detach (s : State) (reason : Nat) : State :=
  let s := twinEvery s (twinControl s 5 (toBE 1 reason))
  let t := s.twin
  let closed := match t.seals.getLast? with
    | some m => [m.batch]
    | none => t.closed
  billAbandon { s with twin := { t with
    deltas := [], seals := [], closed := closed, copyNext := none, copyDone := none, joinBatch := none, waitAdmit := none } }

/-- A lead that has lost its follower goes alone (R428): `why` is the reason of event 0xF81. -/
def followerLost (s : State) (reason why : Nat) : State :=
  let s := twinEnter (detach s reason) 2
  let s := raise s 0xF81 why (s.twin.lastSealed.getD 0)
  resumeStore (selfSeal s (rb s Reg.TWIN_CFG 0))

/-- The batch named by COPY_DONE is sealed: LEAD_COPY becomes LEAD_SYNC (R428). -/
def copySealed (s : State) : State :=
  match s.twin.copyDone, s.twin.lastSealed with
  | some c, some k =>
    if twinState s = 3 ∧ c ≤ k then raise { twinEnter s 4 with twin := { s.twin with copyDone := none } } 0xF89 k s.twin.copyLines
    else s
  | _, _ => s

/-- The lead acts on an acknowledgement (R423). -/
def sealAnswered (s : State) (m : Seal) (status : Nat) : State :=
  let t := s.twin
  if status = 0 then
    let lat := min 65535 (nowNs s - m.closedAt)
    let s := { s with twin := { t with
      deltas := t.deltas.filter (fun d => d.batch != m.batch), seals := t.seals.filter (fun x => x.batch != m.batch)
      lastSealed := some m.batch } }
    let s := peak (wf s Reg.TWIN_SEAL_LAT 15 0 lat) Reg.TWIN_SEAL_LAT_PEAK 15 0 lat
    resumeStore (copySealed s)
  else
    let s := raise (cnt s Reg.TWIN_NAKS 1) 0xF83 m.batch status
    if (status = 1 ∨ status = 2) ∧ !m.replayed then
      let redo (d : Delta) : Delta := if d.batch = m.batch then { d with sent := false } else d
      let again (x : Seal) : Seal := if x.batch = m.batch then { x with sent := false, replayed := true } else x
      cnt { s with twin := { t with deltas := t.deltas.map redo, seals := t.seals.map again } } Reg.TWIN_REPLAYS 1
    else followerLost s 2 2

/-- SEAL_ACK arrives (R423, R426). -/
def ackArrives (s : State) (lane : Nat) (frame : List Byte) : State :=
  match twinReceive s lane frame 3 0 with
  | (none, s) => s
  | (some rx, s) =>
    let s := twinHeard s rx
    if !mirroring s || rx.role ≠ 1 then s
    else
      match s.twin.seals.find? (fun m => m.batch == rx.batch && m.sent) with
      | some m => sealAnswered s m (byteAt rx.body 0)
      | none => s

/-! ### Sending (R412, R420) -/

/-- The SEAL frame of a batch (R411). -/
def sealFrame (s : State) (m : Seal) : List Byte :=
  twinFrame s 2 m.batch 0 (toBE 6 m.prev ++ toBE 2 0 ++ toBE 4 m.count ++ toBE 4 0 ++ toBE 8 m.digest ++ toBE 2 m.genNext ++
    toBE 6 0 ++ toBE 8 m.hashNext ++ toBE 8 m.closeTick)

/-- The deltas that share the next DELTA frame: consecutive, of one batch, at most `count`, at most 2,048 bytes. -/
def deltaRun : List Delta → Nat → Nat → Nat → Nat → List Delta
  | [], _, _, _, _ => []
  | d :: t, batch, seq, count, room =>
    if d.batch = batch ∧ d.seq = seq ∧ !d.copy ∧ 0 < count ∧ d.bytes.length ≤ room then
      d :: deltaRun t batch (seq + 1) (count - 1) (room - d.bytes.length)
    else []

/-- The body of a COPY frame (R411). -/
def copyBody (ds : List Delta) : List Byte :=
  let poison := (ds.zip (List.range 32)).foldl (fun m x => m + b2n x.1.poison * 2 ^ x.2) 0
  toBE 4 ((ds.map (·.addr)).headD 0) ++ toBE 4 poison ++ ds.flatMap (fun d => d.words.flatMap (fun w => toBE 8 w.2.toNat))

/-- A seal that may be sent: every earlier batch is acknowledged or replayed, and its own deltas have left (R420). -/
def sealReady (s : State) : Option Seal :=
  let rec first : List Seal → Option Seal
    | [] => none
    | m :: t => if !m.sent then some m else if m.replayed then first t else none
  (first s.twin.seals).filter (fun m => !s.twin.deltas.any (fun d => d.batch == m.batch && !d.sent))

/-- The next frame leaves on a lane (R412): control frames and acknowledgements first, then a seal that may go, then deltas. -/
def twinTransmit (s : State) (lane count : Nat) : State :=
  let t := s.twin
  if !twinLane s lane || humDown s (16 + lane / 4) || fenced s then s
  else
    match t.queue with
    | f :: rest => twinEmit { s with twin := { t with queue := rest } } lane f
    | [] =>
      if !mirroring s then s
      else
        match sealReady s with
        | some m =>
          let sent (x : Seal) : Seal := if x.batch = m.batch then { x with sent := true } else x
          twinEmit { s with twin := { t with seals := t.seals.map sent } } lane (sealFrame s m)
        | none =>
          let left := t.deltas.dropWhile (·.sent)
          match left with
          | [] => s
          | d :: _ =>
            let run := if d.copy then left.take 32 else deltaRun left d.batch d.seq (max 1 count) 2048
            let sent (e : Delta) : Delta := if e.batch = d.batch ∧ d.seq ≤ e.seq ∧ e.seq < d.seq + run.length then { e with sent := true } else e
            let body := if d.copy then copyBody run else run.flatMap Delta.bytes
            let s := cntWrap { s with twin := { t with deltas := t.deltas.map sent } } Reg.TWIN_DELTAS_TX run.length
            twinEmit s lane (twinFrame s (if d.copy then 5 else 1) d.batch d.seq body)

/-! ### Heartbeats (R426) -/

/-- L × P in ns. -/
def beatNs (s : State) : Nat := batchLen s * tickNs s

/-- HEARTBEAT, when one is due. -/
def heartbeat (s : State) : State :=
  if twinState s ≤ 1 || !elapsed s s.twin.beatAt (beatNs s) then s
  else
    let body := toBE 1 (twinState s) ++ toBE 1 0 ++ toBE 2 (billGen s) ++ toBE 6 (s.twin.lastSealed.getD 0) ++ toBE 6 0 ++ hash8 s ++
      toBE 8 (tickNo s)
    twinQueue { s with twin := { s.twin with beatAt := nowNs s } } (twinFrame s 4 s.twin.openBatch 0 body)

/-- HEARTBEAT arrives. -/
def heartbeatArrives (s : State) (lane : Nat) (frame : List Byte) : State :=
  match twinReceive s lane frame 4 0 with
  | (some rx, s) => wrn (twinHeard s rx) Reg.TWIN_PEER_HASH (beAt rx.body 16 8)
  | (none, s) => s

/-! ### Promotion (R432) -/

/-- Steps 3 to 6 of R432; `forced`: GUARANTEE does not survive. -/
def promoted (s : State) (forced : Bool) : State :=
  let k := s.twin.lastSealed.getD 0
  let s := guardPns s
  let s := wrn s Reg.FEN_TX_SEQ ((rdn s Reg.FEN_TX_SEQ + 2 ^ 16) % 2 ^ 32)
  let s := { s with twin := { s.twin with fenChanged := true } }
  let s := twinEvery s (twinControl s 8 (toBE 6 k))
  let s := wf (twinEnter s 2) Reg.TWIN_STATUS 5 5 1
  let s := if forced then wf s Reg.TWIN_STATUS 7 7 0 else s
  let s := { s with twin := { s.twin with
    fenceSince := none, closed := [], joinBatch := none, copyDone := none, deltas := [], seals := [], queue := [] } }
  let s := wf s Reg.TWIN_CMD_STATUS 7 0 0
  pump (raise s 0xF85 k s.twin.sealed.length)

/-- Steps 1 and 2 of R432. -/
def promoteStart (s : State) (fence : Bool) : State :=
  let st := twinState s
  let s := billOrphan (billAbandon (dropStaged s))
  let s := if st = 7 then raise (twinEnter s 8) 0xF80 7 (s.twin.lastSealed.getD 0) else s
  let forced : Bool := !(st == 7 || st == 8)
  if fence then
    let s := wf (wf s Reg.TWIN_STATUS 8 8 1) Reg.TWIN_CMD_STATUS 0 0 1
    { s with twin := { s.twin with fenceSince := some (nowNs s), promoteArg := b2n forced } }
  else promoted s forced

/-- The fence wait ends. -/
def fenceWaited (s : State) : State :=
  match s.twin.fenceSince with
  | some t => if elapsed s t (rf s Reg.TWIN_FENCE_WAIT 15 0 * 1000) then promoted s (s.twin.promoteArg == 1) else s
  | none => s

/-- A follower has lost its lead (R428, R430). -/
def leadLost (s : State) : State :=
  let st := twinState s
  let k := s.twin.lastSealed.getD 0
  if st = 6 then raise (twinEnter (dropStaged s) 5) 0xF80 6 k
  else if st = 7 then
    let s := raise (twinEnter s 8) 0xF80 7 k
    if rb s Reg.TWIN_ORDER 0 && !rb s Reg.TWIN_STATUS 9 then promoteStart s true else s
  else s

/-- MISSED increments (R426); at TWIN_LOSS_LIMIT the peer is lost. -/
def heartbeatMissed (s : State) : State :=
  let st := twinState s
  let step := beatNs s + rf s Reg.TWIN_GRACE 15 0
  if !(st == 3 || st == 4 || st == 6 || st == 7) || s.twin.fenceSince.isSome || !elapsed s s.twin.heardAt step then s
  else
    let n := min 15 (rf s Reg.TWIN_STATUS 13 10 + 1)
    let s := wf { s with twin := { s.twin with heardAt := s.twin.heardAt + step } } Reg.TWIN_STATUS 13 10 n
    if n < rf s Reg.TWIN_LOSS_LIMIT 3 0 then s
    else if st ≤ 4 then followerLost s 1 0
    else leadLost s

/-! ### Joining (R428) -/

/-- JOIN_START for the next batch. -/
def joinFollower (s : State) : State :=
  let s := twinEnter s 3
  let first := (s.twin.openBatch + 1) % 2 ^ 48
  let s := { s with twin := { s.twin with
    waitAdmit := none, joinBatch := some first, copyNext := none, copyDone := none, copyLines := 0, heardAt := nowNs s } }
  twinQueue (raise s 0xF82 (pack2 2 3) s.twin.openBatch) (twinControl s 2 (toBE 6 first))

/-- HELLO arrives. -/
def helloArrives (s : State) (rx : TwinRx) : State :=
  let hash := slice rx.body 4 8
  let st := twinState s
  let refuse (reason : Nat) : State := twinQueue s (twinControl s 3 (toBE 1 reason))
  if rx.role ≠ 1 then s
  else if st = 3 then refuse 2
  else if st ≠ 2 then s
  else if hash ≠ hash8 s then raise (refuse 0) 0xF84 (billGen s) (beNat hash)
  else if rb s Reg.TWIN_ORDER 1 then joinFollower s
  else
    let s := if s.twin.waitAdmit.isSome then s else { s with twin := { s.twin with waitAdmit := some (beNat hash, nowNs s) } }
    raise s 0xF8C 1 (beNat hash)

/-- A HELLO has waited 1 ms for ADMIT. -/
def admitTimeout (s : State) : State :=
  match s.twin.waitAdmit with
  | some (_, t) =>
    if elapsed s t 1000000 then twinQueue { s with twin := { s.twin with waitAdmit := none } } (twinControl s 3 (toBE 1 1)) else s
  | none => s

/-- The HELLO of a follower that waits (R428). -/
def hello (s : State) : State := twinQueue s (twinControl s 1 (hash8 s ++ toBE 2 (billGen s)))

/-- DETACH arrives (R428). -/
def detachArrives (s : State) : State :=
  let st := twinState s
  let k := s.twin.lastSealed.getD 0
  if st = 3 ∨ st = 4 then followerLost s 1 1
  else if !taking s then s
  else if st = 6 then raise (twinEnter (dropStaged s) 5) 0xF80 6 k
  else raise (twinEnter (dropStaged s) 9) 0xF82 (pack2 7 9) s.twin.openBatch

/-- PROMOTED arrives. -/
def promotedArrives (s : State) (batch : Nat) : State :=
  if 2 ≤ twinState s ∧ twinState s ≤ 4 then raise s 0xF8B batch (s.twin.lastSealed.getD 0) else s

/-- The follower's answer to an amendment (R48). -/
def amendResult (s : State) (code : Nat) : State :=
  match s.bill.image with
  | some x =>
    if !s.bill.waitFollower || billState s ≠ 1 then s
    else if code = 0 then stage s x
    else billBack (billRefuse { s with bill := { s.bill with image := none, waitFollower := false } } (0x10, code, 0) true)
  | none => s

/-! ### The commands of TWIN_CMD (R434) -/

/-- RESULT of a command. -/
def twinResult (s : State) (r : Nat) : State := wf s Reg.TWIN_CMD_STATUS 7 4 r

/-- PROMOTE (R433). -/
def twinPromote (s : State) (fence fenced force : Bool) : State :=
  let st := twinState s
  let sync : Bool := st == 7 || st == 8
  let other : Bool := force && (st == 5 || st == 6 || st == 9)
  if !(sync || other) then twinResult s 1
  else if !fence && !fenced then twinResult s 2
  else if rb s Reg.TWIN_STATUS 9 then twinResult s 5
  else promoteStart (twinResult s 0) fence

/-- STOP (R428). -/
def twinStop (s : State) : State :=
  let lead : Bool := mirroring s || twinState s == 3
  let s := twinEnter (dropStaged (detach s 0)) 1
  let s := { s with twin := { s.twin with joinBatch := none, fenceSince := none } }
  if lead then resumeStore s else s

/-- GO of TWIN_CMD: ignored while BUSY. -/
def twinCommand (s : State) (op : Nat) (fence fenced force : Bool) : State :=
  let st := twinState s
  let noKey : Bool := (twinKey s).isNone
  if rb s Reg.TWIN_CMD_STATUS 0 then s
  else match op with
  | 1 =>
    if st ≠ 1 then twinResult s 1
    else if noKey then twinResult s 4
    else selfSeal (twinEnter (twinResult s 0) 2) true
  | 2 =>
    if !(st == 1 || st == 8 || st == 9) then twinResult s 1
    else if noKey then twinResult s 4
    else hello (twinEnter (dropStaged (twinResult s 0)) 5)
  | 3 => twinPromote s fence fenced force
  | 4 =>
    if st = 2 then selfSeal (twinResult s 0) true
    else if st = 3 ∨ st = 4 then resumeStore (selfSeal (twinEnter (detach (twinResult s 0) 0) 2) true)
    else twinResult s 1
  | 5 => if st = 0 then twinResult s 1 else twinStop (twinResult s 0)
  | 6 =>
    match (if st = 2 then s.twin.waitAdmit else none) with
    | some (h, t) =>
      if elapsed s t 1000001 then twinResult s 1
      else if toBE 8 h ≠ hash8 s then twinResult s 3
      else joinFollower (twinResult s 0)
    | none => twinResult s 1
  | 7 => wf (twinResult s 0) Reg.TWIN_STATUS 8 8 0
  | _ => s

/-- The level of TW_FENCE_IN, or what counts as asserted, has changed (R431). `sent` says how many bytes of the frame in transmission
have left on each port. -/
def fenceLook (s : State) (sent : List Nat) : State :=
  let on := s.twin.fenceIn == rb s Reg.TWIN_CFG 3
  let s := if on == rb s Reg.TWIN_STATUS 9 then s
    else raise (wf s Reg.TWIN_STATUS 9 9 (b2n on)) 0xF86 (b2n on) (rf s Reg.TWIN_CFG 1 1)
  if !fenced s then s
  else
    (List.range 64).foldl (fun s l =>
      let v := rdn s (Reg.PORT_LANEl_CTRL l)
      if isPort s l && v % 4 != 0 then laneCtrl s l (v - v % 4) (sent.getD l 0) else s) s

/-! ### The copy cursor (R437) -/

/-- Objects of the cursor's first three phases. -/
def cursorTables : Nat := ((List.range 8).map tblSize).foldl (· + ·) 0

/-- The regions in use, by base row: (base row, rows). -/
def cursorRegions (s : State) : List (Nat × Nat) :=
  let ins (x : Nat × Nat) (l : List (Nat × Nat)) : List (Nat × Nat) := tabSet l x.1 x.2
  (List.range 8).foldl (fun l n => if regionUsed s n then ins (regionBase s n, regionRows s n) l else l) []

/-- The k-th row of the regions in use. -/
def cursorRow : List (Nat × Nat) → Nat → Option Nat
  | [], _ => none
  | (b, n) :: t, k => if k < n then some (b + k) else cursorRow t (k - n)

/-- The table and slot at a place of phase 1. -/
def cursorSlot (k : Nat) : Nat × Nat :=
  let rec go : Nat → Nat → Nat → Nat × Nat
    | 0, t, k => (t, k)
    | f + 1, t, k => if k < tblSize t then (t, k) else go f (t + 1) (k - tblSize t)
  go 8 0 k

/-- The phase of a place of the cursor, and the row of phase 4. -/
def cursorPhase (s : State) (k : Nat) : Nat × Nat :=
  let l := cursorTables + tblSize 8
  if k < cursorTables then (1, 0)
  else if k < l then (2, 0)
  else if k < l + 2049 then (3, 0)
  else match cursorRow (cursorRegions s) (k - l - 2049) with
    | some r => (4, r)
    | none => (0, 0)

/-- The 32 lines of a row as COPY deltas, numbered at this instant. -/
def copyRow (s : State) (row : Nat) : State :=
  let t := s.twin
  let line (k : Nat) : Delta :=
    let l := 32 * row + k
    { space := 0, addr := l, words := (lineNow s l).zipIdx.map (fun x => (x.2, x.1)), batch := t.openBatch, seq := t.nextSeq + k
      copy := true, poison := recordBad s (govLine s l) }
  let s := { s with twin := { t with
    deltas := t.deltas ++ (List.range 32).map line, nextSeq := t.nextSeq + 32, copyLines := t.copyLines + 32 } }
  peak s Reg.TWIN_DSTORE_PEAK 17 0 s.twin.deltas.length

/-- The next object or row of the copy. -/
def cursorStep (s : State) : State :=
  match s.twin.copyNext with
  | none => s
  | some k =>
    if storeFull s then s
    else
      let next (s : State) : State :=
        { s with twin := { s.twin with copyNext := some (k + 1), copyBatch := s.twin.openBatch } }
      match cursorPhase s k with
      | (1, _) =>
        let (t, i) := cursorSlot k
        next (mirror s 1 (t * 2 ^ 32 + i) (deltaWords (storeWords (slotOf s t i).words)))
      | (2, _) =>
        let i := k - cursorTables
        next (mirror s 2 i (deltaWords (storeWords (slotOf s 8 i).words)))
      | (3, _) =>
        let i := k - cursorTables - tblSize 8
        next (if i < 2048 then mirror s 4 i [(0, rd s (Reg.AUTH_SAs_NEXT_PN i))] else mirror s 5 0 [(0, rd s Reg.FEN_TX_SEQ)])
      | (4, row) => next (copyRow s row)
      | _ =>
        let b := s.twin.copyBatch
        let s := { s with twin := { s.twin with copyNext := none, copyDone := some b } }
        copySealed (twinQueue s (twinControl s 4 (toBE 6 b)))

/-! ### The batch boundary (R20, R419, R557) -/

/-- SA and fen-sequence deltas come last in a batch (R414). -/
def lastDeltas (s : State) : State :=
  let s := s.twin.snChanged.foldl (fun s sa => mirror s 4 sa [(0, rd s (Reg.AUTH_SAs_NEXT_PN sa))]) s
  if s.twin.fenChanged then mirror s 5 0 [(0, rd s Reg.FEN_TX_SEQ)] else s

/-- The seal of the closing batch is queued (R420). -/
def queueSeal (s : State) (new : Nat) : State :=
  let t := s.twin
  let (gen, hash) := namedNext s new
  let ds := t.deltas.filter (fun d => d.batch == t.openBatch)
  let prev := match t.seals.getLast? with
    | some m => m.batch
    | none => t.lastSealed.getD 0
  let m : Seal :=
    { batch := t.openBatch, prev := prev, count := t.nextSeq, digest := crc64 (ds.flatMap Delta.bytes), genNext := gen
      hashNext := beNat ((hash ++ List.replicate 8 0#8).take 8), closeTick := tickNo s, closedAt := nowNs s }
  { s with twin := { t with seals := t.seals ++ [m] } }

/-- The open batch closes. -/
def closeBatch (s : State) (new : Nat) : State :=
  let st := twinState s
  let k := s.twin.openBatch
  if mirroring s then queueSeal (lastDeltas s) new
  else if st = 0 ∨ ((st = 2 ∨ st = 3) ∧ rb s Reg.TWIN_STATUS 5) then { s with twin := { s.twin with lastSealed := some k, closed := [] } }
  else if st ≤ 3 then { s with twin := { s.twin with closed := [k] } }
  else s

/-- The first copy batch opens on a lead: changes are mirrored from now on. -/
def openCopy (s : State) : State :=
  if twinState s = 3 ∧ s.twin.joinBatch.isSome then
    let s := wf s Reg.TWIN_STATUS 5 5 0
    { s with twin := { s.twin with joinBatch := none, copyNext := some 0, deltas := [], seals := [] } }
  else s

/-- A batch boundary, once the tick has entered another batch. -/
def batchBoundary (s : State) : State :=
  let new := batchOfTick s s.time.tick
  if new = s.twin.openBatch then s
  else
    let s := closeBatch s new
    let s := { s with twin := { s.twin with snChanged := [], fenChanged := false } }
    let s := if amendDue s new then applyAmendment s else s
    let s := openCopy { s with twin := { s.twin with openBatch := new, nextSeq := 0 } }
    let s := if twinState s = 5 then hello s else s
    pump s

/-! ### Lanes (R409, R412, R413) -/

/-- A twin lane comes up or goes down. -/
def twinLink (s : State) (l : Nat) (up : Bool) : State :=
  if !(sec s 0x0C 2 2).testBit l || humDown s (16 + l / 4) || rb s Reg.TWIN_STATUS (16 + l) == up then s
  else
    let s := wf (wf s Reg.TWIN_STATUS (16 + l) (16 + l) (b2n up)) (Reg.TWIN_LANEl_STATUS l) 2 0 (7 * b2n up)
    let (v, s) := fresh s
    raise s (0xF90 + l) (b2n (!up)) v

/-- The eye monitor of a twin lane, with the codewords its FEC has corrected and failed to correct since the last measurement. -/
def twinEye (s : State) (l height corrected uncorrected : Nat) : State :=
  if humDown s (16 + l / 4) then s
  else
    let th := rf s Reg.TWIN_EYE_THRESH 7 0
    let s := wf s (Reg.TWIN_LANEl_STATUS l) 15 8 height
    let s := cnt (cntWrap s (Reg.TWIN_LANEl_FEC_CORR l) corrected) (Reg.TWIN_LANEl_FEC_UNCORR l) uncorrected
    let s := slackReport s 3 l height th
    let s := if uncorrected = 0 then s else raise s (0xF90 + l) 3 uncorrected
    let low := s.twin.eyeLow
    if low.contains l then
      if th + 4 ≤ height then { s with twin := { s.twin with eyeLow := low.filter (· != l) } } else s
    else if height < th then raise { s with twin := { s.twin with eyeLow := low ++ [l] } } (0xF90 + l) 2 height
    else s

/-- TWIN registers computed from the state. -/
def twinView (s : State) (a : Nat) : Option W64 :=
  let t := s.twin
  let n (v : Nat) : Option W64 := some (BitVec.ofNat 64 v)
  if a = Reg.TWIN_BATCH then n t.openBatch
  else if a = Reg.TWIN_SEALED then n (t.lastSealed.getD 0)
  else if a = Reg.TWIN_DSTORE then n t.deltas.length
  else if a = Reg.TWIN_STAGE then n (t.sealed.length + t.staged.foldl (fun m e => m + e.2.images.length) 0)
  else if a = Reg.TWIN_COPY_CURSOR then
    match t.copyNext with
    | some k =>
      let (p, r) := cursorPhase s k
      n (32 * r + p * 2 ^ 32 + 2 ^ 63)
    | none => n 0
  else none

/-! ### The commands -/

/-- BATCH_BOUNDARY (R20, R557). -/
def execBatchBoundary (s : State) : Host.Outcome State Fault Refusal := .next (batchBoundary s)

/-- TWIN_FRAME_TRANSMIT (R412). -/
def execTwinFrameTransmit (lane : Fin 16) (count : Nat) (s : State) : Host.Outcome State Fault Refusal :=
  .next (twinTransmit s lane.val count)

/-- SEAL_ACK_RX (R423). -/
def execSealAckRx (lane : Fin 16) (frame : List Byte) (s : State) : Host.Outcome State Fault Refusal :=
  .next (ackArrives s lane.val frame)

/-- HEARTBEAT_SEND (R426). -/
def execHeartbeatSend (s : State) : Host.Outcome State Fault Refusal := .next (heartbeat s)

/-- HEARTBEAT_RX (R426). -/
def execHeartbeatRx (lane : Fin 16) (frame : List Byte) (s : State) : Host.Outcome State Fault Refusal :=
  .next (heartbeatArrives s lane.val frame)

/-- HEARTBEAT_MISS (R426). -/
def execHeartbeatMiss (s : State) : Host.Outcome State Fault Refusal := .next (heartbeatMissed s)

/-- HELLO_RX (R428). -/
def execHelloRx (lane : Fin 16) (frame : List Byte) (s : State) : Host.Outcome State Fault Refusal :=
  .next (twinControlRx s lane.val frame 1 helloArrives)

/-- DETACH_RX (R428). -/
def execDetachRx (lane : Fin 16) (frame : List Byte) (s : State) : Host.Outcome State Fault Refusal :=
  .next (twinControlRx s lane.val frame 5 (fun s _ => detachArrives s))

/-- AMEND_RESULT_RX (R48). -/
def execAmendResultRx (lane : Fin 16) (frame : List Byte) (s : State) : Host.Outcome State Fault Refusal :=
  .next (twinControlRx s lane.val frame 7 (fun s rx => amendResult s (byteAt rx.body 4)))

/-- PROMOTED_RX (R428). -/
def execPromotedRx (lane : Fin 16) (frame : List Byte) (s : State) : Host.Outcome State Fault Refusal :=
  .next (twinControlRx s lane.val frame 8 (fun s rx => promotedArrives s (beAt rx.body 4 6)))

/-- TWIN_LEAD (R434). -/
def execTwinLead (s : State) : Host.Outcome State Fault Refusal := .next (twinCommand s 1 false false false)

/-- TWIN_FOLLOW (R434). -/
def execTwinFollow (s : State) : Host.Outcome State Fault Refusal := .next (twinCommand s 2 false false false)

/-- TWIN_PROMOTE (R432, R433). -/
def execTwinPromote (fence fenced force : Bool) (s : State) : Host.Outcome State Fault Refusal :=
  .next (twinCommand s 3 fence fenced force)

/-- TWIN_ALONE (R428). -/
def execTwinAlone (s : State) : Host.Outcome State Fault Refusal := .next (twinCommand s 4 false false false)

/-- TWIN_STOP (R428). -/
def execTwinStop (s : State) : Host.Outcome State Fault Refusal := .next (twinCommand s 5 false false false)

/-- TWIN_ADMIT (R434). -/
def execTwinAdmit (s : State) : Host.Outcome State Fault Refusal := .next (twinCommand s 6 false false false)

/-- TWIN_UNFENCE (R431). -/
def execTwinUnfence (s : State) : Host.Outcome State Fault Refusal := .next (twinCommand s 7 false false false)

/-- FENCE_WAIT_EXPIRY (R432). -/
def execFenceWaitExpiry (s : State) : Host.Outcome State Fault Refusal := .next (fenceWaited s)

/-- TW_FENCE_IN_CHANGE (R431). -/
def execTwFenceInChange (level : Bool) (sent : List Nat) (s : State) : Host.Outcome State Fault Refusal :=
  .next (fenceLook { s with twin := { s.twin with fenceIn := level } } sent)

/-- JOIN_ADMIT_TIMEOUT (R428). -/
def execJoinAdmitTimeout (s : State) : Host.Outcome State Fault Refusal := .next (admitTimeout s)

/-- COPY_CURSOR_STEP (R437). -/
def execCopyCursorStep (s : State) : Host.Outcome State Fault Refusal := .next (cursorStep s)

/-- TWIN_LANE_UP (R409). -/
def execTwinLaneUp (lane : Fin 16) (s : State) : Host.Outcome State Fault Refusal := .next (twinLink s lane.val true)

/-- TWIN_LANE_DOWN (R412). -/
def execTwinLaneDown (lane : Fin 16) (s : State) : Host.Outcome State Fault Refusal := .next (twinLink s lane.val false)

/-- TWIN_EYE_MEASURE (R413). -/
def execTwinEyeMeasure (lane : Fin 16) (height : BitVec 8) (corrected uncorrected : Nat) (s : State) :
    Host.Outcome State Fault Refusal := .next (twinEye s lane.val height.toNat corrected uncorrected)

end Sys2Proof.Machine
end

