-- ==== Sys2Proof/Machine/HostIf.lean ====
section
/-! DEFINITION. The BAR0 registers as the host reaches them (R10, R11, R496, R504 to R511): which register an access names, what
a write sets in motion, what a read returns and clears, and accesses held while a hummock wakes. -/
namespace Sys2Proof.Machine

/-- What a write meets outside the registers: for each port the bytes of the frame in transmission that are on the wire, and
what a mode register of the DRAM reads. -/
structure Around where
  sent : List Nat
  mr : Nat
deriving DecidableEq, Repr

/-- What a write meets when no command says it: free values. -/
def aroundFree (s : State) : Around × State :=
  ({ sent := (List.range 64).map (fun i => Config.freeNat (s.free + i)), mr := Config.freeNat (s.free + 64) % 256 },
    { s with free := s.free + 65 })

/-- The index of a register array, when the address is one of its registers. -/
def arrayIdx (first stride count a : Nat) : Option Nat :=
  if first ≤ a ∧ (a - first) % stride = 0 ∧ (a - first) / stride < count then some ((a - first) / stride) else none

/-- The hummock that a register lies in, if any (R95, R119, R248, R287, R325, R357, R381, R452). -/
def bar0Hummock (a : Nat) : Option Nat :=
  let within (lo n : Nat) : Bool := decide (lo ≤ a ∧ a < lo + n)
  if within 0x00400000 0x100000 then some ((a - 0x00400000) / 0x10000)
  else if within 0x00801000 0x1000 then some ((a - 0x00801000) / 0x100)
  else if within 0x01400000 0x400000 && decide (a % 0x10000 < 0x400) then some (20 + (a - 0x01400000) / 0x80000)
  else if within 0x01801000 0x400 then some (28 + (a - 0x01801000) / 0x100)
  else if within 0x01804000 0x400 then some (28 + (a - 0x01804000) / 0x100)
  else if within 0x01C01000 0x1000 then some ((a - 0x01C01000) / 0x100)
  else if within 0x01D00000 0x4000 then some ((a - 0x01D00000) / 0x400)
  else if within 0x02010000 0x10000 then some ((a - 0x02010000) / 0x1000)
  else if within 0x02100000 0x100000 then some ((a - 0x02100000) / 0x10000)
  else if within 0x02400100 0x100 then some (38 + (a - 0x02400100) / 0x80)
  else if within 0x02801000 0x400 then some (16 + (a - 0x02801000) / 0x100)
  else none

/-! ### DMA rings (R515) -/

/-- The registers of a ring by its engine code (R528): TX rings 0 to 15, RX rings 16 to 31, command queues 32 to 35. -/
def ringRegs (e : Nat) : Nat :=
  if e < 16 then Reg.HOST_TXt_BASE e else if e < 32 then Reg.HOST_RXr_BASE (e - 16) else Reg.HOST_CQq_BASE (e - 32)

def ringCfgReg (e : Nat) : Nat := ringRegs e + 0x18
def ringTailReg (e : Nat) : Nat := ringRegs e + 0x1C
def ringHeadReg (e : Nat) : Nat := ringRegs e + 0x20

/-- Entries of a ring. -/
def ringEntries (s : State) (e : Nat) : Nat := 2 ^ rf s (ringCfgReg e) 6 2

/-- EN of a ring. -/
def ringOn (s : State) (e : Nat) : Bool := rb s (ringCfgReg e) 0

/-- A ring works: it is enabled, not stopped, and the link is up. -/
def ringLive (s : State) (e : Nat) : Bool := ringOn s e && !rb s (ringHeadReg e) 31 && rb s Reg.HOST_LINK 0

/-- HEAD and PHASE of a ring. -/
def ringHead (s : State) (e : Nat) : Nat := rf s (ringHeadReg e) 15 0
def ringPhase (s : State) (e : Nat) : Nat := rf s (ringHeadReg e) 30 30

/-- Descriptors posted: from HEAD up to TAIL (R514, R515). -/
def ringPending (s : State) (e : Nat) : Nat :=
  let n := ringEntries s e
  if ringOn s e then (rf s (ringTailReg e) 15 0 % n + n - ringHead s e % n) % n else 0

/-- HEAD advances; PHASE inverts when it wraps (R515). -/
def ringAdvance (s : State) (e : Nat) : State :=
  let h := (ringHead s e + 1) % ringEntries s e
  let s := if h = 0 then wf s (ringHeadReg e) 30 30 (1 - ringPhase s e) else s
  wf s (ringHeadReg e) 15 0 h

/-- A ring stops at the descriptor that HEAD names (R515). -/
def ringStop (s : State) (e : Nat) : State := wf s (ringHeadReg e) 31 31 1

/-- A ring stops on a failed CHECK: event 0xFCB. -/
def ringBadCheck (s : State) (e : Nat) : State := raise (ringStop s e) 0xFCB e (ringHead s e)

/-- The commands of queue q that are posted and not completed, in the order of admission over all queues (R522). -/
def cqAdmit (s : State) (q : Nat) : State :=
  let n := ringPending s (32 + q)
  let have_ := (s.host.admitted.filter (· == q)).length
  let l := if have_ ≤ n then s.host.admitted ++ List.replicate (n - have_) q
    else s.host.admitted.filter (· != q) ++ List.replicate n q
  { s with host := { s.host with admitted := l } }

/-- What a ring has in hand is discarded: a frame partly fetched counts in HOST_TXt_DROPS; a command ends unfinished. -/
def ringDiscard (s : State) (e : Nat) : State :=
  if e < 16 then
    match tabFind s.host.fetch e with
    | some _ => cnt { s with host := { s.host with fetch := tabDel s.host.fetch e } } (Reg.HOST_TXt_DROPS e) 1
    | none => s
  else if e < 32 then { s with host := { s.host with rxPart := tabDel s.host.rxPart (e - 16) } }
  else
    let q := e - 32
    { s with host := { s.host with
      cur := if s.host.cur.any (fun c => c.queue == q) then none else s.host.cur
      admitted := s.host.admitted.filter (· != q), fenced := s.host.fenced.filter (· != q) } }

/-- A write of a ring's CFG (R515): EN from 0 to 1 sets HEAD to 0 and PHASE to 1. -/
def ringCfg (s : State) (e : Nat) (v : W64) : State :=
  let was := ringOn s e
  let s := regWrite s (ringCfgReg e) v
  let s := if ringOn s e && !was then wf (wf s (ringHeadReg e) 15 0 0) (ringHeadReg e) 30 30 1
    else if was && !ringOn s e then ringDiscard s e else s
  if 32 ≤ e then cqAdmit s (e - 32) else s

/-- A write of a ring's TAIL (R515): descriptors are posted, and a stopped ring goes on at HEAD. -/
def ringTail (s : State) (e : Nat) (v : W64) : State :=
  let s := wf (regWrite s (ringTailReg e) v) (ringHeadReg e) 31 31 0
  if 32 ≤ e then cqAdmit s (e - 32) else s

/-- A write that a unit's state forbids is dropped with code 6. -/
def unlessBusy (s : State) (busy : Bool) (a : Nat) (v : W64) : State :=
  if busy then accReport s 6 0 true a else regWrite s a v

/-- The MSI-X control word of vector v (R524): unmasking sends what is pending. -/
def msixCtl (s : State) (v : Nat) (w : W64) : State :=
  let s := regWrite s (Reg.HOST_MSIXv_CTL v) w
  if vecMasked s v || !rb s (Reg.HOST_MSIX_PBAw (v / 64)) (v % 64) then s
  else if rb s (Reg.EVENT_VECv_PEND v) 0 then eventVector s v else raiseVector s v

/-! ### Writes that do more than set fields, block by block -/

/-- A command register with GO in bit 31 (W1S): the fields are set, and GO starts the operation that they hold. -/
def goWrite (s : State) (a : Nat) (v : W64) (start : State → State) : State :=
  let s := regWrite s a v
  if bitOf v 31 then start (wf s a 31 31 0) else s

/-- A write of fields that a rule over two of them makes reserved together (R74, R213): both keep their values. -/
def pairWrite (s : State) (a : Nat) (v : W64) (f g : Nat × Nat) (bad : Nat → Nat → Bool) : State :=
  let old := rd s a
  let new := match findRow a with
    | some r => regMerge r old v
    | none => v
  if bad (fld new f.1 f.2) (fld new g.1 g.2) then
    regWrite (accReport s 1 0 true a) a (setFld (setFld v f.1 f.2 (fld old f.1 f.2)) g.1 g.2 (fld old g.1 g.2))
  else regWrite s a v

/-- BILL (R53), CORE (R72, R74). -/
def writeBillCore (s : State) (a : Nat) (v : W64) : State :=
  if a = Reg.BILL_CMD then
    let op := fld v 3 0
    if 5 < op then accReport s 1 0 true a else if op = 0 then s else billCommand s op
  else if a = Reg.CORE_CFG then pairWrite s a v (3, 0) (7, 4) (fun target thresh => decide (target < thresh))
  else if a = Reg.CORE_RECAL_CMD then
    if 100 < fld v 6 0 then accReport s 1 0 true a else recalCommand s v.toNat
  else regWrite s a v

/-- PORT (R79, R90, R91). -/
def writePort (s : State) (x : Around) (a : Nat) (v : W64) : State :=
  let off := a - 0x00400000
  if off < 0x100000 then
    let r := off % 0x10000
    let l := 4 * (off / 0x10000) + (r - 0x100) / 0x100
    if 0x100 ≤ r ∧ r < 0x500 ∧ r % 0x100 = 0 then laneCtrl s l v.toNat (x.sent.getD l 0) else regWrite s a v
  else
    match arrayIdx (Reg.PORT_MDIOm_CMD 0) 0x20 4 a, arrayIdx (Reg.PORT_I2Cq_CMD 0) 0x40 16 a with
    | some m, _ => mdioCommand s m v.toNat
    | none, some q => i2cCommand s q v.toNat
    | none, none => regWrite s a v

/-- GRIST (R108), FWD (R124, R130, R142). -/
def writeTables (s : State) (a : Nat) (v : W64) : State :=
  match arrayIdx (Reg.GRIST_CLSELi 0) 4 1024 a, arrayIdx Reg.FWD_FDB_SEED0 4 4 a,
      arrayIdx (Reg.FWD_TBLt_CMD 0) 0x80 8 a with
  | some i, _, _ => clselWrite s i v.toNat
  | _, some _, _ => unlessBusy s ((listedSlots s 0).any (fun i => (slotOf s 0 i).valid)) a v
  | _, _, some t => goWrite s a v (fun s => tblStart s t (rf s a 2 0))
  | _, _, _ =>
    if a = Reg.FWD_FDB_REHASH then
      if bitOf v 0 then rehashStart s else s
    else regWrite s a v

/-- LAUTER (R163), CASK (R187, R206). -/
def writeStores (s : State) (a : Nat) (v : W64) : State :=
  if a = Reg.LAUTER_CMD then goWrite s a v (fun s => lauterStart s (rf s a 2 0))
  else if a = Reg.CASK_CMD then goWrite s a v (fun s => caskCommand s (rf s a 3 0))
  else if a = Reg.CASK_LEDGER_CFG then pairWrite s a v (13, 0) (20, 16) (fun urgent host => decide (8192 < urgent + host))
  else regWrite s a v

/-- DEEP (R248), FERM (R280). -/
def writeDeepFerm (s : State) (x : Around) (a : Nat) (v : W64) : State :=
  match arrayIdx (Reg.DEEP_CHc_CMD 0) 0x10000 64 a, arrayIdx (Reg.FERM_EVT_ITEMi 0) 4 16 a with
  | some c, _ => deepCommand s c v.toNat x.mr
  | none, some _ =>
    if ((tabFind (genOf s (billGen s)).graphs (fld v 31 20)).any (·.item)) then regWrite s a v
    else regWrite (accReport s 1 0 true a) a (setFld v 31 20 (rf s a 31 20))
  | none, none => regWrite s a v

/-- MERE and LODE (R295, R307, R320), EGRESS (R337, R338, R343). -/
def writeMereEgress (s : State) (a : Nat) (v : W64) : State :=
  match arrayIdx (Reg.MERE_Qq_EGRESS_CELLS 0) 0x100 16 a, arrayIdx (Reg.MERE_PORTp_SAMPLE 0) 4 64 a with
  | some q, _ => egressCells s q v.toNat (billDrained s)
  | none, some p =>
    let s := regWrite s a v
    { s with mere := { s.mere with sampling := tabDel s.mere.sampling p } }
  | none, none =>
    if a = Reg.LODE_CFG then lodeConfig s v.toNat
    else if 0x02000000 ≤ a then egressWrite s a v
    else regWrite s a v

/-- AUTH (R366, R371, R376). -/
def writeAuth (s : State) (a : Nat) (v : W64) : State :=
  if a = Reg.AUTH_KEY_CMD then goWrite s a v (fun s => keyCommand s (rf s a 2 0))
  else if a = Reg.AUTH_HJ_TAIL then hjTail s v.toNat
  else
    match arrayIdx (Reg.AUTH_SAs_NEXT_PN 0) 0x40 2048 a with
    | some sa => pnChanged (regWrite s a v) sa (rdn s a)
    | none => regWrite s a v

/-- TIME (R383, R384, R398, R400, R402, R403). -/
def writeTime (s : State) (a : Nat) (v : W64) : State :=
  if a = Reg.TIME_RATE then writeRate s v.toNat
  else if a = Reg.TIME_CMD then timeCommand s v.toNat
  else if a = Reg.TIME_TXTS_POP then
    if bitOf v 0 then { s with time := { s.time with txts := s.time.txts.drop 1 } } else s
  else
    match arrayIdx (Reg.TIME_PORTp_LDELAY_MEAS 0) 0x40 64 a, arrayIdx (Reg.TIME_TOUTn_CMD 0) 0x40 16 a,
        arrayIdx (Reg.TIME_TCAPn_POP 0) 0x40 8 a with
    | some p, _, _ => ldelayMeasure s p (fld v 47 0)
    | _, some n, _ =>
      let s := if bitOf v 0 then toutArm s n else s
      if bitOf v 1 then toutDisarm s n else s
    | _, _, some n => if bitOf v 0 then capturePop s n else s
    | _, _, _ => regWrite s a v

/-- TWIN (R431, R434), FEN (R441, R449). -/
def writeTwinFen (s : State) (x : Around) (a : Nat) (v : W64) : State :=
  if a = Reg.TWIN_CMD then
    goWrite s a v (fun s => twinCommand s (rf s a 3 0) (rb s a 8) (rb s a 9) (rb s a 10))
  else if a = Reg.TWIN_CFG then fenceLook (regWrite s a v) x.sent
  else if a = Reg.FEN_CMD then if bitOf v 0 then fenResync s else s
  else
    match arrayIdx (Reg.TWIN_LANEl_CTRL 0) 0x40 16 a, arrayIdx (Reg.FEN_MEMBERi_CFG 0) 0x10 1024 a with
    | some l, _ =>
      let s := wf (regWrite s a v) a 1 1 0
      if bitOf v 1 then twinLink s l false else s
    | none, some i => memberCfg s i v
    | none, none => regWrite s a v

/-- EVENT (R464, R465, R472), PERF (R478, R479, R482, R483). -/
def writeEventPerf (s : State) (a : Nat) (v : W64) : State :=
  if a = Reg.EVENT_CFG then eventCfg s v
  else if a = Reg.EVENT_RING_BASE then unlessBusy s (rb s Reg.EVENT_CFG 0) a v
  else if a = Reg.EVENT_RING_HEAD then eventHead s v
  else if a = Reg.EVENT_SOFT then eventSoft s v.toNat
  else if a = Reg.PERF_CMD then perfCmd s v.toNat
  else if a = Reg.PERF_BW_WINDOW then bwWindowWrite s v
  else if a = Reg.PERF_PS_CFG then psCfgWrite s v
  else if a = Reg.PERF_PS_RING_BASE then unlessBusy s (rf s Reg.PERF_PS_CFG 1 0 != 0) a v
  else
    match arrayIdx (Reg.EVENT_SRCs_ROUTE 0) 4 4096 a, arrayIdx (Reg.PERF_CNTi_CTL 0) 0x10 1024 a,
        arrayIdx (Reg.PERF_CNTi_VALUE 0) 0x10 1024 a with
    | some n, _, _ => eventRoute s n v
    | _, some i, _ => counterCtl s i v
    | _, _, some i => counterValue s i v.toNat
    | _, _, _ => regWrite s a v

/-- POWER (R493, R500), HOST (R515, R524, R529). -/
def writePowerHost (s : State) (a : Nat) (v : W64) : State :=
  match arrayIdx (Reg.POWER_Hh_CMD 0) 0x20 40 a, arrayIdx (Reg.POWER_Hh_CFG 0) 0x20 40 a,
      arrayIdx (Reg.HOST_MSIXv_CTL 0) 16 256 a with
  | some h, _, _ => goWrite s a v (fun s => powerCommand s h (rf s a 1 0))
  | _, some h, _ => regWrite s a (if h < 16 then v else setFld v 2 1 0)
  | _, _, some n => msixCtl s n v
  | _, _, _ =>
    match (List.range 36).find? (fun e => decide (ringRegs e ≤ a ∧ a < ringRegs e + 0x40)) with
    | some e =>
      let r := a - ringRegs e
      if r = 0 ∨ (r = 8 ∧ 16 ≤ e) then unlessBusy s (ringOn s e) a v
      else if r = 0x18 then ringCfg s e v
      else if r = 0x1C then ringTail s e v
      else regWrite s a v
    | none => regWrite s a v

/-- A write of a whole register by the host. -/
def regSet (s : State) (x : Around) (a : Nat) (v : W64) : State :=
  if a < 0x00100000 then regWrite s a v
  else if a < 0x00400000 then writeBillCore s a v
  else if a < 0x00800000 then writePort s x a v
  else if a < 0x00C00000 then writeTables s a v
  else if a < 0x01400000 then writeStores s a v
  else if a < 0x01C00000 then writeDeepFerm s x a v
  else if a < 0x02400000 then writeMereEgress s a v
  else if a < 0x02600000 then writeAuth s a v
  else if a < 0x02800000 then writeTime s a v
  else if a < 0x02C00000 then writeTwinFen s x a v
  else if a < 0x03000000 then writeEventPerf s a v
  else writePowerHost s a v

/-! ### What registers read -/

/-- Registers of this chapter, of POWER and of CASK whose value is computed (R209, R495, R529). -/
def hostView (s : State) (a : Nat) : Option W64 :=
  if a = Reg.HOST_CPU_CELLS then some (setFld (rd s a) 11 0 (egressUse s 16))
  else if a = Reg.CASK_AGE_PERIOD_EFF then
    let lines := ((List.range 8).filter (regionUsed s)).foldl (fun n g => n + 32 * regionRows s g) 0
    some (BitVec.ofNat 64 (max (rdn s Reg.CASK_AGE_PERIOD) ((lines + 69299999) / 69300000)))
  else
    match arrayIdx (Reg.POWER_Hh_STATUS 0) 0x20 40 a with
    | some h => some (setFld (rd s a) 3 3 (b2n (humState s h == 4 && rb s (Reg.POWER_Hh_CFG h) 2)))
    | none => none

/-- The computed value of a register, if it has one. -/
def viewOf (s : State) (a : Nat) : Option W64 :=
  if a < 0x00200000 then billView s a
  else if a < 0x00400000 then coreView s a
  else if a < 0x00800000 then none
  else if a < 0x01000000 then fwdView s a
  else if a < 0x01400000 then caskView s a <|> hostView s a
  else if a < 0x01800000 then deepView s a
  else if a < 0x01C00000 then fermView s a
  else if a < 0x02000000 then mereView s a
  else if a < 0x02400000 then egressView s a
  else if a < 0x02600000 then authView s a
  else if a < 0x02800000 then timeView s a
  else if a < 0x02A00000 then twinView s a
  else if a < 0x02C00000 then fenView s a
  else if a < 0x02E00000 then eventView s a
  else if a < 0x03000000 then perfView s a
  else hostView s a

/-- One 64-bit word of a register as it reads, before the access types of R10. -/
def shown (s : State) (a : Nat) : W64 := (viewOf s a).getD (rd s a)

/-- A register as a read returns it (R10): WO and RSV fields are zero. -/
def regShown (s : State) (a : Nat) (r : RegRow) : Nat :=
  if r.width = 16 then (shown s a).toNat + (shown s (a + 8)).toNat * 2 ^ 64
  else ((shown s a) &&& BitVec.ofNat 64 (r.rw ||| r.ro ||| r.rc ||| r.w1s ||| r.w1c)).toNat

/-- What a read of a register does beside returning it: RC fields are cleared (R10), the snapshot is taken (R385). -/
def afterRead (s : State) (a : Nat) (r : RegRow) : State :=
  let s := if a = Reg.TIME_SNAP_NS then snapTime s else s
  let s := if a = Reg.HOST_ACC_STATUS then wrn s Reg.HOST_ACC_ADDR 0 else s
  let s := match arrayIdx (Reg.CORE_REGn_STATUS 0) 0x10 101 a with
    | some n => regionPut s n { regionOf s n with minMargin := none }
    | none => s
  if r.rc = 0 then s else wr s a (rd s a &&& ~~~ BitVec.ofNat 64 r.rc)

/-- The register that a dword of BAR0 belongs to: its address, its row and the dword's place in it. -/
def regAt (a : Nat) : Option (Nat × RegRow × Nat) :=
  match findRow a with
  | some r => some (a, r, 0)
  | none =>
    ([1, 2, 3].filterMap (fun k =>
      if a < 4 * k then none
      else
        match findRow (a - 4 * k) with
        | some r => if 4 * k < r.width then some (a - 4 * k, r, k) else none
        | none => none)).head?

/-- The lane and number of the MIB counter at an address (R95). -/
def mibAt (a : Nat) : Option (Nat × Nat) :=
  let off := a - 0x00400000
  let r := off % 0x10000
  if 0x00400000 ≤ a ∧ off < 0x100000 ∧ 0x800 ≤ r ∧ r < 0xC00 then some (4 * (off / 0x10000) + (r - 0x800) / 0x100, r % 0x100 / 8)
  else none

/-- A dword read of a MIB counter (R93): the low word latches the high word, which the next read of the high word returns. -/
def mibRead (s : State) (l k dword value : Nat) : Nat × State :=
  if dword = 0 then (value % 2 ^ 32, latchCounter s l k)
  else
    match tabFind (laneOf s l).latch k with
    | some h => (h, lanePut s l { laneOf s l with latch := tabDel (laneOf s l).latch k })
    | none => (value / 2 ^ 32, s)

/-- The shapes of R506: the dword of a register, its whole 64 bits, or its whole 128 bits for a read. -/
def shapeBad (a n width : Nat) : Bool := a % n != 0 || (n != 4 && n != width)

/-- A BAR0 read (R505, R506): the bytes, or the hummock that it waits for. -/
def bar0Fetch (s : State) (a n : Nat) : Except Nat (List Byte) × State :=
  let zero : List Byte := List.replicate n 0#8
  if !(n == 4 || n == 8 || n == 16) || a % n != 0 then (.ok zero, accReport s 8 0 false a)
  else
    match regAt a with
    | none => (.ok zero, accReport s 2 0 false a)
    | some (base, r, k) =>
      if shapeBad a n r.width then (.ok zero, accReport s 8 0 false a)
      else
        let serve (s : State) : Except Nat (List Byte) × State :=
          let v := regShown s base r
          match (if n = 4 then mibAt base else none) with
          | some (l, c) =>
            let (w, s) := mibRead s l c k v
            (.ok (toLE 4 w), s)
          | none => (.ok (toLE n (v / 2 ^ (32 * k))), afterRead s base r)
        match bar0Hummock base with
        | none => serve s
        | some h =>
          match reach s h with
          | (.serve, s) => serve s
          | (.hold, s) => (.error h, s)
          | (.refuse, s) => (.ok zero, asleepAccess s h 0 false a)

/-- The low dword staged for a register (R507), or its present one. -/
def stagedLow (s : State) (a : Nat) : Nat := (tabFind s.host.staged a).getD (rdn s a % 2 ^ 32)

/-- A write of the bytes of a register, or of one dword of it (R507). -/
def regPut (s : State) (x : Around) (base : Nat) (r : RegRow) (k : Nat) (data : List Byte) : State :=
  let v := leNat data
  let unstage (s : State) : State := { s with host := { s.host with staged := tabDel s.host.staged base } }
  if r.width = 4 then regSet s x base (BitVec.ofNat 64 v)
  else if r.width = 16 then s
  else if data.length = 8 then regSet (unstage s) x base (BitVec.ofNat 64 v)
  else if k = 0 then { s with host := { s.host with staged := tabSet s.host.staged base v } }
  else regSet (unstage s) x base (BitVec.ofNat 64 (stagedLow s base + v * 2 ^ 32))

/-- A BAR0 write (R505 to R507): done, or the hummock that it waits for. `full` tells that the byte enables cover every
dword. -/
def bar0Put (s : State) (x : Around) (a : Nat) (data : List Byte) (full : Bool) : Option Nat × State :=
  let n := data.length
  if !(n == 4 || n == 8) || a % n != 0 || !full then (none, accReport s 8 0 true a)
  else
    match regAt a with
    | none => (none, accReport s 2 0 true a)
    | some (base, r, k) =>
      if shapeBad a n r.width then (none, accReport s 8 0 true a)
      else
        match bar0Hummock base with
        | none => (none, regPut s x base r k data)
        | some h =>
          match reach s h with
          | (.serve, s) => (none, regPut s x base r k data)
          | (.hold, s) => (some h, s)
          | (.refuse, s) => (none, asleepAccess s h 0 true a)

/-- A host write of BAR0. -/
def bar0Write (s : State) (x : Around) (a : Nat) (data : List Byte) (full : Bool) : State :=
  match bar0Put s x a data full with
  | (none, s) => s
  | (some h, s) => holdAccess s h { bar := 0, addr := a, len := data.length, data := some data }

/-- A host read of BAR0. -/
def bar0Read (s : State) (a n : Nat) : State :=
  match bar0Fetch s a n with
  | (.ok bs, s) => emit s (.readData bs)
  | (.error h, s) => holdAccess s h { bar := 0, addr := a, len := n, data := none }

/-- A host read of the counter page (R486): aligned dwords and words; any other shape reads zero with code 8. -/
def bar4Read (s : State) (a n : Nat) : State :=
  if n = 0 ∨ n % 4 ≠ 0 ∨ a % 4 ≠ 0 then emit (accReport s 8 2 false a) (.readData (List.replicate n 0#8))
  else
    emit s (.readData ((List.range (n / 4)).flatMap (fun i =>
      let w := (bar4Word s ((a + 4 * i) / 8 * 8)).toNat
      toLE 4 (if (a + 4 * i) % 8 = 0 then w else w / 2 ^ 32))))

/-- An access that a hummock has held is made now. -/
def serveOne (s : State) (h : HeldAccess) : State :=
  match h.bar, h.data, h.cas with
  | 0, some d, _ =>
    let (x, s) := aroundFree s
    bar0Write s x h.addr d true
  | 0, none, _ => bar0Read s h.addr h.len
  | _, some d, _ => bar2Write s h.addr d
  | _, none, some (c, w) => bar2Cas s h.addr c w
  | _, none, none => bar2Read s h.addr h.len

/-- The accesses that hummock h has held are made, in the order in which they came (R493, R496, R512). -/
def serveHeld (s : State) (h : Nat) : State :=
  let held := (hum s h).held
  held.foldl serveOne (humPut s h { hum s h with held := [] })

/-! ### The commands -/

/-- REGISTER_WRITE (R10): a write of one BAR. -/
def execRegisterWrite (bar : Fin 3) (addr : BitVec 32) (data : List Byte) (full : Bool) (sent : List Nat) (s : State) :
    Host.Outcome State Fault Refusal :=
  let a := addr.toNat
  .next (pump (match bar.val with
    | 0 =>
      let (v, s) := fresh s
      bar0Write s { sent := sent, mr := v % 256 } a data full
    | 1 => if full then bar2Write s a data else accReport s 8 1 true a
    | _ => accReport s 7 2 true a))

/-- REGISTER_READ (R10): a read of one BAR. -/
def execRegisterRead (bar : Fin 3) (addr : BitVec 32) (len : Nat) (s : State) : Host.Outcome State Fault Refusal :=
  let a := addr.toNat
  .next (pump (match bar.val with
    | 0 => bar0Read s a len
    | 1 => bar2Read s a len
    | _ => bar4Read s a len))

/-- HOST_ACC_STATUS_READ (R510). -/
def execHostAccStatusRead (s : State) : Host.Outcome State Fault Refusal := .next (bar0Read s Reg.HOST_ACC_STATUS 4)

/-- ATOMICOP_UNSUPPORTED (R509): it changes nothing and is reported with code 10. -/
def execAtomicopUnsupported (bar : Fin 3) (addr : BitVec 32) (s : State) : Host.Outcome State Fault Refusal :=
  .next (emit (accReport s 10 bar.val true addr.toNat) .unsupported)

/-- COUNTER_LOW_READ (R93). -/
def execCounterLowRead (lane : Fin 64) (k : Fin 22) (s : State) : Host.Outcome State Fault Refusal :=
  .next (bar0Read s (Reg.PORT_LANEl_CNTk lane.val k.val) 4)

/-- TIME_SNAP_READ (R385): the read returns the nanoseconds. -/
def execTimeSnapRead (s : State) : Host.Outcome State Fault Refusal := .next (bar0Read s Reg.TIME_SNAP_NS 4)

/-- A dword written to a register by a row of its own. -/
def rowWrite (s : State) (x : Around) (a : Nat) (v : Nat) : State := pump (bar0Write s x a (toLE 4 v) true)

/-- EGRESS_CELLS_WRITE (R295). -/
def execEgressCellsWrite (quad : Fin 16) (value : BitVec 32) (s : State) : Host.Outcome State Fault Refusal :=
  .next (rowWrite s { sent := [], mr := 0 } (Reg.MERE_Qq_EGRESS_CELLS quad.val) value.toNat)

/-- LANE_CTRL_WRITE (R79). -/
def execLaneCtrlWrite (lane : Fin 64) (value : BitVec 32) (sent : Nat) (s : State) : Host.Outcome State Fault Refusal :=
  .next (rowWrite s { sent := List.replicate 64 sent, mr := 0 } (Reg.PORT_LANEl_CTRL lane.val) value.toNat)

/-- AN_RESTART (R79): the lane negotiates and trains again; its enables stay as they are. -/
def execAnRestart (lane : Fin 64) (s : State) : Host.Outcome State Fault Refusal :=
  let a := Reg.PORT_LANEl_CTRL lane.val
  let (x, s) := aroundFree s
  .next (rowWrite s x a (rdn s a % 8 + 8 + rf s a 6 4 * 16))

/-- DEEP_RETRAIN (R243). -/
def execDeepRetrain (ch : Fin 64) (value : BitVec 32) (s : State) : Host.Outcome State Fault Refusal :=
  .next (rowWrite s { sent := [], mr := 0 } (Reg.DEEP_CHc_CMD ch.val) (value.toNat / 8 * 8 + 1))

/-- DEEP_ZQ_NOW (R248). -/
def execDeepZqNow (ch : Fin 64) (value : BitVec 32) (s : State) : Host.Outcome State Fault Refusal :=
  .next (rowWrite s { sent := [], mr := 0 } (Reg.DEEP_CHc_CMD ch.val) (value.toNat / 8 * 8 + 2))

/-- DEEP_READ_MR (R248). -/
def execDeepReadMr (ch : Fin 64) (value : BitVec 32) (data : BitVec 8) (s : State) : Host.Outcome State Fault Refusal :=
  .next (rowWrite s { sent := [], mr := data.toNat } (Reg.DEEP_CHc_CMD ch.val) (value.toNat / 8 * 8 + 3))

/-- A ring by its engine code, the value written to its CFG: RING_ENABLE (R515). -/
def execRingEnable (ring : Fin 36) (value : BitVec 32) (s : State) : Host.Outcome State Fault Refusal :=
  .next (pump (ringCfg s ring.val (value.setWidth 64)))

/-- TX_RING_TAIL (R515). -/
def execTxRingTail (ring : Fin 16) (value : BitVec 32) (s : State) : Host.Outcome State Fault Refusal :=
  .next (ringTail s ring.val (value.setWidth 64))

/-- RX_RING_TAIL (R519). -/
def execRxRingTail (ring : Fin 16) (value : BitVec 32) (s : State) : Host.Outcome State Fault Refusal :=
  .next (ringTail s (16 + ring.val) (value.setWidth 64))

/-- CQ_TAIL (R521). -/
def execCqTail (queue : Fin 4) (value : BitVec 32) (s : State) : Host.Outcome State Fault Refusal :=
  .next (ringTail s (32 + queue.val) (value.setWidth 64))

end Sys2Proof.Machine
end

