-- ==== Sys2Proof/Machine/HostRings.lean ====
section
/-! DEFINITION. The DMA engines of the host interface (R515 to R528): injection, delivery, command queues, loss and return of
the PCIe link, and reads that fail. -/
namespace Sys2Proof.Machine

/-- A descriptor's CHECK (R116) stands in its last four bytes. -/
def descChecks (d : List Byte) (n : Nat) : Bool := d.length == n && crc32c (d.take (n - 4)) == leAt d (n - 4) 4

/-- Raise the vector of a ring's CFG (R524). -/
def ringVector (s : State) (e : Nat) : State := raiseVector s (rf s (ringCfgReg e) 15 8)

/-! ### Injection (R516, R517) -/

/-- What a TX descriptor says, when every field is valid. -/
def txParse (ring : Nat) (d : List Byte) : Option TxFetch :=
  let len := leAt d 8 2
  let cls := byteAt d 10
  let flags := byteAt d 11
  let dest := leAt d 12 2
  let q := byteAt d 14
  let fcsIn := flags.testBit 0
  let lenOk := if fcsIn then decide (64 ≤ len ∧ len ≤ 9216) else decide (60 ≤ len ∧ len ≤ 9212)
  let destOk := decide (dest < 64 ∨ (0x4000 ≤ dest ∧ dest < 0x8000))
  let rsv := decide (64 ≤ cls ∨ 4 ≤ flags) || q.testBit 3 || q.testBit 7 || byteAt d 15 != 0
  if lenOk && destOk && !rsv then
    some { len := len, fcsIn := fcsIn, irq := flags.testBit 1, cls := cls, dest := dest, queue := q % 8
           inj := { ring := ring, mode := q / 16 % 4, record := q.testBit 6, cookie := leAt d 16 2
                    stamp := leAt d 20 8 * 2 ^ 16 + leAt d 18 2 } }
  else none

/-- Bytes of the injection buffer in use: frames being fetched, and injected frames that have not crossed (R517). -/
def injectUsed (s : State) : Nat :=
  s.host.fetch.foldl (fun n f => n + f.2.len + (if f.2.fcsIn then 0 else 4)) 0 +
    (s.frames.filter (fun f => f.2.inject.isSome && f.2.cells != 0)).foldl (fun n f => n + f.2.bytes.length) 0

/-- A TX descriptor is consumed: HEAD advances and is written back, and the ring's vector follows when it asks (R517). -/
def txConsume (s : State) (ring : Nat) (irq : Bool) : State :=
  let s := ringAdvance s ring
  let s := if rb s (ringCfgReg ring) 1 then
      emit s (.hostWrite (rdn s (Reg.HOST_TXt_HEAD_WB ring)) (toLE 4 (ringHead s ring)))
    else s
  if irq then ringVector s ring else s

/-- TX_DESCRIPTOR: the descriptor at HEAD is fetched and checked. A bad CHECK stops the ring, an invalid field sends no frame,
and a valid frame's fetch begins when the buffer has room. -/
def txDescriptor (s : State) (ring : Nat) (d : List Byte) : State :=
  if !ringLive s ring || ringPending s ring == 0 || (tabFind s.host.fetch ring).isSome || d.length != 32 then s
  else if !descChecks d 32 then ringBadCheck s ring
  else
    match txParse ring d with
    | none => txConsume (raise (cnt s (Reg.HOST_TXt_BAD ring) 1) 0xFCE 0 ring) ring ((byteAt d 11).testBit 1)
    | some f =>
      if 524288 < injectUsed s + f.len + (if f.fcsIn then 0 else 4) then s
      else { s with host := { s.host with fetch := tabSet s.host.fetch ring f } }

/-- An injected frame enters at the Lode's CPU input (R13, R517): its copies are made, and no more. -/
def injectFrame (s : State) (x : TxFetch) (data : List Byte) : State :=
  let body := (data ++ List.replicate (x.len - data.length) 0#8).take x.len
  let bytes := if x.fcsIn then body else body ++ toLE 4 (crc32 body)
  let f := s.nextFrame
  let fr : Frame :=
    { port := 64, bytes := bytes, done := true, stamp := time16 s, tick := tickNo s, cls := x.cls, gen := billGen s
      looked := true, verdict := some true, inject := some x.inj, disposed := true, queue := x.queue, dest := x.dest
      admitted := true, cells := cellsOf bytes.length }
  let s := framePut { s with nextFrame := f + 1 } f fr
  let dests := match expandDest s (fwdPolicy s) fr x.dest with
    | .hit ps => ps
    | _ => []
  frameCheck (makeCopies s f fr dests x.queue).2 f

/-- TX_FRAME_CONSUMED: the frame has been fetched whole. -/
def txFrame (s : State) (ring : Nat) (data : List Byte) : State :=
  match tabFind s.host.fetch ring with
  | none => s
  | some x =>
    if !ringLive s ring then s
    else
      let s := { s with host := { s.host with fetch := tabDel s.host.fetch ring } }
      txConsume (cntWrap (injectFrame s x data) (Reg.HOST_TXt_FRAMES ring) 1) ring x.irq

/-! ### Delivery (R518 to R520) -/

/-- The RX ring of a copy for the CPU port (R518). -/
def rxRing (s : State) (c : Copy) : Nat :=
  if c.sample.isSome then rf s Reg.HOST_CFG 3 0 else rf s (Reg.HOST_RXSELc c.cls) 3 0

/-- The next copy of an RX ring: the first that left output 16 among those that have crossed whole. -/
def rxNext (s : State) (ring : Nat) : Option (Nat × Copy) :=
  (s.mere.copies.filter (fun c => c.2.port == 64 && copyHere s c.2 && rxRing s c.2 == ring)).foldl (fun b c =>
    match b with
    | none => some c
    | some d => if copyPlace s c.2 < copyPlace s d.2 then some c else b) none

/-- TAG as the headers for the host carry it. -/
def tagOf (fr : Frame) : Nat := fr.tag.getD 0xFFFF

/-- The trap header (R520). -/
def trapHeader (s : State) (fr : Frame) (len : Nat) : List Byte :=
  let ts := (ingressRef s fr.port fr.stamp).toNat
  let flags := b2n fr.parsed.depth + 2 * b2n fr.parsed.conflict + 4 * b2n fr.key.dir + 8 * b2n fr.hit + 16 * b2n fr.fwd.routed +
    32 * (fr.auth % 2) + 64 * (fr.auth / 2 % 2) + 256 * (fr.auth / 256 % 256)
  toLE 2 len ++ toLE 1 fr.port ++ toLE 1 fr.cls ++ toLE 1 fr.cause ++ toLE 1 fr.reason ++ toLE 2 (fr.vid + fr.ftype * 2 ^ 12) ++
    toLE 8 (ts / 2 ^ 16) ++ toLE 2 (ts % 2 ^ 16) ++ toLE 2 (tagOf fr) ++ toLE 4 fr.h1 ++ toLE 2 flags ++ toLE 2 fr.gen ++ toLE 4 0

/-- The sample header (R321). -/
def sampleHeader (fr : Frame) (sel : Nat) : List Byte :=
  toLE 2 fr.bytes.length ++ toLE 1 fr.port ++ toLE 1 fr.cls ++ toLE 1 sel ++ toLE 1 fr.queue ++ toLE 2 fr.dest ++
    toLE 8 (fr.stamp / 2 ^ 16) ++ toLE 8 fr.endTick ++ toLE 2 (tagOf fr) ++ toLE 2 0 ++ toLE 4 fr.h1

/-- What a copy writes to the host: header and frame as received; with the stomped FCS where R322 asks for it. -/
def rxBytes (s : State) (c : Copy) : List Byte :=
  match frameOf s c.frame with
  | none => []
  | some fr =>
    let read := (asRead s c fr).bytes
    let whole := if c.stomp then read.take (read.length - 4) ++ stompBytes (read.take (read.length - 4)) else read
    match c.sample with
    | some (sel, _) => sampleHeader fr sel ++ whole.take (copyBytes s c)
    | none => trapHeader s fr whole.length ++ whole

/-- Bytes of a buffer of an RX ring (R519). -/
def rxBuffer (s : State) (ring : Nat) : Nat := 64 * rf s (Reg.HOST_RXr_CFG ring) 24 16

/-- Fill the buffers of the descriptors in turn, from byte `at_` of the copy's bytes on: each is checked and takes its
completion; a bad CHECK stops the ring there. -/
def rxFill (ring copy : Nat) (bytes : List Byte) (sample : Bool) : List (List Byte) → State → Nat → State
  | [], s, _ => s
  | d :: ds, s, at_ =>
    let e := 16 + ring
    if !ringLive s e || bytes.length ≤ at_ || ringPending s e == 0 then s
    else if !descChecks d 16 then ringBadCheck s e
    else
      let part := slice bytes at_ (rxBuffer s ring)
      let last := decide (bytes.length ≤ at_ + part.length)
      let marks := b2n (at_ == 0) + 2 * b2n last + 4 * b2n sample + 128 * ringPhase s e
      let s := emit s (.hostWrite (leAt d 0 8) part)
      let s := emit s (.hostWrite (rdn s (Reg.HOST_RXr_CMPL ring) + 8 * ringHead s e)
        (toLE 2 part.length ++ toLE 1 marks ++ toLE 1 ring ++ toLE 4 bytes.length))
      let s := ringAdvance s e
      if last then
        let s := cntWrap { s with host := { s.host with rxPart := tabDel s.host.rxPart ring } } (Reg.HOST_RXr_FRAMES ring) 1
        copyGone (ringVector s e) copy
      else
        rxFill ring copy bytes sample ds
          { s with host := { s.host with rxPart := tabSet s.host.rxPart ring (copy, at_ + part.length) } } (at_ + part.length)

/-- RX_FRAME_DELIVER: the ring's next frame is written once ceil(T / B) buffers are posted; without them it waits, or is dropped
under DROP_EN. -/
def rxDeliver (s : State) (ring : Nat) (descs : List (List Byte)) : State :=
  let e := 16 + ring
  let next := match tabFind s.host.rxPart ring with
    | some (n, at_) => (copyOf s n).map (fun c => (n, c, at_))
    | none => (rxNext s ring).map (fun c => (c.1, c.2, 0))
  match next with
  | none => s
  | some (n, c, at_) =>
    let bytes := rxBytes s c
    let b := rxBuffer s ring
    if !ringLive s e || b == 0 then s
    else if ringPending s e < (bytes.length - at_ + b - 1) / b then
      if rb s (ringCfgReg e) 1 && at_ == 0 then
        copyGone (raise (cnt s (Reg.HOST_RXr_NOBUF ring) 1) 0xFCD 0 ring) n
      else s
    else rxFill ring n bytes c.sample.isSome descs s at_

/-! ### Command queues (R521 to R523) -/

/-- A head with FENCE waits for every command admitted before it. -/
def cqFenced (s : State) (q : Nat) : Bool := s.host.admitted.head? != some q

/-- Queue q is served next: no command is in progress, and no queue nearer in turn after the last has a head that may start. -/
def cqTurn (s : State) (q : Nat) : Bool :=
  let ready (k : Nat) : Bool := ringLive s (32 + k) && ringPending s (32 + k) != 0
  let nearer (k : Nat) : Bool := decide ((k + 3 - s.host.last) % 4 < (q + 3 - s.host.last) % 4)
  ready q && (List.range 4).all (fun k => !(nearer k && ready k) || (s.host.fenced.contains k && cqFenced s k))

/-- End the command at HEAD of queue q: completion, HEAD, counters, vector (R523). -/
def cqEnd (s : State) (q : Nat) (cmd : List Byte) (status code index : Nat) (reads : List Nat) : State :=
  let e := 32 + q
  let body := slice cmd 4 4 ++ toLE 1 status ++ toLE 1 code ++ toLE 1 index ++ toLE 1 (ringPhase s e) ++
    (List.range 6).flatMap (fun i => toLE 4 (reads.getD i 0))
  let s := emit s (.hostWrite (rdn s (Reg.HOST_CQq_CMPL q) + 32 * ringHead s e) body)
  let s := cntWrap s (Reg.HOST_CQq_CMDS q) 1
  let s := if status = 0 then s else cnt s (Reg.HOST_CQq_FAILS q) 1
  let s := ringAdvance s e
  let s := { s with host := { s.host with
    cur := none, last := q, admitted := s.host.admitted.erase q, fenced := s.host.fenced.filter (· != q) } }
  if (byteAt cmd 1).testBit 0 then ringVector s e else s

/-- One access of a command runs: its outcome is the code that it met (R522). -/
def cqAccess {α : Type} (s : State) (f : State → α × State) : α × Nat × State :=
  let (x, s) := f { s with host := { s.host with probe := some 0 } }
  (x, s.host.probe.getD 0, { s with host := { s.host with probe := none } })

/-- The accesses of a WRITE or READ from number i on: they stop at one that does not complete normally, and pause at one that
waits for a hummock. -/
def cqRun (cmd : List Byte) (q : Nat) (write : Bool) (count : Nat) : Nat → State → CqCmd → State
  | 0, s, _ => s
  | fuel + 1, s, c =>
    let i := c.done
    if count ≤ i then cqEnd s q cmd 0 0 0 c.reads
    else if write then
      let (x, s) := aroundFree s
      let (held, code, s) := cqAccess s (fun s => bar0Put s x (leAt cmd (8 + 8 * i) 4) (slice cmd (12 + 8 * i) 4) true)
      match held with
      | some _ => { s with host := { s.host with cur := some c } }
      | none => if code = 0 then cqRun cmd q write count fuel s { c with done := i + 1 } else cqEnd s q cmd 3 code i []
    else
      let (r, code, s) := cqAccess s (fun s => bar0Fetch s (leAt cmd (8 + 4 * i) 4) 4)
      match r with
      | .error _ => { s with host := { s.host with cur := some c } }
      | .ok bs =>
        let c := { c with done := i + 1, reads := c.reads ++ [leNat bs] }
        if code = 0 then cqRun cmd q write count fuel s c else cqEnd s q cmd 3 code i c.reads

/-- One read of a WAIT's register: it ends on a match, at TIMEOUT or on an access that fails. -/
def cqPoll (s : State) (c : CqCmd) : State :=
  let (r, code, s) := cqAccess s (fun s => bar0Fetch s (leAt c.bytes 8 4) 4)
  match r with
  | .error _ => { s with host := { s.host with cur := some c } }
  | .ok bs =>
    let v := leNat bs
    if code ≠ 0 then cqEnd s c.queue c.bytes 3 code 0 [v]
    else if v &&& leAt c.bytes 12 4 = leAt c.bytes 16 4 then cqEnd s c.queue c.bytes 0 0 0 [v]
    else if elapsed s c.since (1000 * leAt c.bytes 20 4) then cqEnd s c.queue c.bytes 4 0 0 [v]
    else { s with host := { s.host with cur := some { c with polled := nowNs s } } }

/-- CQ_WRITE, CQ_READ and CQ_WAIT (R521, R522): the command at HEAD is fetched and runs, if its queue's turn has come and it is of
the row's kind. A bad CHECK or a reserved OP ends it; COUNT outside 1 to 6 and TIMEOUT outside 1 to 65,535 end it as BAD_OP. -/
def cqCommand (s : State) (q op : Nat) (cmd : List Byte) : State :=
  match s.host.cur with
  | some c =>
    if c.queue ≠ q ∨ byteAt c.bytes 0 ≠ op ∨ op = 3 then s
    else cqRun c.bytes q (op == 1) (leAt c.bytes 2 2) 8 s c
  | none =>
    if cmd.length ≠ 64 ∨ !cqTurn s q then s
    else if !descChecks cmd 64 then cqEnd s q cmd 1 0 0 []
    else if (byteAt cmd 1).testBit 1 && cqFenced s q then
      { s with host := { s.host with fenced := q :: s.host.fenced.filter (· != q) } }
    else if byteAt cmd 0 = 0 ∨ 3 < byteAt cmd 0 then cqEnd s q cmd 2 0 0 []
    else if byteAt cmd 0 ≠ op then s
    else
      let count := leAt cmd 2 2
      let time := leAt cmd 20 4
      let c : CqCmd := { queue := q, bytes := cmd, since := nowNs s, polled := nowNs s }
      if op = 3 then
        if time = 0 ∨ 65535 < time then cqEnd s q cmd 2 0 0 [] else cqPoll s c
      else if count = 0 ∨ 6 < count then cqEnd s q cmd 2 0 0 []
      else cqRun cmd q (op == 1) count 8 s c

/-- CQ_WAIT_POLL: the register of the WAIT in progress is read again, 100 ns after the last read. -/
def cqPollAgain (s : State) (q : Nat) : State :=
  match s.host.cur with
  | some c => if c.queue = q ∧ byteAt c.bytes 0 = 3 ∧ elapsed s c.polled 100 then cqPoll s c else s
  | none => s

/-- A command paused at a sleeping hummock goes on. -/
def cqResume (s : State) : State :=
  match s.host.cur with
  | some c => if byteAt c.bytes 0 = 3 then cqPoll s c else cqCommand s c.queue (byteAt c.bytes 0) []
  | none => s

/-! ### Loss and return of the link (R525, R526) -/

/-- A bill fetch from host memory is in progress. -/
def billFetches (s : State) : Bool :=
  (s.bill.op == 1 || s.bill.op == 3) && ((billState s == 1 && !s.bill.waitFollower) || billState s == 2)

/-- The DMA engines at work, bit per engine code (R528). -/
def enginesOn (s : State) : Nat :=
  (List.range 36).foldl (fun m e => m + b2n (ringOn s e) * 2 ^ e) 0 + b2n (rb s Reg.EVENT_CFG 0) * 2 ^ 0x30 +
    b2n (rf s Reg.PERF_PS_CFG 1 0 != 0) * 2 ^ 0x31 + b2n (decide (2 ≤ rf s Reg.AUTH_HJ_SIZE 15 0)) * 2 ^ 0x32 +
    b2n (billFetches s) * 2 ^ 0x33

/-- STEP and READ_ROW end with RESULT 7. -/
def bulkEnds (s : State) : State :=
  let s := if s.lauter.step.isSome then lauterResult { s with lauter := { s.lauter with step := none } } 7 else s
  if s.cask.cmd.any (fun c => c.op == 10) then caskCmdDone { s with cask := { s.cask with result := some 7 } } else s

/-- Every DMA engine stops (R525). -/
def stopEngines (s : State) : State :=
  let up := rdn s Reg.HOST_LINK
  let on := enginesOn s
  let s := (List.range 36).foldl (fun s e => if ringOn s e then ringStop (ringDiscard s e) e else s) s
  let s := if rb s Reg.EVENT_CFG 0 then eventCfg s (setFld (rd s Reg.EVENT_CFG) 0 0 0) else s
  let s := wf s Reg.AUTH_HJ_HEAD 31 31 1
  let s := if billFetches s then fetchError s else s
  raise (bulkEnds s) 0xFC9 up on

/-- The HOST registers that R526 leaves: HOST_LINK_LOSSES, the pending vectors (R525) and the state of the link. -/
def hostKeeps (a : Nat) : Bool :=
  a == Reg.HOST_LINK_LOSSES || a == Reg.HOST_LINK || decide (Reg.HOST_MSIX_PBAw 0 ≤ a)

/-- The configuration space, the MSI-X table and the HOST registers are reset (R526); RX copies wait. -/
def resetHost (s : State) : State :=
  { s with
    regs := s.regs.filter (fun r => decide (r.1 < Reg.HOST_CFG) || hostKeeps r.1)
    host := { s.host with
      staged := s.host.staged.filter (fun r => decide (r.1 < Reg.HOST_CFG)), fetch := [], rxPart := [], admitted := [], fenced := []
      last := 3, cur := none } }

/-- The link goes down (R525, R526). -/
def linkLost (s : State) : State :=
  let was := rb s Reg.HOST_LINK 0
  let s := stopEngines s
  let s := if was then cnt s Reg.HOST_LINK_LOSSES 1 else s
  wrn (resetHost s) Reg.HOST_LINK 0

/-- A device DMA read fails (R527): the engine stops at its descriptor. -/
def dmaError (s : State) (engine kind : Nat) : State :=
  let s := raise s 0xFCC engine kind
  if engine < 36 then
    let s := if engine < 16 then { s with host := { s.host with fetch := tabDel s.host.fetch engine } } else s
    let s := if 32 ≤ engine && s.host.cur.any (fun c => c.queue + 32 == engine) then
        { s with host := { s.host with cur := none } }
      else s
    ringStop s engine
  else if engine = 0x32 then wf s Reg.AUTH_HJ_HEAD 31 31 1
  else if engine = 0x33 then fetchError s
  else s

/-! ### The commands -/

/-- TX_DESCRIPTOR (R516). -/
def execTxDescriptor (ring : Fin 16) (desc : List Byte) (s : State) : Host.Outcome State Fault Refusal :=
  .next (txDescriptor s ring.val desc)

/-- TX_FRAME_CONSUMED (R517). -/
def execTxFrameConsumed (ring : Fin 16) (data : List Byte) (s : State) : Host.Outcome State Fault Refusal :=
  .next (pump (txFrame s ring.val data))

/-- RX_FRAME_DELIVER (R518). -/
def execRxFrameDeliver (ring : Fin 16) (descs : List (List Byte)) (s : State) : Host.Outcome State Fault Refusal :=
  .next (pump (rxDeliver s ring.val descs))

/-- CQ_WRITE (R522). -/
def execCqWrite (queue : Fin 4) (cmd : List Byte) (s : State) : Host.Outcome State Fault Refusal :=
  .next (pump (cqCommand s queue.val 1 cmd))

/-- CQ_READ (R522). -/
def execCqRead (queue : Fin 4) (cmd : List Byte) (s : State) : Host.Outcome State Fault Refusal :=
  .next (pump (cqCommand s queue.val 2 cmd))

/-- CQ_WAIT (R522). -/
def execCqWait (queue : Fin 4) (cmd : List Byte) (s : State) : Host.Outcome State Fault Refusal :=
  .next (pump (cqCommand s queue.val 3 cmd))

/-- CQ_WAIT_POLL (R522). -/
def execCqWaitPoll (queue : Fin 4) (s : State) : Host.Outcome State Fault Refusal := .next (pump (cqPollAgain s queue.val))

/-- PCIE_LINK_DOWN (R525, R526). -/
def execPcieLinkDown (s : State) : Host.Outcome State Fault Refusal := .next (pump (linkLost s))

/-- PCIE_LINK_UP (R528). -/
def execPcieLinkUp (speed : BitVec 3) (width : BitVec 4) (s : State) : Host.Outcome State Fault Refusal :=
  let s := wrn s Reg.HOST_LINK (1 + speed.toNat * 2 + width.toNat * 16)
  .next (raise s 0xFCA (pack2 speed.toNat width.toNat) 0)

/-- FUNCTION_LEVEL_RESET (R526). -/
def execFunctionLevelReset (s : State) : Host.Outcome State Fault Refusal :=
  .next (pump (raise (resetHost (stopEngines s)) 0xFCF 0 0))

/-- DMA_READ_ERROR (R527). -/
def execDmaReadError (engine : Fin 52) (kind : Fin 4) (s : State) : Host.Outcome State Fault Refusal :=
  .next (pump (dmaError s engine.val kind.val))

end Sys2Proof.Machine
end

