-- ==== Sys2Proof/Machine/Chip.lean ====
section
/-! DEFINITION. Resets, fuses and the monitored temperature (R531 to R542, R570). -/
namespace Sys2Proof.Machine

/-! ### Resets (R536, R537) -/

/-- The device after a reset of every block: what the fuses, the JTAG port and the pins hold stays, and the model's own fields. -/
def clearBlocks (s : State) (regs : List (Nat × W64)) : State :=
  { State.reset with
    pending := s.pending, free := s.free, out := s.out, regs := regs, twin := { fenceIn := s.twin.fenceIn }
    chip := { s.chip with rstN := false, tjArmed := true } }

/-- Power-on reset: everything but the fuses is cleared. -/
def powerOn (s : State) : State :=
  let t := clearBlocks s State.reset.regs
  { t with chip := { fuses := s.chip.fuses, grade := s.chip.grade, serial := s.chip.serial } }

/-- Chip reset: every block is cleared; frames in transmission are cut off after the bytes that have left. CHIP_SCRATCH0 to 3
stay, and CHIP_RST_CAUSE names the reset. -/
def chipReset (s : State) (pwrgood : Bool) (sent : List Nat) : State :=
  let s := (List.range 64).foldl (fun s p => cutOff s p (sent.getD p 0)) s
  let scratch := s.regs.filter (fun r => decide (Reg.CHIP_SCRATCHn 0 ≤ r.1 ∧ r.1 < Reg.CHIP_SCRATCHn 4))
  let t := clearBlocks s ((Reg.CHIP_RST_CAUSE, 2) :: scratch)
  { t with chip := { t.chip with pwrgood := pwrgood } }

/-- Release of reset (R542): fuses and strap are read, the PLL locks when TREF_IN is there, and boot calibration leaves every
region at its code. -/
def resetRelease (s : State) (bootHost tref : Bool) (margins : List (List Nat)) : State :=
  if s.chip.rstN then s
  else
    let s := { s with chip := { s.chip with rstN := true, pwrgood := true } }
    let s := wrn (wrn s Reg.CHIP_ORDER (s.chip.grade % 2)) Reg.CHIP_SERIAL s.chip.serial
    let s := wrn s Reg.CHIP_STRAPS (b2n bootHost)
    let s := if tref then wf s Reg.TIME_STATUS 1 0 3 else s
    (List.range 101).foldl (fun s n =>
      let (code, s) := sweptCode s (margins.getD n [])
      wf s (Reg.CORE_REGn_STATUS n) 5 0 code) s

/-! ### Fuses (R539 to R541) -/

/-- The part of FUSE_PROG's value that a field takes. -/
def fuseValue (field v : Nat) : Nat :=
  if field = 2 ∨ field = 4 then v % 2 else if field = 5 then v % 2 ^ 256 else v % 2 ^ 128

/-- FUSE_PROG at Update-DR: the request is refused, names a programmed field, or starts programming. -/
def fuseRequest (s : State) (field v : Nat) (tj : Int) : State :=
  let s := { s with chip := { s.chip with tap := some 0x3A } }
  let answer (again refused : Bool) : State := { s with chip := { s.chip with fuseAgain := again, fuseRefused := refused } }
  let key := field == 1 || field == 3 || field == 5
  if s.chip.rstN || !s.chip.pwrgood || decide (tj < 0 ∨ 400 < tj) || decide (field = 0 ∨ 5 < field) ||
      (key && fuseValue field v == 0) || s.chip.prog.isSome then answer false true
  else if (tabFind s.chip.fuses field).isSome then answer true false
  else
    { s with chip := { s.chip with prog := some (field, fuseValue field v), fuseAgain := false, fuseRefused := false } }

/-- Programming ends. A revocation field whose bit is 0 has no fuse to blow and stays unprogrammed. -/
def fuseDone (s : State) : State :=
  match s.chip.prog with
  | none => s
  | some (f, v) =>
    let s := { s with chip := { s.chip with prog := none } }
    if v = 0 then s else { s with chip := { s.chip with fuses := tabSet s.chip.fuses f v } }

/-- The 8 bits of FUSE_STATUS. -/
def fuseStatus (s : State) : Nat :=
  (List.range 5).foldl (fun n i => n + b2n (tabFind s.chip.fuses (i + 1)).isSome * 2 ^ i) 0 +
    b2n s.chip.prog.isSome * 32 + b2n s.chip.fuseAgain * 64 + b2n s.chip.fuseRefused * 128

/-! ### Temperature (R570) -/

/-- CHIP_TJ is updated and compared with its limit; event 0x032 is armed again 2 °C below the limit. -/
def tjSample (s : State) (tj : Nat) : State :=
  let limit := rf s Reg.CHIP_TJ_LIMIT 11 0
  let t := signed 12 tj
  let l := signed 12 limit
  let hot := decide (l ≤ t)
  let s := wf (wrn s Reg.CHIP_TJ tj) Reg.CHIP_ALERT 1 1 (b2n hot)
  if hot && s.chip.tjArmed then
    raise { s with chip := { s.chip with tjArmed := false } } 0x032 tj limit
  else if t ≤ l - 8 then { s with chip := { s.chip with tjArmed := true } }
  else s

/-! ### The commands -/

/-- POWER_ON_RESET (R536). -/
def execPowerOnReset (s : State) : Host.Outcome State Fault Refusal := .next (powerOn s)

/-- CHIP_RESET (R536, R537). -/
def execChipReset (pwrgood : Bool) (sent : List Nat) (s : State) : Host.Outcome State Fault Refusal :=
  .next (chipReset s pwrgood sent)

/-- PCIE_FUNDAMENTAL_RESET (R536): as R526, and R525 applies. -/
def execPcieFundamentalReset (s : State) : Host.Outcome State Fault Refusal :=
  .next (wf (linkLost s) Reg.CHIP_RST_CAUSE 2 2 1)

/-- JTAG_RESET (R536): the TAP controller. -/
def execJtagReset (s : State) : Host.Outcome State Fault Refusal := .next { s with chip := { s.chip with tap := none } }

/-- RESET_RELEASE (R542). -/
def execResetRelease (bootHost tref : Bool) (margins : List (List Nat)) (s : State) : Host.Outcome State Fault Refusal :=
  .next (resetRelease s bootHost tref margins)

/-- FUSE_PROG (R540). -/
def execFuseProg (field : BitVec 8) (value : BitVec 256) (tj : BitVec 12) (s : State) : Host.Outcome State Fault Refusal :=
  .next (fuseRequest s field.toNat value.toNat tj.toInt)

/-- FUSE_STATUS (R540). -/
def execFuseStatus (s : State) : Host.Outcome State Fault Refusal :=
  .next (emit { s with chip := { s.chip with tap := some 0x3B } } (.jtag (fuseStatus s)))

/-- FUSE_PROGRAM_COMPLETE (R540). -/
def execFuseProgramComplete (s : State) : Host.Outcome State Fault Refusal := .next (fuseDone s)

/-- TJ_SAMPLE (R570). -/
def execTjSample (tj : BitVec 12) (s : State) : Host.Outcome State Fault Refusal := .next (tjSample s tj.toNat)

end Sys2Proof.Machine
end

