-- ==== Sys2Proof/Machine/Power.lean ====
section
/-! DEFINITION. Sleep and wake of the hummocks (R489 to R497): the votes of the blocks, commit and rollback, waking,
self-test and fen watch. -/
namespace Sys2Proof.Machine

/-! ### The votes of the blocks (R490, R493 and the chapters it names) -/

/-- What an asked block answers. -/
inductive Vote where
  | agree | refuse (id : Nat) | wait
deriving DecidableEq, Repr

/-- Twin lanes of group g (R490): they refuse while the twin runs over one of them. -/
def twinVote (s : State) (g : Nat) : Vote :=
  let used := (List.range 4).any (fun i => (sec s 0x0C 2 2).testBit (4 * g + i))
  if used && decide (2 ≤ rf s Reg.TWIN_STATUS 2 0) then .refuse (0x0800 + g) else .agree

/-- A region's calibrator (R67): it refuses in forced recalibration and waits while a code change is in progress. -/
def regionVote (s : State) (n : Nat) : Vote :=
  if s.core.recal = some n then .refuse (0x0200 + n)
  else if (regionOf s n).nextCode.isSome then .wait else .agree

/-- A deep-memory channel (R234, R235). -/
def channelVote (s : State) (c : Nat) : Vote :=
  let x := chanOf s c
  if retraining s c then .refuse (0x0940 + c)
  else if x.reads != [] || x.writes != [] || x.writeWait != [] || x.inflight != [] then .refuse (0x0900 + c)
  else if !rb s (Reg.DEEP_CHc_STATUS c) 0 || chanFailed s c || chanPower s c == 3 then .agree
  else .wait

/-- The group check of deep memory (R235): regions lie under the group and it may not wake on access. -/
def groupVote (s : State) (g : Nat) : Vote :=
  let used := (List.range 8).any (regionUsed s) && decide (8 * g < 2 ^ chanBits s)
  if used && !rb s (Reg.POWER_Hh_CFG (20 + g)) 0 then .refuse (0x0980 + g) else .agree

/-- A Cellar quarter (R184): it refuses while it holds a dirty, pinned, locked or poisoned way. -/
def cellarVote (s : State) (q : Nat) : Vote :=
  if s.cask.cellar.any (fun e => e.1 / 16384 == q && e.2.any (fun w => w.dirty || wayFixed s w)) then .refuse (0x0700 + q)
  else .agree

/-- A Lauter half (R166): it refuses while any entry is VALID. -/
def lauterVote (s : State) (k : Nat) : Vote :=
  if s.fwd.slots.any (fun e => decide (slotKey 8 (32768 * k) ≤ e.1 ∧ e.1 < slotKey 8 (32768 * (k + 1))) && e.2.valid) then
    .refuse (0x0400 + k)
  else .agree

/-- The port lanes of quad q (R490). -/
def lanesVote (s : State) (q : Nat) : Vote :=
  if (List.range 4).any (fun i =>
      let l := 4 * q + i
      linkUp s l || rb s (Reg.PORT_LANEl_CTRL l) 0 || rb s (Reg.PORT_LANEl_CTRL l) 1) then .refuse (0x0100 + q)
  else .agree

/-- The answer of the block with id `id`. -/
def blockVote (s : State) (id : Nat) : Vote :=
  let n := id % 256
  match id / 256 with
  | 1 => lanesVote s n
  | 2 => regionVote s n
  | 3 => if ingressUse s n + egressUse s n = 0 then .agree else .refuse id
  | 4 => lauterVote s n
  | 5 => if slotsUsed s n = 0 then .agree else .wait
  | 7 => cellarVote s n
  | 8 => twinVote s n
  | 9 => if n < 0x80 then channelVote s n else groupVote s (n - 0x80)
  | _ => if s.auth.jobs.any (fun j => j.2.core == n) then .refuse id else .agree

/-- The block that hummock h asks now. -/
def askedBlock (s : State) (h : Nat) : Option Nat := (humBlocks h)[(hum s h).agreed]?

/-- The next vote of hummock h in PREPARE (R493). A channel that is ACTIVE begins to drain when it is asked. -/
def prepareVote (s : State) (h : Nat) : State :=
  match (if humState s h = 1 then askedBlock s h else none) with
  | none => s
  | some id =>
    match blockVote s id with
    | .refuse r => giveUp s h r
    | .wait =>
      let c := id - 0x0900
      if 0x0900 ≤ id ∧ id < 0x0940 ∧ chanPower s c = 0 then chanPowerSet s c 1 else s
    | .agree =>
      let x := hum s h
      let s := humPut s h { x with agreed := x.agreed + 1, asked := nowNs s }
      if x.agreed + 1 < (humBlocks h).length then s else humEnter s h (if x.test then 6 else 3)

/-- No vote within POWER_PREPARE_LIMIT (R493): the block asked counts as the refuser. -/
def prepareExpired (s : State) (h : Nat) : State :=
  match (if humState s h = 1 ∧ elapsed s (hum s h).asked (1000 * rf s Reg.POWER_PREPARE_LIMIT 15 0) then askedBlock s h
    else none) with
  | some id => giveUp s h id
  | none => s

/-- A quarter that still holds slots FERM_QUIESCE after prepare began refuses (R279). -/
def quiesceTimeout (s : State) : State :=
  (List.range 4).foldl (fun s q =>
    if humState s (28 + q) = 1 ∧ (hum s (28 + q)).agreed = 0 ∧ 0 < slotsUsed s q ∧
        elapsed s (hum s (28 + q)).asked (1000 * rf s Reg.FERM_QUIESCE 15 0) then giveUp s (28 + q) (0x0500 + q) else s) s

/-! ### Idleness (R491) -/

/-- A block of hummock h reports work. -/
def blockBusy (s : State) (id : Nat) : Bool :=
  let n := id % 256
  match id / 256 with
  | 1 => (List.range 4).any (fun i => linkUp s (4 * n + i))
  | 2 => s.core.recal == some n
  | 3 => ingressUse s n + egressUse s n != 0
  | 4 => (match s.lauter.move with
    | some m => m.todo.any (fun x => x.1 / 32768 == n || x.2 / 32768 == n)
    | none => false) || s.lauter.cmd.any (fun c => c.index / 32768 == n)
  | 5 => slotsUsed s n != 0
  | 8 => (List.range 4).any (fun i => rb s Reg.TWIN_STATUS (16 + 4 * n + i))
  | 9 => decide (n < 0x80) && (let x := chanOf s n
    retraining s n || x.reads != [] || x.writes != [] || x.writeWait != [] || x.inflight != [])
  | 10 => s.auth.jobs.any (fun j => j.2.core == n)
  | _ => false

/-- The idle timer of hummock h reaches POWER_Hh_IDLE: it enters PREPARE, or the timer starts again when a block has work. -/
def idleExpired (s : State) (h : Nat) : State :=
  let limit := rdn s (Reg.POWER_Hh_IDLE h)
  if humState s h ≠ 0 ∨ limit = 0 ∨ elapsed s (hum s h).idleSince (1000 * limit) = false then s
  else if (humBlocks h).any (blockBusy s) then touch s h
  else startPrepare s h false

/-! ### Rollback (R493) -/

/-- Accesses, commands and jobs that waited for hummock h go on. -/
def humResume (s : State) (h : Nat) : State := pump (cqResume (placeJobs (lauterResume (serveHeld s h))))

/-- The block resumed now has acknowledged; a channel in self-refresh leaves it first. -/
def resumeAck (s : State) (h : Nat) : State :=
  let x := hum s h
  if humState s h ≠ 2 then s
  else
    let c := ((humBlocks h)[x.agreed - 1]?).getD 0 - 0x0900
    let channel := 20 ≤ h ∧ h < 28 ∧ 2 ≤ x.agreed ∧ x.agreed ≤ 9
    if channel ∧ chanPower s c = 3 then chanPowerSet s c 4
    else if channel ∧ chanPower s c = 4 then s
    else if 1 < x.agreed then humPut s h { x with agreed := x.agreed - 1 }
    else
      let s := humPut s h { x with agreed := 0, test := false, idleSince := nowNs s }
      let s := cnt (lastRefuser (humEnter s h 0) h x.refuser) (Reg.POWER_Hh_ABORTED h) 1
      let s := raise s 0x042 (h + x.refuser * 2 ^ 16) x.resumed
      humResume s h

/-! ### Sleeping (R493, R494) -/

/-- The regions of a hummock. -/
def humRegions (h : Nat) : List Nat := (List.range 101).filter (fun n => regionHummock n == some h)

/-- What sleep takes from a hummock: twin lanes go down, the clean ways of a Cellar quarter are dropped, channels in self-refresh
lose their PHY, regions keep their codes. -/
def sleepBlocks (s : State) (h : Nat) : State :=
  let s := if 16 ≤ h ∧ h < 20 then (List.range 4).foldl (fun s i => twinLink s (4 * (h - 16) + i) false) s
    else if 20 ≤ h ∧ h < 28 then (List.range 8).foldl (fun s i =>
      let c := 8 * (h - 20) + i
      if chanPower s c = 3 then chanPowerSet s c 5 else s) s
    else if 32 ≤ h ∧ h < 36 then
      { s with cask := { s.cask with cellar := s.cask.cellar.filter (fun e => e.1 / 16384 != h - 32) } }
    else s
  (humRegions h).foldl regionSleep s

/-- An access held in COMMIT meets a hummock that may not wake on access (R496). -/
def refuseHeld (h : Nat) (s : State) (x : HeldAccess) : State :=
  let s := asleepAccess s h x.bar (x.data.isSome || x.cas.isSome) x.addr
  if x.data.isSome then s else emit s (.readData (List.replicate x.len 0#8))

/-- Work that waits for hummock h: requests for its channels, runs for its quarter. -/
def workWaits (s : State) (h : Nat) : Bool :=
  if 20 ≤ h ∧ h < 28 then (List.range 8).any (fun i =>
    let x := chanOf s (8 * (h - 20) + i)
    x.reads != [] || x.writes != [] || x.writeWait != [])
  else decide (28 ≤ h ∧ h < 32) && !(List.range 4).any (quarterOpen s) &&
    (!s.ferm.queues.isEmpty || !s.cask.psq.isEmpty || !s.ferm.items.isEmpty)

/-- What came in COMMIT is handled (R494): OP = WAKE, held accesses, a held Lauter command, waiting work. -/
def asleepLook (s : State) (h : Nat) : State :=
  let x := hum s h
  let half := s.lauter.cmd.any (fun c => decide (36 ≤ h ∧ h < 38) && c.index / 32768 == h - 36)
  if x.wakeNext then startWake (humPut s h { x with wakeNext := false }) h 0
  else if rb s (Reg.POWER_Hh_CFG h) 0 then
    if x.held != [] || half then startWake s h 1
    else if workWaits s h then startWake s h 3 else s
  else
    let s := x.held.foldl (refuseHeld h) (humPut s h { x with held := [] })
    match (if half then s.lauter.cmd else none) with
    | some c => lauterAsleep { s with lauter := { s.lauter with cmd := none } } c.op c.index
    | none => s

/-- Power gating completes in COMMIT: the hummock is ASLEEP (R493). -/
def powerGated (s : State) (h : Nat) : State :=
  if humState s h ≠ 3 then s
  else
    let s := humEnter (sleepBlocks s h) h 4
    let x := hum s h
    let s := humPut s h { x with entries := x.entries + 1, agreed := 0, watchAt := nowNs s, matched := false }
    let e := Reg.POWER_Hh_ENTRIES h
    let s := raise (wf s e 15 0 (satAdd 16 (rf s e 15 0) 1)) 0x040 h (x.entries + 1)
    pump (cqResume (asleepLook s h))

/-! ### Waking (R493) -/

/-- A channel leaves self-refresh with its hummock (R234): SRX, ZQ latch, one DQS oscillator reading due before the first write. -/
def wakeChannel (s : State) (c : Nat) : State :=
  if chanPower s c = 5 ∨ chanPower s c = 3 then
    let s := (ranksOf s).foldl (fun s r =>
      let s := emit (emit s (.dram c r .selfRefreshExit 0 0 0)) (.dram c r .zqLatch 0 0 0)
      drankPut (debtSet s c r 0) c r { drank s c r with oscAt := 0, dueAt := nowNs s }) s
    chanEvent (chanPowerSet s c 0) c 10 0 1
  else s

/-- The blocks of hummock h restart. -/
def wakeBlocks (s : State) (h : Nat) : State :=
  let s := (humRegions h).foldl regionWake s
  if 20 ≤ h ∧ h < 28 then (List.range 8).foldl (fun s i => wakeChannel s (8 * (h - 20) + i)) s else s

/-- The islands are locked and the blocks restarted: the hummock is AWAKE (R493). -/
def wakeComplete (s : State) (h : Nat) : State :=
  if humState s h ≠ 5 then s
  else
    let cause := (hum s h).cause
    let s := touch (humEnter (wakeBlocks s h) h 0) h
    let e := Reg.POWER_Hh_ENTRIES h
    let s := raise (wf s e 31 16 (satAdd 16 (rf s e 31 16) 1)) 0x041 h cause
    humResume s h

/-! ### Self-test and fen watch (R495, R497) -/

/-- The march test ends (R497): the tested memories are at their reset contents, and the hummock is AWAKE. -/
def selftestDone (s : State) (h : Nat) (firstFail : Option Nat) : State :=
  if humState s h ≠ 6 then s
  else
    let s := if 20 ≤ h ∧ h < 28 then (List.range 8).foldl (fun s i => wakeChannel s (8 * (h - 20) + i)) s
      else if 32 ≤ h ∧ h < 36 then
        { s with cask := { s.cask with cellar := s.cask.cellar.filter (fun e => e.1 / 16384 != h - 32) } }
      else if 36 ≤ h ∧ h < 38 then
        { s with fwd := { s.fwd with slots := s.fwd.slots.filter (fun e =>
          !decide (slotKey 8 (32768 * (h - 36)) ≤ e.1 ∧ e.1 < slotKey 8 (32768 * (h - 35)))) } }
      else s
    let s := wrn s (Reg.POWER_Hh_TEST h) (1 + 2 * b2n firstFail.isNone + 256 * firstFail.getD 0)
    let s := wf (humEnter s h 0) (Reg.POWER_Hh_STATUS h) 7 5 0
    let s := humPut s h { hum s h with test := false, agreed := 0, idleSince := nowNs s }
    humResume (raise s 0x046 h (rdn s (Reg.POWER_Hh_TEST h))) h

/-- A fen watch window of a sleeping quad ends (R495): the lanes of an Ethernet mode that meet the test. -/
def watchWindow (s : State) (q : Nat) (readings : List Nat) : State :=
  let cfg := Reg.POWER_Hh_CFG q
  let fw := Reg.POWER_Hh_FW q
  let x := hum s q
  if humState s q ≠ 4 ∨ rb s cfg 2 = false ∨ elapsed s x.watchAt (1000000 * rf s fw 9 0) = false then s
  else
    let th := rf s fw 23 16 * (if rf s cfg 4 3 = 1 then 64 else 1)
    let hits := (List.range 4).filter (fun i => isPort s (4 * q + i) && decide (th ≤ readings.getD i 0))
    let lanes := hits.foldl (fun m i => m + 2 ^ i) 0
    let any := !hits.isEmpty
    let s := humPut s q { x with matched := any, watchAt := nowNs s }
    let s := wf s (Reg.POWER_Hh_STATUS q) 4 4 (b2n any)
    let s := if any && !x.matched then raise s 0x045 q lanes else s
    if any && rb s cfg 1 then startWake s q 2 else s

/-! ### The commands -/

/-- QUARTER_QUIESCE_TIMEOUT (R279). -/
def execQuarterQuiesceTimeout (s : State) : Host.Outcome State Fault Refusal := .next (quiesceTimeout s)

/-- HUMMOCK_IDLE_EXPIRY (R491). -/
def execHummockIdleExpiry (h : Fin 40) (s : State) : Host.Outcome State Fault Refusal := .next (idleExpired s h.val)

/-- PREPARE_VOTE (R493). -/
def execPrepareVote (h : Fin 40) (s : State) : Host.Outcome State Fault Refusal := .next (prepareVote s h.val)

/-- PREPARE_LIMIT_EXPIRY (R493). -/
def execPrepareLimitExpiry (h : Fin 40) (s : State) : Host.Outcome State Fault Refusal := .next (prepareExpired s h.val)

/-- ROLLBACK_RESUME_ACK (R493). -/
def execRollbackResumeAck (h : Fin 40) (s : State) : Host.Outcome State Fault Refusal := .next (resumeAck s h.val)

/-- POWER_GATED (R493). -/
def execPowerGated (h : Fin 40) (s : State) : Host.Outcome State Fault Refusal := .next (powerGated s h.val)

/-- WAKE_COMPLETE (R493). -/
def execWakeComplete (h : Fin 40) (s : State) : Host.Outcome State Fault Refusal := .next (wakeComplete s h.val)

/-- SELFTEST_COMPLETE (R497). -/
def execSelftestComplete (h : Fin 40) (firstFail : Option (BitVec 8)) (s : State) : Host.Outcome State Fault Refusal :=
  .next (selftestDone s h.val (firstFail.map (·.toNat)))

/-- FEN_WATCH_WINDOW (R495). -/
def execFenWatchWindow (quad : Fin 16) (readings : List Nat) (s : State) : Host.Outcome State Fault Refusal :=
  .next (watchWindow s quad.val readings)

end Sys2Proof.Machine
end

