-- ==== Sys2Proof/Machine/Tick.lean ====
section
/-! DEFINITION. The close of a tick (R456 to R459): what the blocks sample once per tick, the ordered records, event items,
and the programmable counters. -/
namespace Sys2Proof.Machine

/-- An occurrence of tick n. -/
def raiseIn (s : State) (n source d0 d1 : Nat) : State :=
  { s with ev := { s.ev with occ := s.ev.occ ++ [⟨source, d0, d1, n⟩] } }

/-! ### What is sampled once per tick -/

/-- PMB_ALERT_N (R570). -/
def alertSample (s : State) (n : Nat) (low : Bool) : State :=
  if rb s Reg.CHIP_ALERT 0 = low then s
  else raiseIn (wf s Reg.CHIP_ALERT 0 0 (b2n low)) n (if low then 0x030 else 0x031) (rf s Reg.CHIP_TJ 11 0) 0

/-- The ledger is full for a requester (R187): entries in use, and operations that wait for it. -/
def ledgerSample (s : State) (n : Nat) : State :=
  let waiting (urg : Bool) : Nat := (s.cask.psq.flatMap (·.2)).countP (fun f =>
    (frameOf s f).any (fun fr => clsUrgent s fr.gen fr.cls == urg))
  let s' := if ledgerRoom s 0 then s else raiseIn s n 0x700 (ledgerUsed s) (waiting false)
  if ledgerRoom s 1 then s' else raiseIn s' n 0x701 (ledgerUsed s) (waiting true)

/-- Grants are withheld for a full resequencer window (R311). -/
def reseqSample (s : State) (n : Nat) : State :=
  match reseqFull s with
  | some (o, held) => raiseIn (cnt s Reg.LODE_RESEQ_FULL 1) n 0xE11 o held
  | none => s

/-- Commits that wait for room in the delta store (R418). -/
def stalledCommits (s : State) : Nat :=
  s.cask.ledger.countP (fun e => e.2.st == 5 && !e.2.dropped && e.2.host.isNone && !e.2.readOnly &&
    (runOf s e.2.run).any (fun r => r.released && r.flag 3 && mayCommit s e.2.run r))

/-- A tick in which the full delta store stalled something (R418). -/
def storeSample (s : State) (n : Nat) : State :=
  let k := stalledCommits s
  let now := storeFull s && (k != 0 || s.fwd.learnWait != [])
  if now || s.ev.occ.any (fun o => o.source == 0xF87 && decide (o.tick ≤ n)) then
    raiseIn (cnt s Reg.TWIN_DSTORE_STALLS 1) n 0xF87 s.twin.deltas.length (if storeFull s then k else 0)
  else s

/-! ### Event items (R280, R281, R283) -/

/-- The event of a source in tick n, with the detail that its record carries. -/
def eventOf (n : Nat) (os : List Occ) (src : Nat) : Option ItemEvent :=
  match srcInfo src with
  | some (_, g) =>
    let a := aggregate g (os.filter (fun o => o.source == src))
    some { source := src, tick := n % 2 ^ 64, d0 := a.1 % 2 ^ 64, d1 := a.2.1 % 2 ^ 64 }
  | none => none

/-- Register i of FERM_EVT_ITEM is enabled and names a source. -/
def itemWanted (s : State) (i src : Nat) : Bool :=
  rb s Reg.FERM_EVT_ITEM_EN i && rf s (Reg.FERM_EVT_ITEMi i) 11 0 == src

/-- The event items of tick n, in the order of source numbers. -/
def eventItems (s : State) (n : Nat) (os : List Occ) : State :=
  let wants := (List.range 16).filter (fun i => rb s Reg.FERM_EVT_ITEM_EN i)
  let srcs := (os.foldl (fun t o => if wants.any (fun i => itemWanted s i o.source) then tabSet t o.source () else t) []).map (·.1)
  srcs.foldl (fun s src =>
    match eventOf n os src with
    | none => s
    | some e => (wants.filter (fun i => itemWanted s i src)).foldl (fun s i =>
        let f := s.nextFrame
        itemQueue { s with nextFrame := f + 1 } (rf s (Reg.FERM_EVT_ITEMi i) 19 12) f (some e)) s) s

/-! ### Conditions of the counters (R476) -/

/-- The condition that a selector tests holds. -/
def condition (s : State) (x : Nat) : Bool :=
  if x = 0x2000 then !ledgerRoom s 0
  else if x = 0x2001 then !ledgerRoom s 1
  else if x < 0x2020 then (List.range 64).any (fun c => psqOver s (x - 0x2010) c)
  else if x < 0x2030 then (List.range 64).any (fun c => psqOf s (x - 0x2020) c != [])
  else if x = 0x2030 then ringIsFull s
  else if x = 0x2031 then tickHeld s
  else if x < 0x2068 then humState s (x - 0x2040) == 4
  else if x < 0x20E5 then rb s (Reg.CORE_REGn_STATUS (x - 0x2080)) 16
  else if x < 0x2140 then isPort s (x - 0x2100) && linkUp s (x - 0x2100)
  else if x < 0x2180 then (chanOf s (x - 0x2140)).ranks.any (fun r => r.2.catchup.isSome)
  else if x = 0x2180 then rb s Reg.TWIN_STATUS 6
  else if x = 0x2181 then storeFull s
  else sharedFree s (x - 0x2190) ≤ 0

/-! ### What a past generation leaves (R47) -/

/-- Something in the device is still bound to generation g. -/
def genBound (s : State) (g : Nat) : Bool :=
  s.frames.any (fun f => f.2.gen == g) || s.ferm.runs.any (fun r => r.2.gen == g) ||
    s.cask.ledger.any (fun e => e.2.gen == g)

/-- A task of generation g may still run. -/
def genRuns (s : State) (g : Nat) : Bool :=
  s.frames.any (fun f => f.2.gen == g && !f.2.disposed) || s.ferm.runs.any (fun r => r.2.gen == g && !r.2.ended)

/-- A copy in the graph store is still in use. -/
def copyUsed (s : State) (p : Placed) : Bool :=
  s.bill.gens.any (fun g => (g.1 == billGen s || genRuns s g.1) &&
    (tabFind g.2.graphs p.graph).any (fun x => x.born == p.born))

/-- Generations and graph copies that nothing uses any more are freed. -/
def freeGens (s : State) : State :=
  let s := { s with ferm := { s.ferm with placed := s.ferm.placed.filter (copyUsed s) } }
  { s with bill := { s.bill with gens := s.bill.gens.filter (fun g => g.1 == billGen s || genBound s g.1) } }

/-! ### The close -/

/-- The oldest tick that has ended closes; before it has ended nothing closes. -/
def tickClose (s : State) (pmbAlert : Bool) : State :=
  let n := s.ev.openTick
  if s.time.tick ≤ n then s
  else
    let s := storeSample (reseqSample (ledgerSample (alertSample s n pmbAlert) n) n) n
    let (s, os) := takeOccs s n
    let s := closeRecords s n os
    let s := eventItems s n os
    let s := closeCounters (condition s) s n
    let next := nextOpen s n
    let s := { s with ev := { s.ev with openTick := next }, time := { s.time with jumps := s.time.jumps.filter (fun j => decide (next < j.2)) } }
    freeGens s

/-- TICK_CLOSE (R456). -/
def execTickClose (pmbAlert : Bool) (s : State) : Host.Outcome State Fault Refusal := .next (tickClose s pmbAlert)

end Sys2Proof.Machine
end

