-- ==== Sys2Proof/Machine/Dispatch.lean ====
section
/-! DEFINITION. Dispatch: one arm per command. -/
namespace Sys2Proof.Machine

def exec (i : Instr) (s : State) : Host.Outcome State Fault Refusal :=
  match i with
  | .frameHeadReceived lane bytes whole sub fifo full pmac => Sys2Proof.Machine.execFrameHeadReceived lane bytes whole sub fifo full pmac s
  | .frameTailReceived lane rest codeError corrected uncorrected merge => Sys2Proof.Machine.execFrameTailReceived lane rest codeError corrected uncorrected merge s
  | .pauseFrameReceived lane frame => Sys2Proof.Machine.execPauseFrameReceived lane frame s
  | .pfcFrameReceived lane frame => Sys2Proof.Machine.execPfcFrameReceived lane frame s
  | .pauseQuantaExpiry lane => Sys2Proof.Machine.execPauseQuantaExpiry lane s
  | .pauseRepeat lane => Sys2Proof.Machine.execPauseRepeat lane s
  | .prestateDepart quad wayBad => Sys2Proof.Machine.execPrestateDepart quad wayBad s
  | .deepReadComplete ch errors => Sys2Proof.Machine.execDeepReadComplete ch errors s
  | .caskInsert tag => Sys2Proof.Machine.execCaskInsert tag s
  | .caskLockTimeout => Sys2Proof.Machine.execCaskLockTimeout s
  | .caskCommit tag => Sys2Proof.Machine.execCaskCommit tag s
  | .caskInsWindowClose region row => Sys2Proof.Machine.execCaskInsWindowClose region row s
  | .caskReadsPeriod => Sys2Proof.Machine.execCaskReadsPeriod s
  | .caskAgeScan line => Sys2Proof.Machine.execCaskAgeScan line s
  | .taskDispatch quarter => Sys2Proof.Machine.execTaskDispatch quarter s
  | .nodeIssue cell bad => Sys2Proof.Machine.execNodeIssue cell bad s
  | .lookupNodeComplete => Sys2Proof.Machine.execLookupNodeComplete s
  | .runTimeout => Sys2Proof.Machine.execRunTimeout s
  | .runQueueDepart quad => Sys2Proof.Machine.execRunQueueDepart quad s
  | .recirculationReentry => Sys2Proof.Machine.execRecirculationReentry s
  | .itemDispatch wayBad => Sys2Proof.Machine.execItemDispatch wayBad s
  | .quarterQuiesceTimeout => Sys2Proof.Machine.execQuarterQuiesceTimeout s
  | .copyVoqEnter ingress cls output => Sys2Proof.Machine.execCopyVoqEnter ingress cls output s
  | .lodeCellTime plane time bad corrected => Sys2Proof.Machine.execLodeCellTime plane time bad corrected s
  | .lodeCellArrive plane output hcrcBad => Sys2Proof.Machine.execLodeCellArrive plane output hcrcBad s
  | .reseqTimeout => Sys2Proof.Machine.execReseqTimeout s
  | .planeDrained plane => Sys2Proof.Machine.execPlaneDrained plane s
  | .lodeCfgWrite value => Sys2Proof.Machine.execLodeCfgWrite value s
  | .egressCellsWrite quad value => Sys2Proof.Machine.execEgressCellsWrite quad value s
  | .transmissionSelect port sub sent bad => Sys2Proof.Machine.execTransmissionSelect port sub sent bad s
  | .transmitComplete port => Sys2Proof.Machine.execTransmitComplete port s
  | .ctUnderrun port sent => Sys2Proof.Machine.execCtUnderrun port sent s
  | .egressFifoUnderrun port sent => Sys2Proof.Machine.execEgressFifoUnderrun port sent s
  | .linkDownTimeout port => Sys2Proof.Machine.execLinkDownTimeout port s
  | .holdTimeout => Sys2Proof.Machine.execHoldTimeout s
  | .gateEntryChange port => Sys2Proof.Machine.execGateEntryChange port s
  | .setAndHoldAssert port => Sys2Proof.Machine.execSetAndHoldAssert port s
  | .gclConfigChange port => Sys2Proof.Machine.execGclConfigChange port s
  | .gclConfigStart port => Sys2Proof.Machine.execGclConfigStart port s
  | .preemptVerifyDone port ok => Sys2Proof.Machine.execPreemptVerifyDone port ok s
  | .sgConfigChange gate => Sys2Proof.Machine.execSgConfigChange gate s
  | .sgEntryChange gate => Sys2Proof.Machine.execSgEntryChange gate s
  | .authJobComplete core parityBad => Sys2Proof.Machine.execAuthJobComplete core parityBad s
  | .loadClear => Sys2Proof.Machine.execLoadClear s
  | .loadWrapped => Sys2Proof.Machine.execLoadWrapped s
  | .keyErase => Sys2Proof.Machine.execKeyErase s
  | .readPolicy => Sys2Proof.Machine.execReadPolicy s
  | .keyCmdComplete => Sys2Proof.Machine.execKeyCmdComplete s
  | .authHjTailWrite value => Sys2Proof.Machine.execAuthHjTailWrite value s
  | .hjGmacGenerate desc data => Sys2Proof.Machine.execHjGmacGenerate desc data s
  | .hjGmacVerify desc data => Sys2Proof.Machine.execHjGmacVerify desc data s
  | .hjCmacGenerate desc data => Sys2Proof.Machine.execHjCmacGenerate desc data s
  | .hjCmacVerify desc data => Sys2Proof.Machine.execHjCmacVerify desc data s
  | .hjHmacGenerate desc data => Sys2Proof.Machine.execHjHmacGenerate desc data s
  | .hjHmacVerify desc data => Sys2Proof.Machine.execHjHmacVerify desc data s
  | .hjSave desc data => Sys2Proof.Machine.execHjSave desc data s
  | .hjRestore desc data => Sys2Proof.Machine.execHjRestore desc data s
  | .timeRateWrite value => Sys2Proof.Machine.execTimeRateWrite value s
  | .timeSet value => Sys2Proof.Machine.execTimeSet value s
  | .timeAdjust value => Sys2Proof.Machine.execTimeAdjust value s
  | .timeSnapRead => Sys2Proof.Machine.execTimeSnapRead s
  | .trefLost => Sys2Proof.Machine.execTrefLost s
  | .trefRestored lockUs => Sys2Proof.Machine.execTrefRestored lockUs s
  | .syncTimeout port => Sys2Proof.Machine.execSyncTimeout port s
  | .servoTimeout => Sys2Proof.Machine.execServoTimeout s
  | .residenceTimeout => Sys2Proof.Machine.execResidenceTimeout s
  | .txtsPop => Sys2Proof.Machine.execTxtsPop s
  | .ldelayMeasurement port meas => Sys2Proof.Machine.execLdelayMeasurement port meas s
  | .toutArm n => Sys2Proof.Machine.execToutArm n s
  | .toutDisarm n => Sys2Proof.Machine.execToutDisarm n s
  | .toutEdge n => Sys2Proof.Machine.execToutEdge n s
  | .tcapEdge n falling => Sys2Proof.Machine.execTcapEdge n falling s
  | .tcapPop n => Sys2Proof.Machine.execTcapPop n s
  | .ppsEdge => Sys2Proof.Machine.execPpsEdge s
  | .ppsTimeout => Sys2Proof.Machine.execPpsTimeout s
  | .batchBoundary => Sys2Proof.Machine.execBatchBoundary s
  | .bootLoad => Sys2Proof.Machine.execBootLoad s
  | .fullLoadHost => Sys2Proof.Machine.execFullLoadHost s
  | .fullLoadFlash => Sys2Proof.Machine.execFullLoadFlash s
  | .amendmentLoad => Sys2Proof.Machine.execAmendmentLoad s
  | .restageOrphan => Sys2Proof.Machine.execRestageOrphan s
  | .discardAmendment => Sys2Proof.Machine.execDiscardAmendment s
  | .firstPassComplete image again => Sys2Proof.Machine.execFirstPassComplete image again s
  | .installComplete again => Sys2Proof.Machine.execInstallComplete again s
  | .billFetchError => Sys2Proof.Machine.execBillFetchError s
  | .calibrationPeriodEnd readings => Sys2Proof.Machine.execCalibrationPeriodEnd readings s
  | .probeOffsetStep counts => Sys2Proof.Machine.execProbeOffsetStep counts s
  | .delayCodeApply region => Sys2Proof.Machine.execDelayCodeApply region s
  | .handshakeReplay region => Sys2Proof.Machine.execHandshakeReplay region s
  | .forcedRecalStart value => Sys2Proof.Machine.execForcedRecalStart value s
  | .forcedRecalComplete margins => Sys2Proof.Machine.execForcedRecalComplete margins s
  | .linkUp lane => Sys2Proof.Machine.execLinkUp lane s
  | .negotiationComplete lane result => Sys2Proof.Machine.execNegotiationComplete lane result s
  | .linkDown lane signal lock sent => Sys2Proof.Machine.execLinkDown lane signal lock sent s
  | .remoteFaultReceived lane sent => Sys2Proof.Machine.execRemoteFaultReceived lane sent s
  | .highBer lane => Sys2Proof.Machine.execHighBer lane s
  | .sgmiiSpeedChange lane speed sent => Sys2Proof.Machine.execSgmiiSpeedChange lane speed sent s
  | .quadRefclkLost quad => Sys2Proof.Machine.execQuadRefclkLost quad s
  | .anRestart lane => Sys2Proof.Machine.execAnRestart lane s
  | .laneCtrlWrite lane value sent => Sys2Proof.Machine.execLaneCtrlWrite lane value sent s
  | .eqAdaptStep lane moves => Sys2Proof.Machine.execEqAdaptStep lane moves s
  | .eyeMeasure lane height width => Sys2Proof.Machine.execEyeMeasure lane height width s
  | .mdioAddress bus value => Sys2Proof.Machine.execMdioAddress bus value s
  | .mdioWrite bus value => Sys2Proof.Machine.execMdioWrite bus value s
  | .mdioRead bus value => Sys2Proof.Machine.execMdioRead bus value s
  | .mdioReadInc bus value => Sys2Proof.Machine.execMdioReadInc bus value s
  | .mdioComplete bus data => Sys2Proof.Machine.execMdioComplete bus data s
  | .i2cRead bus value => Sys2Proof.Machine.execI2cRead bus value s
  | .i2cWrite bus value => Sys2Proof.Machine.execI2cWrite bus value s
  | .i2cComplete bus nack data => Sys2Proof.Machine.execI2cComplete bus nack data s
  | .i2cTimeout bus => Sys2Proof.Machine.execI2cTimeout bus s
  | .counterLowRead lane k => Sys2Proof.Machine.execCounterLowRead lane k s
  | .gristClselWrite index value => Sys2Proof.Machine.execGristClselWrite index value s
  | .windowCas addr compare swap => Sys2Proof.Machine.execWindowCas addr compare swap s
  | .windowWrite addr data => Sys2Proof.Machine.execWindowWrite addr data s
  | .caskWindowLock slot compare swap => Sys2Proof.Machine.execCaskWindowLock slot compare swap s
  | .caskWindowRead slot off len => Sys2Proof.Machine.execCaskWindowRead slot off len s
  | .lockHoldLimitExpiry => Sys2Proof.Machine.execLockHoldLimitExpiry s
  | .fwdLockTimeout => Sys2Proof.Machine.execFwdLockTimeout s
  | .fwdParityScan t slot bad => Sys2Proof.Machine.execFwdParityScan t slot bad s
  | .insWindowClose group => Sys2Proof.Machine.execInsWindowClose group s
  | .fdbRehashStart => Sys2Proof.Machine.execFdbRehashStart s
  | .fdbRehashComplete => Sys2Proof.Machine.execFdbRehashComplete s
  | .fdbAgeScan slot => Sys2Proof.Machine.execFdbAgeScan slot s
  | .lpmRouteEntered => Sys2Proof.Machine.execLpmRouteEntered s
  | .learnReannounce slot => Sys2Proof.Machine.execLearnReannounce slot s
  | .fwdTblRead t => Sys2Proof.Machine.execFwdTblRead t s
  | .fwdTblWrite t => Sys2Proof.Machine.execFwdTblWrite t s
  | .fwdTblInsert t => Sys2Proof.Machine.execFwdTblInsert t s
  | .fwdTblDelete t => Sys2Proof.Machine.execFwdTblDelete t s
  | .fwdTblSearch t => Sys2Proof.Machine.execFwdTblSearch t s
  | .fwdTblCmdComplete t => Sys2Proof.Machine.execFwdTblCmdComplete t s
  | .lauterRead => Sys2Proof.Machine.execLauterRead s
  | .lauterWrite => Sys2Proof.Machine.execLauterWrite s
  | .lauterInsert => Sys2Proof.Machine.execLauterInsert s
  | .lauterDelete => Sys2Proof.Machine.execLauterDelete s
  | .lauterSearch => Sys2Proof.Machine.execLauterSearch s
  | .lauterStep => Sys2Proof.Machine.execLauterStep s
  | .lauterEntryMove bad => Sys2Proof.Machine.execLauterEntryMove bad s
  | .lauterInsertComplete => Sys2Proof.Machine.execLauterInsertComplete s
  | .lauterStepComplete => Sys2Proof.Machine.execLauterStepComplete s
  | .lauterLockTimeout => Sys2Proof.Machine.execLauterLockTimeout s
  | .lauterParityScan slot bad => Sys2Proof.Machine.execLauterParityScan slot bad s
  | .caskCmdRead => Sys2Proof.Machine.execCaskCmdRead s
  | .caskCmdWrite => Sys2Proof.Machine.execCaskCmdWrite s
  | .caskCmdInsert => Sys2Proof.Machine.execCaskCmdInsert s
  | .caskCmdDelete => Sys2Proof.Machine.execCaskCmdDelete s
  | .caskCmdSearch => Sys2Proof.Machine.execCaskCmdSearch s
  | .caskCmdPin => Sys2Proof.Machine.execCaskCmdPin s
  | .caskCmdUnpin => Sys2Proof.Machine.execCaskCmdUnpin s
  | .caskCmdFlush => Sys2Proof.Machine.execCaskCmdFlush s
  | .caskCmdRepack => Sys2Proof.Machine.execCaskCmdRepack s
  | .caskCmdReadRow => Sys2Proof.Machine.execCaskCmdReadRow s
  | .caskCmdComplete => Sys2Proof.Machine.execCaskCmdComplete s
  | .dramCommandSlot ch blocked => Sys2Proof.Machine.execDramCommandSlot ch blocked s
  | .rowHoldTimeout ch bank => Sys2Proof.Machine.execRowHoldTimeout ch bank s
  | .hintExpiry ch bank => Sys2Proof.Machine.execHintExpiry ch bank s
  | .refreshDue ch rank => Sys2Proof.Machine.execRefreshDue ch rank s
  | .mr4Poll ch rank value => Sys2Proof.Machine.execMr4Poll ch rank value s
  | .catchupComplete ch rank => Sys2Proof.Machine.execCatchupComplete ch rank s
  | .nrReseed ch => Sys2Proof.Machine.execNrReseed ch s
  | .deepCorrWindow ch => Sys2Proof.Machine.execDeepCorrWindow ch s
  | .dqsOscRead ch rank count shift => Sys2Proof.Machine.execDqsOscRead ch rank count shift s
  | .probeWindowEnd ch => Sys2Proof.Machine.execProbeWindowEnd ch s
  | .zqStart ch rank => Sys2Proof.Machine.execZqStart ch rank s
  | .zqLatch ch rank => Sys2Proof.Machine.execZqLatch ch rank s
  | .deepRetrain ch value => Sys2Proof.Machine.execDeepRetrain ch value s
  | .deepZqNow ch value => Sys2Proof.Machine.execDeepZqNow ch value s
  | .deepReadMr ch value data => Sys2Proof.Machine.execDeepReadMr ch value data s
  | .retrainComplete ch eyes => Sys2Proof.Machine.execRetrainComplete ch eyes s
  | .initialTrainingComplete ch failed eyes counts => Sys2Proof.Machine.execInitialTrainingComplete ch failed eyes counts s
  | .srQueuesEmpty ch => Sys2Proof.Machine.execSrQueuesEmpty ch s
  | .srPrechargeComplete ch => Sys2Proof.Machine.execSrPrechargeComplete ch s
  | .srExitComplete ch => Sys2Proof.Machine.execSrExitComplete ch s
  | .deltaRx lane frame noWay => Sys2Proof.Machine.execDeltaRx lane frame noWay s
  | .copyRx lane frame noWay => Sys2Proof.Machine.execCopyRx lane frame noWay s
  | .sealRx lane frame => Sys2Proof.Machine.execSealRx lane frame s
  | .sealCheck => Sys2Proof.Machine.execSealCheck s
  | .sealAckRx lane frame => Sys2Proof.Machine.execSealAckRx lane frame s
  | .heartbeatRx lane frame => Sys2Proof.Machine.execHeartbeatRx lane frame s
  | .helloRx lane frame => Sys2Proof.Machine.execHelloRx lane frame s
  | .joinStartRx lane frame => Sys2Proof.Machine.execJoinStartRx lane frame s
  | .joinRefuseRx lane frame => Sys2Proof.Machine.execJoinRefuseRx lane frame s
  | .copyDoneRx lane frame => Sys2Proof.Machine.execCopyDoneRx lane frame s
  | .detachRx lane frame => Sys2Proof.Machine.execDetachRx lane frame s
  | .amendDataRx lane frame => Sys2Proof.Machine.execAmendDataRx lane frame s
  | .amendResultRx lane frame => Sys2Proof.Machine.execAmendResultRx lane frame s
  | .promotedRx lane frame => Sys2Proof.Machine.execPromotedRx lane frame s
  | .twinFrameTransmit lane count => Sys2Proof.Machine.execTwinFrameTransmit lane count s
  | .twinGapTimeout => Sys2Proof.Machine.execTwinGapTimeout s
  | .imageDrain => Sys2Proof.Machine.execImageDrain s
  | .heartbeatSend => Sys2Proof.Machine.execHeartbeatSend s
  | .heartbeatMiss => Sys2Proof.Machine.execHeartbeatMiss s
  | .twinLead => Sys2Proof.Machine.execTwinLead s
  | .twinFollow => Sys2Proof.Machine.execTwinFollow s
  | .twinPromote fence fenced force => Sys2Proof.Machine.execTwinPromote fence fenced force s
  | .twinAlone => Sys2Proof.Machine.execTwinAlone s
  | .twinStop => Sys2Proof.Machine.execTwinStop s
  | .twinAdmit => Sys2Proof.Machine.execTwinAdmit s
  | .twinUnfence => Sys2Proof.Machine.execTwinUnfence s
  | .fenceWaitExpiry => Sys2Proof.Machine.execFenceWaitExpiry s
  | .twFenceInChange level sent => Sys2Proof.Machine.execTwFenceInChange level sent s
  | .joinAdmitTimeout => Sys2Proof.Machine.execJoinAdmitTimeout s
  | .copyCursorStep => Sys2Proof.Machine.execCopyCursorStep s
  | .twinLaneUp lane => Sys2Proof.Machine.execTwinLaneUp lane s
  | .twinLaneDown lane => Sys2Proof.Machine.execTwinLaneDown lane s
  | .twinEyeMeasure lane height corrected uncorrected => Sys2Proof.Machine.execTwinEyeMeasure lane height corrected uncorrected s
  | .fenLearnRx port frame => Sys2Proof.Machine.execFenLearnRx port frame s
  | .fenHeartbeatRx port frame => Sys2Proof.Machine.execFenHeartbeatRx port frame s
  | .fenResyncReqRx port frame => Sys2Proof.Machine.execFenResyncReqRx port frame s
  | .fenDigestRx port frame => Sys2Proof.Machine.execFenDigestRx port frame s
  | .fenLearnSend => Sys2Proof.Machine.execFenLearnSend s
  | .fenDigestSend => Sys2Proof.Machine.execFenDigestSend s
  | .fenHeartbeatSend => Sys2Proof.Machine.execFenHeartbeatSend s
  | .fenMemberLapse => Sys2Proof.Machine.execFenMemberLapse s
  | .fenResync => Sys2Proof.Machine.execFenResync s
  | .fenMemberCfgWrite index value => Sys2Proof.Machine.execFenMemberCfgWrite index value s
  | .tickClose pmbAlert => Sys2Proof.Machine.execTickClose pmbAlert s
  | .eventRecordWrite => Sys2Proof.Machine.execEventRecordWrite s
  | .eventRingHeadWrite value => Sys2Proof.Machine.execEventRingHeadWrite value s
  | .eventCfgWrite value => Sys2Proof.Machine.execEventCfgWrite value s
  | .eventRouteWrite source value => Sys2Proof.Machine.execEventRouteWrite source value s
  | .eventSoftWrite value => Sys2Proof.Machine.execEventSoftWrite value s
  | .vectorHoldoffExpiry vector => Sys2Proof.Machine.execVectorHoldoffExpiry vector s
  | .perfSnap => Sys2Proof.Machine.execPerfSnap s
  | .perfClearAll => Sys2Proof.Machine.execPerfClearAll s
  | .perfCntValueWrite index value => Sys2Proof.Machine.execPerfCntValueWrite index value s
  | .perfCntCtlWrite index value => Sys2Proof.Machine.execPerfCntCtlWrite index value s
  | .bwWindowEnd => Sys2Proof.Machine.execBwWindowEnd s
  | .perfBwWindowWrite value => Sys2Proof.Machine.execPerfBwWindowWrite value s
  | .sampleRecordWrite => Sys2Proof.Machine.execSampleRecordWrite s
  | .hummockIdleExpiry h => Sys2Proof.Machine.execHummockIdleExpiry h s
  | .powerSleep h => Sys2Proof.Machine.execPowerSleep h s
  | .powerWake h => Sys2Proof.Machine.execPowerWake h s
  | .powerSelftest h => Sys2Proof.Machine.execPowerSelftest h s
  | .prepareVote h => Sys2Proof.Machine.execPrepareVote h s
  | .prepareLimitExpiry h => Sys2Proof.Machine.execPrepareLimitExpiry h s
  | .rollbackResumeAck h => Sys2Proof.Machine.execRollbackResumeAck h s
  | .powerGated h => Sys2Proof.Machine.execPowerGated h s
  | .wakeComplete h => Sys2Proof.Machine.execWakeComplete h s
  | .selftestComplete h firstFail => Sys2Proof.Machine.execSelftestComplete h firstFail s
  | .fenWatchWindow quad readings => Sys2Proof.Machine.execFenWatchWindow quad readings s
  | .registerWrite bar addr data full sent => Sys2Proof.Machine.execRegisterWrite bar addr data full sent s
  | .atomicopUnsupported bar addr => Sys2Proof.Machine.execAtomicopUnsupported bar addr s
  | .hostAccStatusRead => Sys2Proof.Machine.execHostAccStatusRead s
  | .ringEnable ring value => Sys2Proof.Machine.execRingEnable ring value s
  | .txRingTail ring value => Sys2Proof.Machine.execTxRingTail ring value s
  | .txDescriptor ring desc => Sys2Proof.Machine.execTxDescriptor ring desc s
  | .txFrameConsumed ring data => Sys2Proof.Machine.execTxFrameConsumed ring data s
  | .rxRingTail ring value => Sys2Proof.Machine.execRxRingTail ring value s
  | .rxFrameDeliver ring descs => Sys2Proof.Machine.execRxFrameDeliver ring descs s
  | .cqTail queue value => Sys2Proof.Machine.execCqTail queue value s
  | .cqWrite queue cmd => Sys2Proof.Machine.execCqWrite queue cmd s
  | .cqRead queue cmd => Sys2Proof.Machine.execCqRead queue cmd s
  | .cqWait queue cmd => Sys2Proof.Machine.execCqWait queue cmd s
  | .cqWaitPoll queue => Sys2Proof.Machine.execCqWaitPoll queue s
  | .pcieLinkDown => Sys2Proof.Machine.execPcieLinkDown s
  | .pcieLinkUp speed width => Sys2Proof.Machine.execPcieLinkUp speed width s
  | .functionLevelReset => Sys2Proof.Machine.execFunctionLevelReset s
  | .dmaReadError engine kind => Sys2Proof.Machine.execDmaReadError engine kind s
  | .powerOnReset => Sys2Proof.Machine.execPowerOnReset s
  | .chipReset pwrgood sent => Sys2Proof.Machine.execChipReset pwrgood sent s
  | .pcieFundamentalReset => Sys2Proof.Machine.execPcieFundamentalReset s
  | .jtagReset => Sys2Proof.Machine.execJtagReset s
  | .resetRelease bootHost tref margins => Sys2Proof.Machine.execResetRelease bootHost tref margins s
  | .fuseProg field value tj => Sys2Proof.Machine.execFuseProg field value tj s
  | .fuseStatus => Sys2Proof.Machine.execFuseStatus s
  | .fuseProgramComplete => Sys2Proof.Machine.execFuseProgramComplete s
  | .tjSample tj => Sys2Proof.Machine.execTjSample tj s
  | .registerRead bar addr len => Sys2Proof.Machine.execRegisterRead bar addr len s
  | .quadRefclkRestored quad => Sys2Proof.Machine.execQuadRefclkRestored quad s

end Sys2Proof.Machine
end

