-- ==== Sys2Proof/WellFormed.lean ====
section
/-! DEFINITION. Well-formed commands: what the operands of a command say that their types do not. -/
namespace Sys2Proof

/-- A command that the outside can give: descriptors and commands as long as the rings hold them, units that exist, measurements
in their ranges. -/
def Instr.wf : Instr → Bool
  | .frameHeadReceived _ bytes _ _ _ _ _ => !bytes.isEmpty
  | .frameTailReceived _ _ _ _ _ _ => true
  | .pauseFrameReceived _ _ => true
  | .pfcFrameReceived _ _ => true
  | .pauseQuantaExpiry _ => true
  | .pauseRepeat _ => true
  | .prestateDepart _ _ => true
  | .deepReadComplete _ errors => errors.all (fun e => e.2 != 0) && errors.length ≤ 32
  | .caskInsert _ => true
  | .caskLockTimeout => true
  | .caskCommit _ => true
  | .caskInsWindowClose _ row => row < 2 ^ 27
  | .caskReadsPeriod => true
  | .caskAgeScan _ => true
  | .taskDispatch _ => true
  | .nodeIssue _ _ => true
  | .lookupNodeComplete => true
  | .runTimeout => true
  | .runQueueDepart _ => true
  | .recirculationReentry => true
  | .itemDispatch _ => true
  | .quarterQuiesceTimeout => true
  | .copyVoqEnter _ _ _ => true
  | .lodeCellTime _ _ _ _ => true
  | .lodeCellArrive _ _ _ => true
  | .reseqTimeout => true
  | .planeDrained _ => true
  | .lodeCfgWrite _ => true
  | .egressCellsWrite _ _ => true
  | .transmissionSelect _ _ _ bad => bad.all (fun b => b.2.all (fun e => e.2 != 0))
  | .transmitComplete _ => true
  | .ctUnderrun _ _ => true
  | .egressFifoUnderrun _ _ => true
  | .linkDownTimeout _ => true
  | .holdTimeout => true
  | .gateEntryChange _ => true
  | .setAndHoldAssert _ => true
  | .gclConfigChange _ => true
  | .gclConfigStart _ => true
  | .preemptVerifyDone _ _ => true
  | .sgConfigChange _ => true
  | .sgEntryChange _ => true
  | .authJobComplete _ _ => true
  | .loadClear => true
  | .loadWrapped => true
  | .keyErase => true
  | .readPolicy => true
  | .keyCmdComplete => true
  | .authHjTailWrite _ => true
  | .hjGmacGenerate desc _ => desc.length == 32
  | .hjGmacVerify desc _ => desc.length == 32
  | .hjCmacGenerate desc _ => desc.length == 32
  | .hjCmacVerify desc _ => desc.length == 32
  | .hjHmacGenerate desc _ => desc.length == 32
  | .hjHmacVerify desc _ => desc.length == 32
  | .hjSave desc _ => desc.length == 32
  | .hjRestore desc _ => desc.length == 32
  | .timeRateWrite _ => true
  | .timeSet _ => true
  | .timeAdjust _ => true
  | .timeSnapRead => true
  | .trefLost => true
  | .trefRestored _ => true
  | .syncTimeout _ => true
  | .servoTimeout => true
  | .residenceTimeout => true
  | .txtsPop => true
  | .ldelayMeasurement _ _ => true
  | .toutArm _ => true
  | .toutDisarm _ => true
  | .toutEdge _ => true
  | .tcapEdge _ _ => true
  | .tcapPop _ => true
  | .ppsEdge => true
  | .ppsTimeout => true
  | .batchBoundary => true
  | .bootLoad => true
  | .fullLoadHost => true
  | .fullLoadFlash => true
  | .amendmentLoad => true
  | .restageOrphan => true
  | .discardAmendment => true
  | .firstPassComplete _ _ => true
  | .installComplete _ => true
  | .billFetchError => true
  | .calibrationPeriodEnd readings => readings.all (fun r => r.1 ≤ 100)
  | .probeOffsetStep counts => counts.all (fun c => c.1 ≤ 100 && c.2.2 ≤ c.2.1)
  | .delayCodeApply _ => true
  | .handshakeReplay _ => true
  | .forcedRecalStart _ => true
  | .forcedRecalComplete margins => margins.length == 64 && margins.all (· ≤ 15)
  | .linkUp _ => true
  | .negotiationComplete _ _ => true
  | .linkDown _ _ _ _ => true
  | .remoteFaultReceived _ _ => true
  | .highBer _ => true
  | .sgmiiSpeedChange _ _ _ => true
  | .quadRefclkLost _ => true
  | .anRestart _ => true
  | .laneCtrlWrite _ _ _ => true
  | .eqAdaptStep _ moves => moves.length == 9 && moves.all (fun m => m == -1 || m == 0 || m == 1)
  | .eyeMeasure _ _ _ => true
  | .mdioAddress _ _ => true
  | .mdioWrite _ _ => true
  | .mdioRead _ _ => true
  | .mdioReadInc _ _ => true
  | .mdioComplete _ _ => true
  | .i2cRead _ _ => true
  | .i2cWrite _ _ => true
  | .i2cComplete _ _ _ => true
  | .i2cTimeout _ => true
  | .counterLowRead _ _ => true
  | .gristClselWrite _ _ => true
  | .windowCas _ _ _ => true
  | .windowWrite _ _ => true
  | .caskWindowLock _ _ _ => true
  | .caskWindowRead _ _ _ => true
  | .lockHoldLimitExpiry => true
  | .fwdLockTimeout => true
  | .fwdParityScan t slot _ => slot < [524288, 262144, 131072, 65536, 65536, 4096, 65536, 16384].getD t.val 0
  | .insWindowClose _ => true
  | .fdbRehashStart => true
  | .fdbRehashComplete => true
  | .fdbAgeScan _ => true
  | .lpmRouteEntered => true
  | .learnReannounce _ => true
  | .fwdTblRead _ => true
  | .fwdTblWrite _ => true
  | .fwdTblInsert _ => true
  | .fwdTblDelete _ => true
  | .fwdTblSearch _ => true
  | .fwdTblCmdComplete _ => true
  | .lauterRead => true
  | .lauterWrite => true
  | .lauterInsert => true
  | .lauterDelete => true
  | .lauterSearch => true
  | .lauterStep => true
  | .lauterEntryMove _ => true
  | .lauterInsertComplete => true
  | .lauterStepComplete => true
  | .lauterLockTimeout => true
  | .lauterParityScan _ _ => true
  | .caskCmdRead => true
  | .caskCmdWrite => true
  | .caskCmdInsert => true
  | .caskCmdDelete => true
  | .caskCmdSearch => true
  | .caskCmdPin => true
  | .caskCmdUnpin => true
  | .caskCmdFlush => true
  | .caskCmdRepack => true
  | .caskCmdReadRow => true
  | .caskCmdComplete => true
  | .dramCommandSlot _ blocked => blocked.all (· ≤ 9)
  | .rowHoldTimeout _ _ => true
  | .hintExpiry _ _ => true
  | .refreshDue _ _ => true
  | .mr4Poll _ _ _ => true
  | .catchupComplete _ _ => true
  | .nrReseed _ => true
  | .deepCorrWindow _ => true
  | .dqsOscRead _ _ _ _ => true
  | .probeWindowEnd _ => true
  | .zqStart _ _ => true
  | .zqLatch _ _ => true
  | .deepRetrain _ _ => true
  | .deepZqNow _ _ => true
  | .deepReadMr _ _ _ => true
  | .retrainComplete _ eyes => eyes.length ≤ 32
  | .initialTrainingComplete _ _ eyes counts => eyes.length ≤ 32 && counts.length ≤ 2
  | .srQueuesEmpty _ => true
  | .srPrechargeComplete _ => true
  | .srExitComplete _ => true
  | .deltaRx _ _ _ => true
  | .copyRx _ _ _ => true
  | .sealRx _ _ => true
  | .sealCheck => true
  | .sealAckRx _ _ => true
  | .heartbeatRx _ _ => true
  | .helloRx _ _ => true
  | .joinStartRx _ _ => true
  | .joinRefuseRx _ _ => true
  | .copyDoneRx _ _ => true
  | .detachRx _ _ => true
  | .amendDataRx _ _ => true
  | .amendResultRx _ _ => true
  | .promotedRx _ _ => true
  | .twinFrameTransmit _ _ => true
  | .twinGapTimeout => true
  | .imageDrain => true
  | .heartbeatSend => true
  | .heartbeatMiss => true
  | .twinLead => true
  | .twinFollow => true
  | .twinPromote _ _ _ => true
  | .twinAlone => true
  | .twinStop => true
  | .twinAdmit => true
  | .twinUnfence => true
  | .fenceWaitExpiry => true
  | .twFenceInChange _ _ => true
  | .joinAdmitTimeout => true
  | .copyCursorStep => true
  | .twinLaneUp _ => true
  | .twinLaneDown _ => true
  | .twinEyeMeasure _ _ _ _ => true
  | .fenLearnRx _ _ => true
  | .fenHeartbeatRx _ _ => true
  | .fenResyncReqRx _ _ => true
  | .fenDigestRx _ _ => true
  | .fenLearnSend => true
  | .fenDigestSend => true
  | .fenHeartbeatSend => true
  | .fenMemberLapse => true
  | .fenResync => true
  | .fenMemberCfgWrite _ _ => true
  | .tickClose _ => true
  | .eventRecordWrite => true
  | .eventRingHeadWrite _ => true
  | .eventCfgWrite _ => true
  | .eventRouteWrite _ _ => true
  | .eventSoftWrite _ => true
  | .vectorHoldoffExpiry _ => true
  | .perfSnap => true
  | .perfClearAll => true
  | .perfCntValueWrite _ _ => true
  | .perfCntCtlWrite _ _ => true
  | .bwWindowEnd => true
  | .perfBwWindowWrite _ => true
  | .sampleRecordWrite => true
  | .hummockIdleExpiry _ => true
  | .powerSleep _ => true
  | .powerWake _ => true
  | .powerSelftest _ => true
  | .prepareVote _ => true
  | .prepareLimitExpiry _ => true
  | .rollbackResumeAck _ => true
  | .powerGated _ => true
  | .wakeComplete _ => true
  | .selftestComplete _ _ => true
  | .fenWatchWindow _ readings => readings.length == 4
  | .registerWrite _ _ _ _ _ => true
  | .atomicopUnsupported _ _ => true
  | .hostAccStatusRead => true
  | .ringEnable _ _ => true
  | .txRingTail _ _ => true
  | .txDescriptor _ desc => desc.length == 32
  | .txFrameConsumed _ _ => true
  | .rxRingTail _ _ => true
  | .rxFrameDeliver _ descs => descs.all (fun d => d.length == 16)
  | .cqTail _ _ => true
  | .cqWrite _ cmd => cmd.length == 64
  | .cqRead _ cmd => cmd.length == 64
  | .cqWait _ cmd => cmd.length == 64
  | .cqWaitPoll _ => true
  | .pcieLinkDown => true
  | .pcieLinkUp _ _ => true
  | .functionLevelReset => true
  | .dmaReadError _ _ => true
  | .powerOnReset => true
  | .chipReset _ sent => sent.length == 64
  | .pcieFundamentalReset => true
  | .jtagReset => true
  | .resetRelease _ _ margins => margins.length == 101 && margins.all (fun m => m.length == 64 && m.all (· ≤ 15))
  | .fuseProg _ _ _ => true
  | .fuseStatus => true
  | .fuseProgramComplete => true
  | .tjSample _ => true
  | .registerRead _ _ _ => true
  | .quadRefclkRestored _ => true

end Sys2Proof
end

