-- ==== Sys2Proof/Safety.lean ====
section
/-! DEFINITION. What a run must keep: the register file in its canonical form, the fuses as R539 and R540 leave them, and what
a command leaves as it was. -/
namespace Sys2Proof.Machine

/-- The keys of a table rise strictly. -/
def rising {α : Type} : List (Nat × α) → Bool
  | [] => true
  | [_] => true
  | x :: y :: t => decide (x.1 < y.1) && rising (y :: t)

/-- The register file is in canonical form: addresses strictly rising, no register listed that holds its reset value. -/
def State.regsOk (s : State) : Bool := rising s.regs && s.regs.all (fun r => r.2 != regReset r.1)

/-- The fuses are as R539 and R540 allow: fields 1 to 5 in order, none of them zero, and a field being programmed is one of them
that has not been programmed. -/
def State.fusesOk (s : State) : Bool :=
  rising s.chip.fuses && s.chip.fuses.all (fun f => decide (1 ≤ f.1 ∧ f.1 ≤ 5) && f.2 != 0) &&
    s.chip.prog.all (fun p => decide (1 ≤ p.1 ∧ p.1 ≤ 5) && (tabFind s.chip.fuses p.1).isNone)

/-- t differs from s only in the registers `as`, in the occurrences `occ` (source and detail words) that were added in the
current tick, and in what has left the device, to which `outs`, oldest first, was added. -/
structure Only (s t : State) (as : List Nat) (occ : List (Nat × Nat × Nat)) (outs : List Out) : Prop where
  regs : ∀ a, a ∉ as → rd t a = rd s a
  occ : t.ev.occ = s.ev.occ ++ occ.map (fun e => ⟨e.1, e.2.1, e.2.2, tickNo s⟩)
  out : t.out = outs.reverse ++ s.out
  rest : { t with regs := s.regs, out := s.out, ev := { t.ev with occ := s.ev.occ } } = s

end Sys2Proof.Machine
end

