-- ==== Sys2Proof/Certificates/Slice0/Obligations.lean ====
section
/-! DEFINITION. The statements for the provers. -/
open Sys2Proof Sys2Proof.Machine

/-- A step runs the command at the front of the queue on the state with the queue's rest, and on an empty queue one clock
cycle passes (log entry 10) (95_what_each_step_holds.md; 14_time_unit.md R383). -/
def Obligations.StepRunsFront : Prop :=
  (∀ (c : Instr) (q : List Instr) (s : State), step { s with pending := c :: q } = exec c { s with pending := q }) ∧
  ∀ s : State, s.pending = [] → ∃ t, step s = .next t ∧ t.pending = [] ∧ t.time.cycles = s.time.cycles + 1 ∧
    t.time.acc = ((s.time.acc : Int) + (2 ^ 32 + signed 32 (rdn s Reg.TIME_RATE))).toNat ∧ ∀ a, rd t a = rd s a

/-- Every command answers a next state, in every state and for all operands, and leaves the queue of waiting commands and
the device's identity as they were (20_startup.md R539; 00_scope.md R1). -/
def Obligations.CommandsComplete : Prop :=
  ∀ (c : Instr) (s : State), ∃ t, exec c s = .next t ∧ t.pending = s.pending ∧ t.chip.serial = s.chip.serial ∧
    t.chip.grade = s.chip.grade

/-- After reset the register file and the fuses are in their canonical forms, no command waits, and the identity registers
read as R2 says (00_scope.md R2; 20_startup.md R536; 20_startup.md R539). -/
def Obligations.ResetInvariant : Prop :=
  State.reset.regsOk = true ∧ State.reset.fusesOk = true ∧ State.reset.pending = [] ∧ rdn State.reset Reg.CHIP_ID = 0x57496416 ∧
    rdn State.reset Reg.CHIP_REV = 0xB0 ∧ rdn State.reset Reg.CHIP_RST_CAUSE = 1

/-- Every step keeps the register file canonical: addresses strictly rising, and no register listed that holds its reset
value (00_scope.md R10; 95_what_each_step_holds.md). -/
def Obligations.StepKeepsRegisterFile : Prop :=
  ∀ s t : State, s.regsOk = true → step s = .next t → t.regsOk = true

/-- No step changes a programmed fuse field, and the fuses keep the form that R539 and R540 give them (20_startup.md R539;
20_startup.md R540). -/
def Obligations.StepKeepsFuses : Prop :=
  ∀ s t : State, s.fusesOk = true → step s = .next t →
    t.fusesOk = true ∧ ∀ f, (tabFind s.chip.fuses f).isSome = true → tabFind t.chip.fuses f = tabFind s.chip.fuses f

/-- A register write sets its RW and WO bits, sets W1S and clears W1C bits written with 1, and leaves a field written with a
reserved value and all others (00_scope.md R10; 00_scope.md R11). -/
def Obligations.RegisterFieldsMerge : Prop :=
  (∀ (r : RegRow) (old v : W64) (i : Nat), i < 64 →
    bitOf (regMerge r old v) i =
      (((if (r.rw.testBit i || r.wo.testBit i) && !bitOf (reservedBits r v) i then bitOf v i else bitOf old i) ||
        (bitOf v i && r.w1s.testBit i)) && !(bitOf v i && r.w1c.testBit i))) ∧
  ∀ (s : State) (a : Nat) (v : W64) (r : RegRow), findRow a = some r →
    (reservedBits r v = 0 → rd (regWrite s a v) a = regMerge r (rd s a) v ∧ Only s (regWrite s a v) [a] [] []) ∧
    (reservedBits r v ≠ 0 → s.host.probe = none → rf s Reg.HOST_ACC_STATUS 3 0 = 0 → a ≠ Reg.HOST_ACC_STATUS → a ≠ Reg.HOST_ACC_ADDR →
      rd (regWrite s a v) a = regMerge r (rd s a) v ∧ rf (regWrite s a v) Reg.HOST_ACC_STATUS 3 0 = 1 ∧
      rdn (regWrite s a v) Reg.HOST_ACC_ADDR = a % 2 ^ 64 ∧
      Only s (regWrite s a v) [a, Reg.HOST_ACC_STATUS, Reg.HOST_ACC_ADDR] [(0xFC8, 0, pack2 1 0)] [])

/-- A read of an unassigned offset returns zeros, a write to it is dropped, and each is reported with code 2
(19_host_interface.md R505). -/
def Obligations.UnassignedOffsets : Prop :=
  ∀ (addr : BitVec 32) (s : State), let a := addr.toNat
    regAt a = none → s.host.probe = none → rf s Reg.HOST_ACC_STATUS 3 0 = 0 →
    (∀ n, n = 4 ∨ n = 8 ∨ n = 16 → a % n = 0 → ∃ u, exec (.registerRead 0 addr n) s = .next (pump u) ∧
      rf u Reg.HOST_ACC_STATUS 3 0 = 2 ∧ rdn u Reg.HOST_ACC_ADDR = a ∧
      Only s u [Reg.HOST_ACC_STATUS, Reg.HOST_ACC_ADDR] [(0xFC8, 0, pack2 2 0)] [.readData (List.replicate n 0)]) ∧
    ∀ (data : List Byte) sent, data.length = 4 ∨ data.length = 8 → a % data.length = 0 →
      ∃ u, exec (.registerWrite 0 addr data true sent) s = .next (pump u) ∧
        rf u Reg.HOST_ACC_STATUS 3 0 = 2 ∧ rdn u Reg.HOST_ACC_ADDR = a ∧
        Only { s with free := s.free + 1 } u [Reg.HOST_ACC_STATUS, Reg.HOST_ACC_ADDR] [(0xFC8, 0, pack2 2 0)] []

/-- H1 and H2 of a flow key are the CRC-32C values that R116 defines (05_grist_parser.md R116). -/
def Obligations.HashesAreCrc32c : Prop :=
  ∀ (seed : Nat) (k : Key), seed < 2 ^ 32 →
    (keyHash seed k).1 = crcRun 0x82F63B78 k.hashInput 0xFFFFFFFF ^^^ 0xFFFFFFFF ∧
    ∃ b3 b2 b1 b0 : Byte, b3.toNat * 2 ^ 24 + b2.toNat * 2 ^ 16 + b1.toNat * 2 ^ 8 + b0.toNat = seed ∧
      (keyHash seed k).2 = crcRun 0x82F63B78 (b3 :: b2 :: b1 :: b0 :: k.hashInput) 0xFFFFFFFF ^^^ 0xFFFFFFFF

/-- What arrives in COMMIT waits for ASLEEP, SLEEP outside AWAKE gives RESULT 1, WAKE while AWAKE RESULT 0, and WAKE in
COMMIT wakes once ASLEEP (18_power.md R494). -/
def Obligations.ArrivalsAroundCommit : Prop :=
  ∀ (h : Fin 40) (s : State), let n := h.val; let st := Reg.POWER_Hh_STATUS n
    (humState s n = 3 → reach s n = (.hold, s)) ∧
    (humState s n = 4 → (hum s n).wakeNext = true → humState (asleepLook s n) n = 5 ∧ (hum (asleepLook s n) n).cause = 0 ∧
      (hum (asleepLook s n) n).held = (hum s n).held) ∧
    (humState s n = 4 → (hum s n).wakeNext = false → (hum s n).held ≠ [] → rb s (Reg.POWER_Hh_CFG n) 0 = true →
      humState (asleepLook s n) n = 5 ∧ (hum (asleepLook s n) n).cause = 1 ∧ (hum (asleepLook s n) n).held = (hum s n).held) ∧
    (humState s n = 4 → (hum s n).wakeNext = false → s.lauter.cmd = none → rb s (Reg.POWER_Hh_CFG n) 0 = false →
      humState (asleepLook s n) n = 4 ∧ (hum (asleepLook s n) n).held = []) ∧
    (humState s n ≠ 0 → ∃ t, exec (.powerSleep h) s = .next t ∧ rf t st 7 5 = 1 ∧ humState t n = humState s n ∧ Only s t [st] [] []) ∧
    (humState s n = 0 → ∃ t, exec (.powerWake h) s = .next t ∧ rf t st 7 5 = 0 ∧ humState t n = 0 ∧ Only s t [st] [] []) ∧
    (humState s n = 3 → ∃ t, exec (.powerWake h) s = .next t ∧ rf t st 7 5 = 0 ∧ humState t n = 3 ∧
      hum t n = { hum s n with wakeNext := true } ∧ Only s { t with hummocks := s.hummocks } [st] [] [])

/-- A write of TIME_RATE within 2^22 sets the rate; a larger magnitude is reported and changes nothing (14_time_unit.md
R383; 00_scope.md R11). -/
def Obligations.TimeRateWriteTakesEffect : Prop :=
  ∀ (v : BitVec 32) (s : State),
    (v.toInt.natAbs ≤ 2 ^ 22 →
      ∃ t, exec (.timeRateWrite v) s = .next t ∧ rdn t Reg.TIME_RATE = v.toNat ∧
        Only { s with time := { s.time with rateAt := nowNs s, rateTold := false } } t [Reg.TIME_RATE] [] []) ∧
    (2 ^ 22 < v.toInt.natAbs → s.host.probe = none → rf s Reg.HOST_ACC_STATUS 3 0 = 0 →
      ∃ t, exec (.timeRateWrite v) s = .next t ∧ rf t Reg.HOST_ACC_STATUS 3 0 = 1 ∧ rdn t Reg.HOST_ACC_ADDR = Reg.TIME_RATE ∧
        Only s t [Reg.HOST_ACC_STATUS, Reg.HOST_ACC_ADDR] [(0xFC8, 0, pack2 1 0)] [])

/-- TIME_SET and TIME_ADJUST give the time asked for at once, move the tick forward only and leave elapsed time
(14_time_unit.md R384; 14_time_unit.md R388; 14_time_unit.md R402). -/
def Obligations.TimeChangeIsOneStep : Prop :=
  ∀ (v : BitVec 32) (s : State),
    let setTo := (rdn s Reg.TIME_SET_S * 1000000000 + rf s Reg.TIME_SET_NS 29 0) * 2 ^ 32 + rf s Reg.TIME_SET_SUBNS 15 0 * 2 ^ 16
    let sum : Int := s.time.acc + (rd s Reg.TIME_ADJ).toInt * 2 ^ 16
    let ok (t : State) (adjust : Bool) (acc : Nat) : Prop :=
      t.time.acc = acc ∧ nowNs t = nowNs s ∧ t.time.tick = max s.time.tick (acc / 2 ^ 32 / tickPeriod s) ∧
        (∃ more, t.ev.occ = s.ev.occ ++
            ⟨0x082, b2n adjust, unsigned 64 (max (-(2 ^ 63)) (min (2 ^ 63 - 1) (((acc : Int) - s.time.acc) / 2 ^ 16))), tickNo t⟩ :: more ∧
          ∀ o ∈ more, 0x090 ≤ o.source ∧ o.source ≤ 0x09F) ∧
        (∀ a, (∀ n < 16, a ≠ Reg.TIME_TOUTn_STATUS n) → rd t a = rd s a) ∧
        t.out = s.out ∧ t.frames = s.frames ∧ t.host = s.host ∧ t.chip = s.chip
    (bitOf (v.setWidth 64) 0 = true → bitOf (v.setWidth 64) 1 = false →
      ∃ t, exec (.timeSet v) s = .next t ∧ ok t false setTo) ∧
    (bitOf (v.setWidth 64) 0 = false → bitOf (v.setWidth 64) 1 = true → 0 ≤ sum → sum < (2 ^ 48 * 1000000000 * 2 ^ 32 : Nat) →
      ∃ t, exec (.timeAdjust v) s = .next t ∧ ok t true sum.toNat) ∧
    (s.host.probe = none → rf s Reg.HOST_ACC_STATUS 3 0 = 0 →
      (bitOf (v.setWidth 64) 1 = true ∧ (bitOf (v.setWidth 64) 0 = true ∨ sum < 0 ∨ (2 ^ 48 * 1000000000 * 2 ^ 32 : Nat) ≤ sum)) →
      ∃ t, exec (.timeAdjust v) s = .next t ∧ rf t Reg.HOST_ACC_STATUS 3 0 = 1 ∧
        Only s t [Reg.HOST_ACC_STATUS, Reg.HOST_ACC_ADDR] [(0xFC8, 0, pack2 1 0)] [])

/-- Losing and regaining TREF_IN, the source watch, the servo watch and PPS_IN set their status bits and raise their events
(14_time_unit.md R386; 14_time_unit.md R399; 14_time_unit.md R403). -/
def Obligations.TimeReferenceWatch : Prop :=
  ∀ s : State,
    (∃ t, exec .trefLost s = .next t ∧ rf t Reg.TIME_STATUS 1 0 = 0 ∧ rf t Reg.TIME_STATUS 63 2 = rf s Reg.TIME_STATUS 63 2 ∧
      Only s t [Reg.TIME_STATUS] [(0x080, rf s Reg.TIME_STATUS 5 4, rdn s Reg.TIME_RATE)] []) ∧
    (∀ us, ∃ t, exec (.trefRestored us) s = .next t ∧ rf t Reg.TIME_STATUS 1 0 = 3 ∧
      rf t Reg.TIME_STATUS 63 2 = rf s Reg.TIME_STATUS 63 2 ∧
      Only s t [Reg.TIME_STATUS] [(0x081, rf s Reg.TIME_STATUS 5 4, us)] []) ∧
    (∀ p : Fin 64, rb s (Reg.TIME_PORTp_CFG p) 3 = true → rb s (Reg.TIME_PORTp_STATUS p) 0 = true →
      tabGet s.time.lastSync p 0 + rf s Reg.TIME_SYNC_TIMEOUT 15 0 * 1000000 ≤ nowNs s →
      ∃ t, exec (.syncTimeout p) s = .next t ∧ rb t (Reg.TIME_PORTp_STATUS p) 0 = false ∧
        rf t (Reg.TIME_PORTp_STATUS p) 63 1 = rf s (Reg.TIME_PORTp_STATUS p) 63 1 ∧
        Only s t [Reg.TIME_PORTp_STATUS p] [(0x084, p, rf s (Reg.TIME_PORTp_CFG p) 15 8)] []) ∧
    ((∃ p < 64, rb s (Reg.TIME_PORTp_CFG p) 3 = true ∧ rb s (Reg.TIME_PORTp_STATUS p) 0 = true) → s.time.rateTold = false →
      s.time.rateAt + rf s Reg.TIME_SERVO_TIMEOUT 15 0 * 1000000 ≤ nowNs s →
      ∃ t, exec .servoTimeout s = .next t ∧ Only { s with time := { s.time with rateTold := true } } t []
        [(0x083, rdn s Reg.TIME_RATE, (nowNs s - s.time.rateAt) / 1000000)] []) ∧
    (s.time.ppsEn = true →
      ∃ t, exec .ppsEdge s = .next t ∧ rb t Reg.TIME_STATUS 2 = true ∧
        rdn t Reg.TIME_PPS_S = s.time.acc / accPerSec % 2 ^ 48 ∧ rdn t Reg.TIME_PPS_NS = s.time.acc / 2 ^ 32 % 1000000000 ∧
        rdn t Reg.TIME_PPS_SUBNS = s.time.acc / 2 ^ 16 % 2 ^ 16 / 2 ^ 13 * 2 ^ 13 ∧
        Only { s with time := { s.time with ppsAt := some (nowNs s) } } t
          [Reg.TIME_STATUS, Reg.TIME_PPS_S, Reg.TIME_PPS_NS, Reg.TIME_PPS_SUBNS] [] []) ∧
    (∀ at_, s.time.ppsAt = some at_ → at_ + 1001000000 ≤ nowNs s → rb s Reg.TIME_STATUS 2 = true →
      ∃ t, exec .ppsTimeout s = .next t ∧ rb t Reg.TIME_STATUS 2 = false ∧
        Only s t [Reg.TIME_STATUS] [(0x087, 0, rdn s Reg.TIME_PPS_NS)] [])

/-- Captures, stamps, the residence table and the snapshot: POP takes the head, an edge joins the tail or is counted
(14_time_unit.md R385; 14_time_unit.md R395; 14_time_unit.md R398; 14_time_unit.md R403). -/
def Obligations.TimeFifosAndTables : Prop :=
  ∀ s : State,
    (∃ t, exec .txtsPop s = .next t ∧ t = { s with time := { s.time with txts := s.time.txts.tail } }) ∧
    (∀ n : Fin 8, ∃ t, exec (.tcapPop n) s = .next t ∧ tabGet t.time.tcap n [] = (tabGet s.time.tcap n []).tail ∧
        (∀ m, m ≠ n.val → tabGet t.time.tcap m [] = tabGet s.time.tcap m []) ∧
        { t with time := { t.time with tcap := s.time.tcap } } = s) ∧
    (∀ (n : Fin 8) (falling : Bool), rb s (Reg.TIME_TCAPn_CFG n) (if falling then 1 else 0) = true →
      ((tabGet s.time.tcap n []).length < 16 →
        ∃ t c, exec (.tcapEdge n falling) s = .next t ∧ tabGet t.time.tcap n [] = tabGet s.time.tcap n [] ++ [c] ∧
          c.fall = falling ∧
          (c.time16 : Int) = max 0 (((s.time.acc : Int) - (BitVec.ofNat 32 (rdn s (Reg.TIME_TCAPn_DELAY n))).toInt * 2 ^ 24) / 2 ^ 29 * 2 ^ 13) ∧
          (∀ m, m ≠ n.val → tabGet t.time.tcap m [] = tabGet s.time.tcap m []) ∧
          { t with time := { t.time with tcap := s.time.tcap } } = s) ∧
      (16 ≤ (tabGet s.time.tcap n []).length →
        ∃ t, exec (.tcapEdge n falling) s = .next t ∧
          rdn t (Reg.TIME_TCAPn_OVF n) = min (rdn s (Reg.TIME_TCAPn_OVF n) + 1) (2 ^ 32 - 1) ∧
          Only s t [Reg.TIME_TCAPn_OVF n] [(0x0A0 + n, n, 0)] [])) ∧
    (∃ t, exec .residenceTimeout s = .next t ∧
      (∀ r, r ∈ t.time.residence ↔ r ∈ s.time.residence ∧ nowNs s < r.written + rf s Reg.TIME_FU_TIMEOUT 23 0 * 1000) ∧
      { t with time := { t.time with residence := s.time.residence } } = s) ∧
    (∃ t, exec .timeSnapRead s = .next t ∧ rdn t Reg.TIME_SNAP_S = s.time.acc / accPerSec % 2 ^ 64 ∧
      rdn t Reg.TIME_SNAP_SUBNS = s.time.acc / 2 ^ 16 % 2 ^ 16 ∧ rdn t Reg.TIME_SNAP_TICK = s.time.tick % 2 ^ 64 ∧
      Only s t [Reg.TIME_SNAP_S, Reg.TIME_SNAP_SUBNS, Reg.TIME_SNAP_TICK] []
        [.readData (toLE 4 (s.time.acc / 2 ^ 32 % 1000000000))])

/-- Arming, disarming and the edges of a timed output follow START, PERIOD, WIDTH and POL (14_time_unit.md R401;
14_time_unit.md R402). -/
def Obligations.TimedOutputs : Prop :=
  ∀ (n : Fin 16) (s : State),
    let x := toutOf s n
    let start := toutStart s n
    let mode := rf s (Reg.TIME_TOUTn_CFG n) 1 0
    let pol := rb s (Reg.TIME_TOUTn_CFG n) 2
    (x.pulseEnd = none → mode = 2 → 0 < toutPeriod s n →
      ∃ t k, exec (.toutArm n) s = .next t ∧ (toutOf t n).next = some (start + (k * toutPeriod s n : Nat)) ∧
        (s.time.acc : Int) ≤ start + (k * toutPeriod s n : Nat) ∧
        (∀ j < k, start + (j * toutPeriod s n : Nat) < (s.time.acc : Int)) ∧ rb t (Reg.TIME_TOUTn_STATUS n) 0 = true) ∧
    (x.pulseEnd = none → mode = 1 → (s.time.acc : Int) ≤ start →
      ∃ t, exec (.toutArm n) s = .next t ∧ (toutOf t n).next = some start ∧ rb t (Reg.TIME_TOUTn_STATUS n) 0 = true) ∧
    (x.pulseEnd = none → mode = 1 → start < (s.time.acc : Int) →
      ∃ t, exec (.toutArm n) s = .next t ∧ (toutOf t n).next = none ∧ t.ev.occ = s.ev.occ ++ [⟨0x090 + n, n, 1, tickNo s⟩] ∧
        rf t (Reg.TIME_TOUTn_STATUS n) 15 8 = min 255 (rf s (Reg.TIME_TOUTn_STATUS n) 15 8 + 1)) ∧
    (∀ e, x.pulseEnd = some e →
      ∃ t, exec (.toutArm n) s = .next t ∧ rb t (Reg.TIME_TOUTn_STATUS n) 2 = true ∧ Only s t [Reg.TIME_TOUTn_STATUS n] [] []) ∧
    (∃ t, exec (.toutDisarm n) s = .next t ∧ (toutOf t n).next = none ∧ (toutOf t n).pulseEnd = x.pulseEnd ∧ t.out = s.out) ∧
    (∀ e : Int, x.pulseEnd = none → x.next = some e → e ≤ (s.time.acc : Int) →
      ∃ t, exec (.toutEdge n) s = .next t ∧ t.out = .tout n (!pol) :: s.out ∧
        (toutOf t n).pulseEnd = some (nowNs s + rdn s (Reg.TIME_TOUTn_WIDTH n)) ∧
        (toutOf t n).next = if mode = 2 then some (e + toutPeriod s n) else none) ∧
    (∀ e, x.pulseEnd = some e → e ≤ nowNs s → rb s (Reg.TIME_TOUTn_STATUS n) 2 = false →
      ∃ t, exec (.toutEdge n) s = .next t ∧ t.out = .tout n pol :: s.out ∧ (toutOf t n).pulseEnd = none ∧
        (toutOf t n).next = x.next)

/-- A link delay measurement sets the port's margin from the largest deviation of the last 64 and reports a fall once
(14_time_unit.md R400). The rounding is the model's reading (assumption 25). -/
def Obligations.LinkDelayMargin : Prop :=
  ∀ (p : Fin 64) (meas : BitVec 48) (s : State),
    let ms := (meas.toNat :: tabGet s.time.measured p []).take 64
    let mean := rdn s (Reg.TIME_PORTp_LDELAY p)
    let st := Reg.TIME_PORTp_STATUS p
    let th := rf s Reg.TIME_SLACK_THRESH 7 0
    ∃ t worst, exec (.ldelayMeasurement p meas) s = .next t ∧
      (∀ m ∈ ms, ((m : Int) - mean).natAbs ≤ worst) ∧ (worst = 0 ∨ ∃ m ∈ ms, ((m : Int) - mean).natAbs = worst) ∧
      rf t st 15 8 = min 255 (rf s Reg.TIME_LDELAY_TOL 7 0 - (worst + 2 ^ 14 - 1) / 2 ^ 14) ∧
      (rb s st 16 = false → rf t st 15 8 < th → rb t st 16 = true ∧ t.ev.occ.getLast? = some ⟨0x0C0 + p, p, rf t st 15 8, tickNo s⟩) ∧
      (rb s st 16 = false → th ≤ rf t st 15 8 → rb t st 16 = false) ∧
      (rb s st 16 = true → rb t st 16 = decide (rf t st 15 8 < th + 2))

/-- A calibration period counts itself, starts every awake region's counts afresh and moves the code by the first rule that
applies (03_selftimed_core.md R61; 03_selftimed_core.md R62; 03_selftimed_core.md R66). -/
def Obligations.CalibrationPeriod : Prop :=
  ∀ s : State,
    (∀ readings, ∃ t, exec (.calibrationPeriodEnd readings) s = .next t ∧ t.core.offset = 0 ∧
      rdn t Reg.CORE_PERIODS = (rdn s Reg.CORE_PERIODS + 1) % 2 ^ 32 ∧
      (∀ n < 101, (regionOf t n).counts = [] ∧ (regionOf t n).replays = 0) ∧
      ∀ n < 101, regionAsleep s n = false → (regionOf s n).guardLeft ≠ 3 → (regionOf s n).nextCode = none →
        let code := rf s (Reg.CORE_REGn_STATUS n) 5 0
        let cs := (regionOf s n).counts
        let margin := periodMargin cs
        let thresh := rf s Reg.CORE_CFG 7 4
        let target := rf s Reg.CORE_CFG 3 0
        let hyst := [2, 1, 3].getD (rf s Reg.CORE_CFG 9 8) 2
        if cs.length = 16 ∧ ∀ c ∈ cs, 256 ≤ c.1 then
          rf t (Reg.CORE_REGn_STATUS n) 11 8 = margin % 16 ∧ rb t (Reg.CORE_REGn_STATUS n) 17 = false ∧
          (regionOf t n).nextCode.getD code =
            if margin < thresh then min (code + 2) 63 else if margin < target then min (code + 1) 63
            else if target + hyst < margin then code - 1 else code
        else (regionOf t n).nextCode = none ∧ rb t (Reg.CORE_REGn_STATUS n) 17 = true) ∧
    (∀ counts, ∃ t, exec (.probeOffsetStep counts) s = .next t ∧ t.core.offset = min 15 (s.core.offset + 1) ∧
      (∀ n < 101, regionAsleep s n = false → (regionOf s n).counts.length < 16 →
        (regionOf t n).counts.length = (regionOf s n).counts.length + 1 ∧ (regionOf s n).counts <+: (regionOf t n).counts) ∧
      (∀ n, regionAsleep s n = true → regionOf t n = regionOf s n) ∧ { t with core := s.core } = s)

/-- A new delay code takes effect, replays are counted, and a forced recalibration leaves the lowest code with margin TARGET
(03_selftimed_core.md R63; 03_selftimed_core.md R64; 03_selftimed_core.md R72; 03_selftimed_core.md R73). -/
def Obligations.DelayCodes : Prop :=
  ∀ s : State,
    (∀ (n : Fin 101) (c : Nat), (regionOf s n).nextCode = some c →
      ∃ t, exec (.delayCodeApply n) s = .next t ∧ rf t (Reg.CORE_REGn_STATUS n) 5 0 = c % 64 ∧ (regionOf t n).nextCode = none ∧
        (∀ m, m ≠ n.val → regionOf t m = regionOf s m) ∧ ∀ a, a ≠ Reg.CORE_REGn_STATUS n → rd t a = rd s a) ∧
    (∀ n : Fin 101, regionAsleep s n = false →
      ∃ t, exec (.handshakeReplay n) s = .next t ∧ (regionOf t n).replays = (regionOf s n).replays + 1 ∧
        rdn t (Reg.CORE_REGn_REPLAYS n) = min (rdn s (Reg.CORE_REGn_REPLAYS n) + 1) (2 ^ 32 - 1) ∧
        (∀ a, a ≠ Reg.CORE_REGn_REPLAYS n → rd t a = rd s a) ∧ t.ev = s.ev) ∧
    (∀ v : BitVec 32, v.getLsbD 31 = true → v.toNat % 128 < 101 → s.core.recal = none → regionAsleep s (v.toNat % 128) = false →
      otherPlaneOut s (v.toNat % 128) = false →
      ∃ t, exec (.forcedRecalStart v) s = .next t ∧ t.core.recal = some (v.toNat % 128) ∧ rb t Reg.CORE_RECAL_STATUS 0 = true ∧
        rf t Reg.CORE_RECAL_STATUS 7 1 = v.toNat % 128 ∧ rf t Reg.CORE_RECAL_STATUS 9 8 = 0 ∧
        Only { s with core := { s.core with recal := some (v.toNat % 128) } } t [Reg.CORE_RECAL_STATUS] [] []) ∧
    (∀ (margins : List Nat) (n c : Nat), s.core.recal = some n → c < 64 →
      (∃ h : c < margins.length, rf s Reg.CORE_CFG 3 0 ≤ margins[c]) → (∀ i (h : i < margins.length), i < c → margins[i] < rf s Reg.CORE_CFG 3 0) →
      ∃ t, exec (.forcedRecalComplete margins) s = .next t ∧ rf t (Reg.CORE_REGn_STATUS n) 5 0 = c ∧ t.core.recal = none ∧
        rb t Reg.CORE_RECAL_STATUS 0 = false ∧ rf t Reg.CORE_RECAL_STATUS 21 16 = c ∧ (regionOf t n).nextCode = none ∧
        t.ev.occ = s.ev.occ ++ [⟨0x024, n, c, tickNo s⟩])

/-- Each reset clears what R536 says it clears and keeps what it keeps, and names itself in CHIP_RST_CAUSE
(19_host_interface.md R526; 20_startup.md R536; 20_startup.md R537). -/
def Obligations.ResetsClear : Prop :=
  ∀ s : State,
    (∃ t, exec .powerOnReset s = .next t ∧ rdn t Reg.CHIP_RST_CAUSE = 1 ∧ (∀ a, a ≠ Reg.CHIP_RST_CAUSE → rd t a = regReset a) ∧
      t = { State.reset with
        pending := s.pending, free := s.free, out := s.out, twin := { fenceIn := s.twin.fenceIn }
        chip := { fuses := s.chip.fuses, grade := s.chip.grade, serial := s.chip.serial } }) ∧
    (∀ pwrgood sent, ∃ t, exec (.chipReset pwrgood sent) s = .next t ∧ rdn t Reg.CHIP_RST_CAUSE = 2 ∧
      (∀ n < 4, rd t (Reg.CHIP_SCRATCHn n) = rd s (Reg.CHIP_SCRATCHn n)) ∧
      (∀ a, a ≠ Reg.CHIP_RST_CAUSE → (a < Reg.CHIP_SCRATCHn 0 ∨ Reg.CHIP_SCRATCHn 4 ≤ a) → rd t a = regReset a) ∧
      t.chip = { s.chip with rstN := false, tjArmed := true, pwrgood := pwrgood } ∧
      { t with regs := [(Reg.CHIP_RST_CAUSE, 1)], out := [], chip := {} } =
        { State.reset with pending := s.pending, free := s.free, twin := { fenceIn := s.twin.fenceIn } }) ∧
    (∃ t, exec .pcieFundamentalReset s = .next t ∧ rb t Reg.CHIP_RST_CAUSE 2 = true ∧
      rdn t Reg.HOST_LINK = 0 ∧ ∀ a, Reg.HOST_CFG ≤ a → hostKeeps a = false → rd t a = regReset a) ∧
    (∃ t, exec .jtagReset s = .next t ∧ t = { s with chip := { s.chip with tap := none } })

/-- Release of reset reads the strap and the fuses, locks the PLL to a present reference and leaves every region at the
lowest code that has its margin (20_startup.md R542; 03_selftimed_core.md R72; 20_startup.md R539). -/
def Obligations.ResetReleased : Prop :=
  ∀ (bootHost tref : Bool) (margins : List (List Nat)) (s : State),
    (s.chip.rstN = true → exec (.resetRelease bootHost tref margins) s = .next s) ∧
    (s.chip.rstN = false → ∃ t, exec (.resetRelease bootHost tref margins) s = .next t ∧
      t.chip = { s.chip with rstN := true, pwrgood := true } ∧ rdn t Reg.CHIP_STRAPS = b2n bootHost ∧
      rdn t Reg.CHIP_ORDER = s.chip.grade % 2 ∧ rdn t Reg.CHIP_SERIAL = s.chip.serial % 2 ^ 64 ∧
      (tref = true → rf t Reg.TIME_STATUS 1 0 = 3) ∧
      (∀ n < 101, ∀ c, ((margins.getD n []).take 64).findIdx? (fun m => decide (rf s Reg.CORE_CFG 3 0 ≤ m)) = some c →
        rf t (Reg.CORE_REGn_STATUS n) 5 0 = c) ∧
      ∀ a, a ∉ [Reg.CHIP_STRAPS, Reg.CHIP_ORDER, Reg.CHIP_SERIAL, Reg.TIME_STATUS] → (∀ n < 101, a ≠ Reg.CORE_REGn_STATUS n) →
        rd t a = rd s a)

/-- FUSE_PROG starts programming only where R540 accepts it, a programmed field never changes, and FUSE_STATUS reports
fields, BUSY and the last answer (20_startup.md R539; 20_startup.md R540). -/
def Obligations.FusesProgram : Prop :=
  (∀ (field : BitVec 8) (value : BitVec 256) (tj : BitVec 12) (s : State), ∃ t, exec (.fuseProg field value tj) s = .next t ∧
    t.chip.tap = some 0x3A ∧ t.chip.fuses = s.chip.fuses ∧ { t with chip := s.chip } = s ∧
    let f := field.toNat
    let v := if f = 2 ∨ f = 4 then value.toNat % 2 else if f = 5 then value.toNat else value.toNat % 2 ^ 128
    if s.chip.rstN = true ∨ s.chip.pwrgood = false ∨ tj.toInt < 0 ∨ 400 < tj.toInt ∨ f = 0 ∨ 5 < f ∨
        ((f = 1 ∨ f = 3 ∨ f = 5) ∧ v = 0) ∨ s.chip.prog ≠ none then
      t.chip.fuseRefused = true ∧ t.chip.fuseAgain = false ∧ t.chip.prog = s.chip.prog
    else if (tabFind s.chip.fuses f).isSome then t.chip.fuseRefused = false ∧ t.chip.fuseAgain = true ∧ t.chip.prog = none
    else t.chip.fuseRefused = false ∧ t.chip.fuseAgain = false ∧ t.chip.prog = some (f, v)) ∧
  ∀ s : State,
    (∃ t n, exec .fuseStatus s = .next t ∧ t.out = .jtag n :: s.out ∧ n < 256 ∧
      (∀ f, 1 ≤ f → f ≤ 5 → n.testBit (f - 1) = (tabFind s.chip.fuses f).isSome) ∧ n.testBit 5 = s.chip.prog.isSome ∧
      n.testBit 6 = s.chip.fuseAgain ∧ n.testBit 7 = s.chip.fuseRefused ∧ t.chip = { s.chip with tap := some 0x3B } ∧
      { t with out := s.out, chip := s.chip } = s) ∧
    (∀ f v, s.chip.prog = some (f, v) → ∃ t, exec .fuseProgramComplete s = .next t ∧ t.chip.prog = none ∧
      (v ≠ 0 → tabFind t.chip.fuses f = some v) ∧ (∀ g, g ≠ f → tabFind t.chip.fuses g = tabFind s.chip.fuses g) ∧
      { t with chip := s.chip } = s) ∧
    ∀ tj : BitVec 12,
      let limit := rf s Reg.CHIP_TJ_LIMIT 11 0
      let x := tj.toInt
      let l := (BitVec.ofNat 12 limit).toInt
      ∃ t, exec (.tjSample tj) s = .next t ∧ rdn t Reg.CHIP_TJ = tj.toNat ∧ rb t Reg.CHIP_ALERT 1 = decide (l ≤ x) ∧
        Only s { t with chip := s.chip } [Reg.CHIP_TJ, Reg.CHIP_ALERT]
          (if l ≤ x ∧ s.chip.tjArmed = true then [(0x032, tj.toNat, limit)] else []) [] ∧
        t.chip = { s.chip with tjArmed := if l ≤ x then false else if x ≤ l - 8 then true else s.chip.tjArmed }

/-- A good PAUSE or PFC frame stops new frames for the quanta received, and pauses end and repeat on time (04_port_lanes.md
R82; 04_port_lanes.md R92). -/
def Obligations.PauseFramesStopFrames : Prop :=
  ∀ (lane : Fin 64) (frame : List Byte) (s : State),
    let l := lane.val
    (isPort s l = true → linkUp s l = true → rb s (Reg.PORT_LANEl_CTRL l) 0 = true → beAt frame 12 2 = 0x8808 →
      64 ≤ frame.length → frame.length ≤ rf s (Reg.PORT_LANEl_MAX_LEN l) 13 0 → fcsGood frame = true →
      (beAt frame 14 2 = 0x0001 → ∃ t, exec (.pauseFrameReceived lane frame) s = .next t ∧
        (laneOf t l).pauseEnd =
          (if rb s (Reg.PORT_LANEl_CTRL l) 5 = true then nowNs s + quantaNs s l (beAt frame 16 2) else (laneOf s l).pauseEnd) ∧
        (laneOf t l).pfcEnd = (laneOf s l).pfcEnd ∧
        rdn t (Reg.PORT_LANEl_CNTk l 5) = (rdn s (Reg.PORT_LANEl_CNTk l 5) + 1) % 2 ^ 64 ∧
        (∀ a, a ∉ [0, 1, 2 + castOf frame, 5].map (Reg.PORT_LANEl_CNTk l) → rd t a = rd s a) ∧
        (∀ k, k ≠ l → laneOf t k = laneOf s k) ∧ { t with regs := s.regs, lanes := s.lanes } = s) ∧
      (beAt frame 14 2 = 0x0101 → ∃ t, exec (.pfcFrameReceived lane frame) s = .next t ∧
        (∀ p, p < 8 → tabGet (laneOf t l).pfcEnd p 0 =
          if rb s (Reg.PORT_LANEl_CTRL l) 6 = true ∧ (beAt frame 16 2).testBit p = true then
            nowNs s + quantaNs s l (beAt frame (18 + 2 * p) 2)
          else tabGet (laneOf s l).pfcEnd p 0) ∧
        (laneOf t l).pauseEnd = (laneOf s l).pauseEnd ∧
        rdn t (Reg.PORT_LANEl_CNTk l 5) = (rdn s (Reg.PORT_LANEl_CNTk l 5) + 1) % 2 ^ 64 ∧
        (∀ a, a ∉ [0, 1, 2 + castOf frame, 5].map (Reg.PORT_LANEl_CNTk l) → rd t a = rd s a) ∧
        (∀ k, k ≠ l → laneOf t k = laneOf s k) ∧ { t with regs := s.regs, lanes := s.lanes } = s)) ∧
    (∃ t, exec (.pauseQuantaExpiry lane) s = .next t ∧ (laneOf t l).pauseEnd = (if nowNs s < (laneOf s l).pauseEnd then (laneOf s l).pauseEnd else 0) ∧
      (∀ e, e ∈ (laneOf t l).pfcEnd ↔ e ∈ (laneOf s l).pfcEnd ∧ nowNs s < e.2) ∧
      (∀ k, k ≠ l → laneOf t k = laneOf s k) ∧ { t with lanes := s.lanes } = s) ∧
    ∃ t, exec (.pauseRepeat lane) s = .next t ∧
      t.out = (((laneOf s l).sent.filter (fun e => decide (e.2 + quantaNs s l (pauseQuanta s l) / 2 ≤ nowNs s))).map (fun e =>
        Out.pause l (e.1 != 8) (if e.1 = 8 then 0 else 2 ^ e.1) (pauseQuanta s l))).reverse ++ s.out ∧
      (∀ a, a ∉ [11, 12, 14, 16].map (Reg.PORT_LANEl_CNTk l) → rd t a = rd s a) ∧
      (∀ k, k ≠ l → laneOf t k = laneOf s k) ∧ { t with regs := s.regs, lanes := s.lanes, out := s.out } = s

/-- A lane's link comes up and goes down with its status bits, its event and its counter, and the other lane reports set
their own bit (04_port_lanes.md R79; 04_port_lanes.md R80; 04_port_lanes.md R83; 04_port_lanes.md R94; 04_port_lanes.md
R95). -/
def Obligations.LinkStateChanges : Prop :=
  (∀ (lane : Fin 64) (s : State),
    let l := lane.val
    let st := Reg.PORT_LANEl_STATUS l
    let ev (k d1 : Nat) : Nat × Nat × Nat := (0x100 + 16 * l + k, pack2 l (portMode s l), d1)
    isPort s l = true → humDown s (l / 4) = false →
    (rf s (Reg.PORT_LANEl_CTRL l) 1 0 ≠ 0 → linkUp s l = false → ∃ t, exec (.linkUp lane) s = .next t ∧
      rf t st 2 0 = 7 ∧ rf t st 5 4 = 0 ∧ rb t st 3 = rb s st 3 ∧ rf t st 11 6 = rf s st 11 6 ∧
      Only s { t with lanes := s.lanes } [st] [ev 0 (if portMode s l = 1 then rf s st 7 6 else laneFec s l)] []) ∧
    (∀ signal lock sent, linkUp s l = true → ∃ t, exec (.linkDown lane signal lock sent) s = .next t ∧
      rb t st 0 = false ∧ rb t st 1 = signal ∧ rb t st 2 = lock ∧ rb t st 3 = false ∧ rf t st 11 4 = rf s st 11 4 ∧
      rdn t (Reg.PORT_LANEl_CNTk l 21) = (rdn s (Reg.PORT_LANEl_CNTk l 21) + 1) % 2 ^ 64 ∧
      ⟨(ev 1 (rdn s st)).1, (ev 1 (rdn s st)).2.1, (ev 1 (rdn s st)).2.2, tickNo s⟩ ∈ t.ev.occ) ∧
    (∀ sent, linkUp s l = true → 3 ≤ portMode s l → ∃ t, exec (.remoteFaultReceived lane sent) s = .next t ∧
      rb t st 0 = false ∧ rb t st 5 = true ∧ rf t st 2 1 = rf s st 2 1 ∧
      ⟨(ev 7 0).1, (ev 7 0).2.1, (ev 7 0).2.2, tickNo s⟩ ∈ t.ev.occ) ∧
    (∀ result : BitVec 64, laneNegotiates s l = true → rb s (Reg.PORT_LANEl_CTRL l) 1 = true →
      ∃ t, exec (.negotiationComplete lane result) s = .next t ∧ rd t st = setFld (rd s st) 3 3 1 ∧
        Only s t [st] [ev 2 result.toNat] []) ∧
    (∃ t, exec (.highBer lane) s = .next t ∧ rd t st = setFld (rd s st) 4 4 1 ∧ Only s t [st] [ev 3 0] []) ∧
    (∀ (speed : Fin 3) sent, portMode s l = 1 → laneAn37 s l = true → rf s st 7 6 ≠ speed.val →
      ∃ t, exec (.sgmiiSpeedChange lane speed sent) s = .next t ∧ rf t st 7 6 = speed.val ∧
        ⟨(ev 10 speed.val).1, (ev 10 speed.val).2.1, (ev 10 speed.val).2.2, tickNo s⟩ ∈ t.ev.occ)) ∧
  ∀ (quad : Fin 16) (s : State),
    let q := quad.val
    let st := Reg.PORT_Qq_STATUS q
    humDown s q = false →
    (∃ t, exec (.quadRefclkLost quad) s = .next t ∧ rd t st = setFld (rd s st) 1 0 0 ∧
      Only s t [st] [(0x109 + 64 * q, pack2 (4 * q) (portMode s (4 * q)), 0)] []) ∧
    ∃ t, exec (.quadRefclkRestored quad) s = .next t ∧ rd t st = setFld (rd s st) 1 0 3 ∧ Only s t [st] [] []

/-- An equaliser tap moves by at most one step per 10 µs, and an eye below its threshold is reported once until it recovers
(04_port_lanes.md R88; 04_port_lanes.md R89; 15_twins_and_fen.md R409). -/
def Obligations.EqualisersAndEyes : Prop :=
  (∀ (lane : Fin 80) moves (s : State),
    let k := lane.val
    let frozen := if k < 64 then rb s (Reg.PORT_LANEl_CTRL k) 4 else rb s (Reg.TWIN_LANEl_CTRL (k - 64)) 0
    let live := if k < 64 then rb s (Reg.PORT_LANEl_STATUS k) 1 else rb s (Reg.TWIN_LANEl_STATUS (k - 64)) 0
    (frozen = true ∨ live = false → exec (.eqAdaptStep lane moves) s = .next s) ∧
    (frozen = false → live = true → ∃ t, exec (.eqAdaptStep lane moves) s = .next t ∧ { t with lanes := s.lanes } = s ∧
      (∀ j, j ≠ k → laneOf t j = laneOf s j) ∧
      ((∀ m, (laneOf s k).eq.moved = some m → m + 10000 ≤ nowNs s) →
        (laneOf t k).eq.moved = some (nowNs s) ∧ (laneOf t k).eq.taps.length = (laneOf s k).eq.taps.length ∧
        ∀ i, ((laneOf t k).eq.taps.getD i 0 - (laneOf s k).eq.taps.getD i 0).natAbs ≤ 1) ∧
      ((∃ m, (laneOf s k).eq.moved = some m ∧ nowNs s < m + 10000) → (laneOf t k).eq = (laneOf s k).eq))) ∧
  ∀ (lane : Fin 64) (height width : BitVec 8) (s : State),
    let l := lane.val
    let th := rf s (Reg.PORT_Qq_EYE_THRESH (l / 4)) 7 0
    humDown s (l / 4) = false → ∃ t, exec (.eyeMeasure lane height width) s = .next t ∧
      rdn t (Reg.PORT_LANEl_EYE l) = height.toNat + width.toNat * 256 ∧
      (∀ a, a ≠ Reg.PORT_LANEl_EYE l → a ≠ Reg.CORE_SLACKd 2 → rd t a = rd s a) ∧
      (laneOf t l).eyeLow = (if (laneOf s l).eyeLow = true then decide (height.toNat < th + 4) else decide (height.toNat < th)) ∧
      ((laneOf s l).eyeLow = false → height.toNat < th →
        ⟨0x106 + 16 * l, pack2 l (portMode s l), height.toNat, tickNo s⟩ ∈ t.ev.occ)

/-- An MDIO or I2C command starts one transfer with its operands, is ignored while one runs, and ends with its result
(04_port_lanes.md R90; 04_port_lanes.md R91; 04_port_lanes.md R95). -/
def Obligations.ManagementBuses : Prop :=
  (∀ (bus : Fin 4) (value : BitVec 32) (s : State),
    let m := bus.val
    let cmd := Reg.PORT_MDIOm_CMD m
    let go (c : Instr) (op : Nat) : Prop :=
      (rb s cmd 31 = true → exec c s = .next s) ∧
      (rb s cmd 31 = false → ∃ t, exec c s = .next t ∧ rb t cmd 31 = true ∧ rf t cmd 11 10 = op ∧
        rf t cmd 9 0 = value.toNat % 1024 ∧ rb t cmd 12 = value.getLsbD 12 ∧
        Only s t [cmd] [] [.mdio m (value.getLsbD 12) op (value.toNat % 32) (value.toNat / 32 % 32) (rf s (Reg.PORT_MDIOm_DATA m) 15 0)])
    go (.mdioAddress bus value) 0 ∧ go (.mdioWrite bus value) 1 ∧ go (.mdioRead bus value) 2 ∧ go (.mdioReadInc bus value) 3) ∧
  (∀ (bus : Fin 4) (data : Option (BitVec 16)) (s : State),
    let cmd := Reg.PORT_MDIOm_CMD bus.val
    rb s cmd 31 = true → ∃ t, exec (.mdioComplete bus data) s = .next t ∧ rd t cmd = setFld (rd s cmd) 31 31 0 ∧
      rdn t (Reg.PORT_MDIOm_DATA bus.val) = (if 2 ≤ rf s cmd 11 10 then (data.map (·.toNat)).getD 0xFFFF
        else rdn s (Reg.PORT_MDIOm_DATA bus.val)) ∧ Only s t [cmd, Reg.PORT_MDIOm_DATA bus.val] [] []) ∧
  (∀ (bus : Fin 16) (value : BitVec 32) (s : State),
    let q := bus.val
    let cmd := Reg.PORT_I2Cq_CMD q
    let len := value.toNat / 2 ^ 16 % 64
    let go (c : Instr) (read : Bool) : Prop :=
      (rb s cmd 31 = true → exec c s = .next s) ∧
      (rb s cmd 31 = false → 1 ≤ len → len ≤ 32 → ∃ t, exec c s = .next t ∧ rb t cmd 31 = true ∧
        Only s t [cmd] [] [.i2c q (value.toNat % 128) read (if value.getLsbD 24 then none else some (value.toNat / 256 % 256))
          (if read then [] else (i2cBuffer s q).take len) len])
    go (.i2cRead bus value) true ∧ go (.i2cWrite bus value) false) ∧
  ∀ (bus : Fin 16) (s : State),
    let q := bus.val
    let cmd := Reg.PORT_I2Cq_CMD q
    rb s cmd 31 = true →
    (∀ nack data, ∃ t, exec (.i2cComplete bus nack data) s = .next t ∧ rd t cmd = setFld (rd s cmd) 31 31 0 ∧
      (nack = true → rb t (Reg.PORT_I2Cq_STATUS q) 0 = true ∧ Only s t [cmd, Reg.PORT_I2Cq_STATUS q] [] []) ∧
      (nack = false → rb s cmd 7 = false → Only s t [cmd] [] []) ∧
      (nack = false → rb s cmd 7 = true → (∀ n < 8, rdn t (Reg.PORT_I2Cq_DATAn q n) = leAt (overwrite (i2cBuffer s q) 0 (data.take (rf s cmd 21 16))) (4 * n) 4) ∧
        Only s t (cmd :: (List.range 8).map (Reg.PORT_I2Cq_DATAn q)) [] [])) ∧
    ∃ t, exec (.i2cTimeout bus) s = .next t ∧ rd t cmd = setFld (rd s cmd) 31 31 0 ∧ rb t (Reg.PORT_I2Cq_STATUS q) 1 = true ∧
      Only s t [cmd, Reg.PORT_I2Cq_STATUS q] [] []

/-- OP = SLEEP, WAKE and SELFTEST and the idle timer act on a hummock only in the states that R493, R494 and R497 name
(18_power.md R491; 18_power.md R493; 18_power.md R494; 18_power.md R497). -/
def Obligations.SleepIsAsked : Prop :=
  ∀ (h : Fin 40) (s : State),
    let n := h.val
    let st := Reg.POWER_Hh_STATUS n
    let asks (c : Instr) (test : Bool) : Prop :=
      (humState s n = 0 → ∃ t, exec c s = .next t ∧ humState t n = 1 ∧ rf t st 7 5 = 0 ∧
        hum t n = { hum s n with agreed := 0, test := test, asked := nowNs s } ∧ (∀ k, k ≠ n → hum t k = hum s k) ∧
        Only s { t with hummocks := s.hummocks } [st, Reg.POWER_ASLEEP] [] []) ∧
      (humState s n ≠ 0 → ∃ t, exec c s = .next t ∧ humState t n = humState s n ∧ rf t st 7 5 = 1 ∧ Only s t [st] [] [])
    asks (.powerSleep h) false ∧ asks (.powerSelftest h) true ∧
    (humState s n = 0 → ∃ t, exec (.powerWake h) s = .next t ∧ humState t n = 0 ∧ rf t st 7 5 = 0 ∧ Only s t [st] [] []) ∧
    (humState s n = 4 → ∃ t, exec (.powerWake h) s = .next t ∧ humState t n = 5 ∧ rf t st 7 5 = 0 ∧
      rb t Reg.POWER_ASLEEP n = false ∧ hum t n = { hum s n with cause := 0 } ∧ (∀ k, k ≠ n → hum t k = hum s k) ∧
      Only s { t with hummocks := s.hummocks } [st, Reg.POWER_ASLEEP] [] []) ∧
    (humState s n = 3 → ∃ t, exec (.powerWake h) s = .next t ∧ humState t n = 3 ∧ rf t st 7 5 = 0 ∧
      hum t n = { hum s n with wakeNext := true } ∧ Only s { t with hummocks := s.hummocks } [st] [] []) ∧
    (humState s n = 0 → rdn s (Reg.POWER_Hh_IDLE n) ≠ 0 →
      (hum s n).idleSince + 1000 * rdn s (Reg.POWER_Hh_IDLE n) ≤ nowNs s →
      ((humBlocks n).any (blockBusy s) = false → ∃ t, exec (.hummockIdleExpiry h) s = .next t ∧ humState t n = 1 ∧
        hum t n = { hum s n with agreed := 0, test := false, asked := nowNs s } ∧
        Only s { t with hummocks := s.hummocks } [st, Reg.POWER_ASLEEP] [] []) ∧
      ((humBlocks n).any (blockBusy s) = true → ∃ t, exec (.hummockIdleExpiry h) s = .next t ∧
        hum t n = { hum s n with idleSince := nowNs s } ∧ { t with hummocks := s.hummocks } = s))

/-- In PREPARE agreements pass on to COMMIT, a refusal or a passed limit returns to AWAKE or rolls back, and a rollback
resumes block by block (18_power.md R493; 18_power.md R497; 10_fermenter.md R279). -/
def Obligations.PrepareVotes : Prop :=
  ∀ (h : Fin 40) (s : State),
    let n := h.val
    let gaveUp (t : State) (id : Nat) : Prop :=
      ((hum s n).agreed = 0 → (hum s n).test = false → humState t n = 0 ∧
        rdn t (Reg.POWER_Hh_REFUSED n) = min (rdn s (Reg.POWER_Hh_REFUSED n) + 1) (2 ^ 32 - 1) ∧
        rdn t Reg.POWER_LAST_REFUSER = (n + id * 2 ^ 16) % 2 ^ 64 ∧ ⟨0x043, n + id * 2 ^ 16, 0, tickNo s⟩ ∈ t.ev.occ) ∧
      ((hum s n).agreed ≠ 0 → humState t n = 2 ∧ (hum t n).refuser = id ∧ (hum t n).resumed = (hum s n).agreed)
    (humState s n = 1 →
      (∀ id, askedBlock s n = some id →
        (blockVote s id = .agree → ∃ t, exec (.prepareVote h) s = .next t ∧ (hum t n).agreed = (hum s n).agreed + 1 ∧
          humState t n = (if (hum s n).agreed + 1 < (humBlocks n).length then 1 else if (hum s n).test = true then 6 else 3)) ∧
        (∀ r, blockVote s id = .refuse r → ∃ t, exec (.prepareVote h) s = .next t ∧ gaveUp t r) ∧
        ((hum s n).asked + 1000 * rf s Reg.POWER_PREPARE_LIMIT 15 0 ≤ nowNs s →
          ∃ t, exec (.prepareLimitExpiry h) s = .next t ∧ gaveUp t id)) ∧
      (28 ≤ n → n < 32 → (hum s n).agreed = 0 → (∀ k, k ≠ n → 28 ≤ k → k < 32 → humState s k ≠ 1) → 0 < slotsUsed s (n - 28) →
        (hum s n).asked + 1000 * rf s Reg.FERM_QUIESCE 15 0 ≤ nowNs s →
        ∃ t, exec .quarterQuiesceTimeout s = .next t ∧ gaveUp t (0x500 + (n - 28)))) ∧
    (humState s n = 2 → ¬ (20 ≤ n ∧ n < 28) →
      (1 < (hum s n).agreed → ∃ t, exec (.rollbackResumeAck h) s = .next t ∧ (hum t n).agreed = (hum s n).agreed - 1 ∧
        { t with hummocks := s.hummocks } = s) ∧
      ((hum s n).agreed ≤ 1 → ∃ t, exec (.rollbackResumeAck h) s = .next (humResume t n) ∧ humState t n = 0 ∧ (hum t n).agreed = 0 ∧
        rdn t (Reg.POWER_Hh_ABORTED n) = min (rdn s (Reg.POWER_Hh_ABORTED n) + 1) (2 ^ 32 - 1) ∧
        rdn t Reg.POWER_LAST_REFUSER = (n + (hum s n).refuser * 2 ^ 16) % 2 ^ 64 ∧
        Only s { t with hummocks := s.hummocks }
          [Reg.POWER_Hh_STATUS n, Reg.POWER_ASLEEP, Reg.POWER_LAST_REFUSER, Reg.POWER_Hh_ABORTED n]
          [(0x042, n + (hum s n).refuser * 2 ^ 16, (hum s n).resumed)] []))

/-- A gated hummock is ASLEEP, a woken one AWAKE, a tested one AWAKE with its result, each with its event, and fen watch
reports and wakes on a match (18_power.md R493; 18_power.md R495; 18_power.md R497). -/
def Obligations.SleepAndWake : Prop :=
  (∀ (h : Fin 40) (s : State),
    let n := h.val
    (humState s n ≠ 3 → exec (.powerGated h) s = .next s) ∧ (humState s n ≠ 5 → exec (.wakeComplete h) s = .next s) ∧
    (∀ f, humState s n ≠ 6 → exec (.selftestComplete h f) s = .next s) ∧
    (humState s n = 3 → ∃ u, exec (.powerGated h) s = .next (pump (cqResume (asleepLook u n))) ∧ humState u n = 4 ∧
      rb u Reg.POWER_ASLEEP n = true ∧ (hum u n).agreed = 0 ∧ (hum u n).matched = false ∧
      ⟨0x040, n, (hum u n).entries, tickNo u⟩ ∈ u.ev.occ) ∧
    (humState s n = 5 → ∃ u, exec (.wakeComplete h) s = .next (humResume u n) ∧ humState u n = 0 ∧
      rb u Reg.POWER_ASLEEP n = false ∧ ⟨0x041, n, (hum s n).cause, tickNo u⟩ ∈ u.ev.occ) ∧
    (∀ f : Option (BitVec 8), humState s n = 6 → ∃ u, exec (.selftestComplete h f) s = .next (humResume u n) ∧
      humState u n = 0 ∧ rf u (Reg.POWER_Hh_STATUS n) 7 5 = 0 ∧
      rdn u (Reg.POWER_Hh_TEST n) = 1 + (if f.isNone then 2 else 0) + 256 * (f.map (·.toNat)).getD 0 ∧
      (hum u n).test = false ∧ ⟨0x046, n, rdn u (Reg.POWER_Hh_TEST n), tickNo u⟩ ∈ u.ev.occ)) ∧
  ∀ (quad : Fin 16) readings (s : State),
    let q := quad.val
    let st := Reg.POWER_Hh_STATUS q
    let th := rf s (Reg.POWER_Hh_FW q) 23 16 * (if rf s (Reg.POWER_Hh_CFG q) 4 3 = 1 then 64 else 1)
    let hits := (List.range 4).filter (fun i => isPort s (4 * q + i) && decide (th ≤ readings.getD i 0))
    let wakes := !hits.isEmpty && rb s (Reg.POWER_Hh_CFG q) 1
    humState s q = 4 → rb s (Reg.POWER_Hh_CFG q) 2 = true →
    (hum s q).watchAt + 1000000 * rf s (Reg.POWER_Hh_FW q) 9 0 ≤ nowNs s →
    ∃ t, exec (.fenWatchWindow quad readings) s = .next t ∧ rb t st 4 = !hits.isEmpty ∧ (hum t q).matched = !hits.isEmpty ∧
      humState t q = (if wakes then 5 else 4) ∧
      Only s { t with hummocks := s.hummocks } [st, Reg.POWER_ASLEEP]
        (if (hum s q).matched = false ∧ hits ≠ [] then [(0x045, q, hits.foldl (fun m i => m + 2 ^ i) 0)] else []) []

/-- The event ring takes the oldest staged record at TAIL while it is enabled, has room and the link is up, and the host's
HEAD and RING_EN act on it (16_events.md R465; 16_events.md R461; 16_events.md R469). -/
def Obligations.EventRingRules : Prop :=
  ∀ s : State,
    (∀ r rest, s.ev.stage = r :: rest → rf s Reg.EVENT_CFG 1 0 = 1 → rb s Reg.HOST_LINK 0 = true → ringIsFull s = false →
      r.vec = none → rest.length ≤ rf s Reg.EVENT_STAGE_THRESH 13 0 → s.ev.stageArmed = true →
      let tail := rf s Reg.EVENT_RING_TAIL 19 0
      let phase := rf s Reg.EVENT_RING_TAIL 31 31
      let next := (tail + 1) % 2 ^ rf s Reg.EVENT_RING_SIZE 4 0
      ∃ t, exec .eventRecordWrite s = .next t ∧ t.ev.stage = rest ∧
        t.out = .hostWrite (rdn s Reg.EVENT_RING_BASE + 32 * tail) (recBytes r phase) :: s.out ∧
        rf t Reg.EVENT_RING_TAIL 19 0 = next % 2 ^ 20 ∧
        rf t Reg.EVENT_RING_TAIL 31 31 = (if next = 0 then 1 - phase else phase) ∧
        (∀ a, a ≠ Reg.EVENT_RING_TAIL → rd t a = rd s a) ∧ t.ev.occ = s.ev.occ) ∧
    (s.ev.stage = [] ∨ rb s Reg.EVENT_CFG 0 = false ∨ rb s Reg.HOST_LINK 0 = false ∨ ringIsFull s = true →
      exec .eventRecordWrite s = .next s) ∧
    (∀ v : BitVec 32, rb s Reg.EVENT_CFG 0 = false → v.getLsbD 0 = true →
      ∃ t, exec (.eventCfgWrite v) s = .next t ∧ rb t Reg.EVENT_CFG 0 = true ∧
        rf t Reg.EVENT_RING_TAIL 19 0 = rf s Reg.EVENT_RING_HEAD 19 0 ∧ rf t Reg.EVENT_RING_TAIL 31 31 = 1 ∧ t.ev.stage = s.ev.stage) ∧
    (∀ v : BitVec 32, ∃ t, exec (.eventRingHeadWrite v) s = .next t ∧ rf t Reg.EVENT_RING_HEAD 19 0 = v.toNat % 2 ^ 20 ∧
      (s.ev.ringFull = true → ringIsFull t = false → t.ev.ringFull = false ∧ t.ev.fullTicks = 0 ∧
        t.ev.occ = s.ev.occ ++ [⟨0xFC1, s.ev.fullTicks, s.ev.stage.length, tickNo s⟩]) ∧
      (ringIsFull t = true → t.ev = s.ev) ∧ ∀ a, a ≠ Reg.EVENT_RING_HEAD → rd t a = rd s a)

/-- A written route applies from the next tick, EVENT_SOFT makes its event in a later tick, and a pending vector is raised
once its hold-off has passed (16_events.md R464; 16_events.md R471; 16_events.md R472). -/
def Obligations.RoutesSoftVectors : Prop :=
  ∀ s : State,
    (∀ (src : Fin 4096) (v : BitVec 32), s.ev.routeHold.all (fun h => h.2.1 != src.val) = true →
      ∃ t, exec (.eventRouteWrite src v) s = .next t ∧
        (∀ n, n ≤ s.time.tick → routeAt t n src = rd s (Reg.EVENT_SRCs_ROUTE src)) ∧
        (∀ n, s.time.tick < n → routeAt t n src = rd t (Reg.EVENT_SRCs_ROUTE src)) ∧
        (∀ r, findRow (Reg.EVENT_SRCs_ROUTE src) = some r →
          rd t (Reg.EVENT_SRCs_ROUTE src) = regMerge r (rd s (Reg.EVENT_SRCs_ROUTE src)) (v.setWidth 64)) ∧
        ∀ k : Fin 4096, k ≠ src → ∀ n, routeAt t n k = routeAt s n k) ∧
    (∀ v : BitVec 64, ∃ t, exec (.eventSoftWrite v) s = .next t ∧ t.regs = s.regs ∧ t.ev.soft = s.ev.soft ++ [(s.time.tick, v.toNat)] ∧
      (∀ n, n ≤ s.time.tick → (softDue t n).2 = (softDue s n).2) ∧
      ∀ n, s.time.tick < n → (softDue t n).2 = (softDue s n).2 ++ [⟨0xFC3, v.toNat, 0, n⟩]) ∧
    ∀ v : Fin 256,
      let due := rb s (Reg.EVENT_VECv_PEND v) 0 = true ∧
        ∀ at_, tabFind s.ev.lastRaise v = some at_ → at_ + 1000 * rf s (Reg.EVENT_VECv_CFG v) 15 0 ≤ nowNs s
      (due → rb s (Reg.HOST_MSIXv_CTL v) 0 = false → ∃ t, exec (.vectorHoldoffExpiry v) s = .next t ∧
        t.out = .msix v (rdn s (Reg.HOST_MSIXv_ADDR v)) (rdn s (Reg.HOST_MSIXv_DATA v)) :: s.out ∧
        rb t (Reg.EVENT_VECv_PEND v) 0 = false ∧ tabFind t.ev.lastRaise v = some (nowNs s)) ∧
      (due → rb s (Reg.HOST_MSIXv_CTL v) 0 = true → ∃ t, exec (.vectorHoldoffExpiry v) s = .next t ∧ t.out = s.out ∧
        rb t (Reg.HOST_MSIX_PBAw (v / 64)) (v % 64) = true ∧ rb t (Reg.EVENT_VECv_PEND v) 0 = true ∧ t.ev = s.ev) ∧
      (¬ due → exec (.vectorHoldoffExpiry v) s = .next s)

/-- PERF_CMD and counter writes wait for the tick, and a bandwidth window ends at a multiple of W with every port's result
replaced (17_counters.md R478; 17_counters.md R479; 17_counters.md R481; 17_counters.md R482). -/
def Obligations.CountersAndWindows : Prop :=
  ∀ s : State,
    exec .perfSnap s = .next { s with perf := { s.perf with snap := true } } ∧
    exec .perfClearAll s = .next { s with perf := { s.perf with clear := true } } ∧
    (∀ (k : Fin 1024) (v : BitVec 64), ∃ t, exec (.perfCntValueWrite k v) s = .next t ∧ tabFind t.perf.values k = some (v.toNat % 2 ^ 48) ∧
      (∀ j, j ≠ k.val → tabFind t.perf.values j = tabFind s.perf.values j) ∧ { t with perf := s.perf } = s) ∧
    (∀ (k : Fin 1024) (v : BitVec 32) (r : RegRow), findRow (Reg.PERF_CNTi_CTL k) = some r → k.val < 1023 →
      reservedBits r (v.setWidth 64) = 0 →
      (selOccurrence (v.toNat % 2 ^ 16) = true ∨ selCondition (v.toNat % 2 ^ 16) = true) →
      s.perf.ctlHold.all (fun h => h.2.1 != k.val) = true →
      ∃ t, exec (.perfCntCtlWrite k v) s = .next t ∧ rd t (Reg.PERF_CNTi_CTL k) = regMerge r (rd s (Reg.PERF_CNTi_CTL k)) (v.setWidth 64) ∧
        (∀ n, n ≤ s.time.tick → ctlAt t n k = rd s (Reg.PERF_CNTi_CTL k)) ∧
        (∀ n, s.time.tick < n → ctlAt t n k = rd t (Reg.PERF_CNTi_CTL k)) ∧
        ∀ a, a ≠ Reg.PERF_CNTi_CTL k → rd t a = rd s a) ∧
    (let w := rdn s Reg.PERF_BW_WINDOW
     (s.perf.bwIndex < timeN s / w → ∃ t, exec .bwWindowEnd s = .next t ∧ t.perf.bw = [] ∧ t.perf.bwIndex = timeN s / w ∧
       (∀ p, p < 64 → let c := if rb s Reg.POWER_ASLEEP (p / 4) = true then {} else tabGet s.perf.bw p {}
         rdn t (Reg.PERF_BWp_RX_BYTES p) = c.rxBytes % 2 ^ 64 ∧ rdn t (Reg.PERF_BWp_TX_BYTES p) = c.txBytes % 2 ^ 64 ∧
         rdn t (Reg.PERF_BWp_RX_FRAMES p) = c.rxFrames % 2 ^ 64 ∧ rdn t (Reg.PERF_BWp_TX_FRAMES p) = c.txFrames % 2 ^ 64 ∧
         rdn t (Reg.PERF_BWp_END_NS p) = timeN s / w * w % 2 ^ 64 ∧
         rdn t (Reg.PERF_BWp_FLAGS p) = (if s.perf.stepped = true then 1 else 0) ∧
         rdn t (Reg.PERF_BWp_WINDOW_NO p) = (rdn s (Reg.PERF_BWp_WINDOW_NO p) + 1) % 2 ^ 32)) ∧
     (timeN s / w ≤ s.perf.bwIndex → ∃ t, exec .bwWindowEnd s = .next t ∧ { t with perf := s.perf } = s ∧ t.perf.bw = s.perf.bw)) ∧
    ∀ v : BitVec 32, ∃ t, exec (.perfBwWindowWrite v) s = .next t ∧ t.perf.bw = [] ∧ t.perf.stepped = false ∧
      t.perf.bwIndex = timeN s / rdn t Reg.PERF_BW_WINDOW ∧ ⟨0xFF2, 64, rdn t Reg.PERF_BW_WINDOW, tickNo s⟩ ∈ t.ev.occ

/-- The oldest buffered sample goes to the sample ring at TAIL while it has room and the link is up (17_counters.md R484;
17_counters.md R485). -/
def Obligations.SampleRing : Prop :=
  ∀ (s : State) (r : Sample) (rest : List Sample), s.perf.psBuf = r :: rest →
    let size := 2 ^ rf s Reg.PERF_PS_RING_SIZE 4 0
    let tail := rf s Reg.PERF_PS_RING_TAIL 19 0
    let phase := rf s Reg.PERF_PS_RING_TAIL 31 31
    let next := (tail + 1) % size
    (next ≠ rf s Reg.PERF_PS_RING_HEAD 19 0 % size → rb s Reg.HOST_LINK 0 = true →
      ∃ t, exec .sampleRecordWrite s = .next t ∧ t.perf = { s.perf with psBuf := rest } ∧
        rdn t Reg.PERF_PS_RING_TAIL = (next + (if next = 0 then 1 - phase else phase) * 2 ^ 31) % 2 ^ 64 ∧
        Only s { t with perf := s.perf } [Reg.PERF_PS_RING_TAIL] []
          (.hostWrite (rdn s Reg.PERF_PS_RING_BASE + 32 * tail) (sampleBytes r phase) ::
            (if rdn s Reg.PERF_PS_TAIL_WB_ADDR = 0 then [] else
              [.hostWrite (rdn s Reg.PERF_PS_TAIL_WB_ADDR) (toLE 4 (rdn t Reg.PERF_PS_RING_TAIL))]))) ∧
    (next = rf s Reg.PERF_PS_RING_HEAD 19 0 % size ∨ rb s Reg.HOST_LINK 0 = false → exec .sampleRecordWrite s = .next s)

/-- A tick closes once it has ended, and its records come by class and source with consecutive sequence numbers; the ring
takes them oldest first (16_events.md R458). -/
def Obligations.TickClosesInOrder : Prop :=
  (∀ (alert : Bool) (s : State),
    (s.time.tick ≤ s.ev.openTick → exec (.tickClose alert) s = .next s) ∧
    (s.ev.openTick < s.time.tick → ∃ t, exec (.tickClose alert) s = .next t ∧ s.ev.openTick < t.ev.openTick ∧
      ∃ u os v, takeOccs (storeSample (reseqSample (ledgerSample (alertSample s s.ev.openTick alert) s.ev.openTick) s.ev.openTick)
          s.ev.openTick) s.ev.openTick = (u, os) ∧ closeRecords u s.ev.openTick os = v ∧
        t = freeGens (let w := closeCounters (condition (eventItems v s.ev.openTick os)) (eventItems v s.ev.openTick os) s.ev.openTick
          { w with ev := { w.ev with openTick := nextOpen w s.ev.openTick },
                   time := { w.time with jumps := w.time.jumps.filter (fun j => decide (nextOpen w s.ev.openTick < j.2)) } }))) ∧
  (∀ (u : State) (n : Nat) (os : List Occ), rdn u Reg.EVENT_SEQ < 2 ^ 32 → ∃ new m, (closeRecords u n os).ev.stage = u.ev.stage ++ new ∧
    new.Pairwise (fun a b => a.cls < b.cls ∨ a.cls = b.cls ∧ a.source < b.source) ∧ (∀ r ∈ new, r.tick = n % 2 ^ 64) ∧
    (new.map (·.seq)).Sublist ((List.range m).map (fun k => (rdn u Reg.EVENT_SEQ + k) % 2 ^ 32)) ∧
    rdn (closeRecords u n os) Reg.EVENT_SEQ = (rdn u Reg.EVENT_SEQ + m) % 2 ^ 32) ∧
  (∀ s : State, ∃ t, exec .eventRecordWrite s = .next t ∧ (t.ev.stage = s.ev.stage ∨ t.ev.stage = s.ev.stage.tail)) ∧
  rdn State.reset Reg.EVENT_SEQ = 0

/-- A port's gate list starts at its base time, moves entry by entry, asserts and releases hold, and replaces the old list
at its start (12_egress_and_streams.md R335; 12_egress_and_streams.md R336; 12_egress_and_streams.md R337;
12_egress_and_streams.md R338; 12_egress_and_streams.md R340). -/
def Obligations.PortGateLists : Prop :=
  ∀ (port : Fin 64) (s : State),
    let p := port.val
    let st := Reg.EGRESS_PORTp_STATUS p
    let holds := Reg.EGRESS_PORTp_HOLDS p
    let g := (eport s p).gates
    let len := rf s (Reg.EGRESS_PORTp_GCL_LEN p) 10 0
    let cycle := rdn s (Reg.EGRESS_PORTp_GCL_CYCLE p)
    let sum := (List.range len).foldl (fun t i => t + rf s (Reg.EGRESS_PORTp_ADMINi p i) 31 0) 0
    let base := rf s (Reg.EGRESS_PORTp_GCL_BASE_S p) 47 0 * 1000000000 + rf s (Reg.EGRESS_PORTp_GCL_BASE_NS p) 29 0
    let moved (t : State) (e : Nat) : Prop := (eport t p).gates.entry = e ∧ rf t st 7 0 = operStates s p e ∧ rf t st 25 16 = e % 1024 ∧
      rb t st 11 = (if operOp s p e = 1 then true else if operOp s p e = 2 then false else rb s st 11) ∧
      Only { s with egress := t.egress } t [st, holds] [] []
    (len = 0 → exec (.gclConfigChange port) s = .next (raise s 0xE41 p 0)) ∧
    (len ≠ 0 → cycle < sum → exec (.gclConfigChange port) s = .next (raise s 0xE41 p 1)) ∧
    (len ≠ 0 → sum ≤ cycle → 0 < cycle → ∃ t at_, exec (.gclConfigChange port) s = .next t ∧ (eport t p).gates = { g with pending := some at_ } ∧
      (timeN s < base → at_ = base) ∧ (base ≤ timeN s → timeN s < at_ ∧ at_ ≤ timeN s + cycle ∧ ∃ k, at_ = base + k * cycle) ∧
      rb t st 12 = true ∧ Only { s with egress := t.egress } t [st] [] []) ∧
    (∀ at_, g.pending = some at_ → at_ ≤ timeN s → curQueue s p = none → len ≤ 1024 → ∃ t, exec (.gclConfigStart port) s = .next t ∧
      (∀ k, k < len → rd t (Reg.EGRESS_PORTp_OPERi p k) = rd s (Reg.EGRESS_PORTp_ADMINi p k)) ∧
      (eport t p).gates.running = true ∧ (eport t p).gates.entry = 0 ∧ (eport t p).gates.len = len ∧ (eport t p).gates.cycle = cycle ∧
      (eport t p).gates.cycleStart = at_ ∧ (eport t p).gates.pending = none ∧ rb t st 12 = false ∧
      t.ev.occ = s.ev.occ ++ [⟨0xE40, p, at_ % 1000000000, tickNo s⟩]) ∧
    (rb s (Reg.EGRESS_PORTp_CFG p) 4 = true → g.running = true → curQueue s p = none → g.nextAt ≤ timeN s →
      (g.entry + 1 < g.len → ∃ t, exec (.gateEntryChange port) s = .next t ∧ moved t (g.entry + 1) ∧ (eport t p).gates.cycleStart = g.cycleStart) ∧
      (g.len ≤ g.entry + 1 → g.pending = none → ∃ t, exec (.gateEntryChange port) s = .next t ∧ moved t 0 ∧
        (eport t p).gates.cycleStart = g.cycleStart + g.cycle)) ∧
    (timeN s < g.nextAt → exec (.gateEntryChange port) s = .next s) ∧
    (rb s (Reg.EGRESS_PORTp_CFG p) 4 = true → g.running = true →
      operOp s p (if g.entry + 1 < g.len then g.entry + 1 else 0) = 1 →
      g.nextAt ≤ timeN s + (143 + 64 * rf s (Reg.EGRESS_PORTp_CFG p) 7 6) * 8000 / max 1 (portRate s p) →
      ∃ t, exec (.setAndHoldAssert port) s = .next t ∧ rb t st 11 = true ∧ Only s t [st, holds] [] [] ∧
        (rb s st 11 = false → rdn t holds = min (rdn s holds + 1) (2 ^ 32 - 1))) ∧
    ∀ ok : Bool, rb s (Reg.EGRESS_PORTp_CFG p) 5 = true → rb s (Reg.EGRESS_PORTp_CFG p) 8 = false → isPort s p = true → 1000 ≤ portRate s p →
      ∃ t, exec (.preemptVerifyDone port ok) s = .next t ∧ rf t st 10 9 = (if ok = true then 2 else 3) ∧ rb t st 8 = ok ∧
        Only s t [st] [(0xE43, p, if ok = true then 2 else 3)] []

/-- A stream gate's list is taken where it fits its cycle, starts under the rules of R337 and moves entry by entry, and OPEN
and IPV follow it (12_egress_and_streams.md R343; 12_egress_and_streams.md R337). -/
def Obligations.StreamGateLists : Prop :=
  ∀ (gate : Fin 256) (s : State),
    let g := gate.val
    let x := sgate s g
    let cmd := Reg.EGRESS_SGg_CMD g
    let len := rdn s (Reg.EGRESS_SGg_LEN g)
    let cycle := rdn s (Reg.EGRESS_SGg_CYCLE g)
    let sum := (List.range len).foldl (fun t i => t + rf s (Reg.EGRESS_SGg_ENTRYi g i) 31 0) 0
    let base := rf s (Reg.EGRESS_SGg_BASE_S g) 47 0 * 1000000000 + rf s (Reg.EGRESS_SGg_BASE_NS g) 29 0
    let shown (t : State) (e : W64) : Prop := rb t cmd 8 = bitOf e 32 ∧ rf t cmd 11 9 = fld e 35 33 ∧ Only { s with egress := t.egress } t [cmd] [] []
    (0 < len → len ≤ 64 → sum ≤ cycle → 0 < cycle → ∃ t at_, exec (.sgConfigChange gate) s = .next t ∧ sgate t g = { x with pending := some at_ } ∧
      (timeN s < base → at_ = base) ∧ (base ≤ timeN s → timeN s < at_ ∧ at_ ≤ timeN s + cycle ∧ ∃ k, at_ = base + k * cycle) ∧
      ∀ a, a ≠ cmd → rd t a = rd s a) ∧
    (len = 0 ∨ 64 < len ∨ cycle < sum → exec (.sgConfigChange gate) s = .next s) ∧
    (∀ at_, x.pending = some at_ → at_ ≤ timeN s → 0 < len → len ≤ 64 → ∃ t, exec (.sgEntryChange gate) s = .next t ∧
      (∀ k, k < len → sgateEntry t g k = rd s (Reg.EGRESS_SGg_ENTRYi g k)) ∧ (sgate t g).running = true ∧ (sgate t g).entry = 0 ∧
      (sgate t g).cycleStart = at_ ∧ (sgate t g).pending = none ∧ shown t (rd s (Reg.EGRESS_SGg_ENTRYi g 0))) ∧
    (x.pending = none → x.running = true → x.nextAt ≤ timeN s → ∃ t e, exec (.sgEntryChange gate) s = .next t ∧
      e = (if x.entry + 1 < x.len then x.entry + 1 else 0) ∧ (sgate t g).entry = e ∧ (sgate t g).running = true ∧
      t.egress.soper = s.egress.soper ∧ shown t (sgateEntry s g e))

/-- A free port serves its highest strict queue with an eligible copy; a whole copy leaves with its FCS, and a copy that
runs short leaves stomped (12_egress_and_streams.md R329; 11_mere_and_lode.md R314; 11_mere_and_lode.md R315;
12_egress_and_streams.md R331; 01_architecture.md R18). -/
def Obligations.TransmissionStartsAndEnds : Prop :=
  (∀ (s : State) (p k : Nat) (only : Copy → Bool) (x : Nat × Copy), k < 8 → rb s (Reg.EGRESS_PORTp_SCHED p) k = true →
    queueHead s p k only = some x →
    (∀ j, k < j → j < 8 → rb s (Reg.EGRESS_PORTp_SCHED p) j = true → queueHead s p j only = none) → selectCopy s p only = (some x, s)) ∧
  ∀ (port : Fin 64) (s : State),
    let p := port.val
    let ended (t : State) (n : Nat) : Prop := (eport t p).cur = none ∧ copyOf t n = none
    (∀ (sub : BitVec 16) sent n c fr u v, isPort s p = true → humDown s (p / 4) = false → (eport s p).cur = none → (eport s p).preempted = none →
      selectCopy (touch s (p / 4)) p (fun _ => true) = (some (n, c), u) → frameOf u c.frame = some fr → refuseStart u n c fr = none →
      copyOf u n = some c → startCopy u p n c fr (time16 s + sub.toNat + 256 * rf s (Reg.PORT_LANEl_TS_TX p) 23 0) = some v →
      ∃ t, exec (.transmissionSelect port sub sent none) s = .next t ∧ t = heldPeak v ∧ (eport t p).cur = some n ∧ (eport t p).since = nowNs s ∧
        (copyOf t n).map (·.st) = some 3) ∧
    ∀ n c, (eport s p).cur = some n → copyOf s n = some c →
      let b := copyFinal s c
      (∀ x fr, xingOf s c.xing = some x → frameOf s c.frame = some fr → xingCrossed s x = true → fr.verdict.isSome = true →
        b.length ≤ rf s (Reg.PORT_LANEl_MAX_LEN p) 13 0 → c.stomp = false →
        ∃ t, exec (.transmitComplete port) s = .next t ∧ ended t n ∧ t.out = .frame p (b.drop c.sent) false :: s.out ∧
          rdn t (Reg.PORT_LANEl_CNTk p 12) = (rdn s (Reg.PORT_LANEl_CNTk p 12) + 1) % 2 ^ 64 ∧
          rdn t (Reg.PORT_LANEl_CNTk p 11) = (rdn s (Reg.PORT_LANEl_CNTk p 11) + (b.length - c.sent)) % 2 ^ 64 ∧ t.ev = s.ev) ∧
      (∀ sent x, xingOf s c.xing = some x → c.ct = true → xingCrossed s x = false →
        ∃ t, exec (.ctUnderrun port sent) s = .next t ∧ ended t n ∧
          (let b := copyFinal (cnt s (Reg.MERE_Qq_CT_UNDERRUN (p / 4)) 1) c
           t.out = .frame p (stompBytes (b.take (min (min sent (x.arrived - 16)) (b.length - 4)))) true :: s.out) ∧
          rdn t (Reg.MERE_Qq_CT_UNDERRUN (p / 4)) = min (rdn s (Reg.MERE_Qq_CT_UNDERRUN (p / 4)) + 1) (2 ^ 32 - 1) ∧
          t.ev.occ = s.ev.occ ++ [⟨0xE35, 0, p, tickNo s⟩]) ∧
      ∀ sent, ∃ t, exec (.egressFifoUnderrun port sent) s = .next t ∧ ended t n ∧
        t.out = .frame p (stompBytes (b.take (min sent (b.length - 4)))) true :: s.out ∧
        t.ev.occ = s.ev.occ ++ [⟨0x105 + 16 * p, pack2 p (portMode s p), 0, tickNo s⟩]

/-- Copies of a port that has been down too long are discarded, and held copies past their time are told and, by policy,
discarded (12_egress_and_streams.md R327; 12_egress_and_streams.md R333). -/
def Obligations.QueuesTimeOut : Prop :=
  ∀ s : State, rising s.mere.copies = true →
    (∀ (port : Fin 64) at_, let p := port.val
      let cs := s.mere.copies.filter (fun c => c.2.port == p && !c.2.begun)
      (laneOf s p).downAt = some at_ →
      (at_ + 1000 * rf s Reg.EGRESS_DOWN_TIMEOUT 15 0 ≤ nowNs s → cs ≠ [] → ∃ t, exec (.linkDownTimeout port) s = .next t ∧
        (∀ n c, copyOf t n = some c ↔ copyOf s n = some c ∧ ¬ (c.port = p ∧ c.begun = false)) ∧
        rdn t (Reg.EGRESS_PORTp_DOWN_DROPS p) = min (rdn s (Reg.EGRESS_PORTp_DOWN_DROPS p) + cs.length) (2 ^ 32 - 1) ∧
        (∀ a, a ≠ Reg.EGRESS_PORTp_DOWN_DROPS p → rd t a = rd s a) ∧ t.ev.occ = s.ev.occ ++ [⟨0xE45, p, cs.length, tickNo s⟩]) ∧
      (nowNs s < at_ + 1000 * rf s Reg.EGRESS_DOWN_TIMEOUT 15 0 → exec (.linkDownTimeout port) s = .next s)) ∧
    (∀ n c x, (n, c) ∈ heldCopies s → c.told = false → xingOf s c.xing = some x →
      x.outAt + 1000 * rf s Reg.EGRESS_HOLD_TIMEOUT 15 0 ≤ nowNs s → ∃ t, exec .holdTimeout s = .next t ∧
        (∃ o ∈ t.ev.occ, o.source = 0xE44 ∧ o.d0 = pack2 c.port c.queue) ∧
        (rb s Reg.EGRESS_CFG 0 = false → copyOf t n = some { c with told := true }) ∧
        (rb s Reg.EGRESS_CFG 0 = true → copyOf t n = none)) ∧
    (heldCopies s = [] → exec .holdTimeout s = .next s)

/-- A 4-byte access of an assigned always-on BAR0 register reaches it and no other; an unassigned offset, BAR4 writes and
other shapes are reported (19_host_interface.md R504; 19_host_interface.md R505; 00_scope.md R10; 19_host_interface.md
R510; 17_counters.md R486; 19_host_interface.md R509). -/
def Obligations.RegisterAccesses : Prop :=
  ∀ s : State,
    (∀ (a : BitVec 32) (v : BitVec 32) (r : RegRow) sent, findRow a.toNat = some r → r.width = 4 → a.toNat % 4 = 0 → bar0Hummock a.toNat = none →
      ∃ u, exec (.registerWrite 0 a (toLE 4 v.toNat) true sent) s = .next (pump u) ∧
        u = regSet (fresh s).2 { sent := sent, mr := (fresh s).1 % 256 } a.toNat (v.setWidth 64) ∧
        (a.toNat < 0x00100000 → reservedBits r (v.setWidth 64) = 0 →
          rd u a.toNat = regMerge r (rd s a.toNat) (v.setWidth 64) ∧ Only (fresh s).2 u [a.toNat] [] [])) ∧
    (∀ (a : BitVec 32) (r : RegRow), findRow a.toNat = some r → r.width = 4 → a.toNat % 4 = 0 → bar0Hummock a.toNat = none →
      mibAt a.toNat = none → ∃ u, exec (.registerRead 0 a 4) s = .next (pump u) ∧
        u.out = .readData (toLE 4 (regShown s a.toNat r)) :: s.out ∧ (r.rc ≠ 0 → rd u a.toNat = rd (afterRead s a.toNat { r with rc := 0 }) a.toNat &&& ~~~ BitVec.ofNat 64 r.rc) ∧
        (r.rc = 0 → a.toNat ≠ Reg.TIME_SNAP_NS → a.toNat ≠ Reg.HOST_ACC_STATUS → u.regs = s.regs)) ∧
    (∃ t r, exec .hostAccStatusRead s = .next t ∧ findRow Reg.HOST_ACC_STATUS = some r ∧
      t.out = .readData (toLE 4 (regShown s Reg.HOST_ACC_STATUS r)) :: s.out ∧ rf t Reg.HOST_ACC_STATUS 3 0 = 0 ∧ rf t Reg.HOST_ACC_STATUS 31 16 = 0 ∧
      rdn t Reg.HOST_ACC_ADDR = 0 ∧ Only s t [Reg.HOST_ACC_STATUS, Reg.HOST_ACC_ADDR] [] [.readData (toLE 4 (regShown s Reg.HOST_ACC_STATUS r))]) ∧
    (s.host.probe = none → rf s Reg.HOST_ACC_STATUS 3 0 = 0 → ∀ (a : BitVec 32) (v : BitVec 32) sent,
      let first (s u : State) (code bar : Nat) (w : Bool) (outs : List Out) : Prop :=
        Only s u [Reg.HOST_ACC_STATUS, Reg.HOST_ACC_ADDR] [(0xFC8, 0, pack2 code bar)] outs ∧
        rdn u Reg.HOST_ACC_STATUS = code + bar * 16 + (if w = true then 64 else 0) ∧ rdn u Reg.HOST_ACC_ADDR = a.toNat
      (regAt a.toNat = none → a.toNat % 4 = 0 →
        (∃ u, exec (.registerWrite 0 a (toLE 4 v.toNat) true sent) s = .next (pump u) ∧ first (fresh s).2 u 2 0 true []) ∧
        ∃ u, exec (.registerRead 0 a 4) s = .next (pump u) ∧ first s u 2 0 false [.readData (List.replicate 4 0#8)]) ∧
      (∃ u, exec (.registerWrite 0 a (toLE 4 v.toNat) false sent) s = .next (pump u) ∧ first (fresh s).2 u 8 0 true []) ∧
      (∃ u, exec (.registerWrite 2 a (toLE 4 v.toNat) true sent) s = .next (pump u) ∧ first s u 7 2 true []) ∧
      ∀ bar : Fin 3, ∃ t, exec (.atomicopUnsupported bar a) s = .next t ∧ first s t 10 bar true [.unsupported])

/-- Writes that have rows of their own act on their register: GRIST_CLSEL, egress cells, lane control, restart, DEEP
commands; MIB reads latch (05_grist_parser.md R108; 11_mere_and_lode.md R295; 04_port_lanes.md R79; 04_port_lanes.md
R93; 09_deep_memory.md R243; 09_deep_memory.md R248). -/
def Obligations.RowsOfTheirOwn : Prop :=
  ∀ s : State,
    (∀ (k : Fin 1024) (v : BitVec 32), ¬ (v.getLsbD 6 = true ∧ 57 ≤ v.toNat % 64) → ∃ t, exec (.gristClselWrite k v) s = .next t ∧
      rf t (Reg.GRIST_CLSELi k) 6 0 = v.toNat % 128 ∧ rf t (Reg.GRIST_CLSELi k) 10 8 = v.toNat / 256 % 8 ∧
      Only s t [Reg.GRIST_CLSELi k] [] []) ∧
    (∀ (q : Fin 16) (v : BitVec 32),
      let n := v.toNat % 2 ^ 14
      let a := Reg.MERE_Qq_EGRESS_CELLS q
      humState s q = 0 →
      (billDrained s = true → 2048 ≤ n → n ≤ 8192 → 1024 ≤ sharedCells s q n →
        ∃ u, exec (.egressCellsWrite q v) s = .next (pump u) ∧ rf u a 13 0 = n ∧ Only { s with hummocks := u.hummocks } u [a] [] []) ∧
      (billDrained s = false → s.host.probe = none → rf s Reg.HOST_ACC_STATUS 3 0 = 0 →
        ∃ u, exec (.egressCellsWrite q v) s = .next (pump u) ∧ rdn u Reg.HOST_ACC_STATUS = 6 + 64 ∧ rdn u Reg.HOST_ACC_ADDR = a ∧
          Only { s with hummocks := u.hummocks } u [Reg.HOST_ACC_STATUS, Reg.HOST_ACC_ADDR] [(0xFC8, 0, pack2 6 0)] [])) ∧
    (∀ (lane : Fin 64),
      let l := lane.val
      let a := Reg.PORT_LANEl_CTRL l
      humState s (l / 4) = 0 → portMode s l ≠ 7 →
      (∀ (v : BitVec 32) sent, ∃ u, exec (.laneCtrlWrite lane v sent) s = .next (pump u) ∧ rf u a 1 0 = v.toNat % 4 ∧ rb u a 3 = false ∧
        (v.getLsbD 3 = true → isPort s l = true → laneNegotiates s l = true → rb u (Reg.PORT_LANEl_STATUS l) 3 = false)) ∧
      (∃ u, exec (.anRestart lane) s = .next (pump u) ∧ rf u a 2 0 = rf s a 2 0 ∧ rb u a 3 = false ∧
        (isPort s l = true → laneNegotiates s l = true → rb u (Reg.PORT_LANEl_STATUS l) 3 = false))) ∧
    (∀ (lane : Fin 64) (k : Fin 22), humState s (lane / 4) = 0 → ∃ t, exec (.counterLowRead lane k) s = .next t ∧
      t.out = .readData (toLE 4 (rdn s (Reg.PORT_LANEl_CNTk lane k) % 2 ^ 32)) :: s.out ∧
      tabFind (laneOf t lane).latch k = some (rdn s (Reg.PORT_LANEl_CNTk lane k) / 2 ^ 32) ∧ t.regs = s.regs ∧ t.ev = s.ev) ∧
    (∀ (ch : Fin 64) (v : BitVec 32),
      let c := ch.val
      let h := 20 + c / 8
      let st := Reg.DEEP_CHc_CMD_STATUS c
      let r := v.toNat / 8 % 2
      humState s h = 0 → rb s st 0 = false → v.getLsbD 31 = true →
      (∃ u w, exec (.deepRetrain ch v) s = .next (pump u) ∧ u = retrainAsk w c true ∧ rf w (Reg.DEEP_CHc_CMD c) 2 0 = 1 ∧
        (retrainRefusal w c = 0 → (chanOf u c).retrain = some (nowNs s) ∧ rb u st 0 = true ∧ rb u (Reg.DEEP_CHc_STATUS c) 5 = true) ∧
        Only { s with hummocks := w.hummocks } w [Reg.DEEP_CHc_CMD c] [] []) ∧
      (∃ u, exec (.deepZqNow ch v) s = .next (pump u) ∧ u.out = .dram c r .zqStart 0 0 0 :: s.out ∧
        (drank u c r).zqDue = some (nowNs s + 1000) ∧ rf u st 3 1 = 0) ∧
      ∀ data : BitVec 8, ∃ u, exec (.deepReadMr ch v data) s = .next (pump u) ∧ u.out = .dram c r .modeRead 0 (v.toNat / 256 % 64) 0 :: s.out ∧
        rf u st 3 1 = 0 ∧ rf u st 15 8 = data.toNat ∧ rb u st 0 = false)

/-- Enabling a ring sets HEAD 0 and PHASE 1; a write of TAIL restarts a stopped ring; a descriptor whose CHECK fails stops
it; HEAD wraps with PHASE (19_host_interface.md R515; 19_host_interface.md R516; 19_host_interface.md R517). -/
def Obligations.RingsFollowR515 : Prop :=
  (∀ (s : State) (ring : Fin 36) (v : BitVec 32), ringOn s ring = false → v.getLsbD 0 = true →
    ∃ u, exec (.ringEnable ring v) s = .next (pump u) ∧ ringOn u ring = true ∧ ringHead u ring = 0 ∧ ringPhase u ring = 1) ∧
  (∀ (s : State) (v : BitVec 32),
    let posted (u : State) (e : Nat) : Prop := rf u (ringTailReg e) 15 0 = v.toNat % 2 ^ 16 ∧ rb u (ringHeadReg e) 31 = false ∧
      ringHead u e = ringHead s e
    (∀ r : Fin 16, ∃ t, exec (.txRingTail r v) s = .next t ∧ posted t r) ∧ (∀ r : Fin 16, ∃ t, exec (.rxRingTail r v) s = .next t ∧ posted t (16 + r)) ∧
    ∀ q : Fin 4, ∃ t, exec (.cqTail q v) s = .next t ∧ posted t (32 + q) ∧
      (ringOn t (32 + q) = true → t.host.admitted.count q.val = ringPending t (32 + q))) ∧
  ∀ (s : State) (ring : Fin 16),
    let e := ring.val
    (∀ d : List Byte, ringLive s e = true → ringPending s e ≠ 0 → tabFind s.host.fetch e = none → d.length = 32 →
      (descChecks d 32 = false → ∃ t, exec (.txDescriptor ring d) s = .next t ∧ rb t (ringHeadReg e) 31 = true ∧ ringHead t e = ringHead s e ∧
        Only s t [ringHeadReg e] [(0xFCB, e, ringHead s e)] []) ∧
      (∀ f, descChecks d 32 = true → txParse e d = some f → injectUsed s + f.len + (if f.fcsIn = true then 0 else 4) ≤ 524288 →
        ∃ t, exec (.txDescriptor ring d) s = .next t ∧ tabFind t.host.fetch e = some f ∧ { t with host := s.host } = s) ∧
      (descChecks d 32 = true → txParse e d = none → ∃ t, exec (.txDescriptor ring d) s = .next t ∧
        rdn t (Reg.HOST_TXt_BAD e) = min (rdn s (Reg.HOST_TXt_BAD e) + 1) (2 ^ 32 - 1) ∧ ⟨0xFCE, 0, e, tickNo s⟩ ∈ t.ev.occ ∧
        ringHead t e = (ringHead s e + 1) % ringEntries s e % 2 ^ 16)) ∧
    ∀ x data, tabFind s.host.fetch e = some x → ringLive s e = true → ∃ u w, exec (.txFrameConsumed ring data) s = .next (pump u) ∧
      w = injectFrame { s with host := { s.host with fetch := tabDel s.host.fetch e } } x data ∧
      u = txConsume (cntWrap w (Reg.HOST_TXt_FRAMES e) 1) e x.irq ∧ tabFind u.host.fetch e = none ∧
      ringHead u e = (ringHead w e + 1) % ringEntries w e % 2 ^ 16 ∧
      ringPhase u e = (if (ringHead w e + 1) % ringEntries w e = 0 then 1 - ringPhase w e else ringPhase w e)

/-- An RX ring writes its next frame and completion into a posted buffer, and under DROP_EN drops it where no buffers are
posted (19_host_interface.md R518; 19_host_interface.md R519). -/
def Obligations.DeliveryToTheHost : Prop :=
  ∀ (ring : Fin 16) (s : State) (n : Nat) (c : Copy) (descs : List (List Byte)),
    let r := ring.val
    let e := 16 + r
    let bytes := rxBytes s c
    tabFind s.host.rxPart r = none → rxNext s r = some (n, c) → ringLive s e = true → rxBuffer s r ≠ 0 →
    (∀ d ds, descs = d :: ds → descChecks d 16 = true → bytes ≠ [] → bytes.length ≤ rxBuffer s r → ringPending s e ≠ 0 →
      vecMasked s (rf s (ringCfgReg e) 15 8) = true →
      ∃ u, exec (.rxFrameDeliver ring descs) s = .next (pump u) ∧ copyOf u n = none ∧
        u.out = .hostWrite (rdn s (Reg.HOST_RXr_CMPL r) + 8 * ringHead s e) (toLE 2 bytes.length ++
          toLE 1 (3 + 4 * (if c.sample.isSome = true then 1 else 0) + 128 * ringPhase s e) ++ toLE 1 r ++ toLE 4 bytes.length) ::
          .hostWrite (leAt d 0 8) bytes :: s.out ∧
        rdn u (Reg.HOST_RXr_FRAMES r) = (rdn s (Reg.HOST_RXr_FRAMES r) + 1) % 2 ^ 64 ∧
        ringHead u e = (ringHead s e + 1) % ringEntries s e % 2 ^ 16) ∧
    (ringPending s e < (bytes.length + rxBuffer s r - 1) / rxBuffer s r →
      (rb s (ringCfgReg e) 1 = true → ∃ u, exec (.rxFrameDeliver ring descs) s = .next (pump u) ∧ copyOf u n = none ∧
        rdn u (Reg.HOST_RXr_NOBUF r) = min (rdn s (Reg.HOST_RXr_NOBUF r) + 1) (2 ^ 32 - 1) ∧ ⟨0xFCD, 0, r, tickNo s⟩ ∈ u.ev.occ) ∧
      (rb s (ringCfgReg e) 1 = false → exec (.rxFrameDeliver ring descs) s = .next (pump s)))

/-- A command queue runs the accesses of the command whose turn it is one by one, a WAIT polls until it matches or times
out, and the end is written back (19_host_interface.md R521; 19_host_interface.md R522; 19_host_interface.md R523). -/
def Obligations.CommandQueuesRun : Prop :=
  (∀ (queue : Fin 4) (cmd : List Byte) (s : State),
    let q := queue.val
    let c : CqCmd := { queue := q, bytes := cmd, since := nowNs s, polled := nowNs s }
    s.host.cur = none → cmd.length = 64 → cqTurn s q = true → descChecks cmd 64 = true → ¬ ((byteAt cmd 1).testBit 1 = true ∧ cqFenced s q = true) →
    (byteAt cmd 0 = 1 → 1 ≤ leAt cmd 2 2 → leAt cmd 2 2 ≤ 6 →
      ∃ u, exec (.cqWrite queue cmd) s = .next (pump u) ∧ u = cqRun cmd q true (leAt cmd 2 2) 8 s c) ∧
    (byteAt cmd 0 = 2 → 1 ≤ leAt cmd 2 2 → leAt cmd 2 2 ≤ 6 →
      ∃ u, exec (.cqRead queue cmd) s = .next (pump u) ∧ u = cqRun cmd q false (leAt cmd 2 2) 8 s c) ∧
    (byteAt cmd 0 = 3 → 1 ≤ leAt cmd 20 4 → leAt cmd 20 4 ≤ 65535 →
      ∃ u, exec (.cqWait queue cmd) s = .next (pump u) ∧ u = cqPoll s c)) ∧
  (∀ (queue : Fin 4) (c : CqCmd) (s : State), s.host.cur = some c → c.queue = queue.val → byteAt c.bytes 0 = 3 → c.polled + 100 ≤ nowNs s →
    ∃ u, exec (.cqWaitPoll queue) s = .next (pump u) ∧ u = cqPoll s c) ∧
  (∀ (cmd : List Byte) (q count fuel : Nat) (s : State) (c : CqCmd), count ≤ c.done → ∀ w, cqRun cmd q w count (fuel + 1) s c = cqEnd s q cmd 0 0 0 c.reads) ∧
  (∀ (cmd : List Byte) (q count fuel : Nat) (s u : State) (c : CqCmd) (bs : List Byte), c.done < count →
    cqAccess s (fun s => bar0Fetch s (leAt cmd (8 + 4 * c.done) 4) 4) = (.ok bs, 0, u) →
    cqRun cmd q false count (fuel + 1) s c = cqRun cmd q false count fuel u { c with done := c.done + 1, reads := c.reads ++ [leNat bs] }) ∧
  (∀ (cmd : List Byte) (q count fuel : Nat) (s u : State) (c : CqCmd), c.done < count →
    cqAccess (aroundFree s).2 (fun t => bar0Put t (aroundFree s).1 (leAt cmd (8 + 8 * c.done) 4) (slice cmd (12 + 8 * c.done) 4) true) = (none, 0, u) →
    cqRun cmd q true count (fuel + 1) s c = cqRun cmd q true count fuel u { c with done := c.done + 1 }) ∧
  (∀ (s u : State) (c : CqCmd) (bs : List Byte), cqAccess s (fun s => bar0Fetch s (leAt c.bytes 8 4) 4) = (.ok bs, 0, u) →
    let hit := leNat bs &&& leAt c.bytes 12 4 = leAt c.bytes 16 4
    (hit → cqPoll s c = cqEnd u c.queue c.bytes 0 0 0 [leNat bs]) ∧
    (¬ hit → c.since + 1000 * leAt c.bytes 20 4 ≤ nowNs u → cqPoll s c = cqEnd u c.queue c.bytes 4 0 0 [leNat bs]) ∧
    (¬ hit → nowNs u < c.since + 1000 * leAt c.bytes 20 4 → (cqPoll s c).host.cur = some { c with polled := nowNs u })) ∧
  ∀ (s : State) (q : Fin 4) (cmd : List Byte) (status code index : Nat) (reads : List Nat), cmd.length = 64 →
    let t := cqEnd s q cmd status code index reads
    t.host.cur = none ∧ ringHead t (32 + q) = (ringHead s (32 + q) + 1) % ringEntries s (32 + q) % 2 ^ 16 ∧
    rdn t (Reg.HOST_CQq_CMDS q) = (rdn s (Reg.HOST_CQq_CMDS q) + 1) % 2 ^ 64 ∧
    ∃ b, b.length = 32 ∧ slice b 0 4 = slice cmd 4 4 ∧ byteAt b 4 = status % 256 ∧ byteAt b 5 = code % 256 ∧
      Out.hostWrite (rdn s (Reg.HOST_CQq_CMPL q) + 32 * ringHead s (32 + q)) b ∈ t.out

/-- PCIe loss and a function-level reset stop every engine and reset the HOST registers; link up shows in HOST_LINK; a
failed DMA read stops its engine (19_host_interface.md R525; 19_host_interface.md R526; 19_host_interface.md R527;
19_host_interface.md R528). -/
def Obligations.LinkAndFunctionReset : Prop :=
  ∀ s : State,
    let emptied (u : State) : Prop := u.host.fetch = [] ∧ u.host.rxPart = [] ∧ u.host.admitted = [] ∧ u.host.cur = none ∧
      ∀ e, e < 36 → rd u (ringHeadReg e) = regReset (ringHeadReg e) ∧ ringOn u e = (regReset (ringCfgReg e)).getLsbD 0
    (∃ u, exec .pcieLinkDown s = .next (pump u) ∧ emptied u ∧ rdn u Reg.HOST_LINK = 0 ∧ 
      (∃ o ∈ u.ev.occ, o.source = 0xFC9 ∧ o.d0 = rdn s Reg.HOST_LINK ∧ o.d1 = enginesOn s) ∧
      (rb s Reg.HOST_LINK 0 = true → rdn u Reg.HOST_LINK_LOSSES = min (rdn (stopEngines s) Reg.HOST_LINK_LOSSES + 1) (2 ^ 32 - 1)) ∧
      (rb s Reg.HOST_LINK 0 = false → rdn u Reg.HOST_LINK_LOSSES = rdn (stopEngines s) Reg.HOST_LINK_LOSSES)) ∧
    (∃ u, exec .functionLevelReset s = .next (pump u) ∧ emptied u ∧ rd u Reg.HOST_LINK = rd (stopEngines s) Reg.HOST_LINK ∧
      (∃ o ∈ u.ev.occ, o.source = 0xFC9 ∧ o.d0 = rdn s Reg.HOST_LINK ∧ o.d1 = enginesOn s) ∧ ∃ o ∈ u.ev.occ, o.source = 0xFCF) ∧
    (∀ (speed : BitVec 3) (width : BitVec 4), ∃ t, exec (.pcieLinkUp speed width) s = .next t ∧
      rdn t Reg.HOST_LINK = 1 + speed.toNat * 2 + width.toNat * 16 ∧
      Only s t [Reg.HOST_LINK] [(0xFCA, pack2 speed.toNat width.toNat, 0)] []) ∧
    ∀ (engine : Fin 52) (kind : Fin 4),
      (engine.val < 36 → ∃ u, exec (.dmaReadError engine kind) s = .next (pump u) ∧ rb u (ringHeadReg engine) 31 = true ∧
        ringHead u engine = ringHead s engine ∧ u.ev.occ = s.ev.occ ++ [⟨0xFCC, engine, kind, tickNo s⟩] ∧
        (engine.val < 16 → tabFind u.host.fetch engine = none) ∧ ∀ a, a ≠ ringHeadReg engine → rd u a = rd s a) ∧
      (engine.val = 0x32 → ∃ u, exec (.dmaReadError engine kind) s = .next (pump u) ∧ rb u Reg.AUTH_HJ_HEAD 31 = true ∧
        Only s u [Reg.AUTH_HJ_HEAD] [(0xFCC, 0x32, kind)] [])

/-- A channel's slot goes to its first demand, requests open, use and close rows, reads return corrected, and self-refresh
is entered and left (09_deep_memory.md R223; 09_deep_memory.md R217; 09_deep_memory.md R224; 09_deep_memory.md R225;
09_deep_memory.md R227; 09_deep_memory.md R234). -/
def Obligations.DeepStoreCommands : Prop :=
  ∀ (ch : Fin 64) (s : State),
    let c := ch.val
    (∀ (blocked pre post : List Nat) (k : Nat) (v : State), chanRuns s c = true → [1, 2, 4, 5, 6, 7, 8, 9] = pre ++ k :: post → k ∉ blocked →
      (∀ j ∈ pre, j ∈ blocked ∨ demand (slotMode s c) c j = none) → demand (slotMode s c) c k = some v →
      exec (.dramCommandSlot ch blocked) s = .next (pump (pumpReads v))) ∧
    (∀ (w : Bool) (q : DeepReq), let a := deepAddr s q.line
      ((dbank s c a.bankIdx).row = some a.row →
        (serveRequest s c w q).out = .dram c a.rank (if w = true then .write else .read) a.bank a.row a.col :: s.out) ∧
      ((dbank s c a.bankIdx).row = none → (serveRequest s c w q).out = .dram c (a.bankIdx / 8) .activate (a.bankIdx % 8) a.row 0 :: s.out) ∧
      (∀ row, (dbank s c a.bankIdx).row = some row → row ≠ a.row →
        (serveRequest s c w q).out = .dram c (a.bankIdx / 8) .precharge (a.bankIdx % 8) 0 0 :: s.out)) ∧
    (∀ (errors : List (Fin 32 × BitVec 16)) q rest, (chanOf s c).inflight = q :: rest →
      let x := tabGet s.cask.lines q.line {}
      let errs := ((errors.map (fun e => (e.1.val, e.2.toNat))).filter (fun e => e.2 != 0)).foldl (fun t e => tabSet t e.1 e.2) []
      x.bad = [] → errs.length ≤ 2 → ∃ u v, deepReturn s c (errors.map (fun e => (e.1.val, e.2.toNat))) = (some (q, lineWords x, false), u) ∧
        (chanOf u c).inflight = rest ∧
        rdn u (Reg.DEEP_CHc_CORRECTED c) = (rdn s (Reg.DEEP_CHc_CORRECTED c) + (if errs = [] then 0 else 1)) % 2 ^ 64 ∧
        v = ledgerMod u q.tag (fun e => if e.outstanding.contains q.line = true then
          { e with outstanding := e.outstanding.filter (· != q.line), have_ := e.have_ ++ [(q.line, lineWords x)] } else e) ∧
        ((∀ e, entryOf v q.tag = some e → e.st ≠ 3) → exec (.deepReadComplete ch errors) s = .next (pump (pumpReads v))) ∧
        (∀ e, entryOf v q.tag = some e → e.st = 3 →
          exec (.deepReadComplete ch errors) s = .next (pump (pumpReads (afterServe (fetchLoop 16 v q.tag).2 q.tag (fetchLoop 16 v q.tag).1))))) ∧
    (∀ (bank : Fin 16) row, let b := bank.val
      let pred := Reg.DEEP_CHc_PREDb c b
      let ones := (List.range 8).foldl (fun n i => n + b2n ((rf s pred 7 0).testBit i)) 0
      (dbank s c b).row = some row →
      ((dbank s c b).decided = some (row, true) → (dbank s c b).hint = none → (dbank s c b).used + 60 * (1 + ones) ≤ nowNs s →
        ∃ t, exec (.rowHoldTimeout ch bank) s = .next t ∧ (dbank t c b).row = none ∧ rf t pred 9 8 = rf s pred 9 8 - 1 ∧
          Only { s with deep := t.deep } t [pred] [] [.dram c (b / 8) .precharge (b % 8) 0 0]) ∧
      (∀ t0 l, (dbank s c b).hint = some (t0, l) → t0 ≤ nowNs s → ∃ t, exec (.hintExpiry ch bank) s = .next t ∧ (dbank t c b).hint = none ∧
        t.regs = s.regs ∧ ((dbank s c b).decided = some (row, false) → (dbank t c b).row = none ∧ t.out = .dram c (b / 8) .precharge (b % 8) 0 0 :: s.out) ∧
        ((dbank s c b).decided = some (row, true) → (dbank t c b).row = some row ∧ t.out = s.out))) ∧
    (∀ rank : Fin 2, let r := rank.val
      let due := (drank s c r).dueAt + dueInterval (rateOf s c r)
      chanRuns s c = true → r < rankCount s → due ≤ nowNs s → ∃ t, exec (.refreshDue ch rank) s = .next t ∧
        debt t c r = min 127 (debt s c r + 1) ∧ (drank t c r).dueAt = due ∧ Only { s with deep := t.deep } t [Reg.DEEP_CHc_DEBT c] [] []) ∧
    (chanPower s c = 1 → (chanOf s c).reads = [] → (chanOf s c).writes = [] → (chanOf s c).writeWait = [] → (chanOf s c).inflight = [] →
      ∃ t, exec (.srQueuesEmpty ch) s = .next t ∧ chanPower t c = 2 ∧ (∀ b, b < 8 * rankCount s → (dbank t c b).row = none) ∧
        ∀ r, r < rankCount s → debt t c r ≤ 0) ∧
    (chanPower s c = 2 → ∃ t, exec (.srPrechargeComplete ch) s = .next t ∧ chanPower t c = 3 ∧ rb t Reg.DEEP_ASLEEP c = true ∧
      t.out = ((ranksOf s).map (fun r => Out.dram c r .selfRefreshEntry 0 0 0)).reverse ++ s.out ∧
      t.ev.occ = s.ev.occ ++ [⟨0x90A + 16 * c, pack2 c 0, 0, tickNo s⟩]) ∧
    (chanPower s c = 4 → (chanOf s c).since + 15 ≤ nowNs s → ∃ t, exec (.srExitComplete ch) s = .next t ∧ chanPower t c = 0 ∧
      rb t Reg.DEEP_ASLEEP c = false ∧ (∀ r, r < rankCount s → debt t c r = 0) ∧
      t.ev.occ = s.ev.occ ++ [⟨0x90A + 16 * c, pack2 c 0, 1, tickNo s⟩])

/-- Refresh rates, catch-ups, read-eye probes, oscillators, ZQ and training keep each DRAM channel as their rules say
(09_deep_memory.md R226; 09_deep_memory.md R228; 09_deep_memory.md R230; 09_deep_memory.md R237; 09_deep_memory.md R238;
09_deep_memory.md R239; 09_deep_memory.md R242; 09_deep_memory.md R244; 09_deep_memory.md R217). -/
def Obligations.DeepUpkeep : Prop :=
  ∀ (ch : Fin 64) (s : State),
    let c := ch.val
    let st := Reg.DEEP_CHc_STATUS c
    let x := chanOf s c
    (∀ rank : Fin 2,
      let r := rank.val
      let k := drank s c r
      (∀ v : BitVec 8, let op := v.toNat % 8
        let new := if op ≤ 3 then 0 else if op = 4 then 1 else if op = 5 then 2 else 3
        chanRuns s c = true → r < rankCount s → k.mr4At < staggerIndex s c r 4000000 → ∃ t, exec (.mr4Poll ch rank v) s = .next t ∧
          rf t (Reg.DEEP_CHc_MR4 c) (8 * r + 7) (8 * r) = v.toNat ∧ rateOf t c r = new ∧ t.out = .dram c r .modeRead 0 4 0 :: s.out ∧
          (drank t c r).mr4At = staggerIndex s c r 4000000 ∧
          (dueInterval new < dueInterval (rateOf s c r) → 0 < debt s c r →
            (drank t c r).catchup = some (nowNs s, ((debt s c r).toNat + 7) / 8, 0, limitOf new) ∧ rb t st (14 + r) = true)) ∧
      (∀ t0 n done lim, k.catchup = some (t0, n, done, lim) → n ≤ done → lim ≤ 127 → ∃ t, exec (.catchupComplete ch rank) s = .next t ∧
        (drank t c r).catchup = none ∧ debt t c r = max (debt s c r - 8 * n) (-(lim : Int)) ∧ debtLimit t c r = lim ∧ rb t st (14 + r) = false ∧
        rdn t (Reg.DEEP_CHc_CATCHUPS c) = min (rdn s (Reg.DEEP_CHc_CATCHUPS c) + 1) (2 ^ 32 - 1) ∧
        t.ev.occ = s.ev.occ ++ [⟨0x903 + 16 * c, pack2 c r, pack2 (nowNs s - t0) n, tickNo s⟩]) ∧
      (∀ (count : BitVec 16) (shift : Int), chanRuns s c = true → r < rankCount s → k.oscAt < staggerIndex s c r 1000000 →
        ∃ t, exec (.dqsOscRead ch rank count shift) s = .next t ∧ rf t (Reg.DEEP_CHc_DQSOSC c) (16 * r + 15) (16 * r) = count.toNat ∧
          (∀ p, p < 16 → let e := eyeOf s c (16 * r + p)
            eyeOf t c (16 * r + p) = (e.1, e.2.1, e.2.2.1, (max 0 (min 127 ((e.2.2.2 : Int) + shift))).toNat)) ∧
          (drank t c r).oscAt = staggerIndex s c r 1000000 ∧ t.out = .dram c r .modeRead 0 18 0 :: s.out) ∧
      (rb s Reg.DEEP_CFG 9 = true → chanRuns s c = true → r < rankCount s → k.zqAt < staggerIndex s c r 128000000 →
        ∃ t, exec (.zqStart ch rank) s = .next t ∧ (drank t c r).zqDue = some (nowNs s + 1000) ∧
          Only { s with deep := t.deep } t [] [] [.dram c r .zqStart 0 0 0]) ∧
      (∀ due, k.zqDue = some due → due ≤ nowNs s → ∃ t, exec (.zqLatch ch rank) s = .next t ∧ (drank t c r).zqDue = none ∧
        Only { s with deep := t.deep } t [] [] [.dram c r .zqLatch 0 0 0])) ∧
    (x.seededAt + 1000000000 ≤ nowNs s → ∃ t, exec (.nrReseed ch) s = .next t ∧ chanOf t c = { x with gen := (fresh s).1, seededAt := nowNs s } ∧
      t.regs = s.regs ∧ t.free = s.free + 1) ∧
    (x.corrAt + 1000000 ≤ nowNs s → ∃ t, exec (.deepCorrWindow ch) s = .next t ∧ chanOf t c = { x with corrected := 0, corrAt := nowNs s } ∧
      t.regs = s.regs ∧ t.ev.occ = s.ev.occ ++ (if rf s Reg.DEEP_CORR_THRESH 19 0 ≤ x.corrected then
        [⟨0x901 + 16 * c, pack2 c 0, x.corrected, tickNo s⟩] else [])) ∧
    (rb s Reg.DEEP_CFG 8 = true → chanRuns s c = true → x.probeAt + 64000 ≤ nowNs s → ∃ t, exec (.probeWindowEnd ch) s = .next t ∧
      (eyeOf t c x.probe).1 = estNext (eyeOf s c x.probe).1 x.probeCount.1 x.probeCount.2.1 ∧
      (eyeOf t c x.probe).2.1 = estNext (eyeOf s c x.probe).2.1 x.probeCount.2.2.1 x.probeCount.2.2.2 ∧
      (chanOf t c).probe = (x.probe + 1) % (16 * rankCount s) ∧ (chanOf t c).probeCount = (0, 0, 0, 0) ∧ (chanOf t c).probeAt = nowNs s) ∧
    (∀ (eyes : List (Nat × Nat × Nat × Nat)) t0, x.retrain = some t0 → ∃ t, exec (.retrainComplete ch eyes) s = .next t ∧
      (∀ k e, eyes[k]? = some e → eyeOf t c k = e) ∧ (∃ o ∈ t.ev.occ, o.source = 0x907 + 16 * c ∧ o.d0 = pack2 c 0 ∧ o.d1 = nowNs s - t0) ∧
      (rb s Reg.DEEP_ORDER 0 = false → rb t st 5 = false ∧ (chanOf t c).retrain = none ∧ rb t (Reg.DEEP_CHc_CMD_STATUS c) 0 = false)) ∧
    ∀ (eyes : List (Nat × Nat × Nat × Nat)) (counts : List (BitVec 16)), rb s st 0 = false → chanFailed s c = false → c < 2 ^ chanBits s →
      (∃ t, exec (.initialTrainingComplete ch none eyes counts) s = .next t ∧ rb t st 0 = true ∧ (∀ k e, eyes[k]? = some e → eyeOf t c k = e) ∧
        ∀ r, r < rankCount s → debtLimit t c r = 64 ∧ (drank t c r).dueAt = nowNs s) ∧
      ∀ (step : Fin 9) (pin : Fin 16), ∃ t, exec (.initialTrainingComplete ch (some (step, pin)) eyes counts) s = .next t ∧ chanFailed t c = true ∧
        rb t Reg.DEEP_FAILED c = true ∧ Only s t [st, Reg.DEEP_FAILED] [(0x90D + 16 * c, pack2 c 0, pack2 step pin)] []

/-- A key command waits for the jobs admitted before it; then the slot holds the new key with its policy and check value, or
holds none (13_authentication.md R371; 13_authentication.md R372; 13_authentication.md R373). -/
def Obligations.KeysAreLoadedAndErased : Prop :=
  ∀ s : State,
    let st := Reg.AUTH_KEY_STATUS
    let slot := rf s Reg.AUTH_KEY_SLOT 11 0
    let policy := rf s Reg.AUTH_KEY_POLICY 12 0
    let want := if policy % 4 = 0 then 16 else if policy % 4 = 1 then 32 else policy / 4 % 128 + 1
    let waits (t : State) (op : Nat) (key : List Byte) : Prop := rb t st 0 = true ∧
      t.auth = { s.auth with cmd := some { op := op, slot := slot, key := key, policy := policy, jobs := jobsOn s slot } } ∧
      Only { s with auth := t.auth } t [Reg.AUTH_KEY_CMD, st] [] []
    let refused (t : State) (r : Nat) : Prop := rb t st 0 = false ∧ rf t st 3 1 = r ∧ Only s t [Reg.AUTH_KEY_CMD, st] [] []
    (rb s st 0 = true → exec .loadClear s = .next s ∧ exec .loadWrapped s = .next s ∧ exec .keyErase s = .next s ∧ exec .readPolicy s = .next s) ∧
    (rb s st 0 = false →
      (want ≤ 64 ∨ policy % 4 < 2 → ∃ t, exec .loadClear s = .next t ∧ waits t 1 ((keyData s).take want)) ∧
      (2 ≤ policy % 4 → 64 < want → ∃ t, exec .loadClear s = .next t ∧ refused t 2) ∧
      (want ≤ 64 → wrapKey s = none → ∃ t, exec .loadWrapped s = .next t ∧ refused t 4) ∧
      (∀ kek key, want ≤ 64 → wrapKey s = some kek → rb s Reg.AUTH_CFG 0 = true →
        unwrap5649 kek ((keyData s).take ((want + 7) / 8 * 8 + 8)) = some key → key.length = want →
        ∃ t, exec .loadWrapped s = .next t ∧ waits t 2 key) ∧
      (∀ kek, want ≤ 64 → wrapKey s = some kek → rb s Reg.AUTH_CFG 0 = true →
        unwrap5649 kek ((keyData s).take ((want + 7) / 8 * 8 + 8)) = none → ∃ t, exec .loadWrapped s = .next t ∧ refused t 3) ∧
      (∃ t, exec .keyErase s = .next t ∧ waits t 3 []) ∧
      (∃ t, exec .readPolicy s = .next t ∧ rf t st 3 1 = 0 ∧ t.auth = s.auth ∧
        rdn t Reg.AUTH_KEY_POLICY = (match tabFind s.auth.slots slot with
          | some k => (k.policy + (if k.suspect = true then 2 ^ 31 else 0)) % 2 ^ 64
          | none => 0))) ∧
    ∀ c, s.auth.cmd = some c →
      (s.auth.jobs.any (fun j => c.jobs.contains j.1) = true → exec .keyCmdComplete s = .next s) ∧
      (s.auth.jobs.any (fun j => c.jobs.contains j.1) = false → ∃ t, exec .keyCmdComplete s = .next t ∧ t.auth.cmd = none ∧ rb t st 0 = false ∧
        rf t st 3 1 = 0 ∧ (∀ k, k ≠ c.slot → tabFind t.auth.slots k = tabFind s.auth.slots k) ∧
        (c.op = 3 → tabFind t.auth.slots c.slot = none) ∧
        (c.op ≠ 3 → tabFind t.auth.slots c.slot = some { key := c.key, policy := c.policy } ∧
          rf t st 31 8 = beNat (keyCheck c.key c.policy) % 2 ^ 24) ∧ Only { s with auth := t.auth } t [st] [] [])

/-- A host job is fetched by its OP's command, admitted to the awake core with the least queued, and ends with its
completion (13_authentication.md R376; 13_authentication.md R377; 13_authentication.md R361; 13_authentication.md R381). -/
def Obligations.HostJobsAreServed : Prop :=
  ∀ s : State,
    (∀ v : BitVec 32, ∃ t, exec (.authHjTailWrite v) s = .next t ∧ rf t Reg.AUTH_HJ_TAIL 15 0 = v.toNat % 2 ^ 16 ∧
      rb t Reg.AUTH_HJ_HEAD 31 = false ∧ rf t Reg.AUTH_HJ_HEAD 15 0 = rf s Reg.AUTH_HJ_HEAD 15 0 ∧
      Only s t [Reg.AUTH_HJ_TAIL, Reg.AUTH_HJ_HEAD] [] []) ∧
    (let size := rf s Reg.AUTH_HJ_SIZE 15 0
     let head := rf s Reg.AUTH_HJ_HEAD 15 0
     2 ≤ size → rb s Reg.AUTH_HJ_HEAD 31 = false → head ≠ rf s Reg.AUTH_HJ_TAIL 15 0 → s.auth.jobs.length < 4096 →
     ∀ (op : Nat) (c : List Byte → List Byte → Instr),
       (op, c) ∈ [(1, Instr.hjGmacGenerate), (2, .hjGmacVerify), (3, .hjCmacGenerate), (4, .hjCmacVerify), (5, .hjHmacGenerate),
         (6, .hjHmacVerify), (7, .hjSave), (8, .hjRestore)] →
       ∀ desc data : List Byte, desc.length = 32 →
       (crc32c (desc.take 28) = leAt desc 28 4 →
         (byteAt desc 0 = op → ∃ t j, exec (c desc data) s = .next t ∧ tabFind t.auth.jobs s.auth.next = some j ∧
           t.auth.next = s.auth.next + 1 ∧ rf t Reg.AUTH_HJ_HEAD 15 0 = (head + 1) % size ∧ (∀ a, a ≠ Reg.AUTH_HJ_HEAD → rd t a = rd s a) ∧
           j.user = .host ∧ j.slot = leAt desc 2 2 ∧ j.core = pickCore (wf s Reg.AUTH_HJ_HEAD 15 0 ((head + 1) % size)) ∧
           ∃ h, j.host = some h ∧ h.op = op ∧ h.flags = byteAt desc 1 ∧ h.slot = leAt desc 2 2 ∧ h.ctx = leAt desc 4 2 ∧ h.addr = leAt desc 8 8 ∧
             h.cookie = leAt desc 20 4 ∧ h.data.length = leAt desc 16 4 % 2 ^ 24 ∧
             (data.length = leAt desc 16 4 % 2 ^ 24 → h.data = data)) ∧
         (byteAt desc 0 ≠ op → exec (c desc data) s = .next s)) ∧
       (crc32c (desc.take 28) ≠ leAt desc 28 4 → ∃ t, exec (c desc data) s = .next t ∧ rb t Reg.AUTH_HJ_HEAD 31 = true ∧
         rf t Reg.AUTH_HJ_HEAD 15 0 = head ∧ Only s t [Reg.AUTH_HJ_HEAD] [(0xF08, head, 0)] [])) ∧
    ∀ (core : Fin 8) n j h, nextJob s core = some (n, j) → j.user = .host → j.host = some h → j.core = core.val → h.flags.testBit 2 = false →
      ∃ u b rest, exec (.authJobComplete core false) s = .next (pump u) ∧ tabFind u.auth.jobs n = none ∧
        rdn u (Reg.AUTH_COREn_JOBS core) = (rdn s (Reg.AUTH_COREn_JOBS core) + 1) % 2 ^ 64 ∧
        rdn u (Reg.AUTH_COREn_BYTES core) = (rdn s (Reg.AUTH_COREn_BYTES core) + j.bytes) % 2 ^ 64 ∧
        u.out = .hostWrite (rdn s Reg.AUTH_HC_BASE + 64 * s.auth.done) b :: rest ∧ slice b 0 4 = toLE 4 h.cookie ∧ byteAt b 5 = h.op % 256 ∧
        u.auth.done = (s.auth.done + 1) % max 1 (rf s Reg.AUTH_HJ_SIZE 15 0)

/-- A compare-and-swap of word 0 takes, keeps and clears a slot's lock, writes go to the staged copy, and locks held or
waited on too long are told (06_forwarding.md R136; 06_forwarding.md R137; 06_forwarding.md R138; 08_cask_store.md R201;
08_cask_store.md R202; 19_host_interface.md R508). -/
def Obligations.WindowSlots : Prop :=
  ∀ s : State,
    (∀ (addr : BitVec 32) (t i : Nat) (cmp swp : BitVec 64), slot2 addr.toNat = .table t i → t < 8 → addr.toNat % 64 = 0 → follower s = false →
      let x := slotOf s t i
      let word0 := (winRead s t i).getD 0 0
      let back (u : State) : State := emit u (.readData (toLE 8 word0.toNat))
      (cmp ≠ word0 → exec (.windowCas addr cmp swp) s = .next (pump (back s))) ∧
      (cmp = word0 → swp.getLsbD 63 = true → x.lock = none → x.inMotion = false → ∃ u, exec (.windowCas addr cmp swp) s = .next (pump u) ∧
        slotOf u t i = { x with lock := some { staged := (List.range 8).map x.word, since := nowNs s } } ∧
        u = back { s with fwd := u.fwd }) ∧
      (∀ l, cmp = word0 → swp.getLsbD 63 = false → x.lock = some l → storeFull s = false → t ≠ 5 →
        let ws := (l.staged.set 0 swp).take 8
        fld (ws.getD 7 0) 31 0 = checkOf ws → badEntry t i ws = none → ∃ u, exec (.windowCas addr cmp swp) s = .next (pump u) ∧
          (slotOf u t i).lock = none ∧ (slotOf u t i).words = storeWords ws ∧ (slotOf u t i).suspect = false ∧
          .readData (toLE 8 word0.toNat) ∈ u.out)) ∧
    (∀ (addr : BitVec 32) (t i : Nat) (data : List Byte), slot2 addr.toNat = .table t i → t < 8 → follower s = false →
      data ≠ [] → data.length % 4 = 0 → addr.toNat % 4 = 0 → addr.toNat % 64 + data.length ≤ 64 →
      (∀ l, (slotOf s t i).lock = some l → clearsLock (addr.toNat % 64) data = false → ∃ u, exec (.windowWrite addr data) s = .next (pump u) ∧
        slotOf u t i = { slotOf s t i with lock := some { l with staged := stageBytes l.staged (addr.toNat % 64) data, written := true } } ∧
        { u with fwd := s.fwd } = s) ∧
      ((slotOf s t i).lock = none → s.host.probe = none → ∃ u, exec (.windowWrite addr data) s = .next (pump u) ∧ u.fwd = s.fwd ∧
        rdn u Reg.FWD_UNLOCKED_WR = min (rdn s Reg.FWD_UNLOCKED_WR + 1) (2 ^ 32 - 1) ∧ ⟨0xFC8, 0, pack2 4 1, tickNo s⟩ ∈ u.ev.occ)) ∧
    (∀ (slot : Fin 33554432) (cmp swp : BitVec 64) (off len : Nat),
      let line := rf s Reg.CASK_APERTURE_BASE 31 25 * 2 ^ 25 + slot.val
      (exec (.caskWindowLock slot cmp swp) s =
        .next (pump (hostOperation s line [] { kind := 1, addr := 64 * slot.val, compare := cmp, swap := swp }))) ∧
      (0 < len → len % 4 = 0 → off % 4 = 0 → off % 64 + len ≤ 64 →
        exec (.caskWindowRead slot off len) s = .next (pump (hostOperation s line [] { kind := 0, addr := off % 64, len := len })))) ∧
    (rising s.fwd.slots = true → ∀ e l, e ∈ s.fwd.slots → e.2.lock = some l → l.told = false →
      let t := e.1 / 2 ^ 20
      let limit := rf s (if t = 8 then Reg.LAUTER_LOCK_HOLD_LIMIT else Reg.FWD_LOCK_HOLD_LIMIT) 19 0
      l.since + limit * 1000 ≤ nowNs s → ∃ v, exec .lockHoldLimitExpiry s = .next v ∧
        tabFind v.fwd.slots e.1 = some { e.2 with lock := some { l with told := true } } ∧
        ∃ o ∈ v.ev.occ, o.source = (if t = 8 then 0x603 else 0x519) ∧ o.d1 = (nowNs s - l.since) / 1000) ∧
    ∀ f fr since t i, t < 8 → fr.waitAt = some (since, t, i) → fr.looked = false →
      let limit := 4 * rf s Reg.FWD_LOCK_TIMEOUT 17 0
      let w := lockTimedOut s t i
      let v := lookFrame w f (fwdPolicy w) .wait
      s.frames = [(f, fr)] → since + limit ≤ nowNs s → v.ferm.runs.flatMap (fun e => e.2.tasks.flatMap (·.looking)) = [] →
      exec .fwdLockTimeout s = .next (pump (relookNodes v (fun l => (l.2.2 / 2 ^ 20 == 8) == false && elapsed v l.2.1 limit) true)) ∧
        rdn w Reg.FWD_LOCK_TIMEOUTS = min (rdn s Reg.FWD_LOCK_TIMEOUTS + 1) (2 ^ 32 - 1) ∧
        Only s w [Reg.FWD_LOCK_TIMEOUTS] [(0x516, pack2 t i, rf s Reg.FWD_CFG 2 2)] []

/-- Table commands, ageing, rehash, route entry, re-announcement and the parity scan change the forwarding tables as their
rules say (06_forwarding.md R128; 06_forwarding.md R129; 06_forwarding.md R130; 06_forwarding.md R131; 06_forwarding.md
R133; 06_forwarding.md R141; 06_forwarding.md R142; 06_forwarding.md R143). -/
def Obligations.ForwardingTables : Prop :=
  ∀ s : State,
    (∀ (k : Fin 8) (op : Nat) (c : Fin 8 → Instr),
      (op, c) ∈ [(1, Instr.fwdTblRead), (2, .fwdTblWrite), (3, .fwdTblInsert), (4, .fwdTblDelete), (5, .fwdTblSearch)] →
      (rb s (Reg.FWD_TBLt_STATUS k) 0 = false → ∃ t, exec (c k) s = .next t ∧ rb t (Reg.FWD_TBLt_STATUS k) 0 = true ∧
        tabFind t.fwd.cmds k = some { op := op, index := rf s (Reg.FWD_TBLt_INDEX k) 19 0, data := tblData s k } ∧
        Only { s with fwd := t.fwd } t [Reg.FWD_TBLt_CMD k, Reg.FWD_TBLt_STATUS k] [] []) ∧
      (rb s (Reg.FWD_TBLt_STATUS k) 0 = true → exec (c k) s = .next s)) ∧
    (∀ (k : Fin 8) c, tabFind s.fwd.cmds k = some c → storeFull s = false →
      let st := Reg.FWD_TBLt_STATUS k
      let w := tblRun { s with fwd := { s.fwd with cmds := tabDel s.fwd.cmds k } } k c
      ∃ u, exec (.fwdTblCmdComplete k) s = .next (pump u) ∧ u = wf (wf w.2 st 0 0 0) st 7 4 w.1 ∧ rb u st 0 = false ∧ rf u st 7 4 = w.1 % 16 ∧
        (c.op = 1 → c.index < tblSize k → (c.data.getD 7 0).toNat = 0 → w.1 = 0 ∧
          ∀ d, d < 8 → rd u (Reg.FWD_TBLt_DATAw k d) = (tblReadWords (slotOf s k c.index)).getD d 0) ∧
        (c.op = 2 → follower s = false → c.index < tblSize k → (c.data.getD 7 0).toNat % 2 ^ 32 = checkOf c.data → k.val ≠ 5 →
          (slotOf s k c.index).lock = none → badEntry k c.index c.data = none → w.1 = 0 ∧ (slotOf u k c.index).words = storeWords c.data)) ∧
    (∀ slot : Fin 524288, let x := slotOf s 0 slot
      let last := (x.word 2).toNat
      rb s Reg.FWD_CFG 1 = true → follower s = false → x.valid = true → x.lock = none → bitOf (x.word 0) 58 = false → s.fen.flush = [] →
      rf s Reg.FWD_FDB_AGE 15 0 * 1000000000 ≤ (s.time.tick - last) * tickNs s → ∃ t, exec (.fdbAgeScan slot) s = .next t ∧
        rdn t Reg.FWD_AGED = min (rdn s Reg.FWD_AGED + 1) (2 ^ 32 - 1) ∧
        (rb s Reg.FWD_FDB_AGE 16 = true → (slotOf t 0 slot).valid = false) ∧
        (rb s Reg.FWD_FDB_AGE 16 = false → Only s t [Reg.FWD_AGED] [] [])) ∧
    (∀ k ws rest, s.fwd.lpmPending = (k, ws) :: rest → ∃ t, exec .lpmRouteEntered s = .next t ∧ t.fwd.lpmPending = rest ∧
      tabGet t.fwd.lpm k [] = ws ∧ (∀ j, j ≠ k → tabGet t.fwd.lpm j [] = tabGet s.fwd.lpm j []) ∧ { t with fwd := s.fwd } = s) ∧
    (∀ (slot : Fin 524288) ns tick, let x := slotOf s 0 slot
      tabFind s.fwd.announced slot = some (ns, tick) → x.valid = true → tick < (x.word 2).toNat → bitOf (x.word 0) 57 = false →
      ns + rf s Reg.FWD_FDB_AGE 15 0 * 250000000 ≤ nowNs s →
      (∃ e ∈ s.fwd.slots, slotKey 5 0 ≤ e.1 ∧ e.1 < slotKey 6 0 ∧ e.2.valid = true ∧ fld (e.2.word 0) 11 0 = fld (x.word 1) 11 0 ∧
        fld (e.2.word 0) 55 54 = 1) → rb s Reg.FEN_CFG 0 = true → follower s = false → s.fen.pendingRecs.length < 4096 →
      ∃ t l, exec (.learnReannounce slot) s = .next t ∧ t.fen.pendingRecs = s.fen.pendingRecs ++ [l] ∧ l.fid = fld (x.word 1) 11 0 ∧
        l.mac = fld (x.word 0) 47 0 ∧ l.tick = (x.word 2).toNat ∧ tabFind t.fwd.announced slot = some (nowNs s, tickNo s) ∧ t.regs = s.regs) ∧
    (rehashing s = false → ∃ t, exec .fdbRehashStart s = .next t ∧ rehashing t = true ∧ rdn t Reg.FWD_FDB_REHASH_STUCK = 0 ∧ t.fwd.moved = 0 ∧
      Only { s with fwd := t.fwd } t [Reg.FWD_FDB_REHASH, Reg.FWD_FDB_REHASH_STUCK] [] []) ∧
    (rehashing s = true → (listedSlots s 0).any (fun i => (slotOf s 0 i).lock.isSome && (slotOf s 0 i).valid && !(occupantCands s i).contains i) = false →
      ∃ t, exec .fdbRehashComplete s = .next t ∧ rehashing t = false ∧
        (∀ w, w < 4 → rd t (Reg.FWD_FDB_SEED0 + 4 * w) = rd s (Reg.FWD_FDB_SEED_NEXTw w)) ∧ ∃ o ∈ t.ev.occ, o.source = 0x51B ∧ o.d0 = t.fwd.moved) ∧
    (∀ (g : Fin 128) w, tabFind s.fwd.windows g = some w → w.opened + rf s Reg.FWD_INS_WINDOW 15 0 * 1000000 ≤ nowNs s →
      ∃ t, exec (.insWindowClose g) s = .next t ∧ tabFind t.fwd.windows g = none ∧ { t with fwd := s.fwd } = s) ∧
    ∀ (k : Fin 8) (slot : Nat), slot < tblSize k →
      ((slotOf s k slot).words ≠ [] → (slotOf s k slot).suspect = false → ∃ t, exec (.fwdParityScan k slot true) s = .next t ∧
        slotOf t k slot = { slotOf s k slot with suspect := true } ∧ rdn t Reg.FWD_PARITY_ERRS = min (rdn s Reg.FWD_PARITY_ERRS + 1) (2 ^ 32 - 1) ∧
        Only { s with fwd := t.fwd } t [Reg.FWD_PARITY_ERRS] [if k = 6 then (0x511, slot, 0) else (0x518, pack2 k slot, rf s Reg.FWD_CFG 3 3)] []) ∧
      exec (.fwdParityScan k slot false) s = .next s
end

