-- ==== Sys2Proof/Laws/Tables.lean ====
section
/-! SUPPORT. The canonical tables: strictly rising keys, what an operation leaves under each key, and what filtering keeps. -/
namespace Sys2Proof.Machine

theorem rising_iff {α : Type} : ∀ l : List (Nat × α), rising l = true ↔ l.Pairwise (fun x y => x.1 < y.1)
  | [] => by simp [rising]
  | [x] => by simp [rising]
  | x :: y :: t => by
    rw [rising, Bool.and_eq_true, decide_eq_true_iff, rising_iff (y :: t), List.pairwise_cons (a := x)]
    constructor
    · rintro ⟨h, ht⟩
      refine ⟨?_, ht⟩
      intro z hz
      rcases List.mem_cons.mp hz with rfl | hz
      · exact h
      · exact Nat.lt_trans h ((List.pairwise_cons.mp ht).1 z hz)
    · rintro ⟨h, ht⟩
      exact ⟨h y (List.mem_cons_self ..), ht⟩

theorem rising_filter {α : Type} {l : List (Nat × α)} (p : Nat × α → Bool) (h : rising l = true) :
    rising (l.filter p) = true := by
  rw [rising_iff] at *
  exact h.filter p

theorem rising_filterMap {α : Type} {l : List (Nat × α)} (f : Nat × α → Option (Nat × α)) (hf : ∀ x y, f x = some y → y.1 = x.1)
    (h : rising l = true) : rising (l.filterMap f) = true := by
  rw [rising_iff] at *
  refine List.Pairwise.filterMap f ?_ h
  intro a b hab x hx y hy
  rw [hf a x hx, hf b y hy]
  exact hab

theorem mem_tabDel {α : Type} {x : Nat × α} {a : Nat} {l : List (Nat × α)} (h : x ∈ tabDel l a) : x ∈ l :=
  (List.mem_filter.mp h).1

theorem mem_tabSet {α : Type} {x : Nat × α} {a : Nat} {v : α} : ∀ {l : List (Nat × α)}, x ∈ tabSet l a v → x = (a, v) ∨ x ∈ l
  | [], h => by simp [tabSet] at h; exact .inl h
  | (k, w) :: t, h => by
    rw [tabSet] at h
    split at h
    · rcases List.mem_cons.mp h with rfl | h
      · exact .inl rfl
      · exact .inr h
    · split at h
      · rcases List.mem_cons.mp h with rfl | h
        · exact .inl rfl
        · exact .inr (List.mem_cons_of_mem _ h)
      · rcases List.mem_cons.mp h with rfl | h
        · exact .inr (List.mem_cons_self ..)
        · rcases mem_tabSet h with h | h
          · exact .inl h
          · exact .inr (List.mem_cons_of_mem _ h)

theorem rising_tabDel {α : Type} (a : Nat) {l : List (Nat × α)} (h : rising l = true) : rising (tabDel l a) = true :=
  rising_filter _ h

theorem rising_tabSet {α : Type} (a : Nat) (v : α) : ∀ {l : List (Nat × α)}, rising l = true → rising (tabSet l a v) = true
  | [], _ => rfl
  | (k, w) :: t, h => by
    have h' := List.pairwise_cons.mp ((rising_iff _).mp h)
    rw [tabSet]
    split
    · rename_i lt
      rw [rising_iff, List.pairwise_cons]
      refine ⟨?_, (rising_iff _).mp h⟩
      intro y hy
      rcases List.mem_cons.mp hy with rfl | hy
      · exact lt
      · exact Nat.lt_trans lt (h'.1 y hy)
    · split
      · rename_i eq
        subst eq
        rw [rising_iff, List.pairwise_cons]
        exact h'
      · rename_i nlt ne
        rw [rising_iff, List.pairwise_cons]
        refine ⟨?_, (rising_iff _).mp (rising_tabSet a v ((rising_iff _).mpr h'.2))⟩
        intro y hy
        rcases mem_tabSet hy with rfl | hy
        · exact Nat.lt_of_le_of_ne (Nat.le_of_not_lt nlt) (fun e => ne e.symm)
        · exact h'.1 y hy

theorem rising_tabPut {α : Type} [DecidableEq α] {l : List (Nat × α)} (a : Nat) (v d : α) (h : rising l = true) :
    rising (tabPut l a v d) = true := by
  rw [tabPut]
  split
  · exact rising_tabDel a h
  · exact rising_tabSet a v h

theorem mem_tabPut {α : Type} [DecidableEq α] {l : List (Nat × α)} {x : Nat × α} {a : Nat} {v d : α} (h : x ∈ tabPut l a v d) :
    (x = (a, v) ∧ v ≠ d) ∨ x ∈ l := by
  rw [tabPut] at h
  split at h
  · exact .inr (mem_tabDel h)
  · rename_i ne
    rcases mem_tabSet h with h | h
    · exact .inl ⟨h, ne⟩
    · exact .inr h

/-! What reads find after a write. -/

@[simp] theorem tabFind_tabSet {α : Type} (a b : Nat) (v : α) : ∀ l : List (Nat × α),
    tabFind (tabSet l a v) b = if a = b then some v else tabFind l b
  | [] => by simp [tabSet, tabFind]
  | (k, w) :: t => by
    rw [tabSet]
    split
    · simp [tabFind]
    · split
      · rename_i e; subst e; simp [tabFind]; split <;> rfl
      · simp only [tabFind, tabFind_tabSet a b v t]
        grind

@[simp] theorem tabFind_tabDel {α : Type} (a b : Nat) : ∀ l : List (Nat × α),
    tabFind (tabDel l a) b = if a = b then none else tabFind l b
  | [] => by simp [tabDel, tabFind]
  | (k, w) :: t => by
    have ih := tabFind_tabDel a b t
    simp only [tabDel, List.filter_cons] at ih ⊢
    by_cases e : k = a
    · subst e
      simp only [bne_self_eq_false, Bool.false_eq_true, if_false, ih, tabFind]
      split <;> rfl
    · have : (k != a) = true := by simpa using e
      simp only [this, if_true, tabFind, ih]
      grind

/-- What a table in canonical form reads after a write: d is what an unlisted key reads as. -/
theorem tabFind_tabPut {α : Type} [DecidableEq α] (l : List (Nat × α)) (a b : Nat) (v d : α) :
    (tabFind (tabPut l a v d) b).getD d = if a = b then v else (tabFind l b).getD d := by
  rw [tabPut]
  split
  · rename_i e
    rw [tabFind_tabDel]
    split
    · exact e.symm
    · rfl
  · rw [tabFind_tabSet]
    split <;> rfl

@[simp] theorem tabGet_tabPut {α : Type} [DecidableEq α] (l : List (Nat × α)) (a b : Nat) (v d : α) :
    tabGet (tabPut l a v d) b d = if a = b then v else tabGet l b d := tabFind_tabPut l a b v d

@[simp] theorem tabGet_tabSet {α : Type} (l : List (Nat × α)) (a b : Nat) (v d : α) :
    tabGet (tabSet l a v) b d = if a = b then v else tabGet l b d := by
  rw [tabGet, tabFind_tabSet, tabGet]; split <;> rfl

end Sys2Proof.Machine
end

