-- ==== Sys2Proof/Laws/Kept.lean ====
section
/-! SUPPORT. What every command keeps: the queue of commands, the serial number and the speed grade, the canonical form of the
register file, and the fuses. `Kept r t` says that t keeps what r has; the rules here take it through the shapes that the
model's functions have, and through the operations that write these parts of the state. -/
namespace Sys2Proof.Machine

/-- The state t keeps what r has. -/
structure Kept (r t : State) : Prop where
  queue : t.pending = r.pending
  serial : t.chip.serial = r.chip.serial
  grade : t.chip.grade = r.chip.grade
  regs : r.regsOk = true → t.regsOk = true
  fuses : r.fusesOk = true → t.fusesOk = true ∧
    ∀ f, (tabFind r.chip.fuses f).isSome = true → tabFind t.chip.fuses f = tabFind r.chip.fuses f

theorem Kept.refl (s : State) : Kept s s := ⟨rfl, rfl, rfl, id, fun h => ⟨h, fun _ _ => rfl⟩⟩

theorem Kept.trans {a b c : State} (h : Kept a b) (k : Kept b c) : Kept a c where
  queue := k.queue.trans h.queue
  serial := k.serial.trans h.serial
  grade := k.grade.trans h.grade
  regs := k.regs ∘ h.regs
  fuses := fun ha =>
    have ⟨hb, eb⟩ := h.fuses ha
    have ⟨hc, ec⟩ := k.fuses hb
    ⟨hc, fun f hf => by rw [ec f (by rw [eb f hf]; exact hf), eb f hf]⟩

/-- A state that agrees on the queue, the registers and the chip unit. -/
theorem Kept.same {r s t : State} (h : Kept r s) (hp : t.pending = s.pending) (hr : t.regs = s.regs) (hc : t.chip = s.chip) :
    Kept r t := by
  refine h.trans ⟨hp, by rw [hc], by rw [hc], ?_, ?_⟩
  · simp [State.regsOk, hr]
  · simp [State.fusesOk, hc]

/-- A record update of the other parts of the state. -/
theorem with_kept {r s : State} {free_ : Nat} {out_ : List Out} {ev_ : EventUnit} {time_ : TimeUnit} {perf_ : Perf} {core_ : CoreCal} {hummocks_ : List (Nat × Hummock)} {bill_ : Bill} {lanes_ : List (Nat × Lane)} {fwd_ : FwdUnit} {lauter_ : LauterUnit} {twin_ : TwinUnit} {frames_ : List (Nat × Frame)} {nextFrame_ : Nat} {fen_ : FenUnit} {cask_ : CaskUnit} {deep_ : List (Nat × Chan)} {ferm_ : FermUnit} {auth_ : AuthUnit} {mere_ : MereUnit} {egress_ : EgressUnit} {host_ : HostUnit} :
    Kept r { s with free := free_, out := out_, ev := ev_, time := time_, perf := perf_, core := core_, hummocks := hummocks_, bill := bill_, lanes := lanes_, fwd := fwd_, lauter := lauter_, twin := twin_, frames := frames_, nextFrame := nextFrame_, fen := fen_, cask := cask_, deep := deep_, ferm := ferm_, auth := auth_, mere := mere_, egress := egress_, host := host_ } ↔ Kept r s :=
  ⟨fun h => h.same rfl rfl rfl, fun h => h.same rfl rfl rfl⟩

/-- Another register file in canonical form. -/
theorem regs_kept {r s : State} {l : List (Nat × W64)} (h : Kept r s)
    (hl : s.regsOk = true → ({ s with regs := l } : State).regsOk = true) : Kept r { s with regs := l } :=
  h.trans ⟨rfl, rfl, rfl, hl, fun h => ⟨h, fun _ _ => rfl⟩⟩

/-- Registers that take their reset values again. -/
theorem filter_kept {r s : State} (p : Nat × W64 → Bool) (h : Kept r s) : Kept r { s with regs := s.regs.filter p } := by
  refine regs_kept h fun hs => ?_
  rw [State.regsOk, Bool.and_eq_true, List.all_eq_true] at *
  exact ⟨rising_filter p hs.1, fun x hx => hs.2 x (List.mem_of_mem_filter hx)⟩

/-- Another chip unit with the same identity. -/
theorem chip_kept {r s : State} {c : ChipUnit} (h : Kept r s) (hs : c.serial = s.chip.serial) (hg : c.grade = s.chip.grade)
    (hf : s.fusesOk = true → ({ s with chip := c } : State).fusesOk = true ∧
      ∀ f, (tabFind s.chip.fuses f).isSome = true → tabFind c.fuses f = tabFind s.chip.fuses f) :
    Kept r { s with chip := c } :=
  h.trans ⟨rfl, hs, hg, id, hf⟩

/-- Another chip unit with the same fuses. -/
theorem chipf_kept {r s : State} {c : ChipUnit} (h : Kept r s) (hs : c.serial = s.chip.serial) (hg : c.grade = s.chip.grade)
    (hf : c.fuses = s.chip.fuses) (hp : c.prog = s.chip.prog) : Kept r { s with chip := c } := by
  refine chip_kept h hs hg fun ok => ⟨?_, fun f _ => by rw [hf]⟩
  simpa only [State.fusesOk, hf, hp] using ok

theorem foldl_kept {α : Type} {r : State} {f : State → α → State} (l : List α) {s : State} (h : Kept r s)
    (hf : ∀ u x, Kept r u → Kept r (f u x)) : Kept r (l.foldl f s) := by
  induction l generalizing s with
  | nil => exact h
  | cons x l ih => exact ih (hf s x h)

theorem snd_kept {α : Type} {r t : State} {e : α × State} {v : α} (he : e = (v, t)) (h : Kept r e.2) : Kept r t := by
  subst he; exact h

theorem fst_kept {α : Type} {r t : State} {e : State × α} {v : α} (he : e = (t, v)) (h : Kept r e.1) : Kept r t := by
  subst he; exact h

theorem trd_kept {α β : Type} {r t : State} {e : α × β × State} {v : α} {w : β} (he : e = (v, w, t)) (h : Kept r e.2.2) :
    Kept r t := by subst he; exact h

theorem foldl_kept_snd {α β : Type} {r : State} {f : β × State → α → β × State} (l : List α) {n : β} {s : State} (h : Kept r s)
    (hf : ∀ n u x, Kept r u → Kept r (f (n, u) x).2) : Kept r (l.foldl f (n, s)).2 := by
  induction l generalizing n s with
  | nil => exact h
  | cons x l ih =>
    rw [List.foldl_cons, show f (n, s) x = ((f (n, s) x).1, (f (n, s) x).2) from rfl]
    exact ih (hf n s x h)

theorem foldl_kept_fst {α β : Type} {r : State} {f : State × β → α → State × β} (l : List α) {n : β} {s : State} (h : Kept r s)
    (hf : ∀ u n x, Kept r u → Kept r (f (u, n) x).1) : Kept r (l.foldl f (s, n)).1 := by
  induction l generalizing n s with
  | nil => exact h
  | cons x l ih =>
    rw [List.foldl_cons, show f (s, n) x = ((f (s, n) x).1, (f (s, n) x).2) from rfl]
    exact ih (hf s n x h)

theorem map_kept {α : Type} {r t : State} {o : Option α} {f : α → State} (hf : ∀ x, Kept r (f x)) (h : o.map f = some t) :
    Kept r t := by
  obtain ⟨x, _, rfl⟩ := Option.map_eq_some_iff.mp h
  exact hf x

theorem map_kept' {α : Type} {r t : State} {o : Option α} {f : α → State} (hf : ∀ x, o = some x → Kept r (f x))
    (h : o.map f = some t) : Kept r t := by
  obtain ⟨x, hx, rfl⟩ := Option.map_eq_some_iff.mp h
  exact hf x hx

theorem findSome_kept {α : Type} {r t : State} {l : List α} {f : α → Option State} (hf : ∀ x y, f x = some y → Kept r y)
    (h : l.findSome? f = some t) : Kept r t := by
  obtain ⟨x, _, hx⟩ := List.exists_of_findSome?_eq_some h
  exact hf x t hx

theorem getD_kept {r s : State} {o : Option State} (h : Kept r s) (ho : ∀ t, o = some t → Kept r t) : Kept r (o.getD s) := by
  cases o with
  | none => exact h
  | some t => exact ho t rfl

end Sys2Proof.Machine
end

