-- ==== Sys2Proof/Laws/OpsKept.lean ====
section
/-! SUPPORT. What the functions of Ops.lean keep (Laws/Kept.lean). -/
namespace Sys2Proof.Machine
set_option linter.unusedTactic false
set_option linter.unreachableTactic false
set_option linter.unusedSimpArgs false

theorem wr_kept : ∀ (s : State) (a : ℕ) (v : W64) {r : State}, Kept r s → Kept r (wr s a v) := by
  intro s a v r h
  refine regs_kept h fun hs => ?_
  rw [State.regsOk, Bool.and_eq_true, List.all_eq_true] at *
  refine ⟨rising_tabPut a v _ hs.1, fun x hx => ?_⟩
  rcases mem_tabPut hx with ⟨rfl, ne⟩ | hx
  · simpa using ne
  · exact hs.2 x hx
theorem wrn_kept : ∀ (s : State) (a n : ℕ) {z0 : State}, Kept z0 s → Kept z0 (wrn s a n) := by
  intros; unfold wrn
  repeat' (with_reducible first | assumption | apply wr_kept | exact Kept.refl _ | intro _ | split | simp only [with_kept])

theorem wf_kept : ∀ (s : State) (a hi lo n : ℕ) {z0 : State}, Kept z0 s → Kept z0 (wf s a hi lo n) := by
  intros; unfold wf
  repeat' (with_reducible first | assumption | apply wr_kept | exact Kept.refl _ | intro _ | split | simp only [with_kept])

theorem cnt_kept : ∀ (s : State) (a n : ℕ) {z0 : State}, Kept z0 s → Kept z0 (cnt s a n) := by
  intros; unfold cnt
  repeat' (with_reducible first | assumption | apply wrn_kept | exact Kept.refl _ | intro _ | split | simp only [with_kept])

theorem cntWrap_kept : ∀ (s : State) (a n : ℕ) {z0 : State}, Kept z0 s → Kept z0 (cntWrap s a n) := by
  intros; unfold cntWrap
  repeat' (with_reducible first | assumption | apply wrn_kept | exact Kept.refl _ | intro _ | split | simp only [with_kept])

theorem peak_kept : ∀ (s : State) (a hi lo n : ℕ) {z0 : State}, Kept z0 s → Kept z0 (peak s a hi lo n) := by
  intros; unfold peak
  repeat' (with_reducible first | assumption | apply wf_kept | exact Kept.refl _ | intro _ | split | simp only [with_kept])

theorem emit_kept : ∀ (s : State) (o : Out) {z0 : State}, Kept z0 s → Kept z0 (emit s o) := by
  intros; unfold emit
  repeat' (with_reducible first | assumption | exact Kept.refl _ | intro _ | split | simp only [with_kept])

theorem fresh_kept : ∀ (s : State) {z0 : State}, Kept z0 s → Kept z0 (fresh s).2 := by
  intros; unfold fresh
  repeat' (with_reducible first | assumption | exact Kept.refl _ | intro _ | split | simp only [with_kept])

theorem raise_kept : ∀ (s : State) (source d0 d1 : ℕ) {z0 : State}, Kept z0 s → Kept z0 (raise s source d0 d1) := by
  intros; unfold raise
  repeat' (with_reducible first | assumption | exact Kept.refl _ | intro _ | split | simp only [with_kept])

end Sys2Proof.Machine
end

