-- ==== Sys2Proof/Laws/FlagsKept.lean ====
section
/-! SUPPORT. What the functions of Flags.lean keep (Laws/Kept.lean). -/
namespace Sys2Proof.Machine
set_option linter.unusedTactic false
set_option linter.unreachableTactic false
set_option linter.unusedSimpArgs false

theorem tally_kept : ∀ (s : State) (sel n : ℕ) {z0 : State}, Kept z0 s → Kept z0 (tally s sel n) := by
  intros; unfold tally
  repeat' (with_reducible first | assumption | exact Kept.refl _ | intro _ | split | simp only [with_kept])

theorem accReport_kept : ∀ (s : State) (code bar : ℕ) (write : Bool) (addr : ℕ) {z0 : State}, Kept z0 s → Kept z0 (accReport s code bar write addr) := by
  intros; unfold accReport
  repeat' (with_reducible first | assumption | apply wrn_kept | apply wf_kept | apply raise_kept | exact Kept.refl _ | intro _ | split | refine snd_kept (by assumption) ?_ | refine fst_kept (by assumption) ?_ | refine trd_kept (by assumption) ?_ | simp only [with_kept])

theorem regWrite_kept : ∀ (s : State) (a : ℕ) (v : W64) {z0 : State}, Kept z0 s → Kept z0 (regWrite s a v) := by
  intros; unfold regWrite
  repeat' (with_reducible first | assumption | apply accReport_kept | apply wr_kept | exact Kept.refl _ | intro _ | split | refine snd_kept (by assumption) ?_ | refine fst_kept (by assumption) ?_ | refine trd_kept (by assumption) ?_ | simp only [with_kept])

end Sys2Proof.Machine
end

