-- ==== Sys2Proof/Laws/EventsKept.lean ====
section
/-! SUPPORT. What the functions of Events.lean keep (Laws/Kept.lean). -/
namespace Sys2Proof.Machine
set_option linter.unusedTactic false
set_option linter.unreachableTactic false
set_option linter.unusedSimpArgs false

theorem pbaSet_kept : ∀ (s : State) (v : ℕ) (b : Bool) {z0 : State}, Kept z0 s → Kept z0 (pbaSet s v b) := by
  intros; unfold pbaSet
  repeat' (with_reducible first | assumption | apply wf_kept | exact Kept.refl _ | intro _ | split | simp only [with_kept])

theorem raiseVector_kept : ∀ (s : State) (v : ℕ) {z0 : State}, Kept z0 s → Kept z0 (raiseVector s v) := by
  intros; unfold raiseVector
  repeat' (with_reducible first | assumption | apply pbaSet_kept | apply emit_kept | exact Kept.refl _ | intro _ | split | simp only [with_kept])

theorem eventVector_kept : ∀ (s : State) (v : ℕ) {z0 : State}, Kept z0 s → Kept z0 (eventVector s v) := by
  intros; unfold eventVector
  repeat' (with_reducible first | assumption | apply pbaSet_kept | apply wrn_kept | apply emit_kept | exact Kept.refl _ | intro _ | split | refine snd_kept (by assumption) ?_ | refine fst_kept (by assumption) ?_ | refine trd_kept (by assumption) ?_ | simp only [with_kept])

theorem ringUnfull_kept : ∀ (s : State) {z0 : State}, Kept z0 s → Kept z0 (ringUnfull s) := by
  intros; unfold ringUnfull
  repeat' (with_reducible first | assumption | apply raise_kept | exact Kept.refl _ | intro _ | split | simp only [with_kept])

theorem stageRecord_kept : ∀ (s : State) (r : Rec) {z0 : State}, Kept z0 s → Kept z0 (stageRecord s r) := by
  intros; unfold stageRecord
  repeat' (with_reducible first | assumption | apply wrn_kept | apply tally_kept | apply cntWrap_kept | apply peak_kept | apply cnt_kept | exact Kept.refl _ | intro _ | split | simp only [with_kept])

theorem closeSource_kept : ∀ (n : ℕ) (os : List Occ) (s : State) (cs : ℕ × ℕ) {z0 : State}, Kept z0 s → Kept z0 (closeSource n os s cs) := by
  intros; unfold closeSource
  repeat' (with_reducible first | assumption | apply tally_kept | apply cnt_kept | apply stageRecord_kept | exact Kept.refl _ | intro _ | split | refine snd_kept (by assumption) ?_ | refine fst_kept (by assumption) ?_ | refine trd_kept (by assumption) ?_ | simp only [with_kept])

theorem lossOccurrence_kept : ∀ (s : State) (n : ℕ) {z0 : State}, Kept z0 s → Kept z0 (lossOccurrence s n).1 := by
  intros; unfold lossOccurrence
  repeat' (with_reducible first | assumption | exact Kept.refl _ | intro _ | split | simp only [with_kept])

theorem stageLook_kept : ∀ (s : State) {z0 : State}, Kept z0 s → Kept z0 (stageLook s) := by
  intros; unfold stageLook
  repeat' (with_reducible first | assumption | apply raise_kept | exact Kept.refl _ | intro _ | split | simp only [with_kept])

theorem softDue_kept : ∀ (s : State) (n : ℕ) {z0 : State}, Kept z0 s → Kept z0 (softDue s n).1 := by
  intros; unfold softDue
  repeat' (with_reducible first | assumption | exact Kept.refl _ | intro _ | split | simp only [with_kept])

theorem takeOccs_kept : ∀ (s : State) (n : ℕ) {z0 : State}, Kept z0 s → Kept z0 (takeOccs s n).1 := by
  intros; unfold takeOccs
  repeat' (with_reducible first | assumption | apply lossOccurrence_kept | apply softDue_kept | exact Kept.refl _ | intro _ | split | refine snd_kept (by assumption) ?_ | refine fst_kept (by assumption) ?_ | refine trd_kept (by assumption) ?_ | simp only [with_kept])

theorem closeRecords_kept : ∀ (s : State) (n : ℕ) (os : List Occ) {z0 : State}, Kept z0 s → Kept z0 (closeRecords s n os) := by
  intros; unfold closeRecords
  repeat' (with_reducible first | assumption | apply closeSource_kept | apply cnt_kept | apply stageLook_kept | refine foldl_kept _ ?_ ?_ | exact Kept.refl _ | intro _ | split | simp only [with_kept])

theorem eventCfg_kept : ∀ (s : State) (v : W64) {z0 : State}, Kept z0 s → Kept z0 (eventCfg s v) := by
  intros; unfold eventCfg
  repeat' (with_reducible first | assumption | apply regWrite_kept | apply wrn_kept | apply ringUnfull_kept | exact Kept.refl _ | intro _ | split | simp only [with_kept])

theorem eventHead_kept : ∀ (s : State) (v : W64) {z0 : State}, Kept z0 s → Kept z0 (eventHead s v) := by
  intros; unfold eventHead
  repeat' (with_reducible first | assumption | apply regWrite_kept | apply ringUnfull_kept | exact Kept.refl _ | intro _ | split | simp only [with_kept])

theorem eventRoute_kept : ∀ (s : State) (src : ℕ) (v : W64) {z0 : State}, Kept z0 s → Kept z0 (eventRoute s src v) := by
  intros; unfold eventRoute
  repeat' (with_reducible first | assumption | apply regWrite_kept | exact Kept.refl _ | intro _ | split | simp only [with_kept])

theorem eventSoft_kept : ∀ (s : State) (v : ℕ) {z0 : State}, Kept z0 s → Kept z0 (eventSoft s v) := by
  intros; unfold eventSoft
  repeat' (with_reducible first | assumption | exact Kept.refl _ | intro _ | split | simp only [with_kept])

theorem writeRecord_kept : ∀ (s : State) {z0 : State}, Kept z0 s → Kept z0 (writeRecord s) := by
  intros; unfold writeRecord
  repeat' (with_reducible first | assumption | apply emit_kept | apply wrn_kept | apply eventVector_kept | apply stageLook_kept | exact Kept.refl _ | intro _ | split | refine snd_kept (by assumption) ?_ | refine fst_kept (by assumption) ?_ | refine trd_kept (by assumption) ?_ | simp only [with_kept])

theorem execEventRecordWrite_kept : ∀ (s : State) {z0 : State}, Kept z0 s → ∀ (t0 : State), execEventRecordWrite s = Host.Outcome.next t0 → Kept z0 t0 := by
  intros; rename_i e; unfold execEventRecordWrite at e; repeat' split at e
  all_goals obtain rfl := Host.Outcome.next.inj e
  all_goals repeat' (with_reducible first | assumption | apply writeRecord_kept | exact Kept.refl _ | intro _ | split | simp only [with_kept])

theorem execEventRingHeadWrite_kept : ∀ (value : BitVec 32) (s : State) {z0 : State}, Kept z0 s → ∀ (t0 : State), execEventRingHeadWrite value s = Host.Outcome.next t0 → Kept z0 t0 := by
  intros; rename_i e; unfold execEventRingHeadWrite at e; repeat' split at e
  all_goals obtain rfl := Host.Outcome.next.inj e
  all_goals repeat' (with_reducible first | assumption | apply eventHead_kept | exact Kept.refl _ | intro _ | split | simp only [with_kept])

theorem execEventCfgWrite_kept : ∀ (value : BitVec 32) (s : State) {z0 : State}, Kept z0 s → ∀ (t0 : State), execEventCfgWrite value s = Host.Outcome.next t0 → Kept z0 t0 := by
  intros; rename_i e; unfold execEventCfgWrite at e; repeat' split at e
  all_goals obtain rfl := Host.Outcome.next.inj e
  all_goals repeat' (with_reducible first | assumption | apply eventCfg_kept | exact Kept.refl _ | intro _ | split | simp only [with_kept])

theorem execEventRouteWrite_kept : ∀ (source : Fin 4096) (value : BitVec 32) (s : State) {z0 : State}, Kept z0 s → ∀ (t0 : State), execEventRouteWrite source value s = Host.Outcome.next t0 → Kept z0 t0 := by
  intros; rename_i e; unfold execEventRouteWrite at e; repeat' split at e
  all_goals obtain rfl := Host.Outcome.next.inj e
  all_goals repeat' (with_reducible first | assumption | apply eventRoute_kept | exact Kept.refl _ | intro _ | split | simp only [with_kept])

theorem execEventSoftWrite_kept : ∀ (value : BitVec 64) (s : State) {z0 : State}, Kept z0 s → ∀ (t0 : State), execEventSoftWrite value s = Host.Outcome.next t0 → Kept z0 t0 := by
  intros; rename_i e; unfold execEventSoftWrite at e; repeat' split at e
  all_goals obtain rfl := Host.Outcome.next.inj e
  all_goals repeat' (with_reducible first | assumption | apply eventSoft_kept | exact Kept.refl _ | intro _ | split | simp only [with_kept])

theorem execVectorHoldoffExpiry_kept : ∀ (vector : Fin 256) (s : State) {z0 : State}, Kept z0 s → ∀ (t0 : State), execVectorHoldoffExpiry vector s = Host.Outcome.next t0 → Kept z0 t0 := by
  intros; rename_i e; unfold execVectorHoldoffExpiry at e; repeat' split at e
  all_goals obtain rfl := Host.Outcome.next.inj e
  all_goals repeat' (with_reducible first | assumption | apply eventVector_kept | exact Kept.refl _ | intro _ | split | simp only [with_kept])

end Sys2Proof.Machine
end

