-- ==== Sys2Proof/Laws/DeltaKept.lean ====
section
/-! SUPPORT. What the functions of Delta.lean keep (Laws/Kept.lean). -/
namespace Sys2Proof.Machine
set_option linter.unusedTactic false
set_option linter.unreachableTactic false
set_option linter.unusedSimpArgs false

theorem storeStall_kept : ∀ (s : State) {z0 : State}, Kept z0 s → Kept z0 (storeStall s) := by
  intros; unfold storeStall
  repeat' (with_reducible first | assumption | apply raise_kept | exact Kept.refl _ | intro _ | split | simp only [with_kept])

theorem mirror_kept : ∀ (s : State) (space addr : ℕ) (words : List (ℕ × W64)) {z0 : State}, Kept z0 s → Kept z0 (mirror s space addr words) := by
  intros; unfold mirror
  repeat' (with_reducible first | assumption | apply peak_kept | exact Kept.refl _ | intro _ | split | refine snd_kept (by assumption) ?_ | refine fst_kept (by assumption) ?_ | refine trd_kept (by assumption) ?_ | simp only [with_kept])

end Sys2Proof.Machine
end

