-- ==== Sys2Proof/Laws/TablesKept.lean ====
section
/-! SUPPORT. What the functions of Tables.lean keep (Laws/Kept.lean). -/
namespace Sys2Proof.Machine
set_option linter.unusedTactic false
set_option linter.unreachableTactic false
set_option linter.unusedSimpArgs false

theorem slotPut_kept : ∀ (s : State) (t i : ℕ) (x : Slot) {z0 : State}, Kept z0 s → Kept z0 (slotPut s t i x) := by
  intros; unfold slotPut
  repeat' (with_reducible first | assumption | exact Kept.refl _ | intro _ | split | simp only [with_kept])

end Sys2Proof.Machine
end

