-- ==== Sys2Proof/Laws/GristKept.lean ====
section
/-! SUPPORT. What the functions of Grist.lean keep (Laws/Kept.lean). -/
namespace Sys2Proof.Machine
set_option linter.unusedTactic false
set_option linter.unreachableTactic false
set_option linter.unusedSimpArgs false

theorem clselWrite_kept : ∀ (s : State) (i v : ℕ) {z0 : State}, Kept z0 s → Kept z0 (clselWrite s i v) := by
  intros; unfold clselWrite
  repeat' (with_reducible first | assumption | apply accReport_kept | apply wrn_kept | exact Kept.refl _ | intro _ | split | simp only [with_kept])

theorem execGristClselWrite_kept : ∀ (index : Fin 1024) (value : BitVec 32) (s : State) {z0 : State}, Kept z0 s → ∀ (t0 : State), execGristClselWrite index value s = Host.Outcome.next t0 → Kept z0 t0 := by
  intros; rename_i e; unfold execGristClselWrite at e; repeat' split at e
  all_goals obtain rfl := Host.Outcome.next.inj e
  all_goals repeat' (with_reducible first | assumption | apply clselWrite_kept | exact Kept.refl _ | intro _ | split | simp only [with_kept])

end Sys2Proof.Machine
end

