-- ==== Sys2Proof/Laws/CoreCalKept.lean ====
section
/-! SUPPORT. What the functions of CoreCal.lean keep (Laws/Kept.lean). -/
namespace Sys2Proof.Machine
set_option linter.unusedTactic false
set_option linter.unreachableTactic false
set_option linter.unusedSimpArgs false

theorem regionPut_kept : ∀ (s : State) (n : ℕ) (r : Region) {z0 : State}, Kept z0 s → Kept z0 (regionPut s n r) := by
  intros; unfold regionPut
  repeat' (with_reducible first | assumption | exact Kept.refl _ | intro _ | split | simp only [with_kept])

theorem slackLook_kept : ∀ (s : State) (d : ℕ) {z0 : State}, Kept z0 s → Kept z0 (slackLook s d) := by
  intros; unfold slackLook
  repeat' (with_reducible first | assumption | apply wrn_kept | apply raise_kept | exact Kept.refl _ | intro _ | split | refine snd_kept (by assumption) ?_ | refine fst_kept (by assumption) ?_ | refine trd_kept (by assumption) ?_ | simp only [with_kept])

theorem slackReport_kept : ∀ (s : State) (d unit margin threshold : ℕ) {z0 : State}, Kept z0 s → Kept z0 (slackReport s d unit margin threshold) := by
  intros; unfold slackReport
  repeat' (with_reducible first | assumption | apply slackLook_kept | exact Kept.refl _ | intro _ | split | simp only [with_kept])

theorem slackDrop_kept : ∀ (s : State) (d unit : ℕ) {z0 : State}, Kept z0 s → Kept z0 (slackDrop s d unit) := by
  intros; unfold slackDrop
  repeat' (with_reducible first | assumption | apply slackLook_kept | exact Kept.refl _ | intro _ | split | simp only [with_kept])

theorem recalStart_kept : ∀ (s : State) (n : ℕ) (otherPlaneOut : Bool) {z0 : State}, Kept z0 s → Kept z0 (recalStart s n otherPlaneOut) := by
  intros; unfold recalStart
  repeat' (with_reducible first | assumption | apply wf_kept | apply raise_kept | exact Kept.refl _ | intro _ | split | simp only [with_kept])

theorem recalCommand_kept : ∀ (s : State) (v : ℕ) {z0 : State}, Kept z0 s → Kept z0 (recalCommand s v) := by
  intros; unfold recalCommand
  repeat' (with_reducible first | assumption | apply recalStart_kept | exact Kept.refl _ | intro _ | split | simp only [with_kept])

theorem regionPeriodEnd_kept : ∀ (readings : List (Nat × Nat × Nat)) (s : State) (n : Nat) {z : State}, Kept z s → Kept z (regionPeriodEnd readings s n) := by
  intro readings s n z h; unfold regionPeriodEnd
  extract_lets r st s1 pp guard limit s2 r' m code s3 code' low s4 s5 s6 s7 s8
  have h1 : Kept z s1 := by
    unfold s1; split
    · exact wf_kept _ _ _ _ _ (wrn_kept _ _ _ h)
    · exact wrn_kept _ _ _ h
  have h2 : Kept z s2 := by
    unfold s2; split
    · exact raise_kept _ _ _ _ h1
    · exact h1
  have h3 : Kept z s3 := wf_kept _ _ _ _ _ (wf_kept _ _ _ _ _ h2)
  have h4 : Kept z s4 := by
    unfold s4
    repeat' (with_reducible first | exact h3 | apply wf_kept | apply raise_kept | split)
  have h5 : Kept z s5 := regionPut_kept _ _ _ h4
  have h6 : Kept z s6 := regionPut_kept _ _ _ (wf_kept _ _ _ _ _ h2)
  have h7 : Kept z s7 := by
    unfold s7
    repeat' (with_reducible first | exact h2 | exact h5 | exact h6 | apply raise_kept | apply regionPut_kept | apply slackReport_kept | split)
  have h8 : Kept z s8 := by
    unfold s8; split
    · exact wf_kept _ _ _ _ _ h7
    · exact h7
  split
  · exact regionPut_kept _ _ _ h
  split
  · exact recalStart_kept _ _ _ h8
  · exact h8
theorem updateHeadroom_kept : ∀ (s : State) {z0 : State}, Kept z0 s → Kept z0 (updateHeadroom s) := by
  intros; unfold updateHeadroom
  repeat' (with_reducible first | assumption | apply wf_kept | apply raise_kept | exact Kept.refl _ | intro _ | split | refine snd_kept (by assumption) ?_ | refine fst_kept (by assumption) ?_ | refine trd_kept (by assumption) ?_ | simp only [with_kept])

theorem regionSleep_kept : ∀ (s : State) (n : ℕ) {z0 : State}, Kept z0 s → Kept z0 (regionSleep s n) := by
  intros; unfold regionSleep
  repeat' (with_reducible first | assumption | apply slackDrop_kept | apply wf_kept | exact Kept.refl _ | intro _ | split | simp only [with_kept])

theorem regionWake_kept : ∀ (s : State) (n : ℕ) {z0 : State}, Kept z0 s → Kept z0 (regionWake s n) := by
  intros; unfold regionWake
  repeat' (with_reducible first | assumption | apply wf_kept | apply regionPut_kept | exact Kept.refl _ | intro _ | split | simp only [with_kept])

theorem execCalibrationPeriodEnd_kept : ∀ (readings : List (ℕ × ℕ × ℕ)) (s : State) {z0 : State}, Kept z0 s → ∀ (t0 : State), execCalibrationPeriodEnd readings s = Host.Outcome.next t0 → Kept z0 t0 := by
  intros; rename_i e; unfold execCalibrationPeriodEnd at e; repeat' split at e
  all_goals obtain rfl := Host.Outcome.next.inj e
  all_goals repeat' (with_reducible first | assumption | apply regionPeriodEnd_kept | apply updateHeadroom_kept | apply cntWrap_kept | apply wrn_kept | refine foldl_kept _ ?_ ?_ | exact Kept.refl _ | intro _ | split | simp only [with_kept])

theorem execProbeOffsetStep_kept : ∀ (counts : List (ℕ × ℕ × ℕ)) (s : State) {z0 : State}, Kept z0 s → ∀ (t0 : State), execProbeOffsetStep counts s = Host.Outcome.next t0 → Kept z0 t0 := by
  intros; rename_i e; unfold execProbeOffsetStep at e; repeat' split at e
  all_goals obtain rfl := Host.Outcome.next.inj e
  all_goals repeat' (with_reducible first | assumption | apply regionPut_kept | refine foldl_kept _ ?_ ?_ | exact Kept.refl _ | intro _ | split | refine snd_kept (by assumption) ?_ | refine fst_kept (by assumption) ?_ | refine trd_kept (by assumption) ?_ | simp only [with_kept])

theorem execDelayCodeApply_kept : ∀ (region : Fin 101) (s : State) {z0 : State}, Kept z0 s → ∀ (t0 : State), execDelayCodeApply region s = Host.Outcome.next t0 → Kept z0 t0 := by
  intros; rename_i e; unfold execDelayCodeApply at e; repeat' split at e
  all_goals obtain rfl := Host.Outcome.next.inj e
  all_goals repeat' (with_reducible first | assumption | apply wf_kept | apply regionPut_kept | exact Kept.refl _ | intro _ | split | refine snd_kept (by assumption) ?_ | refine fst_kept (by assumption) ?_ | refine trd_kept (by assumption) ?_ | simp only [with_kept])

theorem execHandshakeReplay_kept : ∀ (region : Fin 101) (s : State) {z0 : State}, Kept z0 s → ∀ (t0 : State), execHandshakeReplay region s = Host.Outcome.next t0 → Kept z0 t0 := by
  intros; rename_i e; unfold execHandshakeReplay at e; repeat' split at e
  all_goals obtain rfl := Host.Outcome.next.inj e
  all_goals repeat' (with_reducible first | assumption | apply cnt_kept | apply regionPut_kept | exact Kept.refl _ | intro _ | split | simp only [with_kept])

theorem execForcedRecalStart_kept : ∀ (value : BitVec 32) (s : State) {z0 : State}, Kept z0 s → ∀ (t0 : State), execForcedRecalStart value s = Host.Outcome.next t0 → Kept z0 t0 := by
  intros; rename_i e; unfold execForcedRecalStart at e; repeat' split at e
  all_goals obtain rfl := Host.Outcome.next.inj e
  all_goals repeat' (with_reducible first | assumption | apply recalCommand_kept | exact Kept.refl _ | intro _ | split | simp only [with_kept])

theorem sweptCode_kept : ∀ (s : State) (margins : List ℕ) {z0 : State}, Kept z0 s → Kept z0 (sweptCode s margins).2 := by
  intros; unfold sweptCode
  repeat' (with_reducible first | assumption | apply fresh_kept | exact Kept.refl _ | intro _ | split | refine snd_kept (by assumption) ?_ | refine fst_kept (by assumption) ?_ | refine trd_kept (by assumption) ?_ | simp only [with_kept])

theorem execForcedRecalComplete_kept : ∀ (margins : List ℕ) (s : State) {z0 : State}, Kept z0 s → ∀ (t0 : State), execForcedRecalComplete margins s = Host.Outcome.next t0 → Kept z0 t0 := by
  intros; rename_i e; unfold execForcedRecalComplete at e; repeat' split at e
  all_goals obtain rfl := Host.Outcome.next.inj e
  all_goals repeat' (with_reducible first | assumption | apply sweptCode_kept | apply wf_kept | apply regionPut_kept | apply raise_kept | exact Kept.refl _ | intro _ | split | refine snd_kept (by assumption) ?_ | refine fst_kept (by assumption) ?_ | refine trd_kept (by assumption) ?_ | simp only [with_kept])

end Sys2Proof.Machine
end

