-- ==== Sys2Proof/Laws/TimeUnitKept.lean ====
section
/-! SUPPORT. What the functions of TimeUnit.lean keep (Laws/Kept.lean). -/
namespace Sys2Proof.Machine
set_option linter.unusedTactic false
set_option linter.unreachableTactic false
set_option linter.unusedSimpArgs false

theorem followTick_kept : ∀ (s : State) {z0 : State}, Kept z0 s → Kept z0 (followTick s) := by
  intros; unfold followTick
  repeat' (with_reducible first | assumption | exact Kept.refl _ | intro _ | split | simp only [with_kept])

theorem timeCycle_kept : ∀ (s : State) {z0 : State}, Kept z0 s → Kept z0 (timeCycle s) := by
  intros; unfold timeCycle
  repeat' (with_reducible first | assumption | apply followTick_kept | exact Kept.refl _ | intro _ | split | simp only [with_kept])

theorem toutPut_kept : ∀ (s : State) (n : ℕ) (t : Tout) {z0 : State}, Kept z0 s → Kept z0 (toutPut s n t) := by
  intros; unfold toutPut
  repeat' (with_reducible first | assumption | apply wf_kept | exact Kept.refl _ | intro _ | split | simp only [with_kept])

theorem toutMiss_kept : ∀ (s : State) (n k : ℕ) {z0 : State}, Kept z0 s → Kept z0 (toutMiss s n k) := by
  intros; unfold toutMiss
  repeat' (with_reducible first | assumption | apply wf_kept | apply raise_kept | exact Kept.refl _ | intro _ | split | simp only [with_kept])

theorem toutArmNow_kept : ∀ (s : State) (n : ℕ) {z0 : State}, Kept z0 s → Kept z0 (toutArmNow s n) := by
  intros; unfold toutArmNow
  repeat' (with_reducible first | assumption | apply wf_kept | apply toutMiss_kept | apply toutPut_kept | exact Kept.refl _ | intro _ | split | simp only [with_kept])

theorem toutArm_kept : ∀ (s : State) (n : ℕ) {z0 : State}, Kept z0 s → Kept z0 (toutArm s n) := by
  intros; unfold toutArm
  repeat' (with_reducible first | assumption | apply wf_kept | apply toutArmNow_kept | exact Kept.refl _ | intro _ | split | simp only [with_kept])

theorem toutDisarm_kept : ∀ (s : State) (n : ℕ) {z0 : State}, Kept z0 s → Kept z0 (toutDisarm s n) := by
  intros; unfold toutDisarm
  repeat' (with_reducible first | assumption | apply toutPut_kept | apply wf_kept | exact Kept.refl _ | intro _ | split | simp only [with_kept])

theorem toutEdge_kept : ∀ (s : State) (n : ℕ) {z0 : State}, Kept z0 s → Kept z0 (toutEdge s n) := by
  intros; unfold toutEdge
  repeat' (with_reducible first | assumption | apply emit_kept | apply toutPut_kept | apply toutArmNow_kept | exact Kept.refl _ | intro _ | split | refine snd_kept (by assumption) ?_ | refine fst_kept (by assumption) ?_ | refine trd_kept (by assumption) ?_ | simp only [with_kept])

theorem toutStep_kept : ∀ (old : ℕ) (s : State) (n : ℕ) {z0 : State}, Kept z0 s → Kept z0 (toutStep old s n) := by
  intros; unfold toutStep
  repeat' (with_reducible first | assumption | apply toutMiss_kept | apply toutPut_kept | exact Kept.refl _ | intro _ | split | refine snd_kept (by assumption) ?_ | refine fst_kept (by assumption) ?_ | refine trd_kept (by assumption) ?_ | simp only [with_kept])

theorem stepTime_kept : ∀ (s : State) (acc : ℕ) (adjust : Bool) {z0 : State}, Kept z0 s → Kept z0 (stepTime s acc adjust) := by
  intros; unfold stepTime
  repeat' (with_reducible first | assumption | apply followTick_kept | apply raise_kept | apply toutStep_kept | refine foldl_kept _ ?_ ?_ | exact Kept.refl _ | intro _ | split | simp only [with_kept])

theorem timeCommand_kept : ∀ (s : State) (v : ℕ) {z0 : State}, Kept z0 s → Kept z0 (timeCommand s v) := by
  intros; unfold timeCommand
  repeat' (with_reducible first | assumption | apply accReport_kept | apply stepTime_kept | exact Kept.refl _ | intro _ | split | simp only [with_kept])

theorem writeRate_kept : ∀ (s : State) (v : ℕ) {z0 : State}, Kept z0 s → Kept z0 (writeRate s v) := by
  intros; unfold writeRate
  repeat' (with_reducible first | assumption | apply accReport_kept | apply wrn_kept | exact Kept.refl _ | intro _ | split | simp only [with_kept])

theorem snapTime_kept : ∀ (s : State) {z0 : State}, Kept z0 s → Kept z0 (snapTime s) := by
  intros; unfold snapTime
  repeat' (with_reducible first | assumption | apply wrn_kept | exact Kept.refl _ | intro _ | split | simp only [with_kept])

theorem syncWatch_kept : ∀ (s : State) (p msgType domain gm : ℕ) {z0 : State}, Kept z0 s → Kept z0 (syncWatch s p msgType domain gm) := by
  intros; unfold syncWatch
  repeat' (with_reducible first | assumption | apply raise_kept | apply wf_kept | apply wrn_kept | exact Kept.refl _ | intro _ | split | simp only [with_kept])

theorem ldelayMeasure_kept : ∀ (s : State) (p m : ℕ) {z0 : State}, Kept z0 s → Kept z0 (ldelayMeasure s p m) := by
  intros; unfold ldelayMeasure
  repeat' (with_reducible first | assumption | apply slackReport_kept | apply wf_kept | apply raise_kept | exact Kept.refl _ | intro _ | split | simp only [with_kept])

theorem capture_kept : ∀ (s : State) (n : ℕ) (falling : Bool) {z0 : State}, Kept z0 s → Kept z0 (capture s n falling) := by
  intros; unfold capture
  repeat' (with_reducible first | assumption | apply raise_kept | apply cnt_kept | exact Kept.refl _ | intro _ | split | simp only [with_kept])

theorem capturePop_kept : ∀ (s : State) (n : ℕ) {z0 : State}, Kept z0 s → Kept z0 (capturePop s n) := by
  intros; unfold capturePop
  repeat' (with_reducible first | assumption | exact Kept.refl _ | intro _ | split | simp only [with_kept])

theorem recordStamp_kept : ∀ (s : State) (port cookie time16 : ℕ) {z0 : State}, Kept z0 s → Kept z0 (recordStamp s port cookie time16) := by
  intros; unfold recordStamp
  repeat' (with_reducible first | assumption | apply raise_kept | apply cnt_kept | exact Kept.refl _ | intro _ | split | simp only [with_kept])

theorem recordResidence_kept : ∀ (s : State) (r : Residence) {z0 : State}, Kept z0 s → Kept z0 (recordResidence s r) := by
  intros; unfold recordResidence
  repeat' (with_reducible first | assumption | apply cnt_kept | apply raise_kept | exact Kept.refl _ | intro _ | split | simp only [with_kept])

theorem takeResidence_kept : ∀ (s : State) (port : ℕ) (identity : List Byte) (domain seqId : ℕ) {z0 : State}, Kept z0 s → Kept z0 (takeResidence s port identity domain seqId).2 := by
  intros; unfold takeResidence
  repeat' (with_reducible first | assumption | apply cnt_kept | exact Kept.refl _ | intro _ | split | refine snd_kept (by assumption) ?_ | refine fst_kept (by assumption) ?_ | refine trd_kept (by assumption) ?_ | simp only [with_kept])

theorem execTimeRateWrite_kept : ∀ (value : BitVec 32) (s : State) {z0 : State}, Kept z0 s → ∀ (t0 : State), execTimeRateWrite value s = Host.Outcome.next t0 → Kept z0 t0 := by
  intros; rename_i e; unfold execTimeRateWrite at e; repeat' split at e
  all_goals obtain rfl := Host.Outcome.next.inj e
  all_goals repeat' (with_reducible first | assumption | apply writeRate_kept | exact Kept.refl _ | intro _ | split | simp only [with_kept])

theorem execTimeSet_kept : ∀ (value : BitVec 32) (s : State) {z0 : State}, Kept z0 s → ∀ (t0 : State), execTimeSet value s = Host.Outcome.next t0 → Kept z0 t0 := by
  intros; rename_i e; unfold execTimeSet at e; repeat' split at e
  all_goals obtain rfl := Host.Outcome.next.inj e
  all_goals repeat' (with_reducible first | assumption | apply timeCommand_kept | exact Kept.refl _ | intro _ | split | simp only [with_kept])

theorem execTimeAdjust_kept : ∀ (value : BitVec 32) (s : State) {z0 : State}, Kept z0 s → ∀ (t0 : State), execTimeAdjust value s = Host.Outcome.next t0 → Kept z0 t0 := by
  intros; rename_i e; unfold execTimeAdjust at e; repeat' split at e
  all_goals obtain rfl := Host.Outcome.next.inj e
  all_goals repeat' (with_reducible first | assumption | apply timeCommand_kept | exact Kept.refl _ | intro _ | split | simp only [with_kept])

theorem execTrefLost_kept : ∀ (s : State) {z0 : State}, Kept z0 s → ∀ (t0 : State), execTrefLost s = Host.Outcome.next t0 → Kept z0 t0 := by
  intros; rename_i e; unfold execTrefLost at e; repeat' split at e
  all_goals obtain rfl := Host.Outcome.next.inj e
  all_goals repeat' (with_reducible first | assumption | apply raise_kept | apply wf_kept | exact Kept.refl _ | intro _ | split | simp only [with_kept])

theorem execTrefRestored_kept : ∀ (lockUs : ℕ) (s : State) {z0 : State}, Kept z0 s → ∀ (t0 : State), execTrefRestored lockUs s = Host.Outcome.next t0 → Kept z0 t0 := by
  intros; rename_i e; unfold execTrefRestored at e; repeat' split at e
  all_goals obtain rfl := Host.Outcome.next.inj e
  all_goals repeat' (with_reducible first | assumption | apply raise_kept | apply wf_kept | exact Kept.refl _ | intro _ | split | simp only [with_kept])

theorem execSyncTimeout_kept : ∀ (port : Fin 64) (s : State) {z0 : State}, Kept z0 s → ∀ (t0 : State), execSyncTimeout port s = Host.Outcome.next t0 → Kept z0 t0 := by
  intros; rename_i e; unfold execSyncTimeout at e; repeat' split at e
  all_goals obtain rfl := Host.Outcome.next.inj e
  all_goals repeat' (with_reducible first | assumption | apply raise_kept | apply wf_kept | exact Kept.refl _ | intro _ | split | simp only [with_kept])

theorem execServoTimeout_kept : ∀ (s : State) {z0 : State}, Kept z0 s → ∀ (t0 : State), execServoTimeout s = Host.Outcome.next t0 → Kept z0 t0 := by
  intros; rename_i e; unfold execServoTimeout at e; repeat' split at e
  all_goals obtain rfl := Host.Outcome.next.inj e
  all_goals repeat' (with_reducible first | assumption | apply raise_kept | exact Kept.refl _ | intro _ | split | simp only [with_kept])

theorem execResidenceTimeout_kept : ∀ (s : State) {z0 : State}, Kept z0 s → ∀ (t0 : State), execResidenceTimeout s = Host.Outcome.next t0 → Kept z0 t0 := by
  intros; rename_i e; unfold execResidenceTimeout at e; repeat' split at e
  all_goals obtain rfl := Host.Outcome.next.inj e
  all_goals repeat' (with_reducible first | assumption | exact Kept.refl _ | intro _ | split | simp only [with_kept])

theorem execTxtsPop_kept : ∀ (s : State) {z0 : State}, Kept z0 s → ∀ (t0 : State), execTxtsPop s = Host.Outcome.next t0 → Kept z0 t0 := by
  intros; rename_i e; unfold execTxtsPop at e; repeat' split at e
  all_goals obtain rfl := Host.Outcome.next.inj e
  all_goals repeat' (with_reducible first | assumption | exact Kept.refl _ | intro _ | split | simp only [with_kept])

theorem execLdelayMeasurement_kept : ∀ (port : Fin 64) (meas : BitVec 48) (s : State) {z0 : State}, Kept z0 s → ∀ (t0 : State), execLdelayMeasurement port meas s = Host.Outcome.next t0 → Kept z0 t0 := by
  intros; rename_i e; unfold execLdelayMeasurement at e; repeat' split at e
  all_goals obtain rfl := Host.Outcome.next.inj e
  all_goals repeat' (with_reducible first | assumption | apply ldelayMeasure_kept | exact Kept.refl _ | intro _ | split | simp only [with_kept])

theorem execToutArm_kept : ∀ (n : Fin 16) (s : State) {z0 : State}, Kept z0 s → ∀ (t0 : State), execToutArm n s = Host.Outcome.next t0 → Kept z0 t0 := by
  intros; rename_i e; unfold execToutArm at e; repeat' split at e
  all_goals obtain rfl := Host.Outcome.next.inj e
  all_goals repeat' (with_reducible first | assumption | apply toutArm_kept | exact Kept.refl _ | intro _ | split | simp only [with_kept])

theorem execToutDisarm_kept : ∀ (n : Fin 16) (s : State) {z0 : State}, Kept z0 s → ∀ (t0 : State), execToutDisarm n s = Host.Outcome.next t0 → Kept z0 t0 := by
  intros; rename_i e; unfold execToutDisarm at e; repeat' split at e
  all_goals obtain rfl := Host.Outcome.next.inj e
  all_goals repeat' (with_reducible first | assumption | apply toutDisarm_kept | exact Kept.refl _ | intro _ | split | simp only [with_kept])

theorem execToutEdge_kept : ∀ (n : Fin 16) (s : State) {z0 : State}, Kept z0 s → ∀ (t0 : State), execToutEdge n s = Host.Outcome.next t0 → Kept z0 t0 := by
  intros; rename_i e; unfold execToutEdge at e; repeat' split at e
  all_goals obtain rfl := Host.Outcome.next.inj e
  all_goals repeat' (with_reducible first | assumption | apply toutEdge_kept | exact Kept.refl _ | intro _ | split | simp only [with_kept])

theorem execTcapEdge_kept : ∀ (n : Fin 8) (falling : Bool) (s : State) {z0 : State}, Kept z0 s → ∀ (t0 : State), execTcapEdge n falling s = Host.Outcome.next t0 → Kept z0 t0 := by
  intros; rename_i e; unfold execTcapEdge at e; repeat' split at e
  all_goals obtain rfl := Host.Outcome.next.inj e
  all_goals repeat' (with_reducible first | assumption | apply capture_kept | exact Kept.refl _ | intro _ | split | simp only [with_kept])

theorem execTcapPop_kept : ∀ (n : Fin 8) (s : State) {z0 : State}, Kept z0 s → ∀ (t0 : State), execTcapPop n s = Host.Outcome.next t0 → Kept z0 t0 := by
  intros; rename_i e; unfold execTcapPop at e; repeat' split at e
  all_goals obtain rfl := Host.Outcome.next.inj e
  all_goals repeat' (with_reducible first | assumption | apply capturePop_kept | exact Kept.refl _ | intro _ | split | simp only [with_kept])

theorem execPpsEdge_kept : ∀ (s : State) {z0 : State}, Kept z0 s → ∀ (t0 : State), execPpsEdge s = Host.Outcome.next t0 → Kept z0 t0 := by
  intros; rename_i e; unfold execPpsEdge at e; repeat' split at e
  all_goals obtain rfl := Host.Outcome.next.inj e
  all_goals repeat' (with_reducible first | assumption | apply wrn_kept | apply wf_kept | exact Kept.refl _ | intro _ | split | simp only [with_kept])

theorem execPpsTimeout_kept : ∀ (s : State) {z0 : State}, Kept z0 s → ∀ (t0 : State), execPpsTimeout s = Host.Outcome.next t0 → Kept z0 t0 := by
  intros; rename_i e; unfold execPpsTimeout at e; repeat' split at e
  all_goals obtain rfl := Host.Outcome.next.inj e
  all_goals repeat' (with_reducible first | assumption | apply raise_kept | apply wf_kept | exact Kept.refl _ | intro _ | split | refine snd_kept (by assumption) ?_ | refine fst_kept (by assumption) ?_ | refine trd_kept (by assumption) ?_ | simp only [with_kept])

end Sys2Proof.Machine
end

