-- ==== Sys2Proof/Laws/PerfKept.lean ====
section
/-! SUPPORT. What the functions of Perf.lean keep (Laws/Kept.lean). -/
namespace Sys2Proof.Machine
set_option linter.unusedTactic false
set_option linter.unreachableTactic false
set_option linter.unusedSimpArgs false

theorem counterAdd_kept : ∀ (n fuel : ℕ) (s : State) (i inc : ℕ) {z : State}, Kept z s → Kept z (counterAdd n fuel s i inc)
  | _, 0, _, _, _, _, h => h
  | n, fuel + 1, s, i, inc, z, h => by
    unfold counterAdd
    dsimp only
    repeat' (with_reducible first | assumption | apply counterAdd_kept | apply wrn_kept | apply wf_kept | apply raise_kept | intro _ | split)
theorem closeCounters_kept : ∀ (cond : ℕ → Bool) (s : State) (n : ℕ) {z : State}, Kept z s → Kept z (closeCounters cond s n) := by
  intro cond s n z h; unfold closeCounters
  extract_lets frozen live chained s1 s2 s3 q3 s4 conds q4 s5 vals s6 s7 s8 q8
  have h1 : Kept z s1 := by
    unfold s1
    refine foldl_kept _ h fun u i hu => ?_
    repeat' (with_reducible first | exact hu | apply counterAdd_kept | intro _ | split | dsimp only)
  have h2 : Kept z s2 := foldl_kept _ h1 fun u e hu => wrn_kept _ _ _ hu
  have h3 : Kept z s3 := by
    unfold s3; split
    · refine regs_kept h2 fun hs => ?_
      rw [State.regsOk, Bool.and_eq_true, List.all_eq_true] at *
      refine ⟨rising_filterMap _ (fun x y hxy => ?_) hs.1, fun x hx => ?_⟩
      · grind
      · obtain ⟨y, hy, e⟩ := List.mem_filterMap.mp hx
        have := hs.2 y hy
        grind
    · exact h2
  have h4 : Kept z s4 := by
    unfold s4; split
    · exact h
    · exact with_kept.mpr h3
  have h5 : Kept z s5 := with_kept.mpr h4
  have h6 : Kept z s6 := filter_kept _ h5
  have h7 : Kept z s7 := foldl_kept _ h6 fun u e hu => wr_kept _ _ _ hu
  have h8 : Kept z s8 := wrn_kept _ _ _ (wrn_kept _ _ _ h7)
  split
  · exact with_kept.mpr h8
  · exact h5
theorem perfCmd_kept : ∀ (s : State) (v : ℕ) {z0 : State}, Kept z0 s → Kept z0 (perfCmd s v) := by
  intros; unfold perfCmd
  repeat' (with_reducible first | assumption | exact Kept.refl _ | intro _ | split | simp only [with_kept])

theorem counterValue_kept : ∀ (s : State) (i v : ℕ) {z0 : State}, Kept z0 s → Kept z0 (counterValue s i v) := by
  intros; unfold counterValue
  repeat' (with_reducible first | assumption | exact Kept.refl _ | intro _ | split | simp only [with_kept])

theorem counterCtl_kept : ∀ (s : State) (i : ℕ) (v : W64) {z0 : State}, Kept z0 s → Kept z0 (counterCtl s i v) := by
  intros; unfold counterCtl
  repeat' (with_reducible first | assumption | apply accReport_kept | apply regWrite_kept | exact Kept.refl _ | intro _ | split | simp only [with_kept])

theorem bwCount_kept : ∀ (s : State) (port len : ℕ) (tx : Bool) {z0 : State}, Kept z0 s → Kept z0 (bwCount s port len tx) := by
  intros; unfold bwCount
  repeat' (with_reducible first | assumption | exact Kept.refl _ | intro _ | split | simp only [with_kept])

theorem bwResult_kept : ∀ (quadAsleep : ℕ → Bool) (s : State) (p : ℕ) {z0 : State}, Kept z0 s → Kept z0 (bwResult quadAsleep s p) := by
  intros; unfold bwResult
  repeat' (with_reducible first | assumption | apply wrn_kept | exact Kept.refl _ | intro _ | split | simp only [with_kept])

theorem bwWindowEnd_kept : ∀ (quadAsleep : ℕ → Bool) (s : State) {z0 : State}, Kept z0 s → Kept z0 (bwWindowEnd quadAsleep s) := by
  intros; unfold bwWindowEnd
  repeat' (with_reducible first | assumption | apply bwResult_kept | refine foldl_kept _ ?_ ?_ | exact Kept.refl _ | intro _ | split | simp only [with_kept])

theorem bwWindowWrite_kept : ∀ (s : State) (v : W64) {z0 : State}, Kept z0 s → Kept z0 (bwWindowWrite s v) := by
  intros; unfold bwWindowWrite
  repeat' (with_reducible first | assumption | apply regWrite_kept | apply raise_kept | exact Kept.refl _ | intro _ | split | simp only [with_kept])

theorem psReload_kept : ∀ (s : State) {z0 : State}, Kept z0 s → Kept z0 (psReload s).2 := by
  intros; unfold psReload
  repeat' (with_reducible first | assumption | apply fresh_kept | exact Kept.refl _ | intro _ | split | simp only [with_kept])

theorem psPick_kept : ∀ (s : State) (kind key : ℕ) {z0 : State}, Kept z0 s → Kept z0 (psPick s kind key).2 := by
  intros; unfold psPick
  repeat' (with_reducible first | assumption | apply psReload_kept | apply cntWrap_kept | apply raise_kept | apply cnt_kept | exact Kept.refl _ | intro _ | split | refine snd_kept (by assumption) ?_ | refine fst_kept (by assumption) ?_ | refine trd_kept (by assumption) ?_ | simp only [with_kept])

theorem psRecord_kept : ∀ (s : State) (seq : Option ℕ) (r : Sample) {z0 : State}, Kept z0 s → Kept z0 (psRecord s seq r) := by
  intros; unfold psRecord
  repeat' (with_reducible first | assumption | exact Kept.refl _ | intro _ | split | refine snd_kept (by assumption) ?_ | refine fst_kept (by assumption) ?_ | refine trd_kept (by assumption) ?_ | simp only [with_kept])

theorem psSelect_kept : ∀ (s : State) (kind key : ℕ) (r : Sample) {z0 : State}, Kept z0 s → Kept z0 (psSelect s kind key r) := by
  intros; unfold psSelect
  repeat' (with_reducible first | assumption | apply psPick_kept | apply psRecord_kept | exact Kept.refl _ | intro _ | split | refine snd_kept (by assumption) ?_ | refine fst_kept (by assumption) ?_ | refine trd_kept (by assumption) ?_ | simp only [with_kept])

theorem psCfgWrite_kept : ∀ (s : State) (v : W64) {z0 : State}, Kept z0 s → Kept z0 (psCfgWrite s v) := by
  intros; unfold psCfgWrite
  repeat' (with_reducible first | assumption | apply regWrite_kept | apply psReload_kept | apply wrn_kept | exact Kept.refl _ | intro _ | split | refine snd_kept (by assumption) ?_ | refine fst_kept (by assumption) ?_ | refine trd_kept (by assumption) ?_ | simp only [with_kept])

theorem writeSample_kept : ∀ (s : State) {z0 : State}, Kept z0 s → Kept z0 (writeSample s) := by
  intros; unfold writeSample
  repeat' (with_reducible first | assumption | apply emit_kept | apply wrn_kept | exact Kept.refl _ | intro _ | split | refine snd_kept (by assumption) ?_ | refine fst_kept (by assumption) ?_ | refine trd_kept (by assumption) ?_ | simp only [with_kept])

theorem execPerfSnap_kept : ∀ (s : State) {z0 : State}, Kept z0 s → ∀ (t0 : State), execPerfSnap s = Host.Outcome.next t0 → Kept z0 t0 := by
  intros; rename_i e; unfold execPerfSnap at e; repeat' split at e
  all_goals obtain rfl := Host.Outcome.next.inj e
  all_goals repeat' (with_reducible first | assumption | apply perfCmd_kept | exact Kept.refl _ | intro _ | split | simp only [with_kept])

theorem execPerfClearAll_kept : ∀ (s : State) {z0 : State}, Kept z0 s → ∀ (t0 : State), execPerfClearAll s = Host.Outcome.next t0 → Kept z0 t0 := by
  intros; rename_i e; unfold execPerfClearAll at e; repeat' split at e
  all_goals obtain rfl := Host.Outcome.next.inj e
  all_goals repeat' (with_reducible first | assumption | apply perfCmd_kept | exact Kept.refl _ | intro _ | split | simp only [with_kept])

theorem execPerfCntValueWrite_kept : ∀ (index : Fin 1024) (value : BitVec 64) (s : State) {z0 : State}, Kept z0 s → ∀ (t0 : State), execPerfCntValueWrite index value s = Host.Outcome.next t0 → Kept z0 t0 := by
  intros; rename_i e; unfold execPerfCntValueWrite at e; repeat' split at e
  all_goals obtain rfl := Host.Outcome.next.inj e
  all_goals repeat' (with_reducible first | assumption | apply counterValue_kept | exact Kept.refl _ | intro _ | split | simp only [with_kept])

theorem execPerfCntCtlWrite_kept : ∀ (index : Fin 1024) (value : BitVec 32) (s : State) {z0 : State}, Kept z0 s → ∀ (t0 : State), execPerfCntCtlWrite index value s = Host.Outcome.next t0 → Kept z0 t0 := by
  intros; rename_i e; unfold execPerfCntCtlWrite at e; repeat' split at e
  all_goals obtain rfl := Host.Outcome.next.inj e
  all_goals repeat' (with_reducible first | assumption | apply counterCtl_kept | exact Kept.refl _ | intro _ | split | simp only [with_kept])

theorem execBwWindowEnd_kept : ∀ (s : State) {z0 : State}, Kept z0 s → ∀ (t0 : State), execBwWindowEnd s = Host.Outcome.next t0 → Kept z0 t0 := by
  intros; rename_i e; unfold execBwWindowEnd at e; repeat' split at e
  all_goals obtain rfl := Host.Outcome.next.inj e
  all_goals repeat' (with_reducible first | assumption | apply bwWindowEnd_kept | exact Kept.refl _ | intro _ | split | simp only [with_kept])

theorem execPerfBwWindowWrite_kept : ∀ (value : BitVec 32) (s : State) {z0 : State}, Kept z0 s → ∀ (t0 : State), execPerfBwWindowWrite value s = Host.Outcome.next t0 → Kept z0 t0 := by
  intros; rename_i e; unfold execPerfBwWindowWrite at e; repeat' split at e
  all_goals obtain rfl := Host.Outcome.next.inj e
  all_goals repeat' (with_reducible first | assumption | apply bwWindowWrite_kept | exact Kept.refl _ | intro _ | split | simp only [with_kept])

theorem execSampleRecordWrite_kept : ∀ (s : State) {z0 : State}, Kept z0 s → ∀ (t0 : State), execSampleRecordWrite s = Host.Outcome.next t0 → Kept z0 t0 := by
  intros; rename_i e; unfold execSampleRecordWrite at e; repeat' split at e
  all_goals obtain rfl := Host.Outcome.next.inj e
  all_goals repeat' (with_reducible first | assumption | apply writeSample_kept | exact Kept.refl _ | intro _ | split | simp only [with_kept])

end Sys2Proof.Machine
end

