-- ==== Sys2Proof/Laws/HummockKept.lean ====
section
/-! SUPPORT. What the functions of Hummock.lean keep (Laws/Kept.lean). -/
namespace Sys2Proof.Machine
set_option linter.unusedTactic false
set_option linter.unreachableTactic false
set_option linter.unusedSimpArgs false

theorem humPut_kept : ∀ (s : State) (h : ℕ) (x : Hummock) {z0 : State}, Kept z0 s → Kept z0 (humPut s h x) := by
  intros; unfold humPut
  repeat' (with_reducible first | assumption | exact Kept.refl _ | intro _ | split | simp only [with_kept])

theorem humEnter_kept : ∀ (s : State) (h st : ℕ) {z0 : State}, Kept z0 s → Kept z0 (humEnter s h st) := by
  intros; unfold humEnter
  repeat' (with_reducible first | assumption | apply wf_kept | exact Kept.refl _ | intro _ | split | simp only [with_kept])

theorem touch_kept : ∀ (s : State) (h : ℕ) {z0 : State}, Kept z0 s → Kept z0 (touch s h) := by
  intros; unfold touch
  repeat' (with_reducible first | assumption | apply humPut_kept | exact Kept.refl _ | intro _ | split | simp only [with_kept])

theorem lastRefuser_kept : ∀ (s : State) (h id : ℕ) {z0 : State}, Kept z0 s → Kept z0 (lastRefuser s h id) := by
  intros; unfold lastRefuser
  repeat' (with_reducible first | assumption | apply wrn_kept | apply wf_kept | exact Kept.refl _ | intro _ | split | simp only [with_kept])

theorem startPrepare_kept : ∀ (s : State) (h : ℕ) (test : Bool) {z0 : State}, Kept z0 s → Kept z0 (startPrepare s h test) := by
  intros; unfold startPrepare
  repeat' (with_reducible first | assumption | apply humPut_kept | apply humEnter_kept | exact Kept.refl _ | intro _ | split | simp only [with_kept])

theorem undrain_kept : ∀ (s : State) (h : ℕ) {z0 : State}, Kept z0 s → Kept z0 (undrain s h) := by
  intros; unfold undrain
  repeat' (with_reducible first | assumption | apply wf_kept | refine foldl_kept _ ?_ ?_ | exact Kept.refl _ | intro _ | split | simp only [with_kept])

theorem giveUp_kept : ∀ (s : State) (h id : ℕ) {z0 : State}, Kept z0 s → Kept z0 (giveUp s h id) := by
  intros; unfold giveUp
  repeat' (with_reducible first | assumption | apply undrain_kept | apply raise_kept | apply cnt_kept | apply wf_kept | apply lastRefuser_kept | apply humEnter_kept | apply humPut_kept | exact Kept.refl _ | intro _ | split | simp only [with_kept])

theorem interruptPrepare_kept : ∀ (s : State) (h : ℕ) {z0 : State}, Kept z0 s → Kept z0 (interruptPrepare s h) := by
  intros; unfold interruptPrepare
  repeat' (with_reducible first | assumption | apply giveUp_kept | exact Kept.refl _ | intro _ | split | simp only [with_kept])

theorem startWake_kept : ∀ (s : State) (h cause : ℕ) {z0 : State}, Kept z0 s → Kept z0 (startWake s h cause) := by
  intros; unfold startWake
  repeat' (with_reducible first | assumption | apply humPut_kept | apply humEnter_kept | exact Kept.refl _ | intro _ | split | simp only [with_kept])

theorem wakeForWork_kept : ∀ (s : State) (h : ℕ) {z0 : State}, Kept z0 s → Kept z0 (wakeForWork s h) := by
  intros; unfold wakeForWork
  repeat' (with_reducible first | assumption | apply startWake_kept | exact Kept.refl _ | intro _ | split | simp only [with_kept])

theorem reach_kept : ∀ (s : State) (h : ℕ) {z0 : State}, Kept z0 s → Kept z0 (reach s h).2 := by
  intros; unfold reach
  repeat' (with_reducible first | assumption | apply touch_kept | apply interruptPrepare_kept | apply startWake_kept | exact Kept.refl _ | intro _ | split | refine snd_kept (by assumption) ?_ | refine fst_kept (by assumption) ?_ | refine trd_kept (by assumption) ?_ | simp only [with_kept])

theorem asleepAccess_kept : ∀ (s : State) (h bar : ℕ) (write : Bool) (addr : ℕ) {z0 : State}, Kept z0 s → Kept z0 (asleepAccess s h bar write addr) := by
  intros; unfold asleepAccess
  repeat' (with_reducible first | assumption | apply raise_kept | apply accReport_kept | exact Kept.refl _ | intro _ | split | simp only [with_kept])

theorem holdAccess_kept : ∀ (s : State) (h : ℕ) (x : HeldAccess) {z0 : State}, Kept z0 s → Kept z0 (holdAccess s h x) := by
  intros; unfold holdAccess
  repeat' (with_reducible first | assumption | apply humPut_kept | exact Kept.refl _ | intro _ | split | simp only [with_kept])

theorem powerCommand_kept : ∀ (s : State) (h op : ℕ) {z0 : State}, Kept z0 s → Kept z0 (powerCommand s h op) := by
  intros; unfold powerCommand
  repeat' (with_reducible first | assumption | apply wf_kept | apply startPrepare_kept | apply interruptPrepare_kept | apply humPut_kept | apply startWake_kept | exact Kept.refl _ | intro _ | split | simp only [with_kept])

theorem execPowerSleep_kept : ∀ (h : Fin 40) (s : State) {z0 : State}, Kept z0 s → ∀ (t0 : State), execPowerSleep h s = Host.Outcome.next t0 → Kept z0 t0 := by
  intros; rename_i e; unfold execPowerSleep at e; repeat' split at e
  all_goals obtain rfl := Host.Outcome.next.inj e
  all_goals repeat' (with_reducible first | assumption | apply powerCommand_kept | exact Kept.refl _ | intro _ | split | simp only [with_kept])

theorem execPowerWake_kept : ∀ (h : Fin 40) (s : State) {z0 : State}, Kept z0 s → ∀ (t0 : State), execPowerWake h s = Host.Outcome.next t0 → Kept z0 t0 := by
  intros; rename_i e; unfold execPowerWake at e; repeat' split at e
  all_goals obtain rfl := Host.Outcome.next.inj e
  all_goals repeat' (with_reducible first | assumption | apply powerCommand_kept | exact Kept.refl _ | intro _ | split | simp only [with_kept])

theorem execPowerSelftest_kept : ∀ (h : Fin 40) (s : State) {z0 : State}, Kept z0 s → ∀ (t0 : State), execPowerSelftest h s = Host.Outcome.next t0 → Kept z0 t0 := by
  intros; rename_i e; unfold execPowerSelftest at e; repeat' split at e
  all_goals obtain rfl := Host.Outcome.next.inj e
  all_goals repeat' (with_reducible first | assumption | apply powerCommand_kept | exact Kept.refl _ | intro _ | split | simp only [with_kept])

end Sys2Proof.Machine
end

