-- ==== Sys2Proof/Laws/PortLanesKept.lean ====
section
/-! SUPPORT. What the functions of PortLanes.lean keep (Laws/Kept.lean). -/
namespace Sys2Proof.Machine
set_option linter.unusedTactic false
set_option linter.unreachableTactic false
set_option linter.unusedSimpArgs false

theorem lanePut_kept : ∀ (s : State) (l : ℕ) (x : Lane) {z0 : State}, Kept z0 s → Kept z0 (lanePut s l x) := by
  intros; unfold lanePut
  repeat' (with_reducible first | assumption | exact Kept.refl _ | intro _ | split | simp only [with_kept])

theorem mib_kept : ∀ (s : State) (l k n : ℕ) {z0 : State}, Kept z0 s → Kept z0 (mib s l k n) := by
  intros; unfold mib
  repeat' (with_reducible first | assumption | apply cntWrap_kept | exact Kept.refl _ | intro _ | split | simp only [with_kept])

theorem laneEvent_kept : ∀ (s : State) (l k d1 : ℕ) {z0 : State}, Kept z0 s → Kept z0 (laneEvent s l k d1) := by
  intros; unfold laneEvent
  repeat' (with_reducible first | assumption | apply raise_kept | exact Kept.refl _ | intro _ | split | simp only [with_kept])

theorem countReceived_kept : ∀ (s : State) (l : ℕ) (frame : List Byte) (codeError : Bool) {z0 : State}, Kept z0 s → Kept z0 (countReceived s l frame codeError).2 := by
  intros; unfold countReceived
  repeat' (with_reducible first | assumption | apply mib_kept | exact Kept.refl _ | intro _ | split | simp only [with_kept])

theorem macControl_kept : ∀ (s : State) (l : ℕ) (frame : List Byte) {z0 : State}, Kept z0 s → Kept z0 (macControl s l frame) := by
  intros; unfold macControl
  repeat' (with_reducible first | assumption | apply countReceived_kept | apply mib_kept | apply lanePut_kept | refine foldl_kept _ ?_ ?_ | exact Kept.refl _ | intro _ | split | refine snd_kept (by assumption) ?_ | refine fst_kept (by assumption) ?_ | refine trd_kept (by assumption) ?_ | simp only [with_kept])

theorem sendPause_kept : ∀ (s : State) (l key quanta : ℕ) {z0 : State}, Kept z0 s → Kept z0 (sendPause s l key quanta) := by
  intros; unfold sendPause
  repeat' (with_reducible first | assumption | apply mib_kept | apply emit_kept | exact Kept.refl _ | intro _ | split | simp only [with_kept])

theorem pauseStart_kept : ∀ (s : State) (l key : ℕ) {z0 : State}, Kept z0 s → Kept z0 (pauseStart s l key) := by
  intros; unfold pauseStart
  repeat' (with_reducible first | assumption | apply sendPause_kept | apply lanePut_kept | exact Kept.refl _ | intro _ | split | simp only [with_kept])

theorem pauseStop_kept : ∀ (s : State) (l key : ℕ) {z0 : State}, Kept z0 s → Kept z0 (pauseStop s l key) := by
  intros; unfold pauseStop
  repeat' (with_reducible first | assumption | apply sendPause_kept | apply lanePut_kept | exact Kept.refl _ | intro _ | split | simp only [with_kept])

theorem noteDown_kept : ∀ (s : State) (l : ℕ) {z0 : State}, Kept z0 s → Kept z0 (noteDown s l) := by
  intros; unfold noteDown
  repeat' (with_reducible first | assumption | apply lanePut_kept | exact Kept.refl _ | intro _ | split | simp only [with_kept])

theorem bringUp_kept : ∀ (s : State) (l : ℕ) {z0 : State}, Kept z0 s → Kept z0 (bringUp s l) := by
  intros; unfold bringUp
  repeat' (with_reducible first | assumption | apply wf_kept | apply noteDown_kept | apply laneEvent_kept | exact Kept.refl _ | intro _ | split | simp only [with_kept])

theorem eyeMeasure_kept : ∀ (s : State) (l height width : ℕ) {z0 : State}, Kept z0 s → Kept z0 (eyeMeasure s l height width) := by
  intros; unfold eyeMeasure
  repeat' (with_reducible first | assumption | apply wrn_kept | apply slackReport_kept | apply lanePut_kept | apply laneEvent_kept | exact Kept.refl _ | intro _ | split | simp only [with_kept])

theorem mdioCommand_kept : ∀ (s : State) (m v : ℕ) {z0 : State}, Kept z0 s → Kept z0 (mdioCommand s m v) := by
  intros; unfold mdioCommand
  repeat' (with_reducible first | assumption | apply regWrite_kept | apply emit_kept | exact Kept.refl _ | intro _ | split | simp only [with_kept])

theorem mdioDone_kept : ∀ (s : State) (m : ℕ) (data : Option ℕ) {z0 : State}, Kept z0 s → Kept z0 (mdioDone s m data) := by
  intros; unfold mdioDone
  repeat' (with_reducible first | assumption | apply wf_kept | apply wrn_kept | exact Kept.refl _ | intro _ | split | simp only [with_kept])

theorem i2cCommand_kept : ∀ (s : State) (q v : ℕ) {z0 : State}, Kept z0 s → Kept z0 (i2cCommand s q v) := by
  intros; unfold i2cCommand
  repeat' (with_reducible first | assumption | apply regWrite_kept | apply emit_kept | exact Kept.refl _ | intro _ | split | simp only [with_kept])

theorem i2cDone_kept : ∀ (s : State) (q : ℕ) (nack : Bool) (data : List Byte) {z0 : State}, Kept z0 s → Kept z0 (i2cDone s q nack data) := by
  intros; unfold i2cDone
  repeat' (with_reducible first | assumption | apply wf_kept | apply wrn_kept | refine foldl_kept _ ?_ ?_ | exact Kept.refl _ | intro _ | split | simp only [with_kept])

theorem latchCounter_kept : ∀ (s : State) (l k : ℕ) {z0 : State}, Kept z0 s → Kept z0 (latchCounter s l k) := by
  intros; unfold latchCounter
  repeat' (with_reducible first | assumption | apply lanePut_kept | exact Kept.refl _ | intro _ | split | simp only [with_kept])

theorem execPauseFrameReceived_kept : ∀ (lane : Fin 64) (frame : List Byte) (s : State) {z0 : State}, Kept z0 s → ∀ (t0 : State), execPauseFrameReceived lane frame s = Host.Outcome.next t0 → Kept z0 t0 := by
  intros; rename_i e; unfold execPauseFrameReceived at e; repeat' split at e
  all_goals obtain rfl := Host.Outcome.next.inj e
  all_goals repeat' (with_reducible first | assumption | apply macControl_kept | exact Kept.refl _ | intro _ | split | simp only [with_kept])

theorem execPfcFrameReceived_kept : ∀ (lane : Fin 64) (frame : List Byte) (s : State) {z0 : State}, Kept z0 s → ∀ (t0 : State), execPfcFrameReceived lane frame s = Host.Outcome.next t0 → Kept z0 t0 := by
  intros; rename_i e; unfold execPfcFrameReceived at e; repeat' split at e
  all_goals obtain rfl := Host.Outcome.next.inj e
  all_goals repeat' (with_reducible first | assumption | apply macControl_kept | exact Kept.refl _ | intro _ | split | simp only [with_kept])

theorem execPauseQuantaExpiry_kept : ∀ (lane : Fin 64) (s : State) {z0 : State}, Kept z0 s → ∀ (t0 : State), execPauseQuantaExpiry lane s = Host.Outcome.next t0 → Kept z0 t0 := by
  intros; rename_i e; unfold execPauseQuantaExpiry at e; repeat' split at e
  all_goals obtain rfl := Host.Outcome.next.inj e
  all_goals repeat' (with_reducible first | assumption | apply lanePut_kept | exact Kept.refl _ | intro _ | split | simp only [with_kept])

theorem execPauseRepeat_kept : ∀ (lane : Fin 64) (s : State) {z0 : State}, Kept z0 s → ∀ (t0 : State), execPauseRepeat lane s = Host.Outcome.next t0 → Kept z0 t0 := by
  intros; rename_i e; unfold execPauseRepeat at e; repeat' split at e
  all_goals obtain rfl := Host.Outcome.next.inj e
  all_goals repeat' (with_reducible first | assumption | apply sendPause_kept | apply lanePut_kept | refine foldl_kept _ ?_ ?_ | exact Kept.refl _ | intro _ | split | simp only [with_kept])

theorem execLinkUp_kept : ∀ (lane : Fin 64) (s : State) {z0 : State}, Kept z0 s → ∀ (t0 : State), execLinkUp lane s = Host.Outcome.next t0 → Kept z0 t0 := by
  intros; rename_i e; unfold execLinkUp at e; repeat' split at e
  all_goals obtain rfl := Host.Outcome.next.inj e
  all_goals repeat' (with_reducible first | assumption | apply bringUp_kept | exact Kept.refl _ | intro _ | split | simp only [with_kept])

theorem execNegotiationComplete_kept : ∀ (lane : Fin 64) (result : BitVec 64) (s : State) {z0 : State}, Kept z0 s → ∀ (t0 : State), execNegotiationComplete lane result s = Host.Outcome.next t0 → Kept z0 t0 := by
  intros; rename_i e; unfold execNegotiationComplete at e; repeat' split at e
  all_goals obtain rfl := Host.Outcome.next.inj e
  all_goals repeat' (with_reducible first | assumption | apply laneEvent_kept | apply wf_kept | exact Kept.refl _ | intro _ | split | simp only [with_kept])

theorem execHighBer_kept : ∀ (lane : Fin 64) (s : State) {z0 : State}, Kept z0 s → ∀ (t0 : State), execHighBer lane s = Host.Outcome.next t0 → Kept z0 t0 := by
  intros; rename_i e; unfold execHighBer at e; repeat' split at e
  all_goals obtain rfl := Host.Outcome.next.inj e
  all_goals repeat' (with_reducible first | assumption | apply laneEvent_kept | apply wf_kept | exact Kept.refl _ | intro _ | split | simp only [with_kept])

theorem execQuadRefclkLost_kept : ∀ (quad : Fin 16) (s : State) {z0 : State}, Kept z0 s → ∀ (t0 : State), execQuadRefclkLost quad s = Host.Outcome.next t0 → Kept z0 t0 := by
  intros; rename_i e; unfold execQuadRefclkLost at e; repeat' split at e
  all_goals obtain rfl := Host.Outcome.next.inj e
  all_goals repeat' (with_reducible first | assumption | apply laneEvent_kept | apply wf_kept | exact Kept.refl _ | intro _ | split | simp only [with_kept])

theorem execQuadRefclkRestored_kept : ∀ (quad : Fin 16) (s : State) {z0 : State}, Kept z0 s → ∀ (t0 : State), execQuadRefclkRestored quad s = Host.Outcome.next t0 → Kept z0 t0 := by
  intros; rename_i e; unfold execQuadRefclkRestored at e; repeat' split at e
  all_goals obtain rfl := Host.Outcome.next.inj e
  all_goals repeat' (with_reducible first | assumption | apply wf_kept | exact Kept.refl _ | intro _ | split | simp only [with_kept])

theorem execEqAdaptStep_kept : ∀ (lane : Fin 80) (moves : List ℤ) (s : State) {z0 : State}, Kept z0 s → ∀ (t0 : State), execEqAdaptStep lane moves s = Host.Outcome.next t0 → Kept z0 t0 := by
  intros; rename_i e; unfold execEqAdaptStep at e; repeat' split at e
  all_goals obtain rfl := Host.Outcome.next.inj e
  all_goals repeat' (with_reducible first | assumption | apply lanePut_kept | exact Kept.refl _ | intro _ | split | simp only [with_kept])

theorem execEyeMeasure_kept : ∀ (lane : Fin 64) (height width : BitVec 8) (s : State) {z0 : State}, Kept z0 s → ∀ (t0 : State), execEyeMeasure lane height width s = Host.Outcome.next t0 → Kept z0 t0 := by
  intros; rename_i e; unfold execEyeMeasure at e; repeat' split at e
  all_goals obtain rfl := Host.Outcome.next.inj e
  all_goals repeat' (with_reducible first | assumption | apply eyeMeasure_kept | exact Kept.refl _ | intro _ | split | simp only [with_kept])

theorem execMdioAddress_kept : ∀ (bus : Fin 4) (value : BitVec 32) (s : State) {z0 : State}, Kept z0 s → ∀ (t0 : State), execMdioAddress bus value s = Host.Outcome.next t0 → Kept z0 t0 := by
  intros; rename_i e; unfold execMdioAddress at e; repeat' split at e
  all_goals obtain rfl := Host.Outcome.next.inj e
  all_goals repeat' (with_reducible first | assumption | apply mdioCommand_kept | exact Kept.refl _ | intro _ | split | simp only [with_kept])

theorem execMdioWrite_kept : ∀ (bus : Fin 4) (value : BitVec 32) (s : State) {z0 : State}, Kept z0 s → ∀ (t0 : State), execMdioWrite bus value s = Host.Outcome.next t0 → Kept z0 t0 := by
  intros; rename_i e; unfold execMdioWrite at e; repeat' split at e
  all_goals obtain rfl := Host.Outcome.next.inj e
  all_goals repeat' (with_reducible first | assumption | apply mdioCommand_kept | exact Kept.refl _ | intro _ | split | simp only [with_kept])

theorem execMdioRead_kept : ∀ (bus : Fin 4) (value : BitVec 32) (s : State) {z0 : State}, Kept z0 s → ∀ (t0 : State), execMdioRead bus value s = Host.Outcome.next t0 → Kept z0 t0 := by
  intros; rename_i e; unfold execMdioRead at e; repeat' split at e
  all_goals obtain rfl := Host.Outcome.next.inj e
  all_goals repeat' (with_reducible first | assumption | apply mdioCommand_kept | exact Kept.refl _ | intro _ | split | simp only [with_kept])

theorem execMdioReadInc_kept : ∀ (bus : Fin 4) (value : BitVec 32) (s : State) {z0 : State}, Kept z0 s → ∀ (t0 : State), execMdioReadInc bus value s = Host.Outcome.next t0 → Kept z0 t0 := by
  intros; rename_i e; unfold execMdioReadInc at e; repeat' split at e
  all_goals obtain rfl := Host.Outcome.next.inj e
  all_goals repeat' (with_reducible first | assumption | apply mdioCommand_kept | exact Kept.refl _ | intro _ | split | simp only [with_kept])

theorem execMdioComplete_kept : ∀ (bus : Fin 4) (data : Option (BitVec 16)) (s : State) {z0 : State}, Kept z0 s → ∀ (t0 : State), execMdioComplete bus data s = Host.Outcome.next t0 → Kept z0 t0 := by
  intros; rename_i e; unfold execMdioComplete at e; repeat' split at e
  all_goals obtain rfl := Host.Outcome.next.inj e
  all_goals repeat' (with_reducible first | assumption | apply mdioDone_kept | exact Kept.refl _ | intro _ | split | simp only [with_kept])

theorem execI2cRead_kept : ∀ (bus : Fin 16) (value : BitVec 32) (s : State) {z0 : State}, Kept z0 s → ∀ (t0 : State), execI2cRead bus value s = Host.Outcome.next t0 → Kept z0 t0 := by
  intros; rename_i e; unfold execI2cRead at e; repeat' split at e
  all_goals obtain rfl := Host.Outcome.next.inj e
  all_goals repeat' (with_reducible first | assumption | apply i2cCommand_kept | exact Kept.refl _ | intro _ | split | simp only [with_kept])

theorem execI2cWrite_kept : ∀ (bus : Fin 16) (value : BitVec 32) (s : State) {z0 : State}, Kept z0 s → ∀ (t0 : State), execI2cWrite bus value s = Host.Outcome.next t0 → Kept z0 t0 := by
  intros; rename_i e; unfold execI2cWrite at e; repeat' split at e
  all_goals obtain rfl := Host.Outcome.next.inj e
  all_goals repeat' (with_reducible first | assumption | apply i2cCommand_kept | exact Kept.refl _ | intro _ | split | simp only [with_kept])

theorem execI2cComplete_kept : ∀ (bus : Fin 16) (nack : Bool) (data : List Byte) (s : State) {z0 : State}, Kept z0 s → ∀ (t0 : State), execI2cComplete bus nack data s = Host.Outcome.next t0 → Kept z0 t0 := by
  intros; rename_i e; unfold execI2cComplete at e; repeat' split at e
  all_goals obtain rfl := Host.Outcome.next.inj e
  all_goals repeat' (with_reducible first | assumption | apply i2cDone_kept | exact Kept.refl _ | intro _ | split | simp only [with_kept])

theorem execI2cTimeout_kept : ∀ (bus : Fin 16) (s : State) {z0 : State}, Kept z0 s → ∀ (t0 : State), execI2cTimeout bus s = Host.Outcome.next t0 → Kept z0 t0 := by
  intros; rename_i e; unfold execI2cTimeout at e; repeat' split at e
  all_goals obtain rfl := Host.Outcome.next.inj e
  all_goals repeat' (with_reducible first | assumption | apply wf_kept | exact Kept.refl _ | intro _ | split | simp only [with_kept])

end Sys2Proof.Machine
end

