-- ==== Sys2Proof/Laws/RunsKept.lean ====
section
/-! SUPPORT. What the functions of Runs.lean keep (Laws/Kept.lean). -/
namespace Sys2Proof.Machine
set_option linter.unusedTactic false
set_option linter.unreachableTactic false
set_option linter.unusedSimpArgs false

theorem framePut_kept : ∀ (s : State) (f : ℕ) (x : Frame) {z0 : State}, Kept z0 s → Kept z0 (framePut s f x) := by
  intros; unfold framePut
  repeat' (with_reducible first | assumption | exact Kept.refl _ | intro _ | split | simp only [with_kept])

theorem frameMod_kept : ∀ (s : State) (f : ℕ) (g : Frame → Frame) {z0 : State}, Kept z0 s → Kept z0 (frameMod s f g) := by
  intros; unfold frameMod
  repeat' (with_reducible first | assumption | exact Kept.refl _ | intro _ | split | simp only [with_kept])

theorem runPut_kept : ∀ (s : State) (n : ℕ) (r : Run) {z0 : State}, Kept z0 s → Kept z0 (runPut s n r) := by
  intros; unfold runPut
  repeat' (with_reducible first | assumption | exact Kept.refl _ | intro _ | split | simp only [with_kept])

theorem runMod_kept : ∀ (s : State) (n : ℕ) (g : Run → Run) {z0 : State}, Kept z0 s → Kept z0 (runMod s n g) := by
  intros; unfold runMod
  repeat' (with_reducible first | assumption | exact Kept.refl _ | intro _ | split | simp only [with_kept])

theorem wakeQuarters_kept : ∀ (s : State) {z0 : State}, Kept z0 s → Kept z0 (wakeQuarters s) := by
  intros; unfold wakeQuarters
  repeat' (with_reducible first | assumption | apply wakeForWork_kept | refine foldl_kept _ ?_ ?_ | exact Kept.refl _ | intro _ | split | simp only [with_kept])

theorem createRun_kept : ∀ (s : State) (n : ℕ) (r : Run) {z0 : State}, Kept z0 s → Kept z0 (createRun s n r) := by
  intros; unfold createRun
  repeat' (with_reducible first | assumption | apply runPut_kept | apply peak_kept | apply touch_kept | refine foldl_kept _ ?_ ?_ | exact Kept.refl _ | intro _ | split | simp only [with_kept])

theorem applyCounts_kept : ∀ (s : State) (cs : List (ℕ × ℕ)) {z0 : State}, Kept z0 s → Kept z0 (applyCounts s cs) := by
  intros; unfold applyCounts
  repeat' (with_reducible first | assumption | apply cntWrap_kept | refine foldl_kept _ ?_ ?_ | exact Kept.refl _ | intro _ | split | simp only [with_kept])

theorem flushCounts_kept : ∀ (s : State) (n : ℕ) {z0 : State}, Kept z0 s → Kept z0 (flushCounts s n) := by
  intros; unfold flushCounts
  repeat' (with_reducible first | assumption | apply applyCounts_kept | apply runPut_kept | exact Kept.refl _ | intro _ | split | refine snd_kept (by assumption) ?_ | refine fst_kept (by assumption) ?_ | refine trd_kept (by assumption) ?_ | simp only [with_kept])

theorem domainDone_kept : ∀ (s : State) (n : ℕ) (r : Run) {z0 : State}, Kept z0 s → Kept z0 (domainDone s n r) := by
  intros; unfold domainDone
  repeat' (with_reducible first | assumption | exact Kept.refl _ | intro _ | split | refine snd_kept (by assumption) ?_ | refine fst_kept (by assumption) ?_ | refine trd_kept (by assumption) ?_ | simp only [with_kept])

theorem noteCommit_kept : ∀ (s : State) (f : ℕ) {z0 : State}, Kept z0 s → Kept z0 (noteCommit s f) := by
  intros; unfold noteCommit
  repeat' (with_reducible first | assumption | apply frameMod_kept | exact Kept.refl _ | intro _ | split | simp only [with_kept])

theorem finishRun_kept : ∀ (s : State) (n : ℕ) (r : Run) {z0 : State}, Kept z0 s → Kept z0 (finishRun s n r) := by
  intros; unfold finishRun
  repeat' (with_reducible first | assumption | apply flushCounts_kept | apply domainDone_kept | apply cntWrap_kept | apply tally_kept | apply noteCommit_kept | apply runMod_kept | exact Kept.refl _ | intro _ | split | simp only [with_kept])

theorem tryCommit_kept : ∀ (fuel : ℕ) (s : State) (n : ℕ) {z : State}, Kept z s → Kept z (tryCommit fuel s n)
  | 0, _, _, _, h => h
  | fuel + 1, s, n, z, h => by
    unfold tryCommit
    repeat' (with_reducible first | assumption | apply tryCommit_kept | apply finishRun_kept | split | dsimp only)
theorem sampleTask_kept : ∀ (s : State) (r : Run) (k : ℕ) {z0 : State}, Kept z0 s → Kept z0 (sampleTask s r k) := by
  intros; unfold sampleTask
  repeat' (with_reducible first | assumption | apply fresh_kept | apply psSelect_kept | exact Kept.refl _ | intro _ | split | refine snd_kept (by assumption) ?_ | refine fst_kept (by assumption) ?_ | refine trd_kept (by assumption) ?_ | simp only [with_kept])

theorem sampleTasks_kept : ∀ (s : State) (r : Run) {z0 : State}, Kept z0 s → Kept z0 (sampleTasks s r) := by
  intros; unfold sampleTasks
  repeat' (with_reducible first | assumption | apply sampleTask_kept | refine foldl_kept _ ?_ ?_ | exact Kept.refl _ | intro _ | split | simp only [with_kept])

theorem dropRun_kept : ∀ (s : State) (n : ℕ) {z0 : State}, Kept z0 s → Kept z0 (dropRun s n) := by
  intros; unfold dropRun
  repeat' (with_reducible first | assumption | apply runPut_kept | apply domainDone_kept | apply sampleTasks_kept | apply tryCommit_kept | exact Kept.refl _ | intro _ | split | refine snd_kept (by assumption) ?_ | refine fst_kept (by assumption) ?_ | refine trd_kept (by assumption) ?_ | simp only [with_kept])

theorem frameFate_kept : ∀ (s : State) (f policy reason : ℕ) {z0 : State}, Kept z0 s → Kept z0 (frameFate s f policy reason) := by
  intros; unfold frameFate
  repeat' (with_reducible first | assumption | apply frameMod_kept | exact Kept.refl _ | intro _ | split | simp only [with_kept])

theorem itemsPut_kept : ∀ (s : State) (d : ℕ) (l : List (ℕ × Option ItemEvent)) {z0 : State}, Kept z0 s → Kept z0 (itemsPut s d l) := by
  intros; unfold itemsPut
  repeat' (with_reducible first | assumption | exact Kept.refl _ | intro _ | split | simp only [with_kept])

theorem itemQueue_kept : ∀ (s : State) (d n : ℕ) (e : Option ItemEvent) {z0 : State}, Kept z0 s → Kept z0 (itemQueue s d n e) := by
  intros; unfold itemQueue
  repeat' (with_reducible first | assumption | apply raise_kept | apply cnt_kept | apply frameFate_kept | apply itemsPut_kept | exact Kept.refl _ | intro _ | split | simp only [with_kept])

end Sys2Proof.Machine
end

