-- ==== Sys2Proof/Laws/AuthKept.lean ====
section
/-! SUPPORT. What the functions of Auth.lean keep (Laws/Kept.lean). -/
namespace Sys2Proof.Machine
set_option linter.unusedTactic false
set_option linter.unreachableTactic false
set_option linter.unusedSimpArgs false

theorem keyResult_kept : ∀ (s : State) (r : ℕ) {z0 : State}, Kept z0 s → Kept z0 (keyResult s r) := by
  intros; unfold keyResult
  repeat' (with_reducible first | assumption | apply wf_kept | exact Kept.refl _ | intro _ | split | simp only [with_kept])

theorem keyParity_kept : ∀ (s : State) (slot : ℕ) {z0 : State}, Kept z0 s → Kept z0 (keyParity s slot) := by
  intros; unfold keyParity
  repeat' (with_reducible first | assumption | apply raise_kept | exact Kept.refl _ | intro _ | split | refine snd_kept (by assumption) ?_ | refine fst_kept (by assumption) ?_ | refine trd_kept (by assumption) ?_ | simp only [with_kept])

theorem keyCommand_kept : ∀ (s : State) (op : ℕ) {z0 : State}, Kept z0 s → Kept z0 (keyCommand s op) := by
  intros; unfold keyCommand
  repeat' (with_reducible first | assumption | apply wf_kept | apply keyResult_kept | apply wrn_kept | exact Kept.refl _ | intro _ | split | refine snd_kept (by assumption) ?_ | refine fst_kept (by assumption) ?_ | refine trd_kept (by assumption) ?_ | simp only [with_kept])

theorem keyDone_kept : ∀ (s : State) {z0 : State}, Kept z0 s → Kept z0 (keyDone s) := by
  intros; unfold keyDone
  repeat' (with_reducible first | assumption | apply keyResult_kept | apply wf_kept | exact Kept.refl _ | intro _ | split | refine snd_kept (by assumption) ?_ | refine fst_kept (by assumption) ?_ | refine trd_kept (by assumption) ?_ | simp only [with_kept])

theorem pnChanged_kept : ∀ (s : State) (sa old : ℕ) {z0 : State}, Kept z0 s → Kept z0 (pnChanged s sa old) := by
  intros; unfold pnChanged
  repeat' (with_reducible first | assumption | apply raise_kept | exact Kept.refl _ | intro _ | split | simp only [with_kept])

theorem setPn_kept : ∀ (s : State) (sa pn : ℕ) {z0 : State}, Kept z0 s → Kept z0 (setPn s sa pn) := by
  intros; unfold setPn
  repeat' (with_reducible first | assumption | apply pnChanged_kept | apply wrn_kept | exact Kept.refl _ | intro _ | split | simp only [with_kept])

theorem guardPns_kept : ∀ (s : State) {z0 : State}, Kept z0 s → Kept z0 (guardPns s) := by
  intros; unfold guardPns
  repeat' (with_reducible first | assumption | apply setPn_kept | refine foldl_kept _ ?_ ?_ | exact Kept.refl _ | intro _ | split | simp only [with_kept])

theorem admitJob_kept : ∀ (s : State) (j : Job) {z0 : State}, Kept z0 s → Kept z0 (admitJob s j).2 := by
  intros; unfold admitJob
  repeat' (with_reducible first | assumption | apply touch_kept | exact Kept.refl _ | intro _ | split | simp only [with_kept])

theorem jobRefused_kept : ∀ (s : State) (user : ℕ) {z0 : State}, Kept z0 s → Kept z0 (jobRefused s user) := by
  intros; unfold jobRefused
  repeat' (with_reducible first | assumption | apply raise_kept | exact Kept.refl _ | intro _ | split | simp only [with_kept])

theorem placeJobs_kept : ∀ (s : State) {z0 : State}, Kept z0 s → Kept z0 (placeJobs s) := by
  intros; unfold placeJobs
  repeat' (with_reducible first | assumption | refine foldl_kept _ ?_ ?_ | exact Kept.refl _ | intro _ | split | simp only [with_kept])

theorem countFailure_kept : ∀ (s : State) (cls status : ℕ) {z0 : State}, Kept z0 s → Kept z0 (countFailure s cls status) := by
  intros; unfold countFailure
  repeat' (with_reducible first | assumption | apply raise_kept | apply cnt_kept | exact Kept.refl _ | intro _ | split | simp only [with_kept])

theorem endJob_kept : ∀ (s : State) (n : ℕ) (j : Job) (bytes : ℕ) {z0 : State}, Kept z0 s → Kept z0 (endJob s n j bytes) := by
  intros; unfold endJob
  repeat' (with_reducible first | assumption | apply cntWrap_kept | exact Kept.refl _ | intro _ | split | simp only [with_kept])

theorem hostMac_kept : ∀ (s : State) (h : HostJob) {z0 : State}, Kept z0 s → Kept z0 (hostMac s h).2.2.2 := by
  intros; unfold hostMac
  repeat' (with_reducible first | assumption | exact Kept.refl _ | intro _ | split | refine snd_kept (by assumption) ?_ | refine fst_kept (by assumption) ?_ | refine trd_kept (by assumption) ?_ | simp only [with_kept])

theorem hostSave_kept : ∀ (s : State) (h : HostJob) {z0 : State}, Kept z0 s → Kept z0 (hostSave s h).2.2 := by
  intros; unfold hostSave
  repeat' (with_reducible first | assumption | apply emit_kept | exact Kept.refl _ | intro _ | split | refine snd_kept (by assumption) ?_ | refine fst_kept (by assumption) ?_ | refine trd_kept (by assumption) ?_ | simp only [with_kept])

theorem hostRestore_kept : ∀ (s : State) (j : HostJob) {z : State}, Kept z s → Kept z (hostRestore s j).2.2 := by
  intro s j z h; unfold hostRestore
  extract_lets refuse clear image
  have hr : ∀ st, Kept z (refuse s st).2.2 := fun st => raise_kept _ _ _ _ (fresh_kept s h)
  clear_value refuse image
  split
  · exact hr _
  · exact hr _
  · extract_lets slot kcv alg count
    clear_value kcv alg count slot
    split
    · exact hr _
    · split
      · exact hr _
      · exact with_kept.mpr h
theorem hostJobEnd_kept : ∀ (s : State) (j : HostJob) {z : State}, Kept z s → Kept z (hostJobEnd s j) := by
  intro s j z h; unfold hostJobEnd
  have h1 := hostMac_kept s j h
  have h2 := hostSave_kept s j h
  have h3 := hostRestore_kept s j h
  split
  rename_i e
  have h0 : Kept z (if j.op ≤ 6 then hostMac s j
      else if j.op = 7 then ((hostSave s j).1, (hostSave s j).2.1, ([] : List Byte), (hostSave s j).2.2)
      else ((hostRestore s j).1, (hostRestore s j).2.1, ([] : List Byte), (hostRestore s j).2.2)).2.2.2 := by
    split
    · exact h1
    · split
      · exact h2
      · exact h3
  rw [show _ = _ from e] at h0
  dsimp only at *
  repeat' (with_reducible first | assumption | apply raiseVector_kept | apply emit_kept | intro _ | split | simp only [with_kept])
theorem hostJob_kept : ∀ (s : State) (op : ℕ) (desc data : List Byte) {z0 : State}, Kept z0 s → Kept z0 (hostJob s op desc data) := by
  intros; unfold hostJob
  repeat' (with_reducible first | assumption | apply raise_kept | apply wf_kept | apply admitJob_kept | exact Kept.refl _ | intro _ | split | simp only [with_kept])

theorem hjTail_kept : ∀ (s : State) (v : ℕ) {z0 : State}, Kept z0 s → Kept z0 (hjTail s v) := by
  intros; unfold hjTail
  repeat' (with_reducible first | assumption | apply wf_kept | exact Kept.refl _ | intro _ | split | simp only [with_kept])

theorem execLoadClear_kept : ∀ (s : State) {z0 : State}, Kept z0 s → ∀ (t0 : State), execLoadClear s = Host.Outcome.next t0 → Kept z0 t0 := by
  intros; rename_i e; unfold execLoadClear at e; repeat' split at e
  all_goals obtain rfl := Host.Outcome.next.inj e
  all_goals repeat' (with_reducible first | assumption | apply keyCommand_kept | exact Kept.refl _ | intro _ | split | simp only [with_kept])

theorem execLoadWrapped_kept : ∀ (s : State) {z0 : State}, Kept z0 s → ∀ (t0 : State), execLoadWrapped s = Host.Outcome.next t0 → Kept z0 t0 := by
  intros; rename_i e; unfold execLoadWrapped at e; repeat' split at e
  all_goals obtain rfl := Host.Outcome.next.inj e
  all_goals repeat' (with_reducible first | assumption | apply keyCommand_kept | exact Kept.refl _ | intro _ | split | simp only [with_kept])

theorem execKeyErase_kept : ∀ (s : State) {z0 : State}, Kept z0 s → ∀ (t0 : State), execKeyErase s = Host.Outcome.next t0 → Kept z0 t0 := by
  intros; rename_i e; unfold execKeyErase at e; repeat' split at e
  all_goals obtain rfl := Host.Outcome.next.inj e
  all_goals repeat' (with_reducible first | assumption | apply keyCommand_kept | exact Kept.refl _ | intro _ | split | simp only [with_kept])

theorem execReadPolicy_kept : ∀ (s : State) {z0 : State}, Kept z0 s → ∀ (t0 : State), execReadPolicy s = Host.Outcome.next t0 → Kept z0 t0 := by
  intros; rename_i e; unfold execReadPolicy at e; repeat' split at e
  all_goals obtain rfl := Host.Outcome.next.inj e
  all_goals repeat' (with_reducible first | assumption | apply keyCommand_kept | exact Kept.refl _ | intro _ | split | simp only [with_kept])

theorem execKeyCmdComplete_kept : ∀ (s : State) {z0 : State}, Kept z0 s → ∀ (t0 : State), execKeyCmdComplete s = Host.Outcome.next t0 → Kept z0 t0 := by
  intros; rename_i e; unfold execKeyCmdComplete at e; repeat' split at e
  all_goals obtain rfl := Host.Outcome.next.inj e
  all_goals repeat' (with_reducible first | assumption | apply keyDone_kept | exact Kept.refl _ | intro _ | split | simp only [with_kept])

theorem execAuthHjTailWrite_kept : ∀ (value : BitVec 32) (s : State) {z0 : State}, Kept z0 s → ∀ (t0 : State), execAuthHjTailWrite value s = Host.Outcome.next t0 → Kept z0 t0 := by
  intros; rename_i e; unfold execAuthHjTailWrite at e; repeat' split at e
  all_goals obtain rfl := Host.Outcome.next.inj e
  all_goals repeat' (with_reducible first | assumption | apply hjTail_kept | exact Kept.refl _ | intro _ | split | simp only [with_kept])

theorem execHjGmacGenerate_kept : ∀ (desc data : List Byte) (s : State) {z0 : State}, Kept z0 s → ∀ (t0 : State), execHjGmacGenerate desc data s = Host.Outcome.next t0 → Kept z0 t0 := by
  intros; rename_i e; unfold execHjGmacGenerate at e; repeat' split at e
  all_goals obtain rfl := Host.Outcome.next.inj e
  all_goals repeat' (with_reducible first | assumption | apply hostJob_kept | exact Kept.refl _ | intro _ | split | simp only [with_kept])

theorem execHjGmacVerify_kept : ∀ (desc data : List Byte) (s : State) {z0 : State}, Kept z0 s → ∀ (t0 : State), execHjGmacVerify desc data s = Host.Outcome.next t0 → Kept z0 t0 := by
  intros; rename_i e; unfold execHjGmacVerify at e; repeat' split at e
  all_goals obtain rfl := Host.Outcome.next.inj e
  all_goals repeat' (with_reducible first | assumption | apply hostJob_kept | exact Kept.refl _ | intro _ | split | simp only [with_kept])

theorem execHjCmacGenerate_kept : ∀ (desc data : List Byte) (s : State) {z0 : State}, Kept z0 s → ∀ (t0 : State), execHjCmacGenerate desc data s = Host.Outcome.next t0 → Kept z0 t0 := by
  intros; rename_i e; unfold execHjCmacGenerate at e; repeat' split at e
  all_goals obtain rfl := Host.Outcome.next.inj e
  all_goals repeat' (with_reducible first | assumption | apply hostJob_kept | exact Kept.refl _ | intro _ | split | simp only [with_kept])

theorem execHjCmacVerify_kept : ∀ (desc data : List Byte) (s : State) {z0 : State}, Kept z0 s → ∀ (t0 : State), execHjCmacVerify desc data s = Host.Outcome.next t0 → Kept z0 t0 := by
  intros; rename_i e; unfold execHjCmacVerify at e; repeat' split at e
  all_goals obtain rfl := Host.Outcome.next.inj e
  all_goals repeat' (with_reducible first | assumption | apply hostJob_kept | exact Kept.refl _ | intro _ | split | simp only [with_kept])

theorem execHjHmacGenerate_kept : ∀ (desc data : List Byte) (s : State) {z0 : State}, Kept z0 s → ∀ (t0 : State), execHjHmacGenerate desc data s = Host.Outcome.next t0 → Kept z0 t0 := by
  intros; rename_i e; unfold execHjHmacGenerate at e; repeat' split at e
  all_goals obtain rfl := Host.Outcome.next.inj e
  all_goals repeat' (with_reducible first | assumption | apply hostJob_kept | exact Kept.refl _ | intro _ | split | simp only [with_kept])

theorem execHjHmacVerify_kept : ∀ (desc data : List Byte) (s : State) {z0 : State}, Kept z0 s → ∀ (t0 : State), execHjHmacVerify desc data s = Host.Outcome.next t0 → Kept z0 t0 := by
  intros; rename_i e; unfold execHjHmacVerify at e; repeat' split at e
  all_goals obtain rfl := Host.Outcome.next.inj e
  all_goals repeat' (with_reducible first | assumption | apply hostJob_kept | exact Kept.refl _ | intro _ | split | simp only [with_kept])

theorem execHjSave_kept : ∀ (desc data : List Byte) (s : State) {z0 : State}, Kept z0 s → ∀ (t0 : State), execHjSave desc data s = Host.Outcome.next t0 → Kept z0 t0 := by
  intros; rename_i e; unfold execHjSave at e; repeat' split at e
  all_goals obtain rfl := Host.Outcome.next.inj e
  all_goals repeat' (with_reducible first | assumption | apply hostJob_kept | exact Kept.refl _ | intro _ | split | simp only [with_kept])

theorem execHjRestore_kept : ∀ (desc data : List Byte) (s : State) {z0 : State}, Kept z0 s → ∀ (t0 : State), execHjRestore desc data s = Host.Outcome.next t0 → Kept z0 t0 := by
  intros; rename_i e; unfold execHjRestore at e; repeat' split at e
  all_goals obtain rfl := Host.Outcome.next.inj e
  all_goals repeat' (with_reducible first | assumption | apply hostJob_kept | exact Kept.refl _ | intro _ | split | simp only [with_kept])

end Sys2Proof.Machine
end

