-- ==== Sys2Proof/Laws/GatesKept.lean ====
section
/-! SUPPORT. What the functions of Gates.lean keep (Laws/Kept.lean). -/
namespace Sys2Proof.Machine
set_option linter.unusedTactic false
set_option linter.unreachableTactic false
set_option linter.unusedSimpArgs false

theorem eportPut_kept : ∀ (s : State) (p : ℕ) (x : EgressPort) {z0 : State}, Kept z0 s → Kept z0 (eportPut s p x) := by
  intros; unfold eportPut
  repeat' (with_reducible first | assumption | exact Kept.refl _ | intro _ | split | simp only [with_kept])

theorem overrun_kept : ∀ (s : State) (p : ℕ) (queue : Option ℕ) (was : ℕ) {z0 : State}, Kept z0 s → Kept z0 (overrun s p queue was) := by
  intros; unfold overrun
  repeat' (with_reducible first | assumption | apply raise_kept | apply cnt_kept | exact Kept.refl _ | intro _ | split | refine snd_kept (by assumption) ?_ | refine fst_kept (by assumption) ?_ | refine trd_kept (by assumption) ?_ | simp only [with_kept])

theorem showGates_kept : ∀ (s : State) (p : ℕ) (queue : Option ℕ) (was : ℕ) {z0 : State}, Kept z0 s → Kept z0 (showGates s p queue was) := by
  intros; unfold showGates
  repeat' (with_reducible first | assumption | apply wf_kept | apply overrun_kept | exact Kept.refl _ | intro _ | split | simp only [with_kept])

theorem setHold_kept : ∀ (s : State) (p : ℕ) (on : Bool) {z0 : State}, Kept z0 s → Kept z0 (setHold s p on) := by
  intros; unfold setHold
  repeat' (with_reducible first | assumption | apply cnt_kept | apply wf_kept | exact Kept.refl _ | intro _ | split | simp only [with_kept])

theorem entryHold_kept : ∀ (s : State) (p : ℕ) {z0 : State}, Kept z0 s → Kept z0 (entryHold s p) := by
  intros; unfold entryHold
  repeat' (with_reducible first | assumption | apply setHold_kept | exact Kept.refl _ | intro _ | split | refine snd_kept (by assumption) ?_ | refine fst_kept (by assumption) ?_ | refine trd_kept (by assumption) ?_ | simp only [with_kept])

theorem gateMove_kept : ∀ (s : State) (p : ℕ) (queue : Option ℕ) {z0 : State}, Kept z0 s → Kept z0 (gateMove s p queue) := by
  intros; unfold gateMove
  repeat' (with_reducible first | assumption | apply entryHold_kept | apply showGates_kept | apply eportPut_kept | exact Kept.refl _ | intro _ | split | simp only [with_kept])

theorem gateHold_kept : ∀ (s : State) (p : ℕ) {z0 : State}, Kept z0 s → Kept z0 (gateHold s p) := by
  intros; unfold gateHold
  repeat' (with_reducible first | assumption | apply setHold_kept | exact Kept.refl _ | intro _ | split | simp only [with_kept])

theorem gateConfig_kept : ∀ (s : State) (p : ℕ) {z0 : State}, Kept z0 s → Kept z0 (gateConfig s p) := by
  intros; unfold gateConfig
  repeat' (with_reducible first | assumption | apply raise_kept | apply wf_kept | apply eportPut_kept | refine foldl_kept _ ?_ ?_ | exact Kept.refl _ | intro _ | split | simp only [with_kept])

theorem gateBegin_kept : ∀ (s : State) (p : ℕ) (queue : Option ℕ) {z0 : State}, Kept z0 s → Kept z0 (gateBegin s p queue) := by
  intros; unfold gateBegin
  repeat' (with_reducible first | assumption | apply wr_kept | apply wf_kept | apply eportPut_kept | apply entryHold_kept | apply raise_kept | apply showGates_kept | refine foldl_kept _ ?_ ?_ | exact Kept.refl _ | intro _ | split | refine snd_kept (by assumption) ?_ | refine fst_kept (by assumption) ?_ | refine trd_kept (by assumption) ?_ | simp only [with_kept])

theorem sgatePut_kept : ∀ (s : State) (g : ℕ) (x : GateList) {z0 : State}, Kept z0 s → Kept z0 (sgatePut s g x) := by
  intros; unfold sgatePut
  repeat' (with_reducible first | assumption | apply wf_kept | exact Kept.refl _ | intro _ | split | simp only [with_kept])

theorem sgateConfig_kept : ∀ (s : State) (g : ℕ) {z0 : State}, Kept z0 s → Kept z0 (sgateConfig s g) := by
  intros; unfold sgateConfig
  repeat' (with_reducible first | assumption | apply sgatePut_kept | refine foldl_kept _ ?_ ?_ | exact Kept.refl _ | intro _ | split | simp only [with_kept])

theorem sgateMove_kept : ∀ (s : State) (g : ℕ) {z0 : State}, Kept z0 s → Kept z0 (sgateMove s g) := by
  intros; unfold sgateMove
  repeat' (with_reducible first | assumption | apply sgatePut_kept | refine foldl_kept _ ?_ ?_ | exact Kept.refl _ | intro _ | split | refine snd_kept (by assumption) ?_ | refine fst_kept (by assumption) ?_ | refine trd_kept (by assumption) ?_ | simp only [with_kept])

theorem meterFrame_kept : ∀ (s : State) (m len : ℕ) {z : State}, Kept z s → Kept z (meterFrame s m len).2 := by
  intro s m len z h; unfold meterFrame
  dsimp only
  split <;> exact with_kept.mpr h
theorem filterChecks_kept : ∀ (s : State) (h len : ℕ) (gateShut : Bool) {z : State}, Kept z s → Kept z (filterChecks s h len gateShut).2 := by
  intro s h len gateShut z k
  have k1 := meterFrame_kept s (fld (rd s (Reg.EGRESS_SFh h)) 23 13) len k
  unfold filterChecks
  dsimp only
  revert k1
  generalize meterFrame s (fld (rd s (Reg.EGRESS_SFh h)) 23 13) len = c
  intro k1
  repeat' (with_reducible first | exact k | exact k1 | apply wf_kept | split)
theorem filterCount_kept : ∀ (s : State) (h : ℕ) (pass : Bool) {z0 : State}, Kept z0 s → Kept z0 (filterCount s h pass) := by
  intros; unfold filterCount
  repeat' (with_reducible first | assumption | apply cntWrap_kept | apply raise_kept | apply cnt_kept | exact Kept.refl _ | intro _ | split | simp only [with_kept])

theorem execSetAndHoldAssert_kept : ∀ (port : Fin 64) (s : State) {z0 : State}, Kept z0 s → ∀ (t0 : State), execSetAndHoldAssert port s = Host.Outcome.next t0 → Kept z0 t0 := by
  intros; rename_i e; unfold execSetAndHoldAssert at e; repeat' split at e
  all_goals obtain rfl := Host.Outcome.next.inj e
  all_goals repeat' (with_reducible first | assumption | apply gateHold_kept | exact Kept.refl _ | intro _ | split | simp only [with_kept])

theorem execGclConfigChange_kept : ∀ (port : Fin 64) (s : State) {z0 : State}, Kept z0 s → ∀ (t0 : State), execGclConfigChange port s = Host.Outcome.next t0 → Kept z0 t0 := by
  intros; rename_i e; unfold execGclConfigChange at e; repeat' split at e
  all_goals obtain rfl := Host.Outcome.next.inj e
  all_goals repeat' (with_reducible first | assumption | apply gateConfig_kept | exact Kept.refl _ | intro _ | split | simp only [with_kept])

theorem execSgConfigChange_kept : ∀ (gate : Fin 256) (s : State) {z0 : State}, Kept z0 s → ∀ (t0 : State), execSgConfigChange gate s = Host.Outcome.next t0 → Kept z0 t0 := by
  intros; rename_i e; unfold execSgConfigChange at e; repeat' split at e
  all_goals obtain rfl := Host.Outcome.next.inj e
  all_goals repeat' (with_reducible first | assumption | apply sgateConfig_kept | exact Kept.refl _ | intro _ | split | simp only [with_kept])

theorem execSgEntryChange_kept : ∀ (gate : Fin 256) (s : State) {z0 : State}, Kept z0 s → ∀ (t0 : State), execSgEntryChange gate s = Host.Outcome.next t0 → Kept z0 t0 := by
  intros; rename_i e; unfold execSgEntryChange at e; repeat' split at e
  all_goals obtain rfl := Host.Outcome.next.inj e
  all_goals repeat' (with_reducible first | assumption | apply sgateMove_kept | exact Kept.refl _ | intro _ | split | simp only [with_kept])

end Sys2Proof.Machine
end

