-- ==== Sys2Proof/Laws/FwdKept.lean ====
section
/-! SUPPORT. What the functions of Fwd.lean keep (Laws/Kept.lean). -/
namespace Sys2Proof.Machine
set_option linter.unusedTactic false
set_option linter.unreachableTactic false
set_option linter.unusedSimpArgs false

theorem fdbInsFail_kept : ∀ (s : State) (fid mac : ℕ) {z0 : State}, Kept z0 s → Kept z0 (fdbInsFail s fid mac) := by
  intros; unfold fdbInsFail
  repeat' (with_reducible first | assumption | apply raise_kept | apply cnt_kept | exact Kept.refl _ | intro _ | split | refine snd_kept (by assumption) ?_ | refine fst_kept (by assumption) ?_ | refine trd_kept (by assumption) ?_ | simp only [with_kept])

theorem entryPut_kept : ∀ (s : State) (t i : ℕ) (ws : List W64) {z0 : State}, Kept z0 s → Kept z0 (entryPut s t i ws) := by
  intros; unfold entryPut
  repeat' (with_reducible first | assumption | apply slotPut_kept | apply mirror_kept | exact Kept.refl _ | intro _ | split | simp only [with_kept])

theorem publish_kept : ∀ (s : State) (t i : ℕ) (ws : List W64) {z0 : State}, Kept z0 s → Kept z0 (publish s t i ws) := by
  intros; unfold publish
  repeat' (with_reducible first | assumption | apply entryPut_kept | apply raise_kept | exact Kept.refl _ | intro _ | split | refine snd_kept (by assumption) ?_ | refine fst_kept (by assumption) ?_ | refine trd_kept (by assumption) ?_ | simp only [with_kept])

theorem choose_kept : ∀ (s : State) (options : List ℕ) {z0 : State}, Kept z0 s → Kept z0 (choose s options).2 := by
  intros; unfold choose
  repeat' (with_reducible first | assumption | apply fresh_kept | exact Kept.refl _ | intro _ | split | refine snd_kept (by assumption) ?_ | refine fst_kept (by assumption) ?_ | refine trd_kept (by assumption) ?_ | simp only [with_kept])

theorem cuckooPath_kept : ∀ (s : State) (n : ℕ) (cands path : List ℕ) {z : State}, Kept z s → Kept z (cuckooPath s n cands path).2
  | s, 0, cands, path, z, h => by
    have h0 := choose_kept s (cands.filter (fdbFree s)) h
    unfold cuckooPath
    split <;> (rename_i e; rw [e] at h0; exact h0)
  | s, n + 1, cands, path, z, h => by
    have h0 := choose_kept s (cands.filter (fdbFree s)) h
    unfold cuckooPath
    split
    · rename_i e; rw [e] at h0; exact h0
    · rename_i s' e
      rw [e] at h0
      have h1 := choose_kept s' (cands.filter (fun i => (slotOf s 0 i).lock.isNone && !path.contains i)) h0
      split
      · rename_i e1; rw [e1] at h1; exact cuckooPath_kept _ _ _ _ h1
      · rename_i e1; rw [e1] at h1; exact h1
theorem cuckooMoves_kept : ∀ (s : State) (ws : List W64) (l : List ℕ) {z : State}, Kept z s → Kept z (cuckooMoves s ws l)
  | _, _, [], _, h => h
  | _, _, [_], _, h => by unfold cuckooMoves; exact entryPut_kept _ _ _ _ h
  | s, _, i :: j :: t, _, h => by
    unfold cuckooMoves
    exact entryPut_kept _ _ _ _ (cuckooMoves_kept s (slotOf s 0 i).words (j :: t) h)
theorem fdbPlace_kept : ∀ (s : State) (ws : List W64) {z0 : State}, Kept z0 s → Kept z0 (fdbPlace s ws).2 := by
  intros; unfold fdbPlace
  repeat' (with_reducible first | assumption | apply cuckooPath_kept | apply cuckooMoves_kept | exact Kept.refl _ | intro _ | split | refine snd_kept (by assumption) ?_ | refine fst_kept (by assumption) ?_ | refine trd_kept (by assumption) ?_ | simp only [with_kept])

theorem fenQueue_kept : ∀ (s : State) (l : Learning) {z0 : State}, Kept z0 s → Kept z0 (fenQueue s l) := by
  intros; unfold fenQueue
  repeat' (with_reducible first | assumption | apply raise_kept | apply cnt_kept | exact Kept.refl _ | intro _ | split | simp only [with_kept])

theorem learned_kept : ∀ (s : State) (l : Learning) (slot : ℕ) {z0 : State}, Kept z0 s → Kept z0 (learned s l slot) := by
  intros; unfold learned
  repeat' (with_reducible first | assumption | apply fenQueue_kept | exact Kept.refl _ | intro _ | split | simp only [with_kept])

theorem moveConflict_kept : ∀ (s : State) (l : Learning) (port dev : ℕ) {z0 : State}, Kept z0 s → Kept z0 (moveConflict s l port dev) := by
  intros; unfold moveConflict
  repeat' (with_reducible first | assumption | apply raise_kept | apply cnt_kept | exact Kept.refl _ | intro _ | split | simp only [with_kept])

theorem learn_kept : ∀ (s : State) (l : Learning) {z0 : State}, Kept z0 s → Kept z0 (learn s l) := by
  intros; unfold learn
  repeat' (with_reducible first | assumption | apply fdbPlace_kept | apply learned_kept | apply fdbInsFail_kept | apply cnt_kept | apply entryPut_kept | apply moveConflict_kept | apply raise_kept | exact Kept.refl _ | intro _ | split | refine snd_kept (by assumption) ?_ | refine fst_kept (by assumption) ?_ | refine trd_kept (by assumption) ?_ | simp only [with_kept])

theorem learnOrWait_kept : ∀ (s : State) (l : Learning) {z0 : State}, Kept z0 s → Kept z0 (learnOrWait s l) := by
  intros; unfold learnOrWait
  repeat' (with_reducible first | assumption | apply storeStall_kept | apply learn_kept | exact Kept.refl _ | intro _ | split | simp only [with_kept])

theorem learnFrame_kept : ∀ (s : State) (fr : Frame) {z0 : State}, Kept z0 s → Kept z0 (learnFrame s fr) := by
  intros; unfold learnFrame
  repeat' (with_reducible first | assumption | apply learnOrWait_kept | exact Kept.refl _ | intro _ | split | refine snd_kept (by assumption) ?_ | refine fst_kept (by assumption) ?_ | refine trd_kept (by assumption) ?_ | simp only [with_kept])

theorem fdbRemove_kept : ∀ (s : State) (i : ℕ) {z0 : State}, Kept z0 s → Kept z0 (fdbRemove s i) := by
  intros; unfold fdbRemove
  repeat' (with_reducible first | assumption | apply entryPut_kept | exact Kept.refl _ | intro _ | split | simp only [with_kept])

theorem fdbAge_kept : ∀ (s : State) (i : ℕ) {z0 : State}, Kept z0 s → Kept z0 (fdbAge s i) := by
  intros; unfold fdbAge
  repeat' (with_reducible first | assumption | apply fdbRemove_kept | apply cnt_kept | exact Kept.refl _ | intro _ | split | simp only [with_kept])

theorem rehashEntry_kept : ∀ (s : State) (i : ℕ) {z0 : State}, Kept z0 s → Kept z0 (rehashEntry s i) := by
  intros; unfold rehashEntry
  repeat' (with_reducible first | assumption | apply cuckooPath_kept | apply cuckooMoves_kept | apply entryPut_kept | apply cnt_kept | exact Kept.refl _ | intro _ | split | refine snd_kept (by assumption) ?_ | refine fst_kept (by assumption) ?_ | refine trd_kept (by assumption) ?_ | simp only [with_kept])

theorem rehashDone_kept : ∀ (s : State) {z0 : State}, Kept z0 s → Kept z0 (rehashDone s) := by
  intros; unfold rehashDone
  repeat' (with_reducible first | assumption | apply rehashEntry_kept | apply wr_kept | apply wf_kept | apply raise_kept | refine foldl_kept _ ?_ ?_ | exact Kept.refl _ | intro _ | split | simp only [with_kept])

theorem rehashStart_kept : ∀ (s : State) {z0 : State}, Kept z0 s → Kept z0 (rehashStart s) := by
  intros; unfold rehashStart
  repeat' (with_reducible first | assumption | apply wf_kept | apply wrn_kept | exact Kept.refl _ | intro _ | split | simp only [with_kept])

theorem parityFail_kept : ∀ (s : State) (t i : ℕ) {z0 : State}, Kept z0 s → Kept z0 (parityFail s t i) := by
  intros; unfold parityFail
  repeat' (with_reducible first | assumption | apply cnt_kept | apply slotPut_kept | apply raise_kept | exact Kept.refl _ | intro _ | split | simp only [with_kept])

theorem tblDataPut_kept : ∀ (s : State) (t : ℕ) (ws : List W64) {z0 : State}, Kept z0 s → Kept z0 (tblDataPut s t ws) := by
  intros; unfold tblDataPut
  repeat' (with_reducible first | assumption | apply wr_kept | refine foldl_kept _ ?_ ?_ | exact Kept.refl _ | intro _ | split | simp only [with_kept])

theorem tblStart_kept : ∀ (s : State) (t op : ℕ) {z0 : State}, Kept z0 s → Kept z0 (tblStart s t op) := by
  intros; unfold tblStart
  repeat' (with_reducible first | assumption | apply wf_kept | exact Kept.refl _ | intro _ | split | simp only [with_kept])

theorem tblRun_kept : ∀ (s : State) (t : ℕ) (c : TblCmd) {z0 : State}, Kept z0 s → Kept z0 (tblRun s t c).2 := by
  intros; unfold tblRun
  repeat' (with_reducible first | assumption | apply wrn_kept | apply tblDataPut_kept | apply publish_kept | apply fdbPlace_kept | apply fdbInsFail_kept | apply fdbRemove_kept | exact Kept.refl _ | intro _ | split | refine snd_kept (by assumption) ?_ | refine fst_kept (by assumption) ?_ | refine trd_kept (by assumption) ?_ | simp only [with_kept])

theorem execFwdParityScan_kept : ∀ (t : Fin 8) (slot : ℕ) (bad : Bool) (s : State) {z0 : State}, Kept z0 s → ∀ (t0 : State), execFwdParityScan t slot bad s = Host.Outcome.next t0 → Kept z0 t0 := by
  intros; rename_i e; unfold execFwdParityScan at e; repeat' split at e
  all_goals obtain rfl := Host.Outcome.next.inj e
  all_goals repeat' (with_reducible first | assumption | apply parityFail_kept | exact Kept.refl _ | intro _ | split | simp only [with_kept])

theorem execInsWindowClose_kept : ∀ (group : Fin 128) (s : State) {z0 : State}, Kept z0 s → ∀ (t0 : State), execInsWindowClose group s = Host.Outcome.next t0 → Kept z0 t0 := by
  intros; rename_i e; unfold execInsWindowClose at e; repeat' split at e
  all_goals obtain rfl := Host.Outcome.next.inj e
  all_goals repeat' (with_reducible first | assumption | exact Kept.refl _ | intro _ | split | refine snd_kept (by assumption) ?_ | refine fst_kept (by assumption) ?_ | refine trd_kept (by assumption) ?_ | simp only [with_kept])

theorem execFdbRehashStart_kept : ∀ (s : State) {z0 : State}, Kept z0 s → ∀ (t0 : State), execFdbRehashStart s = Host.Outcome.next t0 → Kept z0 t0 := by
  intros; rename_i e; unfold execFdbRehashStart at e; repeat' split at e
  all_goals obtain rfl := Host.Outcome.next.inj e
  all_goals repeat' (with_reducible first | assumption | apply rehashStart_kept | exact Kept.refl _ | intro _ | split | simp only [with_kept])

theorem execFdbRehashComplete_kept : ∀ (s : State) {z0 : State}, Kept z0 s → ∀ (t0 : State), execFdbRehashComplete s = Host.Outcome.next t0 → Kept z0 t0 := by
  intros; rename_i e; unfold execFdbRehashComplete at e; repeat' split at e
  all_goals obtain rfl := Host.Outcome.next.inj e
  all_goals repeat' (with_reducible first | assumption | apply rehashDone_kept | exact Kept.refl _ | intro _ | split | simp only [with_kept])

theorem execFdbAgeScan_kept : ∀ (slot : Fin 524288) (s : State) {z0 : State}, Kept z0 s → ∀ (t0 : State), execFdbAgeScan slot s = Host.Outcome.next t0 → Kept z0 t0 := by
  intros; rename_i e; unfold execFdbAgeScan at e; repeat' split at e
  all_goals obtain rfl := Host.Outcome.next.inj e
  all_goals repeat' (with_reducible first | assumption | apply fdbAge_kept | exact Kept.refl _ | intro _ | split | simp only [with_kept])

theorem execLpmRouteEntered_kept : ∀ (s : State) {z0 : State}, Kept z0 s → ∀ (t0 : State), execLpmRouteEntered s = Host.Outcome.next t0 → Kept z0 t0 := by
  intros; rename_i e; unfold execLpmRouteEntered at e; repeat' split at e
  all_goals obtain rfl := Host.Outcome.next.inj e
  all_goals repeat' (with_reducible first | assumption | exact Kept.refl _ | intro _ | split | refine snd_kept (by assumption) ?_ | refine fst_kept (by assumption) ?_ | refine trd_kept (by assumption) ?_ | simp only [with_kept])

theorem execLearnReannounce_kept : ∀ (slot : Fin 524288) (s : State) {z0 : State}, Kept z0 s → ∀ (t0 : State), execLearnReannounce slot s = Host.Outcome.next t0 → Kept z0 t0 := by
  intros; rename_i e; unfold execLearnReannounce at e; repeat' split at e
  all_goals obtain rfl := Host.Outcome.next.inj e
  all_goals repeat' (with_reducible first | assumption | apply fenQueue_kept | exact Kept.refl _ | intro _ | split | refine snd_kept (by assumption) ?_ | refine fst_kept (by assumption) ?_ | refine trd_kept (by assumption) ?_ | simp only [with_kept])

theorem execFwdTblRead_kept : ∀ (t : Fin 8) (s : State) {z0 : State}, Kept z0 s → ∀ (t0 : State), execFwdTblRead t s = Host.Outcome.next t0 → Kept z0 t0 := by
  intros; rename_i e; unfold execFwdTblRead at e; repeat' split at e
  all_goals obtain rfl := Host.Outcome.next.inj e
  all_goals repeat' (with_reducible first | assumption | apply tblStart_kept | exact Kept.refl _ | intro _ | split | simp only [with_kept])

theorem execFwdTblWrite_kept : ∀ (t : Fin 8) (s : State) {z0 : State}, Kept z0 s → ∀ (t0 : State), execFwdTblWrite t s = Host.Outcome.next t0 → Kept z0 t0 := by
  intros; rename_i e; unfold execFwdTblWrite at e; repeat' split at e
  all_goals obtain rfl := Host.Outcome.next.inj e
  all_goals repeat' (with_reducible first | assumption | apply tblStart_kept | exact Kept.refl _ | intro _ | split | simp only [with_kept])

theorem execFwdTblInsert_kept : ∀ (t : Fin 8) (s : State) {z0 : State}, Kept z0 s → ∀ (t0 : State), execFwdTblInsert t s = Host.Outcome.next t0 → Kept z0 t0 := by
  intros; rename_i e; unfold execFwdTblInsert at e; repeat' split at e
  all_goals obtain rfl := Host.Outcome.next.inj e
  all_goals repeat' (with_reducible first | assumption | apply tblStart_kept | exact Kept.refl _ | intro _ | split | simp only [with_kept])

theorem execFwdTblDelete_kept : ∀ (t : Fin 8) (s : State) {z0 : State}, Kept z0 s → ∀ (t0 : State), execFwdTblDelete t s = Host.Outcome.next t0 → Kept z0 t0 := by
  intros; rename_i e; unfold execFwdTblDelete at e; repeat' split at e
  all_goals obtain rfl := Host.Outcome.next.inj e
  all_goals repeat' (with_reducible first | assumption | apply tblStart_kept | exact Kept.refl _ | intro _ | split | simp only [with_kept])

theorem execFwdTblSearch_kept : ∀ (t : Fin 8) (s : State) {z0 : State}, Kept z0 s → ∀ (t0 : State), execFwdTblSearch t s = Host.Outcome.next t0 → Kept z0 t0 := by
  intros; rename_i e; unfold execFwdTblSearch at e; repeat' split at e
  all_goals obtain rfl := Host.Outcome.next.inj e
  all_goals repeat' (with_reducible first | assumption | apply tblStart_kept | exact Kept.refl _ | intro _ | split | simp only [with_kept])

end Sys2Proof.Machine
end

