-- ==== Sys2Proof/Laws/LauterKept.lean ====
section
/-! SUPPORT. What the functions of Lauter.lean keep (Laws/Kept.lean). -/
namespace Sys2Proof.Machine
set_option linter.unusedTactic false
set_option linter.unreachableTactic false
set_option linter.unusedSimpArgs false

theorem countTie_kept : ∀ (s : State) (w : W64) {z0 : State}, Kept z0 s → Kept z0 (countTie s w) := by
  intros; unfold countTie
  repeat' (with_reducible first | assumption | apply cnt_kept | exact Kept.refl _ | intro _ | split | simp only [with_kept])

theorem lauterPublish_kept : ∀ (s : State) (i : ℕ) (even odd : List W64) {z0 : State}, Kept z0 s → Kept z0 (lauterPublish s i even odd) := by
  intros; unfold lauterPublish
  repeat' (with_reducible first | assumption | apply entryPut_kept | exact Kept.refl _ | intro _ | split | simp only [with_kept])

theorem lauterDiscard_kept : ∀ (s : State) (i why : ℕ) {z0 : State}, Kept z0 s → Kept z0 (lauterDiscard s i why) := by
  intros; unfold lauterDiscard
  repeat' (with_reducible first | assumption | apply raise_kept | apply cnt_kept | exact Kept.refl _ | intro _ | split | simp only [with_kept])

theorem setMotion_kept : ∀ (s : State) (i : ℕ) (m : Bool) {z0 : State}, Kept z0 s → Kept z0 (setMotion s i m) := by
  intros; unfold setMotion
  repeat' (with_reducible first | assumption | apply slotPut_kept | exact Kept.refl _ | intro _ | split | simp only [with_kept])

theorem showCursor_kept : ∀ (s : State) (m : Option LauterMove) {z0 : State}, Kept z0 s → Kept z0 (showCursor s m) := by
  intros; unfold showCursor
  repeat' (with_reducible first | assumption | apply wrn_kept | apply setMotion_kept | exact Kept.refl _ | intro _ | split | refine snd_kept (by assumption) ?_ | refine fst_kept (by assumption) ?_ | refine trd_kept (by assumption) ?_ | simp only [with_kept])

theorem lauterResult_kept : ∀ (s : State) (r : ℕ) {z0 : State}, Kept z0 s → Kept z0 (lauterResult s r) := by
  intros; unfold lauterResult
  repeat' (with_reducible first | assumption | apply wf_kept | exact Kept.refl _ | intro _ | split | simp only [with_kept])

theorem lauterDataPut_kept : ∀ (s : State) (i : ℕ) {z0 : State}, Kept z0 s → Kept z0 (lauterDataPut s i) := by
  intros; unfold lauterDataPut
  repeat' (with_reducible first | assumption | apply wr_kept | refine foldl_kept _ ?_ ?_ | exact Kept.refl _ | intro _ | split | simp only [with_kept])

theorem insertBegin_kept : ∀ (s : State) (p : ℕ) {z0 : State}, Kept z0 s → Kept z0 (insertBegin s p) := by
  intros; unfold insertBegin
  repeat' (with_reducible first | assumption | apply lauterResult_kept | apply raise_kept | apply cnt_kept | apply showCursor_kept | apply setMotion_kept | exact Kept.refl _ | intro _ | split | refine snd_kept (by assumption) ?_ | refine fst_kept (by assumption) ?_ | refine trd_kept (by assumption) ?_ | simp only [with_kept])

theorem entryMove_kept : ∀ (s : State) (bad : Bool) {z0 : State}, Kept z0 s → Kept z0 (entryMove s bad) := by
  intros; unfold entryMove
  repeat' (with_reducible first | assumption | apply raise_kept | apply cnt_kept | apply slotPut_kept | apply showCursor_kept | exact Kept.refl _ | intro _ | split | refine snd_kept (by assumption) ?_ | refine fst_kept (by assumption) ?_ | refine trd_kept (by assumption) ?_ | simp only [with_kept])

theorem insertDone_kept : ∀ (s : State) {z0 : State}, Kept z0 s → Kept z0 (insertDone s) := by
  intros; unfold insertDone
  repeat' (with_reducible first | assumption | apply setMotion_kept | apply mirror_kept | apply lauterPublish_kept | apply showCursor_kept | apply lauterResult_kept | exact Kept.refl _ | intro _ | split | refine snd_kept (by assumption) ?_ | refine fst_kept (by assumption) ?_ | refine trd_kept (by assumption) ?_ | simp only [with_kept])

theorem lauterRun_kept : ∀ (s : State) (op : ℕ) {z0 : State}, Kept z0 s → Kept z0 (lauterRun s op) := by
  intros; unfold lauterRun
  repeat' (with_reducible first | assumption | apply lauterResult_kept | apply wf_kept | apply countTie_kept | apply lauterDataPut_kept | apply wrn_kept | apply lauterPublish_kept | apply insertBegin_kept | apply entryPut_kept | exact Kept.refl _ | intro _ | split | refine snd_kept (by assumption) ?_ | refine fst_kept (by assumption) ?_ | refine trd_kept (by assumption) ?_ | simp only [with_kept])

theorem lauterAsleep_kept : ∀ (s : State) (op i : ℕ) {z0 : State}, Kept z0 s → Kept z0 (lauterAsleep s op i) := by
  intros; unfold lauterAsleep
  repeat' (with_reducible first | assumption | apply asleepAccess_kept | apply wrn_kept | apply lauterResult_kept | refine foldl_kept _ ?_ ?_ | exact Kept.refl _ | intro _ | split | simp only [with_kept])

theorem lauterStart_kept : ∀ (s : State) (op : ℕ) {z0 : State}, Kept z0 s → Kept z0 (lauterStart s op) := by
  intros; unfold lauterStart
  repeat' (with_reducible first | assumption | apply wf_kept | apply storeStall_kept | apply lauterRun_kept | apply reach_kept | apply lauterAsleep_kept | exact Kept.refl _ | intro _ | split | refine snd_kept (by assumption) ?_ | refine fst_kept (by assumption) ?_ | refine trd_kept (by assumption) ?_ | simp only [with_kept])

theorem lauterResume_kept : ∀ (s : State) {z0 : State}, Kept z0 s → Kept z0 (lauterResume s) := by
  intros; unfold lauterResume
  repeat' (with_reducible first | assumption | apply lauterRun_kept | exact Kept.refl _ | intro _ | split | refine snd_kept (by assumption) ?_ | refine fst_kept (by assumption) ?_ | refine trd_kept (by assumption) ?_ | simp only [with_kept])

theorem execLauterRead_kept : ∀ (s : State) {z0 : State}, Kept z0 s → ∀ (t0 : State), execLauterRead s = Host.Outcome.next t0 → Kept z0 t0 := by
  intros; rename_i e; unfold execLauterRead at e; repeat' split at e
  all_goals obtain rfl := Host.Outcome.next.inj e
  all_goals repeat' (with_reducible first | assumption | apply lauterStart_kept | exact Kept.refl _ | intro _ | split | simp only [with_kept])

theorem execLauterStep_kept : ∀ (s : State) {z0 : State}, Kept z0 s → ∀ (t0 : State), execLauterStep s = Host.Outcome.next t0 → Kept z0 t0 := by
  intros; rename_i e; unfold execLauterStep at e; repeat' split at e
  all_goals obtain rfl := Host.Outcome.next.inj e
  all_goals repeat' (with_reducible first | assumption | apply lauterStart_kept | exact Kept.refl _ | intro _ | split | simp only [with_kept])

theorem execLauterSearch_kept : ∀ (s : State) {z0 : State}, Kept z0 s → ∀ (t0 : State), execLauterSearch s = Host.Outcome.next t0 → Kept z0 t0 := by
  intros; rename_i e; unfold execLauterSearch at e; repeat' split at e
  all_goals obtain rfl := Host.Outcome.next.inj e
  all_goals repeat' (with_reducible first | assumption | apply lauterStart_kept | exact Kept.refl _ | intro _ | split | simp only [with_kept])

theorem execLauterInsert_kept : ∀ (s : State) {z0 : State}, Kept z0 s → ∀ (t0 : State), execLauterInsert s = Host.Outcome.next t0 → Kept z0 t0 := by
  intros; rename_i e; unfold execLauterInsert at e; repeat' split at e
  all_goals obtain rfl := Host.Outcome.next.inj e
  all_goals repeat' (with_reducible first | assumption | apply lauterStart_kept | exact Kept.refl _ | intro _ | split | simp only [with_kept])

theorem execLauterWrite_kept : ∀ (s : State) {z0 : State}, Kept z0 s → ∀ (t0 : State), execLauterWrite s = Host.Outcome.next t0 → Kept z0 t0 := by
  intros; rename_i e; unfold execLauterWrite at e; repeat' split at e
  all_goals obtain rfl := Host.Outcome.next.inj e
  all_goals repeat' (with_reducible first | assumption | apply lauterStart_kept | exact Kept.refl _ | intro _ | split | simp only [with_kept])

theorem execLauterDelete_kept : ∀ (s : State) {z0 : State}, Kept z0 s → ∀ (t0 : State), execLauterDelete s = Host.Outcome.next t0 → Kept z0 t0 := by
  intros; rename_i e; unfold execLauterDelete at e; repeat' split at e
  all_goals obtain rfl := Host.Outcome.next.inj e
  all_goals repeat' (with_reducible first | assumption | apply lauterStart_kept | exact Kept.refl _ | intro _ | split | simp only [with_kept])

theorem execLauterInsertComplete_kept : ∀ (s : State) {z0 : State}, Kept z0 s → ∀ (t0 : State), execLauterInsertComplete s = Host.Outcome.next t0 → Kept z0 t0 := by
  intros; rename_i e; unfold execLauterInsertComplete at e; repeat' split at e
  all_goals obtain rfl := Host.Outcome.next.inj e
  all_goals repeat' (with_reducible first | assumption | apply insertDone_kept | exact Kept.refl _ | intro _ | split | simp only [with_kept])

theorem execLauterEntryMove_kept : ∀ (bad : Bool) (s : State) {z0 : State}, Kept z0 s → ∀ (t0 : State), execLauterEntryMove bad s = Host.Outcome.next t0 → Kept z0 t0 := by
  intros; rename_i e; unfold execLauterEntryMove at e; repeat' split at e
  all_goals obtain rfl := Host.Outcome.next.inj e
  all_goals repeat' (with_reducible first | assumption | apply entryMove_kept | exact Kept.refl _ | intro _ | split | simp only [with_kept])

theorem execLauterStepComplete_kept : ∀ (s : State) {z0 : State}, Kept z0 s → ∀ (t0 : State), execLauterStepComplete s = Host.Outcome.next t0 → Kept z0 t0 := by
  intros; rename_i e; unfold execLauterStepComplete at e; repeat' split at e
  all_goals obtain rfl := Host.Outcome.next.inj e
  all_goals repeat' (with_reducible first | assumption | apply emit_kept | apply raise_kept | apply lauterResult_kept | refine foldl_kept _ ?_ ?_ | exact Kept.refl _ | intro _ | split | refine snd_kept (by assumption) ?_ | refine fst_kept (by assumption) ?_ | refine trd_kept (by assumption) ?_ | simp only [with_kept])

theorem execLauterParityScan_kept : ∀ (slot : Fin 65536) (bad : Bool) (s : State) {z0 : State}, Kept z0 s → ∀ (t0 : State), execLauterParityScan slot bad s = Host.Outcome.next t0 → Kept z0 t0 := by
  intros; rename_i e; unfold execLauterParityScan at e; repeat' split at e
  all_goals obtain rfl := Host.Outcome.next.inj e
  all_goals repeat' (with_reducible first | assumption | apply wrn_kept | apply raise_kept | apply cnt_kept | apply slotPut_kept | exact Kept.refl _ | intro _ | split | simp only [with_kept])

end Sys2Proof.Machine
end

