-- ==== Sys2Proof/Laws/MereKept.lean ====
section
/-! SUPPORT. What the functions of Mere.lean keep (Laws/Kept.lean). -/
namespace Sys2Proof.Machine
set_option linter.unusedTactic false
set_option linter.unreachableTactic false
set_option linter.unusedSimpArgs false

theorem copyMod_kept : ∀ (s : State) (n : ℕ) (g : Copy → Copy) {z0 : State}, Kept z0 s → Kept z0 (copyMod s n g) := by
  intros; unfold copyMod
  repeat' (with_reducible first | assumption | exact Kept.refl _ | intro _ | split | simp only [with_kept])

theorem xingMod_kept : ∀ (s : State) (x : ℕ) (g : Crossing → Crossing) {z0 : State}, Kept z0 s → Kept z0 (xingMod s x g) := by
  intros; unfold xingMod
  repeat' (with_reducible first | assumption | exact Kept.refl _ | intro _ | split | simp only [with_kept])

theorem merePeak_kept : ∀ (s : State) (q : ℕ) {z0 : State}, Kept z0 s → Kept z0 (merePeak s q) := by
  intros; unfold merePeak
  repeat' (with_reducible first | assumption | apply peak_kept | exact Kept.refl _ | intro _ | split | simp only [with_kept])

theorem frameCheck_kept : ∀ (s : State) (f : ℕ) {z0 : State}, Kept z0 s → Kept z0 (frameCheck s f) := by
  intros; unfold frameCheck
  repeat' (with_reducible first | assumption | apply framePut_kept | exact Kept.refl _ | intro _ | split | refine snd_kept (by assumption) ?_ | refine fst_kept (by assumption) ?_ | refine trd_kept (by assumption) ?_ | simp only [with_kept])

theorem copyGone_kept : ∀ (s : State) (n : ℕ) {z0 : State}, Kept z0 s → Kept z0 (copyGone s n) := by
  intros; unfold copyGone
  repeat' (with_reducible first | assumption | apply frameCheck_kept | exact Kept.refl _ | intro _ | split | refine snd_kept (by assumption) ?_ | refine fst_kept (by assumption) ?_ | refine trd_kept (by assumption) ?_ | simp only [with_kept])

theorem dropWaiting_kept : ∀ (s : State) (f : ℕ) {z0 : State}, Kept z0 s → Kept z0 (dropWaiting s f) := by
  intros; unfold dropWaiting
  repeat' (with_reducible first | assumption | apply copyGone_kept | refine foldl_kept _ ?_ ?_ | exact Kept.refl _ | intro _ | split | simp only [with_kept])

theorem useFwd_kept : ∀ (s : State) (x : Fwd) (byHop : Bool) {z0 : State}, Kept z0 s → Kept z0 (useFwd s x byHop).2 := by
  intros; unfold useFwd
  repeat' (with_reducible first | assumption | apply cnt_kept | exact Kept.refl _ | intro _ | split | refine snd_kept (by assumption) ?_ | refine fst_kept (by assumption) ?_ | refine trd_kept (by assumption) ?_ | simp only [with_kept])

theorem destine_kept : ∀ (s : State) (rule : LockRule) (fr : Frame) (dirs : List Directive) {z0 : State}, Kept z0 s → Kept z0 (destine s rule fr dirs).2 := by
  intros; unfold destine
  repeat' (with_reducible first | assumption | apply useFwd_kept | exact Kept.refl _ | intro _ | split | refine snd_kept (by assumption) ?_ | refine fst_kept (by assumption) ?_ | refine trd_kept (by assumption) ?_ | simp only [with_kept])

theorem decideFrame_kept : ∀ (s : State) (rule : LockRule) (fr : Frame) (dirs : List Directive) {z0 : State}, Kept z0 s → Kept z0 (decideFrame s rule fr dirs).2 := by
  intros; unfold decideFrame
  repeat' (with_reducible first | assumption | apply cnt_kept | apply raise_kept | apply destine_kept | exact Kept.refl _ | intro _ | split | refine snd_kept (by assumption) ?_ | refine fst_kept (by assumption) ?_ | refine trd_kept (by assumption) ?_ | simp only [with_kept])

theorem makeCopy_kept : ∀ (s : State) (f : ℕ) (c : Copy) {z0 : State}, Kept z0 s → Kept z0 (makeCopy s f c) := by
  intros; unfold makeCopy
  repeat' (with_reducible first | assumption | exact Kept.refl _ | intro _ | split | simp only [with_kept])

theorem makeCopies_kept : ∀ (s : State) (f : ℕ) (fr : Frame) (dests : List ℕ) (k : ℕ) {z : State}, Kept z s → Kept z (makeCopies s f fr dests k).2 := by
  intro s f fr dests k z h; unfold makeCopies
  refine foldl_kept_snd _ h fun n u p hu => ?_
  repeat' (with_reducible first | assumption | (refine snd_kept (by assumption) ?_; exact hu) | apply makeCopy_kept | apply cnt_kept | intro _ | split)
theorem sampleCount_kept : ∀ (s : State) (key n : ℕ) {z0 : State}, Kept z0 s → Kept z0 (sampleCount s key n).2 := by
  intros; unfold sampleCount
  repeat' (with_reducible first | assumption | exact Kept.refl _ | intro _ | split | simp only [with_kept])

theorem sampleFrame_kept : ∀ (s : State) (f : ℕ) (fr : Frame) (k : ℕ) {z0 : State}, Kept z0 s → Kept z0 (sampleFrame s f fr k) := by
  intros; unfold sampleFrame
  repeat' (with_reducible first | assumption | apply sampleCount_kept | apply makeCopy_kept | apply raise_kept | apply cnt_kept | exact Kept.refl _ | intro _ | split | refine snd_kept (by assumption) ?_ | refine fst_kept (by assumption) ?_ | refine trd_kept (by assumption) ?_ | simp only [with_kept])

theorem applyDisp_kept : ∀ (s : State) (rule : LockRule) (f : ℕ) (fr : Frame) (dirs : List Directive) (d : Disp) {z0 : State}, Kept z0 s → Kept z0 (applyDisp s rule f fr dirs d) := by
  intros; unfold applyDisp
  repeat' (with_reducible first | assumption | apply fresh_kept | apply makeCopies_kept | apply framePut_kept | apply cnt_kept | apply raise_kept | apply frameCheck_kept | apply sampleFrame_kept | exact Kept.refl _ | intro _ | split | refine snd_kept (by assumption) ?_ | refine fst_kept (by assumption) ?_ | refine trd_kept (by assumption) ?_ | simp only [with_kept])

theorem settle_kept : ∀ (s : State) (rule : LockRule) (f : ℕ) {z0 : State}, Kept z0 s → Kept z0 (settle s rule f) := by
  intros; unfold settle
  repeat' (with_reducible first | assumption | apply frameCheck_kept | apply applyDisp_kept | apply decideFrame_kept | exact Kept.refl _ | intro _ | split | refine snd_kept (by assumption) ?_ | refine fst_kept (by assumption) ?_ | refine trd_kept (by assumption) ?_ | simp only [with_kept])

theorem dropFrame_kept : ∀ (s : State) (f : ℕ) {z0 : State}, Kept z0 s → Kept z0 (dropFrame s f) := by
  intros; unfold dropFrame
  repeat' (with_reducible first | assumption | apply dropWaiting_kept | apply frameCheck_kept | apply framePut_kept | exact Kept.refl _ | intro _ | split | refine snd_kept (by assumption) ?_ | refine fst_kept (by assumption) ?_ | refine trd_kept (by assumption) ?_ | simp only [with_kept])

theorem voqEnter_kept : ∀ (s : State) (key cls output : ℕ) {z0 : State}, Kept z0 s → Kept z0 (voqEnter s key cls output) := by
  intros; unfold voqEnter
  repeat' (with_reducible first | assumption | apply copyMod_kept | refine foldl_kept _ ?_ ?_ | exact Kept.refl _ | intro _ | split | refine snd_kept (by assumption) ?_ | refine fst_kept (by assumption) ?_ | refine trd_kept (by assumption) ?_ | simp only [with_kept])

theorem execCopyVoqEnter_kept : ∀ (ingress : Fin 66) (cls : Fin 64) (output : Fin 18) (s : State) {z0 : State}, Kept z0 s → ∀ (t0 : State), execCopyVoqEnter ingress cls output s = Host.Outcome.next t0 → Kept z0 t0 := by
  intros; rename_i e; unfold execCopyVoqEnter at e; repeat' split at e
  all_goals obtain rfl := Host.Outcome.next.inj e
  all_goals repeat' (with_reducible first | assumption | apply voqEnter_kept | exact Kept.refl _ | intro _ | split | simp only [with_kept])

theorem egressCells_kept : ∀ (s : State) (q n : ℕ) (drained : Bool) {z0 : State}, Kept z0 s → Kept z0 (egressCells s q n drained) := by
  intros; unfold egressCells
  repeat' (with_reducible first | assumption | apply accReport_kept | apply wf_kept | exact Kept.refl _ | intro _ | split | simp only [with_kept])

end Sys2Proof.Machine
end

