-- ==== Sys2Proof/Laws/FenSendKept.lean ====
section
/-! SUPPORT. What the functions of FenSend.lean keep (Laws/Kept.lean). -/
namespace Sys2Proof.Machine
set_option linter.unusedTactic false
set_option linter.unreachableTactic false
set_option linter.unusedSimpArgs false

theorem originate_kept : ∀ (s : State) (vid : ℕ) (dst src body : List Byte) (ports : List ℕ) {z0 : State}, Kept z0 s → Kept z0 (originate s vid dst src body ports) := by
  intros; unfold originate
  repeat' (with_reducible first | assumption | apply fresh_kept | apply makeCopies_kept | apply framePut_kept | apply frameCheck_kept | exact Kept.refl _ | intro _ | split | refine snd_kept (by assumption) ?_ | refine fst_kept (by assumption) ?_ | refine trd_kept (by assumption) ?_ | simp only [with_kept])

theorem fenToken_kept : ∀ {s : State} {z0 : State} {y0 : State}, fenToken s = some y0 → Kept z0 s → Kept z0 y0 := by
  intros; rename_i e _; unfold fenToken at e; repeat' (first | split at e | dsimp only at e)
  all_goals first | contradiction | obtain rfl := Option.some.inj e
  all_goals repeat' (with_reducible first | assumption | exact Kept.refl _ | intro _ | split | simp only [with_kept])

theorem fenOut_kept : ∀ (s : State) (msg tag : List Byte) (ports : List ℕ) {z0 : State}, Kept z0 s → Kept z0 (fenOut s msg tag ports) := by
  intros; unfold fenOut
  repeat' (with_reducible first | assumption | apply originate_kept | apply cnt_kept | exact Kept.refl _ | intro _ | split | simp only [with_kept])

theorem fenSend_kept : ∀ {s : State} {type flags count : ℕ} {body : List Byte} {z0 : State} {y0 : State}, fenSend s type flags count body = some y0 → Kept z0 s → Kept z0 y0 := by
  intros; rename_i e _; unfold fenSend at e; repeat' (first | split at e | dsimp only at e)
  all_goals first | contradiction | obtain rfl := Option.some.inj e
  all_goals repeat' (with_reducible first | assumption | refine fenToken_kept (by assumption) ?_ | apply wrn_kept | apply fenOut_kept | exact Kept.refl _ | intro _ | split | refine snd_kept (by assumption) ?_ | refine fst_kept (by assumption) ?_ | refine trd_kept (by assumption) ?_ | simp only [with_kept])

theorem fenResyncPump_kept : ∀ (s : State) {z0 : State}, Kept z0 s → Kept z0 (fenResyncPump s) := by
  intros; unfold fenResyncPump
  repeat' (with_reducible first | assumption | refine fenSend_kept (by assumption) ?_ | exact Kept.refl _ | intro _ | split | refine snd_kept (by assumption) ?_ | refine fst_kept (by assumption) ?_ | refine trd_kept (by assumption) ?_ | simp only [with_kept])

theorem fenResync_kept : ∀ (s : State) {z0 : State}, Kept z0 s → Kept z0 (fenResync s) := by
  intros; unfold fenResync
  repeat' (with_reducible first | assumption | apply fenResyncPump_kept | exact Kept.refl _ | intro _ | split | simp only [with_kept])

end Sys2Proof.Machine
end

