-- ==== Sys2Proof/Laws/DeepKept.lean ====
section
/-! SUPPORT. What the functions of Deep.lean keep (Laws/Kept.lean). -/
namespace Sys2Proof.Machine
set_option linter.unusedTactic false
set_option linter.unreachableTactic false
set_option linter.unusedSimpArgs false

theorem chanPut_kept : ∀ (s : State) (c : ℕ) (x : Chan) {z0 : State}, Kept z0 s → Kept z0 (chanPut s c x) := by
  intros; unfold chanPut
  repeat' (with_reducible first | assumption | exact Kept.refl _ | intro _ | split | simp only [with_kept])

theorem dbankPut_kept : ∀ (s : State) (c b : ℕ) (x : Bank) {z0 : State}, Kept z0 s → Kept z0 (dbankPut s c b x) := by
  intros; unfold dbankPut
  repeat' (with_reducible first | assumption | apply chanPut_kept | exact Kept.refl _ | intro _ | split | simp only [with_kept])

theorem drankPut_kept : ∀ (s : State) (c r : ℕ) (x : Rank) {z0 : State}, Kept z0 s → Kept z0 (drankPut s c r x) := by
  intros; unfold drankPut
  repeat' (with_reducible first | assumption | apply chanPut_kept | exact Kept.refl _ | intro _ | split | simp only [with_kept])

theorem chanEvent_kept : ∀ (s : State) (c k part d1 : ℕ) {z0 : State}, Kept z0 s → Kept z0 (chanEvent s c k part d1) := by
  intros; unfold chanEvent
  repeat' (with_reducible first | assumption | apply raise_kept | exact Kept.refl _ | intro _ | split | simp only [with_kept])

theorem chanPowerSet_kept : ∀ (s : State) (c p : ℕ) {z0 : State}, Kept z0 s → Kept z0 (chanPowerSet s c p) := by
  intros; unfold chanPowerSet
  repeat' (with_reducible first | assumption | apply wf_kept | apply chanPut_kept | exact Kept.refl _ | intro _ | split | simp only [with_kept])

theorem debtSet_kept : ∀ (s : State) (c r : ℕ) (d : ℤ) {z0 : State}, Kept z0 s → Kept z0 (debtSet s c r d) := by
  intros; unfold debtSet
  repeat' (with_reducible first | assumption | apply wf_kept | exact Kept.refl _ | intro _ | split | simp only [with_kept])

theorem debtLimitSet_kept : ∀ (s : State) (c r l : ℕ) {z0 : State}, Kept z0 s → Kept z0 (debtLimitSet s c r l) := by
  intros; unfold debtLimitSet
  repeat' (with_reducible first | assumption | apply wf_kept | exact Kept.refl _ | intro _ | split | simp only [with_kept])

theorem predOutcome_kept : ∀ (s : State) (c b : ℕ) (same : Bool) {z0 : State}, Kept z0 s → Kept z0 (predOutcome s c b same) := by
  intros; unfold predOutcome
  repeat' (with_reducible first | assumption | apply wrn_kept | exact Kept.refl _ | intro _ | split | simp only [with_kept])

theorem closeRow_kept : ∀ (s : State) (c b : ℕ) {z0 : State}, Kept z0 s → Kept z0 (closeRow s c b) := by
  intros; unfold closeRow
  repeat' (with_reducible first | assumption | apply emit_kept | apply dbankPut_kept | exact Kept.refl _ | intro _ | split | simp only [with_kept])

theorem closeForRefresh_kept : ∀ (s : State) (c b : ℕ) {z0 : State}, Kept z0 s → Kept z0 (closeForRefresh s c b) := by
  intros; unfold closeForRefresh
  repeat' (with_reducible first | assumption | apply closeRow_kept | apply cnt_kept | exact Kept.refl _ | intro _ | split | simp only [with_kept])

theorem nrDraw_kept : ∀ (s : State) (c b row : ℕ) {z0 : State}, Kept z0 s → Kept z0 (nrDraw s c b row) := by
  intros; unfold nrDraw
  repeat' (with_reducible first | assumption | apply fresh_kept | apply dbankPut_kept | apply chanEvent_kept | apply cnt_kept | exact Kept.refl _ | intro _ | split | refine snd_kept (by assumption) ?_ | refine fst_kept (by assumption) ?_ | refine trd_kept (by assumption) ?_ | simp only [with_kept])

theorem activateRow_kept : ∀ (s : State) (c b row : ℕ) {z0 : State}, Kept z0 s → Kept z0 (activateRow s c b row) := by
  intros; unfold activateRow
  repeat' (with_reducible first | assumption | apply predOutcome_kept | apply dbankPut_kept | apply cntWrap_kept | apply emit_kept | apply nrDraw_kept | exact Kept.refl _ | intro _ | split | refine snd_kept (by assumption) ?_ | refine fst_kept (by assumption) ?_ | refine trd_kept (by assumption) ?_ | simp only [with_kept])

theorem columnAccess_kept : ∀ (s : State) (c b row : ℕ) {z0 : State}, Kept z0 s → Kept z0 (columnAccess s c b row) := by
  intros; unfold columnAccess
  repeat' (with_reducible first | assumption | apply predOutcome_kept | apply dbankPut_kept | exact Kept.refl _ | intro _ | split | simp only [with_kept])

theorem lineStore_kept : ∀ (s : State) (line : ℕ) (ws : List W64) {z0 : State}, Kept z0 s → Kept z0 (lineStore s line ws) := by
  intros; unfold lineStore
  repeat' (with_reducible first | assumption | exact Kept.refl _ | intro _ | split | simp only [with_kept])

theorem srRequest_kept : ∀ (s : State) (c : ℕ) {z0 : State}, Kept z0 s → Kept z0 (srRequest s c) := by
  intros; unfold srRequest
  repeat' (with_reducible first | assumption | apply chanEvent_kept | apply cnt_kept | apply chanPowerSet_kept | apply giveUp_kept | apply wakeForWork_kept | exact Kept.refl _ | intro _ | split | refine snd_kept (by assumption) ?_ | refine fst_kept (by assumption) ?_ | refine trd_kept (by assumption) ?_ | simp only [with_kept])

theorem queuePeaks_kept : ∀ (s : State) (c : ℕ) {z0 : State}, Kept z0 s → Kept z0 (queuePeaks s c) := by
  intros; unfold queuePeaks
  repeat' (with_reducible first | assumption | apply peak_kept | exact Kept.refl _ | intro _ | split | simp only [with_kept])

theorem deepRead_kept : ∀ (s : State) (line tag : ℕ) (hint : Bool) {z0 : State}, Kept z0 s → Kept z0 (deepRead s line tag hint).2 := by
  intros; unfold deepRead
  repeat' (with_reducible first | assumption | apply touch_kept | apply psPick_kept | apply psRecord_kept | apply cntWrap_kept | apply srRequest_kept | apply queuePeaks_kept | apply chanPut_kept | exact Kept.refl _ | intro _ | split | refine snd_kept (by assumption) ?_ | refine fst_kept (by assumption) ?_ | refine trd_kept (by assumption) ?_ | simp only [with_kept])

theorem deepWrite_kept : ∀ (s : State) (line : ℕ) (words : List W64) {z0 : State}, Kept z0 s → Kept z0 (deepWrite s line words) := by
  intros; unfold deepWrite
  repeat' (with_reducible first | assumption | apply touch_kept | apply srRequest_kept | apply chanPut_kept | apply psPick_kept | apply queuePeaks_kept | exact Kept.refl _ | intro _ | split | refine snd_kept (by assumption) ?_ | refine fst_kept (by assumption) ?_ | refine trd_kept (by assumption) ?_ | simp only [with_kept])

theorem issueColumn_kept : ∀ (s : State) (c : ℕ) (write : Bool) (q : DeepReq) {z0 : State}, Kept z0 s → Kept z0 (issueColumn s c write q) := by
  intros; unfold issueColumn
  repeat' (with_reducible first | assumption | apply chanEvent_kept | apply cntWrap_kept | apply tally_kept | apply emit_kept | apply dbankPut_kept | apply columnAccess_kept | apply chanPut_kept | apply psRecord_kept | apply lineStore_kept | exact Kept.refl _ | intro _ | split | simp only [with_kept])

theorem markReq_kept : ∀ (s : State) (c : ℕ) (q q' : DeepReq) {z0 : State}, Kept z0 s → Kept z0 (markReq s c q q') := by
  intros; unfold markReq
  repeat' (with_reducible first | assumption | apply chanPut_kept | exact Kept.refl _ | intro _ | split | simp only [with_kept])

theorem serveRequest_kept : ∀ (s : State) (c : ℕ) (write : Bool) (q : DeepReq) {z0 : State}, Kept z0 s → Kept z0 (serveRequest s c write q) := by
  intros; unfold serveRequest
  repeat' (with_reducible first | assumption | apply issueColumn_kept | apply activateRow_kept | apply markReq_kept | apply dbankPut_kept | apply predOutcome_kept | apply closeRow_kept | exact Kept.refl _ | intro _ | split | refine snd_kept (by assumption) ?_ | refine fst_kept (by assumption) ?_ | refine trd_kept (by assumption) ?_ | simp only [with_kept])

theorem refreshBank_kept : ∀ (s : State) (c r : ℕ) {z0 : State}, Kept z0 s → Kept z0 (refreshBank s c r) := by
  intros; unfold refreshBank
  repeat' (with_reducible first | assumption | apply emit_kept | apply debtSet_kept | apply drankPut_kept | apply cntWrap_kept | exact Kept.refl _ | intro _ | split | simp only [with_kept])

theorem neighbourRefresh_kept : ∀ (s : State) (c b : ℕ) {z0 : State}, Kept z0 s → Kept z0 (neighbourRefresh s c b) := by
  intros; unfold neighbourRefresh
  repeat' (with_reducible first | assumption | apply emit_kept | apply dbankPut_kept | apply cntWrap_kept | exact Kept.refl _ | intro _ | split | refine snd_kept (by assumption) ?_ | refine fst_kept (by assumption) ?_ | refine trd_kept (by assumption) ?_ | simp only [with_kept])

theorem mustRefresh_kept : ∀ {s : State} {c r : ℕ} {z0 : State} {y0 : State}, mustRefresh s c r = some y0 → Kept z0 s → Kept z0 y0 := by
  intros; rename_i e _; unfold mustRefresh at e; repeat' (first | split at e | dsimp only at e)
  all_goals first | contradiction | obtain rfl := Option.some.inj e
  all_goals repeat' (with_reducible first | assumption | apply closeForRefresh_kept | apply emit_kept | apply cntWrap_kept | apply drankPut_kept | apply refreshBank_kept | refine foldl_kept _ ?_ ?_ | exact Kept.refl _ | intro _ | split | refine snd_kept (by assumption) ?_ | refine fst_kept (by assumption) ?_ | refine trd_kept (by assumption) ?_ | simp only [with_kept])

theorem mayRefresh_kept : ∀ {s : State} {c r : ℕ} {pullIn : Bool} {z0 : State} {y0 : State}, mayRefresh s c r pullIn = some y0 → Kept z0 s → Kept z0 y0 := by
  intros; rename_i e _; unfold mayRefresh at e; repeat' (first | split at e | dsimp only at e)
  all_goals first | contradiction | obtain rfl := Option.some.inj e
  all_goals repeat' (with_reducible first | assumption | apply refreshBank_kept | exact Kept.refl _ | intro _ | split | simp only [with_kept])

theorem demand_kept : ∀ {s : State} {c k : ℕ} {z0 : State} {y0 : State}, demand s c k = some y0 → Kept z0 s → Kept z0 y0 := by
  intro s c k z y e h
  unfold demand at e
  dsimp only at e
  split at e
  · split at e
    · obtain rfl := Option.some.inj e; exact issueColumn_kept _ _ _ _ h
    · exact map_kept (fun _ => issueColumn_kept _ _ _ _ h) e
  · exact findSome_kept (fun _ _ he => mustRefresh_kept he h) e
  · exact map_kept (fun _ => serveRequest_kept _ _ _ _ h) e
  · split at e
    · contradiction
    · exact map_kept (fun _ => neighbourRefresh_kept _ _ _ h) e
  · exact map_kept (fun _ => issueColumn_kept _ _ _ _ h) e
  · exact findSome_kept (fun _ _ he => mayRefresh_kept he h) e
  · exact map_kept (fun _ => serveRequest_kept _ _ _ _ h) e
  · exact findSome_kept (fun _ _ he => mayRefresh_kept he h) e
  · contradiction
theorem slotMode_kept : ∀ (s : State) (c : ℕ) {z0 : State}, Kept z0 s → Kept z0 (slotMode s c) := by
  intros; unfold slotMode
  repeat' (with_reducible first | assumption | apply chanPut_kept | apply wf_kept | exact Kept.refl _ | intro _ | split | simp only [with_kept])

theorem commandSlot_kept : ∀ (s : State) (c : ℕ) (blocked : List ℕ) {z : State}, Kept z s → Kept z (commandSlot s c blocked) := by
  intro s c blocked z h; unfold commandSlot
  split
  · exact h
  · exact getD_kept (slotMode_kept s c h) fun _ e => findSome_kept (fun _ _ he => demand_kept he (slotMode_kept s c h)) e
theorem eyeSet_kept : ∀ (s : State) (c k : ℕ) (e : ℕ × ℕ × ℕ × ℕ) {z0 : State}, Kept z0 s → Kept z0 (eyeSet s c k e) := by
  intros; unfold eyeSet
  repeat' (with_reducible first | assumption | apply chanPut_kept | apply wrn_kept | exact Kept.refl _ | intro _ | split | simp only [with_kept])

theorem showProbe_kept : ∀ (s : State) (c : ℕ) {z0 : State}, Kept z0 s → Kept z0 (showProbe s c) := by
  intros; unfold showProbe
  repeat' (with_reducible first | assumption | apply wf_kept | exact Kept.refl _ | intro _ | split | simp only [with_kept])

theorem probeRead_kept : ∀ (s : State) (c r : ℕ) (pins : List ℕ) {z0 : State}, Kept z0 s → Kept z0 (probeRead s c r pins) := by
  intros; unfold probeRead
  repeat' (with_reducible first | assumption | apply showProbe_kept | apply chanPut_kept | exact Kept.refl _ | intro _ | split | refine snd_kept (by assumption) ?_ | refine fst_kept (by assumption) ?_ | refine trd_kept (by assumption) ?_ | simp only [with_kept])

theorem retrainStart_kept : ∀ (s : State) (c : ℕ) {z0 : State}, Kept z0 s → Kept z0 (retrainStart s c) := by
  intros; unfold retrainStart
  repeat' (with_reducible first | assumption | apply chanPut_kept | apply wf_kept | exact Kept.refl _ | intro _ | split | simp only [with_kept])

theorem retrainAsk_kept : ∀ (s : State) (c : ℕ) (host : Bool) {z0 : State}, Kept z0 s → Kept z0 (retrainAsk s c host) := by
  intros; unfold retrainAsk
  repeat' (with_reducible first | assumption | apply retrainStart_kept | apply wf_kept | apply chanEvent_kept | exact Kept.refl _ | intro _ | split | simp only [with_kept])

theorem laneLook_kept : ∀ (s : State) (c : ℕ) {z0 : State}, Kept z0 s → Kept z0 (laneLook s c) := by
  intros; unfold laneLook
  repeat' (with_reducible first | assumption | apply wrn_kept | apply slackReport_kept | apply chanPut_kept | apply chanEvent_kept | apply retrainAsk_kept | refine foldl_kept _ ?_ ?_ | exact Kept.refl _ | intro _ | split | refine snd_kept (by assumption) ?_ | refine fst_kept (by assumption) ?_ | refine trd_kept (by assumption) ?_ | simp only [with_kept])

theorem probeEnd_kept : ∀ (s : State) (c : ℕ) {z0 : State}, Kept z0 s → Kept z0 (probeEnd s c) := by
  intros; unfold probeEnd
  repeat' (with_reducible first | assumption | apply eyeSet_kept | apply chanEvent_kept | apply chanPut_kept | apply laneLook_kept | apply showProbe_kept | exact Kept.refl _ | intro _ | split | refine snd_kept (by assumption) ?_ | refine fst_kept (by assumption) ?_ | refine trd_kept (by assumption) ?_ | simp only [with_kept])

theorem deepReturn_kept : ∀ (s : State) (c : ℕ) (errors : List (ℕ × ℕ)) {z0 : State}, Kept z0 s → Kept z0 (deepReturn s c errors).2 := by
  intros; unfold deepReturn
  repeat' (with_reducible first | assumption | apply chanPut_kept | apply cnt_kept | apply emit_kept | apply psRecord_kept | apply chanEvent_kept | apply cntWrap_kept | apply probeRead_kept | refine foldl_kept _ ?_ ?_ | exact Kept.refl _ | intro _ | split | refine snd_kept (by assumption) ?_ | refine fst_kept (by assumption) ?_ | refine trd_kept (by assumption) ?_ | simp only [with_kept])

theorem execRowHoldTimeout_kept : ∀ (ch : Fin 64) (bank : Fin 16) (s : State) {z0 : State}, Kept z0 s → ∀ (t0 : State), execRowHoldTimeout ch bank s = Host.Outcome.next t0 → Kept z0 t0 := by
  intros; rename_i e; unfold execRowHoldTimeout at e; repeat' split at e
  all_goals obtain rfl := Host.Outcome.next.inj e
  all_goals repeat' (with_reducible first | assumption | apply closeRow_kept | apply dbankPut_kept | apply predOutcome_kept | refine foldl_kept _ ?_ ?_ | exact Kept.refl _ | intro _ | split | refine snd_kept (by assumption) ?_ | refine fst_kept (by assumption) ?_ | refine trd_kept (by assumption) ?_ | simp only [with_kept])

theorem execHintExpiry_kept : ∀ (ch : Fin 64) (bank : Fin 16) (s : State) {z0 : State}, Kept z0 s → ∀ (t0 : State), execHintExpiry ch bank s = Host.Outcome.next t0 → Kept z0 t0 := by
  intros; rename_i e; unfold execHintExpiry at e; repeat' split at e
  all_goals obtain rfl := Host.Outcome.next.inj e
  all_goals repeat' (with_reducible first | assumption | apply dbankPut_kept | apply closeRow_kept | exact Kept.refl _ | intro _ | split | refine snd_kept (by assumption) ?_ | refine fst_kept (by assumption) ?_ | refine trd_kept (by assumption) ?_ | simp only [with_kept])

theorem execRefreshDue_kept : ∀ (ch : Fin 64) (rank : Fin 2) (s : State) {z0 : State}, Kept z0 s → ∀ (t0 : State), execRefreshDue ch rank s = Host.Outcome.next t0 → Kept z0 t0 := by
  intros; rename_i e; unfold execRefreshDue at e; repeat' split at e
  all_goals obtain rfl := Host.Outcome.next.inj e
  all_goals repeat' (with_reducible first | assumption | apply debtSet_kept | apply drankPut_kept | exact Kept.refl _ | intro _ | split | simp only [with_kept])

theorem mr4Poll_kept : ∀ (s : State) (c r v : ℕ) {z0 : State}, Kept z0 s → Kept z0 (mr4Poll s c r v) := by
  intros; unfold mr4Poll
  repeat' (with_reducible first | assumption | apply wf_kept | apply chanEvent_kept | apply drankPut_kept | apply debtSet_kept | apply debtLimitSet_kept | exact Kept.refl _ | intro _ | split | simp only [with_kept])

theorem execMr4Poll_kept : ∀ (ch : Fin 64) (rank : Fin 2) (value : BitVec 8) (s : State) {z0 : State}, Kept z0 s → ∀ (t0 : State), execMr4Poll ch rank value s = Host.Outcome.next t0 → Kept z0 t0 := by
  intros; rename_i e; unfold execMr4Poll at e; repeat' split at e
  all_goals obtain rfl := Host.Outcome.next.inj e
  all_goals repeat' (with_reducible first | assumption | apply emit_kept | apply mr4Poll_kept | apply drankPut_kept | exact Kept.refl _ | intro _ | split | simp only [with_kept])

theorem execCatchupComplete_kept : ∀ (ch : Fin 64) (rank : Fin 2) (s : State) {z0 : State}, Kept z0 s → ∀ (t0 : State), execCatchupComplete ch rank s = Host.Outcome.next t0 → Kept z0 t0 := by
  intros; rename_i e; unfold execCatchupComplete at e; repeat' split at e
  all_goals obtain rfl := Host.Outcome.next.inj e
  all_goals repeat' (with_reducible first | assumption | apply drankPut_kept | apply debtSet_kept | apply debtLimitSet_kept | apply cnt_kept | apply wf_kept | apply chanEvent_kept | exact Kept.refl _ | intro _ | split | refine snd_kept (by assumption) ?_ | refine fst_kept (by assumption) ?_ | refine trd_kept (by assumption) ?_ | simp only [with_kept])

theorem execNrReseed_kept : ∀ (ch : Fin 64) (s : State) {z0 : State}, Kept z0 s → ∀ (t0 : State), execNrReseed ch s = Host.Outcome.next t0 → Kept z0 t0 := by
  intros; rename_i e; unfold execNrReseed at e; repeat' split at e
  all_goals obtain rfl := Host.Outcome.next.inj e
  all_goals repeat' (with_reducible first | assumption | apply fresh_kept | apply chanPut_kept | exact Kept.refl _ | intro _ | split | refine snd_kept (by assumption) ?_ | refine fst_kept (by assumption) ?_ | refine trd_kept (by assumption) ?_ | simp only [with_kept])

theorem execDeepCorrWindow_kept : ∀ (ch : Fin 64) (s : State) {z0 : State}, Kept z0 s → ∀ (t0 : State), execDeepCorrWindow ch s = Host.Outcome.next t0 → Kept z0 t0 := by
  intros; rename_i e; unfold execDeepCorrWindow at e; repeat' split at e
  all_goals obtain rfl := Host.Outcome.next.inj e
  all_goals repeat' (with_reducible first | assumption | apply chanPut_kept | apply chanEvent_kept | exact Kept.refl _ | intro _ | split | simp only [with_kept])

theorem execDqsOscRead_kept : ∀ (ch : Fin 64) (rank : Fin 2) (count : BitVec 16) (shift : ℤ) (s : State) {z0 : State}, Kept z0 s → ∀ (t0 : State), execDqsOscRead ch rank count shift s = Host.Outcome.next t0 → Kept z0 t0 := by
  intros; rename_i e; unfold execDqsOscRead at e; repeat' split at e
  all_goals obtain rfl := Host.Outcome.next.inj e
  all_goals repeat' (with_reducible first | assumption | apply emit_kept | apply wf_kept | apply drankPut_kept | apply eyeSet_kept | refine foldl_kept _ ?_ ?_ | exact Kept.refl _ | intro _ | split | refine snd_kept (by assumption) ?_ | refine fst_kept (by assumption) ?_ | refine trd_kept (by assumption) ?_ | simp only [with_kept])

theorem execProbeWindowEnd_kept : ∀ (ch : Fin 64) (s : State) {z0 : State}, Kept z0 s → ∀ (t0 : State), execProbeWindowEnd ch s = Host.Outcome.next t0 → Kept z0 t0 := by
  intros; rename_i e; unfold execProbeWindowEnd at e; repeat' split at e
  all_goals obtain rfl := Host.Outcome.next.inj e
  all_goals repeat' (with_reducible first | assumption | apply probeEnd_kept | exact Kept.refl _ | intro _ | split | simp only [with_kept])

theorem execZqStart_kept : ∀ (ch : Fin 64) (rank : Fin 2) (s : State) {z0 : State}, Kept z0 s → ∀ (t0 : State), execZqStart ch rank s = Host.Outcome.next t0 → Kept z0 t0 := by
  intros; rename_i e; unfold execZqStart at e; repeat' split at e
  all_goals obtain rfl := Host.Outcome.next.inj e
  all_goals repeat' (with_reducible first | assumption | apply emit_kept | apply drankPut_kept | exact Kept.refl _ | intro _ | split | simp only [with_kept])

theorem execZqLatch_kept : ∀ (ch : Fin 64) (rank : Fin 2) (s : State) {z0 : State}, Kept z0 s → ∀ (t0 : State), execZqLatch ch rank s = Host.Outcome.next t0 → Kept z0 t0 := by
  intros; rename_i e; unfold execZqLatch at e; repeat' split at e
  all_goals obtain rfl := Host.Outcome.next.inj e
  all_goals repeat' (with_reducible first | assumption | apply emit_kept | apply drankPut_kept | exact Kept.refl _ | intro _ | split | refine snd_kept (by assumption) ?_ | refine fst_kept (by assumption) ?_ | refine trd_kept (by assumption) ?_ | simp only [with_kept])

theorem deepCommand_kept : ∀ (s : State) (c v data : ℕ) {z0 : State}, Kept z0 s → Kept z0 (deepCommand s c v data) := by
  intros; unfold deepCommand
  repeat' (with_reducible first | assumption | apply regWrite_kept | apply retrainAsk_kept | apply wf_kept | apply emit_kept | apply drankPut_kept | exact Kept.refl _ | intro _ | split | refine snd_kept (by assumption) ?_ | refine fst_kept (by assumption) ?_ | refine trd_kept (by assumption) ?_ | simp only [with_kept])

theorem execRetrainComplete_kept : ∀ (ch : Fin 64) (eyes : List (ℕ × ℕ × ℕ × ℕ)) (s : State) {z0 : State}, Kept z0 s → ∀ (t0 : State), execRetrainComplete ch eyes s = Host.Outcome.next t0 → Kept z0 t0 := by
  intros; rename_i e; unfold execRetrainComplete at e; repeat' split at e
  all_goals obtain rfl := Host.Outcome.next.inj e
  all_goals repeat' (with_reducible first | assumption | apply eyeSet_kept | apply chanPut_kept | apply wf_kept | apply laneLook_kept | apply chanEvent_kept | refine foldl_kept _ ?_ ?_ | exact Kept.refl _ | intro _ | split | refine snd_kept (by assumption) ?_ | refine fst_kept (by assumption) ?_ | refine trd_kept (by assumption) ?_ | simp only [with_kept])

theorem execInitialTrainingComplete_kept : ∀ (ch : Fin 64) (failed : Option (Fin 9 × Fin 16)) (eyes : List (ℕ × ℕ × ℕ × ℕ)) (counts : List (BitVec 16)) (s : State) {z0 : State}, Kept z0 s → ∀ (t0 : State), execInitialTrainingComplete ch failed eyes counts s = Host.Outcome.next t0 → Kept z0 t0 := by
  intros; rename_i e; unfold execInitialTrainingComplete at e; repeat' split at e
  all_goals obtain rfl := Host.Outcome.next.inj e
  all_goals repeat' (with_reducible first | assumption | apply wf_kept | apply chanEvent_kept | apply eyeSet_kept | apply drankPut_kept | apply debtLimitSet_kept | apply chanPut_kept | apply laneLook_kept | apply showProbe_kept | refine foldl_kept _ ?_ ?_ | exact Kept.refl _ | intro _ | split | refine snd_kept (by assumption) ?_ | refine fst_kept (by assumption) ?_ | refine trd_kept (by assumption) ?_ | simp only [with_kept])

theorem execSrQueuesEmpty_kept : ∀ (ch : Fin 64) (s : State) {z0 : State}, Kept z0 s → ∀ (t0 : State), execSrQueuesEmpty ch s = Host.Outcome.next t0 → Kept z0 t0 := by
  intros; rename_i e; unfold execSrQueuesEmpty at e; repeat' split at e
  all_goals obtain rfl := Host.Outcome.next.inj e
  all_goals repeat' (with_reducible first | assumption | apply closeForRefresh_kept | apply emit_kept | apply debtSet_kept | apply cntWrap_kept | apply chanPowerSet_kept | refine foldl_kept _ ?_ ?_ | exact Kept.refl _ | intro _ | split | simp only [with_kept])

theorem execSrPrechargeComplete_kept : ∀ (ch : Fin 64) (s : State) {z0 : State}, Kept z0 s → ∀ (t0 : State), execSrPrechargeComplete ch s = Host.Outcome.next t0 → Kept z0 t0 := by
  intros; rename_i e; unfold execSrPrechargeComplete at e; repeat' split at e
  all_goals obtain rfl := Host.Outcome.next.inj e
  all_goals repeat' (with_reducible first | assumption | apply emit_kept | apply chanEvent_kept | apply chanPowerSet_kept | refine foldl_kept _ ?_ ?_ | exact Kept.refl _ | intro _ | split | simp only [with_kept])

theorem execSrExitComplete_kept : ∀ (ch : Fin 64) (s : State) {z0 : State}, Kept z0 s → ∀ (t0 : State), execSrExitComplete ch s = Host.Outcome.next t0 → Kept z0 t0 := by
  intros; rename_i e; unfold execSrExitComplete at e; repeat' split at e
  all_goals obtain rfl := Host.Outcome.next.inj e
  all_goals repeat' (with_reducible first | assumption | apply debtSet_kept | apply emit_kept | apply chanEvent_kept | apply chanPowerSet_kept | refine foldl_kept _ ?_ ?_ | exact Kept.refl _ | intro _ | split | simp only [with_kept])

end Sys2Proof.Machine
end

