-- ==== Sys2Proof/Laws/CaskStoreKept.lean ====
section
/-! SUPPORT. What the functions of CaskStore.lean keep (Laws/Kept.lean). -/
namespace Sys2Proof.Machine
set_option linter.unusedTactic false
set_option linter.unreachableTactic false
set_option linter.unusedSimpArgs false

theorem setWaysPut_kept : ∀ (s : State) (set : ℕ) (ws : List Way) {z0 : State}, Kept z0 s → Kept z0 (setWaysPut s set ws) := by
  intros; unfold setWaysPut
  repeat' (with_reducible first | assumption | exact Kept.refl _ | intro _ | split | simp only [with_kept])

theorem wayMod_kept : ∀ (s : State) (line : ℕ) (f : Way → Way) {z0 : State}, Kept z0 s → Kept z0 (wayMod s line f) := by
  intros; unfold wayMod
  repeat' (with_reducible first | assumption | apply setWaysPut_kept | exact Kept.refl _ | intro _ | split | refine snd_kept (by assumption) ?_ | refine fst_kept (by assumption) ?_ | refine trd_kept (by assumption) ?_ | simp only [with_kept])

theorem wayTouch_kept : ∀ (s : State) (line : ℕ) {z0 : State}, Kept z0 s → Kept z0 (wayTouch s line) := by
  intros; unfold wayTouch
  repeat' (with_reducible first | assumption | apply setWaysPut_kept | apply touch_kept | exact Kept.refl _ | intro _ | split | refine snd_kept (by assumption) ?_ | refine fst_kept (by assumption) ?_ | refine trd_kept (by assumption) ?_ | simp only [with_kept])

theorem wayDrop_kept : ∀ (s : State) (line : ℕ) {z0 : State}, Kept z0 s → Kept z0 (wayDrop s line) := by
  intros; unfold wayDrop
  repeat' (with_reducible first | assumption | apply setWaysPut_kept | exact Kept.refl _ | intro _ | split | refine snd_kept (by assumption) ?_ | refine fst_kept (by assumption) ?_ | refine trd_kept (by assumption) ?_ | simp only [with_kept])

theorem mirrorRec_kept : ∀ (s : State) (line : ℕ) (old new : List W64) {z0 : State}, Kept z0 s → Kept z0 (mirrorRec s line old new) := by
  intros; unfold mirrorRec
  repeat' (with_reducible first | assumption | apply mirror_kept | exact Kept.refl _ | intro _ | split | simp only [with_kept])

theorem writeLines_kept : ∀ (s : State) (line : ℕ) (ws : List W64) {z0 : State}, Kept z0 s → Kept z0 (writeLines s line ws) := by
  intros; unfold writeLines
  repeat' (with_reducible first | assumption | apply deepWrite_kept | exact Kept.refl _ | intro _ | split | simp only [with_kept])

theorem batchMove_kept : ∀ (s : State) (src dst : ℕ) {z0 : State}, Kept z0 s → Kept z0 (batchMove s src dst) := by
  intros; unfold batchMove
  repeat' (with_reducible first | assumption | exact Kept.refl _ | intro _ | split | simp only [with_kept])

theorem moveRecord_kept : ∀ (s : State) (src dst : ℕ) {z0 : State}, Kept z0 s → Kept z0 (moveRecord s src dst) := by
  intros; unfold moveRecord
  repeat' (with_reducible first | assumption | apply writeLines_kept | apply wayMod_kept | apply mirrorRec_kept | apply mirror_kept | apply batchMove_kept | exact Kept.refl _ | intro _ | split | simp only [with_kept])

theorem writeBack_kept : ∀ (s : State) (line : ℕ) (ws : List W64) {z0 : State}, Kept z0 s → Kept z0 (writeBack s line ws).2 := by
  intros; unfold writeBack
  repeat' (with_reducible first | assumption | apply writeLines_kept | apply mirror_kept | apply mirrorRec_kept | apply batchMove_kept | exact Kept.refl _ | intro _ | split | refine snd_kept (by assumption) ?_ | refine fst_kept (by assumption) ?_ | refine trd_kept (by assumption) ?_ | simp only [with_kept])

theorem evict_kept : ∀ (s : State) (w : Way) {z0 : State}, Kept z0 s → Kept z0 (evict s w) := by
  intros; unfold evict
  repeat' (with_reducible first | assumption | apply wayDrop_kept | apply writeBack_kept | exact Kept.refl _ | intro _ | split | simp only [with_kept])

theorem makeRoom_kept : ∀ {a : ℕ} {s : State} {i j : ℕ} {z : State} {y : State}, makeRoom a s i j = some y → Kept z s → Kept z y
  | 0, _, _, _, _, _, e, _ => by simp [makeRoom] at e
  | fuel + 1, s, i, j, z, y, e, h => by
    unfold makeRoom at e
    dsimp only at e
    split at e
    · obtain rfl := Option.some.inj e; exact h
    · split at e
      · exact makeRoom_kept e (evict_kept _ _ h)
      · contradiction
theorem allocate_kept : ∀ (s : State) (set line : ℕ) (ws : List W64) (dirty : Bool) {z0 : State}, Kept z0 s → Kept z0 (allocate s set line ws dirty).2 := by
  intros; unfold allocate
  repeat' (with_reducible first | assumption | refine makeRoom_kept (by assumption) ?_ | apply setWaysPut_kept | apply touch_kept | exact Kept.refl _ | intro _ | split | refine snd_kept (by assumption) ?_ | refine fst_kept (by assumption) ?_ | refine trd_kept (by assumption) ?_ | simp only [with_kept])

theorem admitFixed_kept : ∀ (s : State) (line : ℕ) {z0 : State}, Kept z0 s → Kept z0 (admitFixed s line).2 := by
  intros; unfold admitFixed
  repeat' (with_reducible first | assumption | apply allocate_kept | exact Kept.refl _ | intro _ | split | refine snd_kept (by assumption) ?_ | refine fst_kept (by assumption) ?_ | refine trd_kept (by assumption) ?_ | simp only [with_kept])

theorem pinRefused_kept : ∀ (s : State) (line : ℕ) {z0 : State}, Kept z0 s → Kept z0 (pinRefused s line) := by
  intros; unfold pinRefused
  repeat' (with_reducible first | assumption | apply raise_kept | apply cnt_kept | exact Kept.refl _ | intro _ | split | refine snd_kept (by assumption) ?_ | refine fst_kept (by assumption) ?_ | refine trd_kept (by assumption) ?_ | simp only [with_kept])

theorem setOver_kept : ∀ (s : State) (set was : ℕ) {z0 : State}, Kept z0 s → Kept z0 (setOver s set was) := by
  intros; unfold setOver
  repeat' (with_reducible first | assumption | apply raise_kept | apply cnt_kept | exact Kept.refl _ | intro _ | split | simp only [with_kept])

theorem putVersion_kept : ∀ (s : State) (line : ℕ) (ws : List W64) (more : Bool) {z0 : State}, Kept z0 s → Kept z0 (putVersion s line ws more) := by
  intros; unfold putVersion
  repeat' (with_reducible first | assumption | apply wayTouch_kept | apply wayMod_kept | apply writeBack_kept | exact Kept.refl _ | intro _ | split | simp only [with_kept])

theorem commitLine_kept : ∀ (s : State) (line : ℕ) (old new : List W64) (more quiet : Bool) {z0 : State}, Kept z0 s → Kept z0 (commitLine s line old new more quiet) := by
  intros; unfold commitLine
  repeat' (with_reducible first | assumption | apply mirrorRec_kept | apply putVersion_kept | exact Kept.refl _ | intro _ | split | simp only [with_kept])

theorem commitDelete_kept : ∀ (s : State) (line : ℕ) (more : Bool) {z0 : State}, Kept z0 s → Kept z0 (commitDelete s line more) := by
  intros; unfold commitDelete
  repeat' (with_reducible first | assumption | apply mirrorRec_kept | apply wayMod_kept | apply wayDrop_kept | apply writeLines_kept | exact Kept.refl _ | intro _ | split | simp only [with_kept])

theorem lineUncorrectable_kept : ∀ (s : State) (line : ℕ) {z0 : State}, Kept z0 s → Kept z0 (lineUncorrectable s line) := by
  intros; unfold lineUncorrectable
  repeat' (with_reducible first | assumption | apply wrn_kept | apply cnt_kept | apply raise_kept | apply lineStore_kept | apply mirror_kept | exact Kept.refl _ | intro _ | split | simp only [with_kept])

theorem wayUncorrectable_kept : ∀ (s : State) (line : ℕ) {z0 : State}, Kept z0 s → Kept z0 (wayUncorrectable s line) := by
  intros; unfold wayUncorrectable
  repeat' (with_reducible first | assumption | apply wayDrop_kept | apply wayMod_kept | apply wrn_kept | apply cnt_kept | apply raise_kept | apply setOver_kept | apply mirrorRec_kept | apply writeLines_kept | exact Kept.refl _ | intro _ | split | refine snd_kept (by assumption) ?_ | refine fst_kept (by assumption) ?_ | refine trd_kept (by assumption) ?_ | simp only [with_kept])

theorem doMoves_kept : ∀ (s : State) (l : List ℕ) {z : State}, Kept z s → Kept z (doMoves s l)
  | _, [], _, h => h
  | _, [_], _, h => h
  | s, _ :: b :: t, _, h => moveRecord_kept _ _ _ (doMoves_kept s (b :: t) h)
theorem placeRecord_kept : ∀ (s : State) (lay h1 h2 : ℕ) {z0 : State}, Kept z0 s → Kept z0 (placeRecord s lay h1 h2).2 := by
  intros; unfold placeRecord
  repeat' (with_reducible first | assumption | apply doMoves_kept | apply cnt_kept | exact Kept.refl _ | intro _ | split | refine snd_kept (by assumption) ?_ | refine fst_kept (by assumption) ?_ | refine trd_kept (by assumption) ?_ | simp only [with_kept])

theorem caskInsFail_kept : ∀ (s : State) (lay h1 : ℕ) {z0 : State}, Kept z0 s → Kept z0 (caskInsFail s lay h1) := by
  intros; unfold caskInsFail
  repeat' (with_reducible first | assumption | apply raise_kept | apply cnt_kept | exact Kept.refl _ | intro _ | split | refine snd_kept (by assumption) ?_ | refine fst_kept (by assumption) ?_ | refine trd_kept (by assumption) ?_ | simp only [with_kept])

end Sys2Proof.Machine
end

