-- ==== Sys2Proof/Laws/EgressKept.lean ====
section
/-! SUPPORT. What the functions of Egress.lean keep (Laws/Kept.lean). -/
namespace Sys2Proof.Machine
set_option linter.unusedTactic false
set_option linter.unreachableTactic false
set_option linter.unusedSimpArgs false

theorem heldPeak_kept : ∀ (s : State) {z0 : State}, Kept z0 s → Kept z0 (heldPeak s) := by
  intros; unfold heldPeak
  repeat' (with_reducible first | assumption | apply peak_kept | exact Kept.refl _ | intro _ | split | simp only [with_kept])

theorem shaperTake_kept : ∀ (s : State) (p k wire : ℕ) {z0 : State}, Kept z0 s → Kept z0 (shaperTake s p k wire) := by
  intros; unfold shaperTake
  repeat' (with_reducible first | assumption | apply eportPut_kept | exact Kept.refl _ | intro _ | split | simp only [with_kept])

theorem selectCopy_kept : ∀ (s : State) (p : ℕ) (only : Copy → Bool) {z0 : State}, Kept z0 s → Kept z0 (selectCopy s p only).2 := by
  intros; unfold selectCopy
  repeat' (with_reducible first | assumption | apply eportPut_kept | refine foldl_kept _ ?_ ?_ | exact Kept.refl _ | intro _ | split | refine snd_kept (by assumption) ?_ | refine fst_kept (by assumption) ?_ | refine trd_kept (by assumption) ?_ | simp only [with_kept])

theorem sendBytes_kept : ∀ (s : State) (p : ℕ) (bytes : List Byte) (stomped : Bool) {z0 : State}, Kept z0 s → Kept z0 (sendBytes s p bytes stomped) := by
  intros; unfold sendBytes
  repeat' (with_reducible first | assumption | apply mib_kept | apply emit_kept | apply bwCount_kept | apply lanePut_kept | exact Kept.refl _ | intro _ | split | simp only [with_kept])

theorem endTransmission_kept : ∀ (s : State) (p n wire : ℕ) {z0 : State}, Kept z0 s → Kept z0 (endTransmission s p n wire) := by
  intros; unfold endTransmission
  repeat' (with_reducible first | assumption | apply eportPut_kept | apply copyGone_kept | exact Kept.refl _ | intro _ | split | refine snd_kept (by assumption) ?_ | refine fst_kept (by assumption) ?_ | refine trd_kept (by assumption) ?_ | simp only [with_kept])

theorem cutStomped_kept : ∀ (s : State) (p n sent : ℕ) {z0 : State}, Kept z0 s → Kept z0 (cutStomped s p n sent) := by
  intros; unfold cutStomped
  repeat' (with_reducible first | assumption | apply endTransmission_kept | apply sendBytes_kept | exact Kept.refl _ | intro _ | split | refine snd_kept (by assumption) ?_ | refine fst_kept (by assumption) ?_ | refine trd_kept (by assumption) ?_ | simp only [with_kept])

theorem discardCopy_kept : ∀ (s : State) (n : ℕ) {z0 : State}, Kept z0 s → Kept z0 (discardCopy s n) := by
  intros; unfold discardCopy
  repeat' (with_reducible first | assumption | apply copyGone_kept | apply eportPut_kept | exact Kept.refl _ | intro _ | split | refine snd_kept (by assumption) ?_ | refine fst_kept (by assumption) ?_ | refine trd_kept (by assumption) ?_ | simp only [with_kept])

theorem ptpPlan_kept : ∀ (s : State) (fr : Frame) (p stamp : ℕ) {z0 : State}, Kept z0 s → Kept z0 (ptpPlan s fr p stamp).2 := by
  intros; unfold ptpPlan
  repeat' (with_reducible first | assumption | apply cnt_kept | apply recordResidence_kept | apply takeResidence_kept | apply raise_kept | exact Kept.refl _ | intro _ | split | refine snd_kept (by assumption) ?_ | refine fst_kept (by assumption) ?_ | refine trd_kept (by assumption) ?_ | simp only [with_kept])

theorem dropAt_kept : ∀ (s : State) (n a : ℕ) {z0 : State}, Kept z0 s → Kept z0 (dropAt s n a) := by
  intros; unfold dropAt
  repeat' (with_reducible first | assumption | apply copyGone_kept | apply cnt_kept | exact Kept.refl _ | intro _ | split | simp only [with_kept])

theorem refuseStart_kept : ∀ {s : State} {n : ℕ} {c : Copy} {fr : Frame} {z0 : State} {y0 : State}, refuseStart s n c fr = some y0 → Kept z0 s → Kept z0 y0 := by
  intros; rename_i e _; unfold refuseStart at e; repeat' (first | split at e | dsimp only at e)
  all_goals first | contradiction | obtain rfl := Option.some.inj e
  all_goals repeat' (with_reducible first | assumption | apply dropAt_kept | apply raise_kept | exact Kept.refl _ | intro _ | split | refine snd_kept (by assumption) ?_ | refine fst_kept (by assumption) ?_ | refine trd_kept (by assumption) ?_ | simp only [with_kept])

theorem startCopy_kept : ∀ {s : State} {p n : ℕ} {c : Copy} {fr : Frame} {stamp : ℕ} {z0 : State} {y0 : State}, startCopy s p n c fr stamp = some y0 → Kept z0 s → Kept z0 y0 := by
  intros; rename_i e _; unfold startCopy at e; repeat' (first | split at e | dsimp only at e)
  all_goals first | contradiction | obtain rfl := Option.some.inj e
  all_goals repeat' (with_reducible first | assumption | apply ptpPlan_kept | apply setPn_kept | apply recordStamp_kept | apply shaperTake_kept | apply copyMod_kept | apply eportPut_kept | exact Kept.refl _ | intro _ | split | refine snd_kept (by assumption) ?_ | refine fst_kept (by assumption) ?_ | refine trd_kept (by assumption) ?_ | simp only [with_kept])

theorem poisonCopy_kept : ∀ (s : State) (n : ℕ) (c : Copy) (cell : ℕ) (errs : List (ℕ × Byte)) {z0 : State}, Kept z0 s → Kept z0 (poisonCopy s n c cell errs) := by
  intros; unfold poisonCopy
  repeat' (with_reducible first | assumption | apply cnt_kept | apply raise_kept | apply copyGone_kept | apply xingMod_kept | apply copyMod_kept | exact Kept.refl _ | intro _ | split | simp only [with_kept])

theorem serveFree_kept : ∀ (fuel : ℕ) (s : State) (p stamp : ℕ) (bad : Option (ℕ × List (ℕ × Byte))) {z : State}, Kept z s → Kept z (serveFree fuel s p stamp bad)
  | 0, _, _, _, _, _, h => h
  | fuel + 1, s, p, stamp, bad, z, h => by
    have h0 := selectCopy_kept s p (fun c => (eport s p).preempted.isNone || express s p c.queue) h
    unfold serveFree
    dsimp only
    generalize selectCopy s p (fun c => (eport s p).preempted.isNone || express s p c.queue) = x at *
    obtain ⟨c?, t⟩ := x
    dsimp only at h0
    cases c? with
    | none =>
      dsimp only
      repeat' (with_reducible first | assumption | apply eportPut_kept | apply copyMod_kept | split)
    | some nc =>
      obtain ⟨n, c⟩ := nc
      dsimp only
      split
      · exact h0
      split
      · rename_i e; exact serveFree_kept _ _ _ _ _ (refuseStart_kept e h0)
      obtain _ | ⟨cell, errs⟩ := bad
      · have hb := h0
        dsimp only
        split
        · exact serveFree_kept _ _ _ _ _ hb
        split
        · rename_i e; exact startCopy_kept e hb
        · exact serveFree_kept _ _ _ _ _ (copyGone_kept _ _ (ptpPlan_kept _ _ _ _ hb))
      · have hb := poisonCopy_kept t n c cell errs h0
        dsimp only
        generalize poisonCopy t n c cell errs = u at *
        split
        · exact serveFree_kept _ _ _ _ _ hb
        split
        · rename_i e; exact startCopy_kept e hb
        · exact serveFree_kept _ _ _ _ _ (copyGone_kept _ _ (ptpPlan_kept _ _ _ _ hb))
theorem preempt_kept : ∀ {s : State} {p n sent : ℕ} {z0 : State} {y0 : State}, preempt s p n sent = some y0 → Kept z0 s → Kept z0 y0 := by
  intros; rename_i e _; unfold preempt at e; repeat' (first | split at e | dsimp only at e)
  all_goals first | contradiction | obtain rfl := Option.some.inj e
  all_goals repeat' (with_reducible first | assumption | apply emit_kept | apply cnt_kept | apply copyMod_kept | apply eportPut_kept | exact Kept.refl _ | intro _ | split | refine snd_kept (by assumption) ?_ | refine fst_kept (by assumption) ?_ | refine trd_kept (by assumption) ?_ | simp only [with_kept])

theorem selectOn_kept : ∀ (s : State) (p sub sent : ℕ) (bad : Option (ℕ × List (ℕ × Byte))) {z0 : State}, Kept z0 s → Kept z0 (selectOn s p sub sent bad) := by
  intros; unfold selectOn
  repeat' (with_reducible first | assumption | apply heldPeak_kept | apply serveFree_kept | apply touch_kept | refine preempt_kept (by assumption) ?_ | exact Kept.refl _ | intro _ | split | refine snd_kept (by assumption) ?_ | refine fst_kept (by assumption) ?_ | refine trd_kept (by assumption) ?_ | simp only [with_kept])

theorem completeOn_kept : ∀ (s : State) (p : ℕ) {z0 : State}, Kept z0 s → Kept z0 (completeOn s p) := by
  intros; unfold completeOn
  repeat' (with_reducible first | assumption | apply cutStomped_kept | apply cnt_kept | apply endTransmission_kept | apply sendBytes_kept | exact Kept.refl _ | intro _ | split | refine snd_kept (by assumption) ?_ | refine fst_kept (by assumption) ?_ | refine trd_kept (by assumption) ?_ | simp only [with_kept])

theorem underrunOn_kept : ∀ (s : State) (p sent : ℕ) {z0 : State}, Kept z0 s → Kept z0 (underrunOn s p sent) := by
  intros; unfold underrunOn
  repeat' (with_reducible first | assumption | apply raise_kept | apply cutStomped_kept | apply cnt_kept | exact Kept.refl _ | intro _ | split | refine snd_kept (by assumption) ?_ | refine fst_kept (by assumption) ?_ | refine trd_kept (by assumption) ?_ | simp only [with_kept])

theorem fifoUnderrunOn_kept : ∀ (s : State) (p sent : ℕ) {z0 : State}, Kept z0 s → Kept z0 (fifoUnderrunOn s p sent) := by
  intros; unfold fifoUnderrunOn
  repeat' (with_reducible first | assumption | apply laneEvent_kept | apply mib_kept | apply cutStomped_kept | exact Kept.refl _ | intro _ | split | refine snd_kept (by assumption) ?_ | refine fst_kept (by assumption) ?_ | refine trd_kept (by assumption) ?_ | simp only [with_kept])

theorem cutOff_kept : ∀ (s : State) (p sent : ℕ) {z0 : State}, Kept z0 s → Kept z0 (cutOff s p sent) := by
  intros; unfold cutOff
  repeat' (with_reducible first | assumption | apply mib_kept | apply emit_kept | apply copyGone_kept | apply eportPut_kept | exact Kept.refl _ | intro _ | split | refine snd_kept (by assumption) ?_ | refine fst_kept (by assumption) ?_ | refine trd_kept (by assumption) ?_ | simp only [with_kept])

theorem downOn_kept : ∀ (s : State) (p : ℕ) {z0 : State}, Kept z0 s → Kept z0 (downOn s p) := by
  intros; unfold downOn
  repeat' (with_reducible first | assumption | apply raise_kept | apply copyGone_kept | apply cnt_kept | refine foldl_kept _ ?_ ?_ | exact Kept.refl _ | intro _ | split | refine snd_kept (by assumption) ?_ | refine fst_kept (by assumption) ?_ | refine trd_kept (by assumption) ?_ | simp only [with_kept])

theorem portDown_kept : ∀ (s : State) (p sent : ℕ) {z0 : State}, Kept z0 s → Kept z0 (portDown s p sent) := by
  intros; unfold portDown
  repeat' (with_reducible first | assumption | apply cutOff_kept | apply noteDown_kept | apply downOn_kept | exact Kept.refl _ | intro _ | split | simp only [with_kept])

theorem linkDownOn_kept : ∀ (s : State) (p sent : ℕ) {z0 : State}, Kept z0 s → Kept z0 (linkDownOn s p sent) := by
  intros; unfold linkDownOn
  repeat' (with_reducible first | assumption | apply wf_kept | apply portDown_kept | apply mib_kept | apply laneEvent_kept | exact Kept.refl _ | intro _ | split | simp only [with_kept])

theorem holdTimeouts_kept : ∀ (s : State) {z0 : State}, Kept z0 s → Kept z0 (holdTimeouts s) := by
  intros; unfold holdTimeouts
  repeat' (with_reducible first | assumption | apply raise_kept | apply cnt_kept | apply copyGone_kept | apply copyMod_kept | refine foldl_kept _ ?_ ?_ | exact Kept.refl _ | intro _ | split | refine snd_kept (by assumption) ?_ | refine fst_kept (by assumption) ?_ | refine trd_kept (by assumption) ?_ | simp only [with_kept])

theorem verifyDone_kept : ∀ (s : State) (p : ℕ) (ok : Bool) {z0 : State}, Kept z0 s → Kept z0 (verifyDone s p ok) := by
  intros; unfold verifyDone
  repeat' (with_reducible first | assumption | apply wf_kept | apply raise_kept | exact Kept.refl _ | intro _ | split | simp only [with_kept])

theorem preemptConfig_kept : ∀ (s : State) (p : ℕ) (old : W64) {z0 : State}, Kept z0 s → Kept z0 (preemptConfig s p old) := by
  intros; unfold preemptConfig
  repeat' (with_reducible first | assumption | apply wf_kept | exact Kept.refl _ | intro _ | split | simp only [with_kept])

theorem execTransmissionSelect_kept : ∀ (port : Fin 64) (sub : BitVec 16) (sent : ℕ) (bad : Option (ℕ × List (ℕ × Byte))) (s : State) {z0 : State}, Kept z0 s → ∀ (t0 : State), execTransmissionSelect port sub sent bad s = Host.Outcome.next t0 → Kept z0 t0 := by
  intros; rename_i e; unfold execTransmissionSelect at e; repeat' split at e
  all_goals obtain rfl := Host.Outcome.next.inj e
  all_goals repeat' (with_reducible first | assumption | apply selectOn_kept | exact Kept.refl _ | intro _ | split | simp only [with_kept])

theorem execTransmitComplete_kept : ∀ (port : Fin 64) (s : State) {z0 : State}, Kept z0 s → ∀ (t0 : State), execTransmitComplete port s = Host.Outcome.next t0 → Kept z0 t0 := by
  intros; rename_i e; unfold execTransmitComplete at e; repeat' split at e
  all_goals obtain rfl := Host.Outcome.next.inj e
  all_goals repeat' (with_reducible first | assumption | apply completeOn_kept | exact Kept.refl _ | intro _ | split | simp only [with_kept])

theorem execCtUnderrun_kept : ∀ (port : Fin 64) (sent : ℕ) (s : State) {z0 : State}, Kept z0 s → ∀ (t0 : State), execCtUnderrun port sent s = Host.Outcome.next t0 → Kept z0 t0 := by
  intros; rename_i e; unfold execCtUnderrun at e; repeat' split at e
  all_goals obtain rfl := Host.Outcome.next.inj e
  all_goals repeat' (with_reducible first | assumption | apply underrunOn_kept | exact Kept.refl _ | intro _ | split | simp only [with_kept])

theorem execEgressFifoUnderrun_kept : ∀ (port : Fin 64) (sent : ℕ) (s : State) {z0 : State}, Kept z0 s → ∀ (t0 : State), execEgressFifoUnderrun port sent s = Host.Outcome.next t0 → Kept z0 t0 := by
  intros; rename_i e; unfold execEgressFifoUnderrun at e; repeat' split at e
  all_goals obtain rfl := Host.Outcome.next.inj e
  all_goals repeat' (with_reducible first | assumption | apply fifoUnderrunOn_kept | exact Kept.refl _ | intro _ | split | simp only [with_kept])

theorem execLinkDownTimeout_kept : ∀ (port : Fin 64) (s : State) {z0 : State}, Kept z0 s → ∀ (t0 : State), execLinkDownTimeout port s = Host.Outcome.next t0 → Kept z0 t0 := by
  intros; rename_i e; unfold execLinkDownTimeout at e; repeat' split at e
  all_goals obtain rfl := Host.Outcome.next.inj e
  all_goals repeat' (with_reducible first | assumption | apply downOn_kept | exact Kept.refl _ | intro _ | split | simp only [with_kept])

theorem execHoldTimeout_kept : ∀ (s : State) {z0 : State}, Kept z0 s → ∀ (t0 : State), execHoldTimeout s = Host.Outcome.next t0 → Kept z0 t0 := by
  intros; rename_i e; unfold execHoldTimeout at e; repeat' split at e
  all_goals obtain rfl := Host.Outcome.next.inj e
  all_goals repeat' (with_reducible first | assumption | apply holdTimeouts_kept | exact Kept.refl _ | intro _ | split | simp only [with_kept])

theorem execGateEntryChange_kept : ∀ (port : Fin 64) (s : State) {z0 : State}, Kept z0 s → ∀ (t0 : State), execGateEntryChange port s = Host.Outcome.next t0 → Kept z0 t0 := by
  intros; rename_i e; unfold execGateEntryChange at e; repeat' split at e
  all_goals obtain rfl := Host.Outcome.next.inj e
  all_goals repeat' (with_reducible first | assumption | apply gateMove_kept | exact Kept.refl _ | intro _ | split | simp only [with_kept])

theorem execGclConfigStart_kept : ∀ (port : Fin 64) (s : State) {z0 : State}, Kept z0 s → ∀ (t0 : State), execGclConfigStart port s = Host.Outcome.next t0 → Kept z0 t0 := by
  intros; rename_i e; unfold execGclConfigStart at e; repeat' split at e
  all_goals obtain rfl := Host.Outcome.next.inj e
  all_goals repeat' (with_reducible first | assumption | apply gateBegin_kept | exact Kept.refl _ | intro _ | split | simp only [with_kept])

theorem execPreemptVerifyDone_kept : ∀ (port : Fin 64) (ok : Bool) (s : State) {z0 : State}, Kept z0 s → ∀ (t0 : State), execPreemptVerifyDone port ok s = Host.Outcome.next t0 → Kept z0 t0 := by
  intros; rename_i e; unfold execPreemptVerifyDone at e; repeat' split at e
  all_goals obtain rfl := Host.Outcome.next.inj e
  all_goals repeat' (with_reducible first | assumption | apply verifyDone_kept | exact Kept.refl _ | intro _ | split | simp only [with_kept])

theorem laneCtrl_kept : ∀ (s : State) (l value sent : ℕ) {z0 : State}, Kept z0 s → Kept z0 (laneCtrl s l value sent) := by
  intros; unfold laneCtrl
  repeat' (with_reducible first | assumption | apply wf_kept | apply regWrite_kept | apply linkDownOn_kept | apply noteDown_kept | apply downOn_kept | exact Kept.refl _ | intro _ | split | simp only [with_kept])

theorem execLinkDown_kept : ∀ (lane : Fin 64) (signal lock : Bool) (sent : ℕ) (s : State) {z0 : State}, Kept z0 s → ∀ (t0 : State), execLinkDown lane signal lock sent s = Host.Outcome.next t0 → Kept z0 t0 := by
  intros; rename_i e; unfold execLinkDown at e; repeat' split at e
  all_goals obtain rfl := Host.Outcome.next.inj e
  all_goals repeat' (with_reducible first | assumption | apply wf_kept | apply linkDownOn_kept | exact Kept.refl _ | intro _ | split | simp only [with_kept])

theorem execRemoteFaultReceived_kept : ∀ (lane : Fin 64) (sent : ℕ) (s : State) {z0 : State}, Kept z0 s → ∀ (t0 : State), execRemoteFaultReceived lane sent s = Host.Outcome.next t0 → Kept z0 t0 := by
  intros; rename_i e; unfold execRemoteFaultReceived at e; repeat' split at e
  all_goals obtain rfl := Host.Outcome.next.inj e
  all_goals repeat' (with_reducible first | assumption | apply laneEvent_kept | apply linkDownOn_kept | apply wf_kept | exact Kept.refl _ | intro _ | split | simp only [with_kept])

theorem execSgmiiSpeedChange_kept : ∀ (lane : Fin 64) (speed : Fin 3) (sent : ℕ) (s : State) {z0 : State}, Kept z0 s → ∀ (t0 : State), execSgmiiSpeedChange lane speed sent s = Host.Outcome.next t0 → Kept z0 t0 := by
  intros; rename_i e; unfold execSgmiiSpeedChange at e; repeat' split at e
  all_goals obtain rfl := Host.Outcome.next.inj e
  all_goals repeat' (with_reducible first | assumption | apply linkDownOn_kept | apply laneEvent_kept | apply wf_kept | apply bringUp_kept | exact Kept.refl _ | intro _ | split | simp only [with_kept])

end Sys2Proof.Machine
end

