-- ==== Sys2Proof/Laws/InstallKept.lean ====
section
/-! SUPPORT. What the functions of Install.lean keep (Laws/Kept.lean). -/
namespace Sys2Proof.Machine
set_option linter.unusedTactic false
set_option linter.unreachableTactic false
set_option linter.unusedSimpArgs false

theorem clearRegs_kept : ∀ (s : State) (lo hi : ℕ) {r : State}, Kept r s → Kept r (clearRegs s lo hi) :=
  fun _ _ _ _ h => filter_kept _ h
theorem installHummocks_kept : ∀ (s : State) {z0 : State}, Kept z0 s → Kept z0 (installHummocks s) := by
  intros; unfold installHummocks
  repeat' (with_reducible first | assumption | apply wrn_kept | apply humPut_kept | apply humEnter_kept | refine foldl_kept _ ?_ ?_ | exact Kept.refl _ | intro _ | split | simp only [with_kept])

theorem installLanes_kept : ∀ (s : State) {z0 : State}, Kept z0 s → Kept z0 (installLanes s) := by
  intros; unfold installLanes
  repeat' (with_reducible first | assumption | apply wf_kept | apply linkDownOn_kept | apply wrn_kept | refine foldl_kept _ ?_ ?_ | exact Kept.refl _ | intro _ | split | refine snd_kept (by assumption) ?_ | refine fst_kept (by assumption) ?_ | refine trd_kept (by assumption) ?_ | simp only [with_kept])

theorem installParser_kept : ∀ (s : State) {z0 : State}, Kept z0 s → Kept z0 (installParser s) := by
  intros; unfold installParser
  repeat' (with_reducible first | assumption | apply wrn_kept | apply clearRegs_kept | refine foldl_kept _ ?_ ?_ | exact Kept.refl _ | intro _ | split | simp only [with_kept])

theorem installFwdBlock_kept : ∀ (s : State) {z : State}, Kept z s → Kept z (installFwdBlock s) := by
  intro s z h; unfold installFwdBlock
  have put : ∀ (u : State) (a hi off len : ℕ), Kept z u →
      Kept z (if sec u 0x05 off len = 0 then wrn u a (regReset a).toNat else wf u a hi 0 (sec u 0x05 off len)) := by
    intro u a hi off len hu
    split
    · exact wrn_kept _ _ _ hu
    · exact wf_kept _ _ _ _ _ hu
  extract_lets put' s1 age s2 s3 s4 s5 s6 s7 s8 x apply s9
  have h1 : Kept z s1 := foldl_kept _ h fun u w hu => put _ _ _ _ _ hu
  have h2 : Kept z s2 := wf_kept _ _ _ _ _ h1
  exact wf_kept _ _ _ _ _ (wf_kept _ _ _ _ _ (put _ _ _ _ _ (put _ _ _ _ _ (put _ _ _ _ _ (put _ _ _ _ _ (put _ _ _ _ _ (put _ _ _ _ _ h2)))))))
theorem clearTables_kept : ∀ (s : State) {z0 : State}, Kept z0 s → Kept z0 (clearTables s) := by
  intros; unfold clearTables
  repeat' (with_reducible first | assumption | exact Kept.refl _ | intro _ | split | simp only [with_kept])

theorem lauterInsertNow_kept : ∀ {s : State} {p : ℕ} {even odd : List W64} {z : State} {y : State}, lauterInsertNow s p even odd = some y → Kept z s → Kept z y := by
  intro s p even odd z y e h
  unfold lauterInsertNow at e
  refine map_kept (fun chain => lauterPublish_kept _ _ _ _ ?_) e
  refine foldl_kept _ h fun u m hu => ?_
  dsimp only
  repeat' (with_reducible first | assumption | apply slotPut_kept | intro _ | split)
theorem initEntry_kept : ∀ {s : State} {i : ℕ} {z : State} {y : State}, initEntry s i = some y → Kept z s → Kept z y := by
  intro s i z y e h
  unfold initEntry at e
  dsimp only at e
  repeat' split at e
  all_goals first
    | contradiction
    | exact lauterInsertNow_kept e h
    | (obtain rfl := Option.some.inj e
       repeat' (with_reducible first | assumption | apply lauterPublish_kept | apply publish_kept | refine snd_kept (by assumption) ?_ | apply fdbPlace_kept))
theorem initEntries_kept : ∀ {s : State} {l : List ℕ} {z : State} {y : State}, initEntries s l = Except.ok y → Kept z s → Kept z y
  | s, [], z, y, e, h => by
    unfold initEntries at e
    obtain rfl := Except.ok.inj e; exact h
  | s, i :: t, z, y, e, h => by
    unfold initEntries at e
    split at e
    · rename_i he; exact initEntries_kept e (initEntry_kept he h)
    · contradiction
theorem buildTables_kept : ∀ {s : State} {z : State} {y : State}, buildTables s = Except.ok y → Kept z s → Kept z y := by
  intro s z y e h
  unfold buildTables at e
  dsimp only at e
  generalize hx : initEntries _ _ = x at e
  cases x with
  | error i => cases e
  | ok t =>
    obtain rfl := Except.ok.inj e
    have h0 := initEntries_kept hx (installFwdBlock_kept _ (clearTables_kept _ (wf_kept _ _ _ _ _ h)))
    exact with_kept.mpr (wf_kept _ _ _ _ _ h0)
theorem installDeepMap_kept : ∀ (s : State) (b : List Byte) {z0 : State}, Kept z0 s → Kept z0 (installDeepMap s b) := by
  intros; unfold installDeepMap
  repeat' (with_reducible first | assumption | apply wrn_kept | apply wf_kept | refine foldl_kept _ ?_ ?_ | exact Kept.refl _ | intro _ | split | simp only [with_kept])

theorem installCasks_kept : ∀ (s : State) {z0 : State}, Kept z0 s → Kept z0 (installCasks s) := by
  intros; unfold installCasks
  repeat' (with_reducible first | assumption | apply wrn_kept | refine foldl_kept _ ?_ ?_ | exact Kept.refl _ | intro _ | split | simp only [with_kept])

theorem placeRange_kept : ∀ (s : State) (size n : ℕ) (occupied : List (ℕ × ℕ)) {z0 : State}, Kept z0 s → Kept z0 (placeRange s size n occupied).2 := by
  intros; unfold placeRange
  repeat' (with_reducible first | assumption | apply choose_kept | apply fresh_kept | exact Kept.refl _ | intro _ | split | refine snd_kept (by assumption) ?_ | refine fst_kept (by assumption) ?_ | refine trd_kept (by assumption) ?_ | simp only [with_kept])

theorem placeGraphs_kept : ∀ (s : State) (born : ℕ) (gs : List (ℕ × Graph)) {z0 : State}, Kept z0 s → Kept z0 (placeGraphs s born gs) := by
  intros; unfold placeGraphs
  repeat' (with_reducible first | assumption | apply placeRange_kept | refine foldl_kept _ ?_ ?_ | exact Kept.refl _ | intro _ | split | refine snd_kept (by assumption) ?_ | refine fst_kept (by assumption) ?_ | refine trd_kept (by assumption) ?_ | simp only [with_kept])

theorem egressWrite_kept : ∀ (s : State) (a : ℕ) (v : W64) {z0 : State}, Kept z0 s → Kept z0 (egressWrite s a v) := by
  intros; unfold egressWrite
  repeat' (with_reducible first | assumption | apply regWrite_kept | apply showGates_kept | apply preemptConfig_kept | apply wr_kept | apply gateConfig_kept | apply wf_kept | apply sgateConfig_kept | exact Kept.refl _ | intro _ | split | simp only [with_kept])

theorem egressEntry_kept : ∀ (s : State) (i : ℕ) {z0 : State}, Kept z0 s → Kept z0 (egressEntry s i) := by
  intros; unfold egressEntry
  repeat' (with_reducible first | assumption | apply egressWrite_kept | apply wr_kept | exact Kept.refl _ | intro _ | split | refine snd_kept (by assumption) ?_ | refine fst_kept (by assumption) ?_ | refine trd_kept (by assumption) ?_ | simp only [with_kept])

theorem installEgress_kept : ∀ (s : State) {z0 : State}, Kept z0 s → Kept z0 (installEgress s) := by
  intros; unfold installEgress
  repeat' (with_reducible first | assumption | apply clearRegs_kept | apply egressEntry_kept | refine foldl_kept _ ?_ ?_ | exact Kept.refl _ | intro _ | split | simp only [with_kept])

theorem installTime_kept : ∀ (s : State) {z0 : State}, Kept z0 s → Kept z0 (installTime s) := by
  intros; unfold installTime
  repeat' (with_reducible first | assumption | apply wf_kept | apply wrn_kept | apply clearRegs_kept | refine foldl_kept _ ?_ ?_ | exact Kept.refl _ | intro _ | split | simp only [with_kept])

theorem installTwin_kept : ∀ (s : State) {z0 : State}, Kept z0 s → Kept z0 (installTwin s) := by
  intros; unfold installTwin
  repeat' (with_reducible first | assumption | apply wf_kept | exact Kept.refl _ | intro _ | split | simp only [with_kept])

theorem installFen_kept : ∀ (s : State) {z0 : State}, Kept z0 s → Kept z0 (installFen s) := by
  intros; unfold installFen
  repeat' (with_reducible first | assumption | apply clearRegs_kept | apply wrn_kept | refine foldl_kept _ ?_ ?_ | exact Kept.refl _ | intro _ | split | simp only [with_kept])

theorem installRoutes_kept : ∀ (s : State) {z0 : State}, Kept z0 s → Kept z0 (installRoutes s) := by
  intros; unfold installRoutes
  repeat' (with_reducible first | assumption | apply wf_kept | refine foldl_kept _ ?_ ?_ | exact Kept.refl _ | intro _ | split | simp only [with_kept])

theorem installPolicies_kept : ∀ (s : State) {z0 : State}, Kept z0 s → Kept z0 (installPolicies s) := by
  intros; unfold installPolicies
  repeat' (with_reducible first | assumption | apply wf_kept | exact Kept.refl _ | intro _ | split | simp only [with_kept])

theorem installMere_kept : ∀ (s : State) {z0 : State}, Kept z0 s → Kept z0 (installMere s) := by
  intros; unfold installMere
  repeat' (with_reducible first | assumption | apply wf_kept | refine foldl_kept _ ?_ ?_ | exact Kept.refl _ | intro _ | split | simp only [with_kept])

end Sys2Proof.Machine
end

