-- ==== Sys2Proof/Laws/TwinLinkKept.lean ====
section
/-! SUPPORT. What the functions of TwinLink.lean keep (Laws/Kept.lean). -/
namespace Sys2Proof.Machine
set_option linter.unusedTactic false
set_option linter.unreachableTactic false
set_option linter.unusedSimpArgs false

theorem twinEnter_kept : ∀ (s : State) (st : ℕ) {z0 : State}, Kept z0 s → Kept z0 (twinEnter s st) := by
  intros; unfold twinEnter
  repeat' (with_reducible first | assumption | apply wf_kept | exact Kept.refl _ | intro _ | split | simp only [with_kept])

theorem twinQueue_kept : ∀ (s : State) (frame : List Byte) {z0 : State}, Kept z0 s → Kept z0 (twinQueue s frame) := by
  intros; unfold twinQueue
  repeat' (with_reducible first | assumption | exact Kept.refl _ | intro _ | split | simp only [with_kept])

theorem twinEmit_kept : ∀ (s : State) (lane : ℕ) (frame : List Byte) {z0 : State}, Kept z0 s → Kept z0 (twinEmit s lane frame) := by
  intros; unfold twinEmit
  repeat' (with_reducible first | assumption | apply emit_kept | exact Kept.refl _ | intro _ | split | refine snd_kept (by assumption) ?_ | refine fst_kept (by assumption) ?_ | refine trd_kept (by assumption) ?_ | simp only [with_kept])

theorem twinEvery_kept : ∀ (s : State) (frame : List Byte) {z0 : State}, Kept z0 s → Kept z0 (twinEvery s frame) := by
  intros; unfold twinEvery
  repeat' (with_reducible first | assumption | apply twinEmit_kept | refine foldl_kept _ ?_ ?_ | exact Kept.refl _ | intro _ | split | simp only [with_kept])

theorem twinReject_kept : ∀ (s : State) (type : ℕ) {z0 : State}, Kept z0 s → Kept z0 (twinReject s type) := by
  intros; unfold twinReject
  repeat' (with_reducible first | assumption | apply cnt_kept | apply raise_kept | exact Kept.refl _ | intro _ | split | simp only [with_kept])

theorem twinReceive_kept : ∀ (s : State) (lane : ℕ) (frame : List Byte) (type ctype : ℕ) {z0 : State}, Kept z0 s → Kept z0 (twinReceive s lane frame type ctype).2 := by
  intros; unfold twinReceive
  repeat' (with_reducible first | assumption | apply cntWrap_kept | apply twinReject_kept | exact Kept.refl _ | intro _ | split | simp only [with_kept])

theorem twinHeard_kept : ∀ (s : State) (rx : TwinRx) {z0 : State}, Kept z0 s → Kept z0 (twinHeard s rx) := by
  intros; unfold twinHeard
  repeat' (with_reducible first | assumption | apply wf_kept | exact Kept.refl _ | intro _ | split | simp only [with_kept])

end Sys2Proof.Machine
end

