-- ==== Sys2Proof/Laws/BillKept.lean ====
section
/-! SUPPORT. What the functions of Bill.lean keep (Laws/Kept.lean). -/
namespace Sys2Proof.Machine
set_option linter.unusedTactic false
set_option linter.unreachableTactic false
set_option linter.unusedSimpArgs false

theorem billTo_kept : ∀ (s : State) (st : ℕ) {z0 : State}, Kept z0 s → Kept z0 (billTo s st) := by
  intros; unfold billTo
  repeat' (with_reducible first | assumption | apply wf_kept | exact Kept.refl _ | intro _ | split | simp only [with_kept])

theorem billCode_kept : ∀ (s : State) (r : Refuse) {z0 : State}, Kept z0 s → Kept z0 (billCode s r) := by
  intros; unfold billCode
  repeat' (with_reducible first | assumption | apply wrn_kept | apply wf_kept | exact Kept.refl _ | intro _ | split | simp only [with_kept])

theorem billRefuse_kept : ∀ (s : State) (r : Refuse) (amend : Bool) {z0 : State}, Kept z0 s → Kept z0 (billRefuse s r amend) := by
  intros; unfold billRefuse
  repeat' (with_reducible first | assumption | apply raise_kept | apply cnt_kept | apply billCode_kept | exact Kept.refl _ | intro _ | split | simp only [with_kept])

theorem billBack_kept : ∀ (s : State) {z0 : State}, Kept z0 s → Kept z0 (billBack s) := by
  intros; unfold billBack
  repeat' (with_reducible first | assumption | apply billTo_kept | exact Kept.refl _ | intro _ | split | simp only [with_kept])

theorem setHash_kept : ∀ (s : State) (h : List Byte) {z0 : State}, Kept z0 s → Kept z0 (setHash s h) := by
  intros; unfold setHash
  repeat' (with_reducible first | assumption | apply wrn_kept | refine foldl_kept _ ?_ ?_ | exact Kept.refl _ | intro _ | split | simp only [with_kept])

theorem trialState_kept : ∀ (s : State) (img : List Byte) (secs : List (ℕ × ℕ × ℕ)) (amend : Bool) {z0 : State}, Kept z0 s → Kept z0 (trialState s img secs amend) := by
  intros; unfold trialState
  repeat' (with_reducible first | assumption | exact Kept.refl _ | intro _ | split | simp only [with_kept])

theorem contentCheck_kept : ∀ {s : State} {img : List Byte} {secs : List (ℕ × ℕ × ℕ)} {amend : Bool} {z : State} {y : State}, contentCheck s img secs amend = Except.ok y → Kept z s → Kept z y := by
  intro s img secs amend z y e h
  have h0 := trialState_kept s img secs amend h
  unfold contentCheck at e
  dsimp only at e
  generalize trialState s img secs amend = t at *
  split at e
  · contradiction
  split at e
  · contradiction
  generalize (if amend = true then classChanged s t (nextGen s img secs amend).1 else none) = cc at e
  split at e
  · contradiction
  split at e
  · contradiction
  split at e
  · obtain rfl := Except.ok.inj e; exact h0
  split at e
  · contradiction
  · rename_i hb; obtain rfl := Except.ok.inj e; exact buildTables_kept hb h0
theorem checkImage_kept : ∀ {s : State} {img : List Byte} {amend : Bool} {avail : ℕ} {z : State} {y : List (ℕ × ℕ × ℕ) × State}, checkImage s img amend avail = Except.ok y → Kept z s → Kept z y.2 := by
  intro s img amend avail z y e h
  unfold checkImage at e
  split at e
  · contradiction
  split at e
  · contradiction
  split at e
  · contradiction
  generalize hx : contentCheck _ _ _ _ = x at e
  cases x with
  | error r => cases e
  | ok t =>
    obtain rfl := Except.ok.inj e
    exact contentCheck_kept hx h
theorem stage_kept : ∀ (s : State) (x : Image) {z0 : State}, Kept z0 s → Kept z0 (stage s x) := by
  intros; unfold stage
  repeat' (with_reducible first | assumption | apply billBack_kept | apply billRefuse_kept | apply billTo_kept | apply raise_kept | exact Kept.refl _ | intro _ | split | refine snd_kept (by assumption) ?_ | refine fst_kept (by assumption) ?_ | refine trd_kept (by assumption) ?_ | simp only [with_kept])

theorem acceptedKey_kept : ∀ (s : State) (img : List Byte) (secs : List (ℕ × ℕ × ℕ)) (amend : Bool) {z0 : State}, Kept z0 s → Kept z0 (acceptedKey s img secs amend).2 := by
  intros; unfold acceptedKey
  repeat' (with_reducible first | assumption | apply raise_kept | exact Kept.refl _ | intro _ | split | simp only [with_kept])

theorem firstPass_kept : ∀ (s : State) (img again : List Byte) {z0 : State}, Kept z0 s → Kept z0 (firstPass s img again) := by
  intros; unfold firstPass
  repeat' (with_reducible first | assumption | refine checkImage_kept (by assumption) ?_ | apply billBack_kept | apply billRefuse_kept | apply acceptedKey_kept | apply billTo_kept | apply installDeepMap_kept | apply twinQueue_kept | apply stage_kept | refine foldl_kept _ ?_ ?_ | exact Kept.refl _ | intro _ | split | refine snd_kept (by assumption) ?_ | refine fst_kept (by assumption) ?_ | refine trd_kept (by assumption) ?_ | simp only [with_kept])

theorem installParts_kept : ∀ (s : State) {z0 : State}, Kept z0 s → Kept z0 (installParts s) := by
  intros; unfold installParts
  repeat' (with_reducible first | assumption | apply installParser_kept | apply installLanes_kept | apply installEgress_kept | apply installCasks_kept | apply installMere_kept | apply installPolicies_kept | apply installRoutes_kept | apply installFen_kept | apply installTwin_kept | exact Kept.refl _ | intro _ | split | simp only [with_kept])

theorem installFailed_kept : ∀ (s : State) (r : Refuse) {z0 : State}, Kept z0 s → Kept z0 (installFailed s r) := by
  intros; unfold installFailed
  repeat' (with_reducible first | assumption | apply installParts_kept | apply clearTables_kept | apply wrn_kept | apply setHash_kept | apply billTo_kept | apply billRefuse_kept | apply wf_kept | exact Kept.refl _ | intro _ | split | simp only [with_kept])

theorem installBill_kept : ∀ (s : State) (again : List Byte) {z0 : State}, Kept z0 s → Kept z0 (installBill s again) := by
  intros; unfold installBill
  repeat' (with_reducible first | assumption | apply installFailed_kept | refine buildTables_kept (by assumption) ?_ | apply placeGraphs_kept | apply installTime_kept | apply installHummocks_kept | apply installParts_kept | apply setHash_kept | apply wrn_kept | apply wf_kept | apply fenResync_kept | apply raise_kept | apply billTo_kept | exact Kept.refl _ | intro _ | split | refine snd_kept (by assumption) ?_ | refine fst_kept (by assumption) ?_ | refine trd_kept (by assumption) ?_ | simp only [with_kept])

theorem fetchError_kept : ∀ (s : State) {z0 : State}, Kept z0 s → Kept z0 (fetchError s) := by
  intros; unfold fetchError
  repeat' (with_reducible first | assumption | apply installFailed_kept | apply billBack_kept | apply billRefuse_kept | exact Kept.refl _ | intro _ | split | simp only [with_kept])

theorem applyAmendment_kept : ∀ (s : State) {z0 : State}, Kept z0 s → Kept z0 (applyAmendment s) := by
  intros; unfold applyAmendment
  repeat' (with_reducible first | assumption | apply placeGraphs_kept | apply wf_kept | apply installPolicies_kept | apply setHash_kept | apply wrn_kept | apply raise_kept | apply billTo_kept | refine foldl_kept _ ?_ ?_ | exact Kept.refl _ | intro _ | split | refine snd_kept (by assumption) ?_ | refine fst_kept (by assumption) ?_ | refine trd_kept (by assumption) ?_ | simp only [with_kept])

theorem billAbandon_kept : ∀ (s : State) {z0 : State}, Kept z0 s → Kept z0 (billAbandon s) := by
  intros; unfold billAbandon
  repeat' (with_reducible first | assumption | apply billCode_kept | apply billTo_kept | apply raise_kept | apply cnt_kept | exact Kept.refl _ | intro _ | split | simp only [with_kept])

theorem billOrphan_kept : ∀ (s : State) {z0 : State}, Kept z0 s → Kept z0 (billOrphan s) := by
  intros; unfold billOrphan
  repeat' (with_reducible first | assumption | apply fresh_kept | apply raise_kept | apply billTo_kept | exact Kept.refl _ | intro _ | split | refine snd_kept (by assumption) ?_ | refine fst_kept (by assumption) ?_ | refine trd_kept (by assumption) ?_ | simp only [with_kept])

theorem billCommand_kept : ∀ (s : State) (op : ℕ) {z0 : State}, Kept z0 s → Kept z0 (billCommand s op) := by
  intros; unfold billCommand
  repeat' (with_reducible first | assumption | apply billTo_kept | apply billCode_kept | apply cnt_kept | apply billRefuse_kept | exact Kept.refl _ | intro _ | split | refine snd_kept (by assumption) ?_ | refine fst_kept (by assumption) ?_ | refine trd_kept (by assumption) ?_ | simp only [with_kept])

theorem execBootLoad_kept : ∀ (s : State) {z0 : State}, Kept z0 s → ∀ (t0 : State), execBootLoad s = Host.Outcome.next t0 → Kept z0 t0 := by
  intros; rename_i e; unfold execBootLoad at e; repeat' split at e
  all_goals obtain rfl := Host.Outcome.next.inj e
  all_goals repeat' (with_reducible first | assumption | apply billCommand_kept | exact Kept.refl _ | intro _ | split | simp only [with_kept])

theorem execFullLoadHost_kept : ∀ (s : State) {z0 : State}, Kept z0 s → ∀ (t0 : State), execFullLoadHost s = Host.Outcome.next t0 → Kept z0 t0 := by
  intros; rename_i e; unfold execFullLoadHost at e; repeat' split at e
  all_goals obtain rfl := Host.Outcome.next.inj e
  all_goals repeat' (with_reducible first | assumption | apply billCommand_kept | exact Kept.refl _ | intro _ | split | simp only [with_kept])

theorem execFullLoadFlash_kept : ∀ (s : State) {z0 : State}, Kept z0 s → ∀ (t0 : State), execFullLoadFlash s = Host.Outcome.next t0 → Kept z0 t0 := by
  intros; rename_i e; unfold execFullLoadFlash at e; repeat' split at e
  all_goals obtain rfl := Host.Outcome.next.inj e
  all_goals repeat' (with_reducible first | assumption | apply billCommand_kept | exact Kept.refl _ | intro _ | split | simp only [with_kept])

theorem execAmendmentLoad_kept : ∀ (s : State) {z0 : State}, Kept z0 s → ∀ (t0 : State), execAmendmentLoad s = Host.Outcome.next t0 → Kept z0 t0 := by
  intros; rename_i e; unfold execAmendmentLoad at e; repeat' split at e
  all_goals obtain rfl := Host.Outcome.next.inj e
  all_goals repeat' (with_reducible first | assumption | apply billCommand_kept | exact Kept.refl _ | intro _ | split | simp only [with_kept])

theorem execRestageOrphan_kept : ∀ (s : State) {z0 : State}, Kept z0 s → ∀ (t0 : State), execRestageOrphan s = Host.Outcome.next t0 → Kept z0 t0 := by
  intros; rename_i e; unfold execRestageOrphan at e; repeat' split at e
  all_goals obtain rfl := Host.Outcome.next.inj e
  all_goals repeat' (with_reducible first | assumption | apply billCommand_kept | exact Kept.refl _ | intro _ | split | simp only [with_kept])

theorem execDiscardAmendment_kept : ∀ (s : State) {z0 : State}, Kept z0 s → ∀ (t0 : State), execDiscardAmendment s = Host.Outcome.next t0 → Kept z0 t0 := by
  intros; rename_i e; unfold execDiscardAmendment at e; repeat' split at e
  all_goals obtain rfl := Host.Outcome.next.inj e
  all_goals repeat' (with_reducible first | assumption | apply billCommand_kept | exact Kept.refl _ | intro _ | split | simp only [with_kept])

theorem execFirstPassComplete_kept : ∀ (image again : List Byte) (s : State) {z0 : State}, Kept z0 s → ∀ (t0 : State), execFirstPassComplete image again s = Host.Outcome.next t0 → Kept z0 t0 := by
  intros; rename_i e; unfold execFirstPassComplete at e; repeat' split at e
  all_goals obtain rfl := Host.Outcome.next.inj e
  all_goals repeat' (with_reducible first | assumption | apply firstPass_kept | exact Kept.refl _ | intro _ | split | simp only [with_kept])

theorem execInstallComplete_kept : ∀ (again : List Byte) (s : State) {z0 : State}, Kept z0 s → ∀ (t0 : State), execInstallComplete again s = Host.Outcome.next t0 → Kept z0 t0 := by
  intros; rename_i e; unfold execInstallComplete at e; repeat' split at e
  all_goals obtain rfl := Host.Outcome.next.inj e
  all_goals repeat' (with_reducible first | assumption | apply installBill_kept | exact Kept.refl _ | intro _ | split | simp only [with_kept])

theorem execBillFetchError_kept : ∀ (s : State) {z0 : State}, Kept z0 s → ∀ (t0 : State), execBillFetchError s = Host.Outcome.next t0 → Kept z0 t0 := by
  intros; rename_i e; unfold execBillFetchError at e; repeat' split at e
  all_goals obtain rfl := Host.Outcome.next.inj e
  all_goals repeat' (with_reducible first | assumption | apply fetchError_kept | exact Kept.refl _ | intro _ | split | simp only [with_kept])

end Sys2Proof.Machine
end

