-- ==== Sys2Proof/Laws/CaskHostKept.lean ====
section
/-! SUPPORT. What the functions of CaskHost.lean keep (Laws/Kept.lean). -/
namespace Sys2Proof.Machine
set_option linter.unusedTactic false
set_option linter.unreachableTactic false
set_option linter.unusedSimpArgs false

theorem hostReadReports_kept : ∀ (s : State) (line : ℕ) {z0 : State}, Kept z0 s → Kept z0 (hostReadReports s line) := by
  intros; unfold hostReadReports
  repeat' (with_reducible first | assumption | apply chanEvent_kept | apply cntWrap_kept | apply lineUncorrectable_kept | exact Kept.refl _ | intro _ | split | simp only [with_kept])

theorem caskPublish_kept : ∀ (s : State) (line : ℕ) (ws : List W64) {z0 : State}, Kept z0 s → Kept z0 (caskPublish s line ws) := by
  intros; unfold caskPublish
  repeat' (with_reducible first | assumption | apply commitLine_kept | apply writeLines_kept | apply wayDrop_kept | exact Kept.refl _ | intro _ | split | refine snd_kept (by assumption) ?_ | refine fst_kept (by assumption) ?_ | refine trd_kept (by assumption) ?_ | simp only [with_kept])

theorem caskClear_kept : ∀ (s : State) (line : ℕ) {z0 : State}, Kept z0 s → Kept z0 (caskClear s line) := by
  intros; unfold caskClear
  repeat' (with_reducible first | assumption | apply raise_kept | apply cnt_kept | apply caskPublish_kept | exact Kept.refl _ | intro _ | split | refine snd_kept (by assumption) ?_ | refine fst_kept (by assumption) ?_ | refine trd_kept (by assumption) ?_ | simp only [with_kept])

theorem caskUnlocked_kept : ∀ (s : State) (addr : ℕ) {z0 : State}, Kept z0 s → Kept z0 (caskUnlocked s addr) := by
  intros; unfold caskUnlocked
  repeat' (with_reducible first | assumption | apply accReport_kept | apply cnt_kept | exact Kept.refl _ | intro _ | split | simp only [with_kept])

theorem caskWrite_kept : ∀ (s : State) (line off : ℕ) (data : List Byte) (addr : ℕ) {z0 : State}, Kept z0 s → Kept z0 (caskWrite s line off data addr) := by
  intros; unfold caskWrite
  repeat' (with_reducible first | assumption | apply accReport_kept | apply caskUnlocked_kept | apply caskClear_kept | exact Kept.refl _ | intro _ | split | refine snd_kept (by assumption) ?_ | refine fst_kept (by assumption) ?_ | refine trd_kept (by assumption) ?_ | simp only [with_kept])

theorem caskTake_kept : ∀ (s : State) (line : ℕ) {z0 : State}, Kept z0 s → Kept z0 (caskTake s line).2 := by
  intros; unfold caskTake
  repeat' (with_reducible first | assumption | apply admitFixed_kept | apply cnt_kept | exact Kept.refl _ | intro _ | split | refine snd_kept (by assumption) ?_ | refine fst_kept (by assumption) ?_ | refine trd_kept (by assumption) ?_ | simp only [with_kept])

theorem caskCas_kept : ∀ (s : State) (line : ℕ) (compare swap : W64) (addr : ℕ) {z0 : State}, Kept z0 s → Kept z0 (caskCas s line compare swap addr).2 := by
  intros; unfold caskCas
  repeat' (with_reducible first | assumption | apply hostReadReports_kept | apply accReport_kept | apply caskUnlocked_kept | apply caskTake_kept | apply caskClear_kept | exact Kept.refl _ | intro _ | split | refine snd_kept (by assumption) ?_ | refine fst_kept (by assumption) ?_ | refine trd_kept (by assumption) ?_ | simp only [with_kept])

theorem caskDataPut_kept : ∀ (s : State) (line : ℕ) {z0 : State}, Kept z0 s → Kept z0 (caskDataPut s line) := by
  intros; unfold caskDataPut
  repeat' (with_reducible first | assumption | apply wr_kept | refine foldl_kept _ ?_ ?_ | exact Kept.refl _ | intro _ | split | simp only [with_kept])

theorem repackRow_kept : ∀ (s : State) (g row : ℕ) (wide : Bool) {z0 : State}, Kept z0 s → Kept z0 (repackRow s g row wide) := by
  intros; unfold repackRow
  repeat' (with_reducible first | assumption | apply moveRecord_kept | apply doMoves_kept | refine foldl_kept _ ?_ ?_ | exact Kept.refl _ | intro _ | split | refine snd_kept (by assumption) ?_ | refine fst_kept (by assumption) ?_ | refine trd_kept (by assumption) ?_ | simp only [with_kept])

theorem setPinned_kept : ∀ (s : State) (line : ℕ) (on : Bool) {z0 : State}, Kept z0 s → Kept z0 (setPinned s line on) := by
  intros; unfold setPinned
  repeat' (with_reducible first | assumption | apply mirrorRec_kept | apply wayMod_kept | apply writeBack_kept | exact Kept.refl _ | intro _ | split | simp only [with_kept])

theorem flushCellar_kept : ∀ (s : State) {z0 : State}, Kept z0 s → Kept z0 (flushCellar s) := by
  intros; unfold flushCellar
  repeat' (with_reducible first | assumption | apply writeBack_kept | apply wayMod_kept | refine foldl_kept _ ?_ ?_ | exact Kept.refl _ | intro _ | split | refine snd_kept (by assumption) ?_ | refine fst_kept (by assumption) ?_ | refine trd_kept (by assumption) ?_ | simp only [with_kept])

theorem caskRun_kept : ∀ (s : State) (op line : ℕ) {z0 : State}, Kept z0 s → Kept z0 (caskRun s op line).2 := by
  intros; unfold caskRun
  repeat' (with_reducible first | assumption | apply wrn_kept | apply hostReadReports_kept | apply caskDataPut_kept | apply caskPublish_kept | apply placeRecord_kept | apply caskInsFail_kept | apply commitDelete_kept | apply admitFixed_kept | apply setPinned_kept | apply pinRefused_kept | apply flushCellar_kept | apply repackRow_kept | apply emit_kept | exact Kept.refl _ | intro _ | split | refine snd_kept (by assumption) ?_ | refine fst_kept (by assumption) ?_ | refine trd_kept (by assumption) ?_ | simp only [with_kept])

end Sys2Proof.Machine
end

