-- ==== Sys2Proof/Laws/CaskKept.lean ====
section
/-! SUPPORT. What the functions of Cask.lean keep (Laws/Kept.lean). -/
namespace Sys2Proof.Machine
set_option linter.unusedTactic false
set_option linter.unreachableTactic false
set_option linter.unusedSimpArgs false

theorem ledgerPut_kept : ∀ (s : State) (t : ℕ) (e : Entry) {z0 : State}, Kept z0 s → Kept z0 (ledgerPut s t e) := by
  intros; unfold ledgerPut
  repeat' (with_reducible first | assumption | exact Kept.refl _ | intro _ | split | simp only [with_kept])

theorem ledgerMod_kept : ∀ (s : State) (t : ℕ) (f : Entry → Entry) {z0 : State}, Kept z0 s → Kept z0 (ledgerMod s t f) := by
  intros; unfold ledgerMod
  repeat' (with_reducible first | assumption | exact Kept.refl _ | intro _ | split | simp only [with_kept])

theorem openEntry_kept : ∀ (s : State) (e : Entry) {z0 : State}, Kept z0 s → Kept z0 (openEntry s e).2 := by
  intros; unfold openEntry
  repeat' (with_reducible first | assumption | apply tally_kept | apply cntWrap_kept | apply ledgerPut_kept | apply peak_kept | exact Kept.refl _ | intro _ | split | simp only [with_kept])

theorem giveRecord_kept : ∀ (s : State) (n : ℕ) (rec : Option (List W64)) (created : Bool) {z0 : State}, Kept z0 s → Kept z0 (giveRecord s n rec created) := by
  intros; unfold giveRecord
  repeat' (with_reducible first | assumption | apply runMod_kept | exact Kept.refl _ | intro _ | split | simp only [with_kept])

theorem runFreed_kept : ∀ (s : State) (t n : ℕ) {z0 : State}, Kept z0 s → Kept z0 (runFreed s t n) := by
  intros; unfold runFreed
  repeat' (with_reducible first | assumption | apply runPut_kept | apply tryCommit_kept | exact Kept.refl _ | intro _ | split | refine snd_kept (by assumption) ?_ | refine fst_kept (by assumption) ?_ | refine trd_kept (by assumption) ?_ | simp only [with_kept])

theorem closeEntry_kept : ∀ (s : State) (t : ℕ) {z0 : State}, Kept z0 s → Kept z0 (closeEntry s t).2 := by
  intros; unfold closeEntry
  repeat' (with_reducible first | assumption | apply runFreed_kept | apply writeBack_kept | exact Kept.refl _ | intro _ | split | refine snd_kept (by assumption) ?_ | refine fst_kept (by assumption) ?_ | refine trd_kept (by assumption) ?_ | simp only [with_kept])

theorem recoveryFails_kept : ∀ (s : State) (n f cls policy reason : ℕ) {z0 : State}, Kept z0 s → Kept z0 (recoveryFails s n f cls policy reason) := by
  intros; unfold recoveryFails
  repeat' (with_reducible first | assumption | apply frameMod_kept | apply giveRecord_kept | apply runMod_kept | apply raise_kept | apply cnt_kept | apply frameFate_kept | exact Kept.refl _ | intro _ | split | simp only [with_kept])

theorem fallBack_kept : ∀ (s : State) (e : Entry) (policy reason : ℕ) {z0 : State}, Kept z0 s → Kept z0 (fallBack s e policy reason) := by
  intros; unfold fallBack
  repeat' (with_reducible first | assumption | apply recoveryFails_kept | apply tryCommit_kept | apply giveRecord_kept | apply frameFate_kept | apply dropRun_kept | exact Kept.refl _ | intro _ | split | refine snd_kept (by assumption) ?_ | refine fst_kept (by assumption) ?_ | refine trd_kept (by assumption) ?_ | simp only [with_kept])

theorem issueReads_kept : ∀ (s : State) (t : ℕ) (lines : List ℕ) (hint : Bool) {z0 : State}, Kept z0 s → Kept z0 (issueReads s t lines hint) := by
  intros; unfold issueReads
  repeat' (with_reducible first | assumption | apply deepRead_kept | apply tally_kept | apply cntWrap_kept | apply ledgerMod_kept | apply lineUncorrectable_kept | refine foldl_kept _ ?_ ?_ | exact Kept.refl _ | intro _ | split | refine snd_kept (by assumption) ?_ | refine fst_kept (by assumption) ?_ | refine trd_kept (by assumption) ?_ | simp only [with_kept])

theorem fetchLoop_kept : ∀ (fuel : ℕ) (s : State) (t : ℕ) {z : State}, Kept z s → Kept z (fetchLoop fuel s t).2
  | 0, _, _, _, h => h
  | fuel + 1, s, t, z, h => by
    unfold fetchLoop
    split
    · exact h
    split
    · exact h
    extract_lets n line? words
    clear_value words line? n
    repeat' (with_reducible first | assumption | apply fetchLoop_kept | apply ledgerPut_kept | apply issueReads_kept | split | dsimp only)
theorem enterServe_kept : ∀ (s : State) (t : ℕ) (e : Entry) (line : Option ℕ) (rec : Option (List W64)) (created : Bool) {z0 : State}, Kept z0 s → Kept z0 (enterServe s t e line rec created) := by
  intros; unfold enterServe
  repeat' (with_reducible first | assumption | apply ledgerPut_kept | apply giveRecord_kept | exact Kept.refl _ | intro _ | split | refine snd_kept (by assumption) ?_ | refine fst_kept (by assumption) ?_ | refine trd_kept (by assumption) ?_ | simp only [with_kept])

theorem enterInsert_kept : ∀ (s : State) (t : ℕ) (e : Entry) {z0 : State}, Kept z0 s → Kept z0 (enterInsert s t e) := by
  intros; unfold enterInsert
  repeat' (with_reducible first | assumption | apply ledgerPut_kept | exact Kept.refl _ | intro _ | split | refine snd_kept (by assumption) ?_ | refine fst_kept (by assumption) ?_ | refine trd_kept (by assumption) ?_ | simp only [with_kept])

theorem enterAbsent_kept : ∀ (s : State) (t : ℕ) (e : Entry) {z0 : State}, Kept z0 s → Kept z0 (enterAbsent s t e) := by
  intros; unfold enterAbsent
  repeat' (with_reducible first | assumption | apply enterInsert_kept | apply enterServe_kept | exact Kept.refl _ | intro _ | split | simp only [with_kept])

theorem fetched_kept : ∀ (s : State) (t : ℕ) (e : Entry) (line : ℕ) {z0 : State}, Kept z0 s → Kept z0 (fetched s t e line) := by
  intros; unfold fetched
  repeat' (with_reducible first | assumption | apply cnt_kept | apply ledgerPut_kept | apply allocate_kept | apply enterServe_kept | exact Kept.refl _ | intro _ | split | simp only [with_kept])

theorem hostRun_kept : ∀ (s : State) (e : Entry) (h : HostOp) {z0 : State}, Kept z0 s → Kept z0 (hostRun s e h).2 := by
  intros; unfold hostRun
  repeat' (with_reducible first | assumption | apply hostReadReports_kept | apply emit_kept | apply caskCas_kept | apply caskWrite_kept | apply caskRun_kept | exact Kept.refl _ | intro _ | split | refine snd_kept (by assumption) ?_ | refine fst_kept (by assumption) ?_ | refine trd_kept (by assumption) ?_ | simp only [with_kept])

theorem probeEntry_kept : ∀ (s : State) (t : ℕ) (e : Entry) (wayBad : Bool) {z0 : State}, Kept z0 s → Kept z0 (probeEntry s t e wayBad).2 := by
  intros; unfold probeEntry
  repeat' (with_reducible first | assumption | apply ledgerPut_kept | apply wayUncorrectable_kept | apply fetchLoop_kept | apply tally_kept | apply cntWrap_kept | apply wayTouch_kept | exact Kept.refl _ | intro _ | split | refine snd_kept (by assumption) ?_ | refine fst_kept (by assumption) ?_ | refine trd_kept (by assumption) ?_ | simp only [with_kept])

theorem countDiscard_kept : ∀ (s : State) (t : ℕ) {z0 : State}, Kept z0 s → Kept z0 (countDiscard s t) := by
  intros; unfold countDiscard
  repeat' (with_reducible first | assumption | apply raise_kept | apply tally_kept | apply cnt_kept | exact Kept.refl _ | intro _ | split | simp only [with_kept])

theorem advance_kept : ∀ (fuel : ℕ) (s : State) (work : List (ℕ × Carry)) {z : State}, Kept z s → Kept z (advance fuel s work)
  | 0, _, _, _, h => h
  | _ + 1, _, [], _, h => h
  | fuel + 1, s, (t, c) :: work, z, h => by
    unfold advance
    split
    · exact advance_kept _ _ _ h
    rename_i e0 _
    extract_lets e finish served
    have hf : ∀ u d, Kept z u → Kept z (finish u d).1 := fun u d hu => closeEntry_kept _ _ hu
    clear_value finish
    have hs : ∀ x, Kept z x.2 → Kept z (served x).1 := by
      rintro ⟨r, u⟩ hu
      unfold served
      dsimp only at *
      split
      · exact hu
      · exact hf _ _ (fallBack_kept _ _ _ _ hu)
      · split
        · exact hf _ _ (countDiscard_kept _ _ hu)
        · exact enterAbsent_kept _ _ _ hu
      · split
        · exact hf _ _ (countDiscard_kept _ _ hu)
        split
        · exact fetched_kept _ _ _ _ hu
        · dsimp only; exact enterServe_kept _ _ _ _ _ _ hu
    clear_value served
    split
    rename_i u more hm
    refine advance_kept _ _ _ (fst_kept hm ?_)
    split
    · exact hf _ _ (hostRun_kept _ _ _ (ledgerPut_kept _ _ _ h))
    · have h1 : ∀ x, Kept z (ledgerPut s t x) := fun x => ledgerPut_kept _ _ _ h
      split
      · exact enterInsert_kept _ _ _ (h1 _)
      · split
        · exact hs _ (probeEntry_kept _ _ _ _ (h1 _))
        · exact hs _ (h1 _)
        · split
          · exact hs _ (h1 _)
          split
          · exact hs _ (h1 _)
          · exact hs _ (h1 _)
theorem freeEntry_kept : ∀ (s : State) (t : ℕ) (c : Carry) {z0 : State}, Kept z0 s → Kept z0 (freeEntry s t c) := by
  intros; unfold freeEntry
  repeat' (with_reducible first | assumption | apply closeEntry_kept | apply advance_kept | exact Kept.refl _ | intro _ | split | refine snd_kept (by assumption) ?_ | refine fst_kept (by assumption) ?_ | refine trd_kept (by assumption) ?_ | simp only [with_kept])

theorem discardEntry_kept : ∀ (s : State) (t : ℕ) (e : Entry) {z0 : State}, Kept z0 s → Kept z0 (discardEntry s t e) := by
  intros; unfold discardEntry
  repeat' (with_reducible first | assumption | apply freeEntry_kept | apply countDiscard_kept | exact Kept.refl _ | intro _ | split | refine snd_kept (by assumption) ?_ | refine fst_kept (by assumption) ?_ | refine trd_kept (by assumption) ?_ | simp only [with_kept])

theorem discardRun_kept : ∀ (s : State) (n : ℕ) {z0 : State}, Kept z0 s → Kept z0 (discardRun s n) := by
  intros; unfold discardRun
  repeat' (with_reducible first | assumption | apply ledgerPut_kept | apply discardEntry_kept | exact Kept.refl _ | intro _ | split | refine snd_kept (by assumption) ?_ | refine fst_kept (by assumption) ?_ | refine trd_kept (by assumption) ?_ | simp only [with_kept])

theorem abortRun_kept : ∀ (s : State) (n : ℕ) {z0 : State}, Kept z0 s → Kept z0 (abortRun s n) := by
  intros; unfold abortRun
  repeat' (with_reducible first | assumption | apply discardRun_kept | apply dropRun_kept | exact Kept.refl _ | intro _ | split | simp only [with_kept])

theorem afterServe_kept : ∀ (s : State) (t : ℕ) (r : Serve) {z0 : State}, Kept z0 s → Kept z0 (afterServe s t r) := by
  intros; unfold afterServe
  repeat' (with_reducible first | assumption | apply fallBack_kept | apply freeEntry_kept | apply discardEntry_kept | apply enterAbsent_kept | apply fetched_kept | apply enterServe_kept | exact Kept.refl _ | intro _ | split | refine snd_kept (by assumption) ?_ | refine fst_kept (by assumption) ?_ | refine trd_kept (by assumption) ?_ | simp only [with_kept])

theorem startEntry_kept : ∀ (s : State) (t : ℕ) (wayBad : Bool) {z0 : State}, Kept z0 s → Kept z0 (startEntry s t wayBad) := by
  intros; unfold startEntry
  repeat' (with_reducible first | assumption | apply ledgerPut_kept | apply probeEntry_kept | apply afterServe_kept | exact Kept.refl _ | intro _ | split | refine snd_kept (by assumption) ?_ | refine fst_kept (by assumption) ?_ | refine trd_kept (by assumption) ?_ | simp only [with_kept])

theorem resumeLocked_kept : ∀ (s : State) {z0 : State}, Kept z0 s → Kept z0 (resumeLocked s) := by
  intros; unfold resumeLocked
  repeat' (with_reducible first | assumption | apply afterServe_kept | refine foldl_kept _ ?_ ?_ | exact Kept.refl _ | intro _ | split | refine snd_kept (by assumption) ?_ | refine fst_kept (by assumption) ?_ | refine trd_kept (by assumption) ?_ | simp only [with_kept])

theorem pumpReads_kept : ∀ (s : State) {z0 : State}, Kept z0 s → Kept z0 (pumpReads s) := by
  intros; unfold pumpReads
  repeat' (with_reducible first | assumption | apply deepRead_kept | apply ledgerMod_kept | apply fetchLoop_kept | apply afterServe_kept | apply lineUncorrectable_kept | refine foldl_kept _ ?_ ?_ | exact Kept.refl _ | intro _ | split | refine snd_kept (by assumption) ?_ | refine fst_kept (by assumption) ?_ | refine trd_kept (by assumption) ?_ | simp only [with_kept])

theorem psqPut_kept : ∀ (s : State) (q c : ℕ) (l : List ℕ) {z0 : State}, Kept z0 s → Kept z0 (psqPut s q c l) := by
  intros; unfold psqPut
  repeat' (with_reducible first | assumption | exact Kept.refl _ | intro _ | split | simp only [with_kept])

theorem psqEnter_kept : ∀ (s : State) (f : ℕ) (fr : Frame) {z0 : State}, Kept z0 s → Kept z0 (psqEnter s f fr).2 := by
  intros; unfold psqEnter
  repeat' (with_reducible first | assumption | apply raise_kept | apply cnt_kept | apply psqPut_kept | apply peak_kept | apply pauseStart_kept | apply wf_kept | refine foldl_kept _ ?_ ?_ | exact Kept.refl _ | intro _ | split | refine snd_kept (by assumption) ?_ | refine fst_kept (by assumption) ?_ | refine trd_kept (by assumption) ?_ | simp only [with_kept])

theorem psqEased_kept : ∀ (s : State) (q c g : ℕ) {z0 : State}, Kept z0 s → Kept z0 (psqEased s q c g) := by
  intros; unfold psqEased
  repeat' (with_reducible first | assumption | apply wf_kept | apply pauseStop_kept | refine foldl_kept _ ?_ ?_ | exact Kept.refl _ | intro _ | split | refine snd_kept (by assumption) ?_ | refine fst_kept (by assumption) ?_ | refine trd_kept (by assumption) ?_ | simp only [with_kept])

theorem statefulRun_kept : ∀ (s : State) (f : ℕ) (fr : Frame) (quarter : ℕ) (domain : Option ℕ) (wayBad : Bool) {z0 : State}, Kept z0 s → Kept z0 (statefulRun s f fr quarter domain wayBad) := by
  intros; unfold statefulRun
  repeat' (with_reducible first | assumption | apply createRun_kept | apply cnt_kept | apply fallBack_kept | apply openEntry_kept | apply startEntry_kept | exact Kept.refl _ | intro _ | split | refine snd_kept (by assumption) ?_ | refine fst_kept (by assumption) ?_ | refine trd_kept (by assumption) ?_ | simp only [with_kept])

theorem psqDepart_kept : ∀ (s : State) (q : ℕ) (wayBad : Bool) {z0 : State}, Kept z0 s → Kept z0 (psqDepart s q wayBad) := by
  intros; unfold psqDepart
  repeat' (with_reducible first | assumption | apply psqPut_kept | apply psqEased_kept | apply itemQueue_kept | apply statefulRun_kept | apply wakeQuarters_kept | exact Kept.refl _ | intro _ | split | refine snd_kept (by assumption) ?_ | refine fst_kept (by assumption) ?_ | refine trd_kept (by assumption) ?_ | simp only [with_kept])

theorem commitEntry_kept : ∀ (s : State) (t : ℕ) {z0 : State}, Kept z0 s → Kept z0 (commitEntry s t) := by
  intros; unfold commitEntry
  repeat' (with_reducible first | assumption | apply noteCommit_kept | apply flushCounts_kept | apply tryCommit_kept | apply freeEntry_kept | apply cnt_kept | apply commitDelete_kept | apply tally_kept | apply cntWrap_kept | apply allocate_kept | apply commitLine_kept | apply admitFixed_kept | apply setPinned_kept | apply pinRefused_kept | exact Kept.refl _ | intro _ | split | refine snd_kept (by assumption) ?_ | refine fst_kept (by assumption) ?_ | refine trd_kept (by assumption) ?_ | simp only [with_kept])

theorem insertEntry_kept : ∀ (s : State) (t : ℕ) {z0 : State}, Kept z0 s → Kept z0 (insertEntry s t) := by
  intros; unfold insertEntry
  repeat' (with_reducible first | assumption | apply discardEntry_kept | apply placeRecord_kept | apply enterServe_kept | apply advance_kept | apply caskInsFail_kept | apply freeEntry_kept | apply fallBack_kept | exact Kept.refl _ | intro _ | split | refine snd_kept (by assumption) ?_ | refine fst_kept (by assumption) ?_ | refine trd_kept (by assumption) ?_ | simp only [with_kept])

theorem caskLockTimeouts_kept : ∀ (s : State) {z0 : State}, Kept z0 s → Kept z0 (caskLockTimeouts s) := by
  intros; unfold caskLockTimeouts
  repeat' (with_reducible first | assumption | apply raise_kept | apply cnt_kept | apply ledgerPut_kept | apply afterServe_kept | apply freeEntry_kept | apply fallBack_kept | refine foldl_kept _ ?_ ?_ | exact Kept.refl _ | intro _ | split | refine snd_kept (by assumption) ?_ | refine fst_kept (by assumption) ?_ | refine trd_kept (by assumption) ?_ | simp only [with_kept])

theorem hostOperation_kept : ∀ (s : State) (line : ℕ) (key : List W64) (h : HostOp) {z0 : State}, Kept z0 s → Kept z0 (hostOperation s line key h) := by
  intros; unfold hostOperation
  repeat' (with_reducible first | assumption | apply openEntry_kept | apply resumeLocked_kept | apply advance_kept | exact Kept.refl _ | intro _ | split | refine snd_kept (by assumption) ?_ | refine fst_kept (by assumption) ?_ | refine trd_kept (by assumption) ?_ | simp only [with_kept])

theorem caskCmdTry_kept : ∀ (s : State) {z0 : State}, Kept z0 s → Kept z0 (caskCmdTry s) := by
  intros; unfold caskCmdTry
  repeat' (with_reducible first | assumption | apply storeStall_kept | apply hostOperation_kept | exact Kept.refl _ | intro _ | split | refine snd_kept (by assumption) ?_ | refine fst_kept (by assumption) ?_ | refine trd_kept (by assumption) ?_ | simp only [with_kept])

theorem caskCommand_kept : ∀ (s : State) (op : ℕ) {z0 : State}, Kept z0 s → Kept z0 (caskCommand s op) := by
  intros; unfold caskCommand
  repeat' (with_reducible first | assumption | apply wf_kept | apply caskCmdTry_kept | exact Kept.refl _ | intro _ | split | simp only [with_kept])

theorem caskCmdDone_kept : ∀ (s : State) {z0 : State}, Kept z0 s → Kept z0 (caskCmdDone s) := by
  intros; unfold caskCmdDone
  repeat' (with_reducible first | assumption | apply caskCmdTry_kept | apply wf_kept | apply raise_kept | exact Kept.refl _ | intro _ | split | refine snd_kept (by assumption) ?_ | refine fst_kept (by assumption) ?_ | refine trd_kept (by assumption) ?_ | simp only [with_kept])

theorem passDone_kept : ∀ (s : State) {z0 : State}, Kept z0 s → Kept z0 (passDone s) := by
  intros; unfold passDone
  repeat' (with_reducible first | assumption | exact Kept.refl _ | intro _ | split | simp only [with_kept])

theorem ageScan_kept : ∀ (s : State) (line : ℕ) {z0 : State}, Kept z0 s → Kept z0 (ageScan s line) := by
  intros; unfold ageScan
  repeat' (with_reducible first | assumption | apply raise_kept | apply cnt_kept | apply commitDelete_kept | apply commitLine_kept | apply passDone_kept | refine foldl_kept _ ?_ ?_ | exact Kept.refl _ | intro _ | split | refine snd_kept (by assumption) ?_ | refine fst_kept (by assumption) ?_ | refine trd_kept (by assumption) ?_ | simp only [with_kept])

end Sys2Proof.Machine
end

