-- ==== Sys2Proof/Laws/FlowKept.lean ====
section
/-! SUPPORT. What the functions of Flow.lean keep (Laws/Kept.lean). -/
namespace Sys2Proof.Machine
set_option linter.unusedTactic false
set_option linter.unreachableTactic false
set_option linter.unusedSimpArgs false

theorem psfpFail_kept : ∀ (s : State) (f : ℕ) {z0 : State}, Kept z0 s → Kept z0 (psfpFail s f) := by
  intros; unfold psfpFail
  repeat' (with_reducible first | assumption | apply frameMod_kept | apply copyGone_kept | apply cnt_kept | refine foldl_kept _ ?_ ?_ | exact Kept.refl _ | intro _ | split | simp only [with_kept])

theorem psfpCheck_kept : ∀ (s : State) (f h : ℕ) (fr : Frame) {z0 : State}, Kept z0 s → Kept z0 (psfpCheck s f h fr) := by
  intros; unfold psfpCheck
  repeat' (with_reducible first | assumption | apply filterChecks_kept | apply frameMod_kept | apply filterCount_kept | apply psfpFail_kept | exact Kept.refl _ | intro _ | split | refine snd_kept (by assumption) ?_ | refine fst_kept (by assumption) ?_ | refine trd_kept (by assumption) ?_ | simp only [with_kept])

theorem completeLook_kept : ∀ (s : State) (f : ℕ) (fr : Frame) {z0 : State}, Kept z0 s → Kept z0 (completeLook s f fr) := by
  intros; unfold completeLook
  repeat' (with_reducible first | assumption | apply runMod_kept | apply countTie_kept | apply framePut_kept | apply psfpCheck_kept | exact Kept.refl _ | intro _ | split | refine snd_kept (by assumption) ?_ | refine fst_kept (by assumption) ?_ | refine trd_kept (by assumption) ?_ | simp only [with_kept])

theorem waitOn_kept : ∀ (s : State) (f : ℕ) (fr : Frame) (t i : ℕ) {z0 : State}, Kept z0 s → Kept z0 (waitOn s f fr t i).2 := by
  intros; unfold waitOn
  repeat' (with_reducible first | assumption | apply framePut_kept | apply raise_kept | apply cnt_kept | exact Kept.refl _ | intro _ | split | refine snd_kept (by assumption) ?_ | refine fst_kept (by assumption) ?_ | refine trd_kept (by assumption) ?_ | simp only [with_kept])

theorem lookLauter_kept : ∀ (s : State) (f : ℕ) (fr : Frame) (rule : LockRule) {z0 : State}, Kept z0 s → Kept z0 (lookLauter s f fr rule) := by
  intros; unfold lookLauter
  repeat' (with_reducible first | assumption | apply completeLook_kept | apply waitOn_kept | exact Kept.refl _ | intro _ | split | refine snd_kept (by assumption) ?_ | refine fst_kept (by assumption) ?_ | refine trd_kept (by assumption) ?_ | simp only [with_kept])

theorem lookFrame_kept : ∀ (s : State) (f : ℕ) (fwdRule lauRule : LockRule) {z0 : State}, Kept z0 s → Kept z0 (lookFrame s f fwdRule lauRule) := by
  intros; unfold lookFrame
  repeat' (with_reducible first | assumption | apply lookLauter_kept | apply waitOn_kept | exact Kept.refl _ | intro _ | split | refine snd_kept (by assumption) ?_ | refine fst_kept (by assumption) ?_ | refine trd_kept (by assumption) ?_ | simp only [with_kept])

theorem settleFrame_kept : ∀ (s : State) (f : ℕ) {z0 : State}, Kept z0 s → Kept z0 (settleFrame s f) := by
  intros; unfold settleFrame
  repeat' (with_reducible first | assumption | apply settle_kept | apply raise_kept | apply cnt_kept | exact Kept.refl _ | intro _ | split | refine snd_kept (by assumption) ?_ | refine fst_kept (by assumption) ?_ | refine trd_kept (by assumption) ?_ | simp only [with_kept])

theorem rcvStart_kept : ∀ (s : State) (f : ℕ) (fr : Frame) (seq : ℕ) {z0 : State}, Kept z0 s → Kept z0 (rcvStart s f fr seq) := by
  intros; unfold rcvStart
  repeat' (with_reducible first | assumption | apply framePut_kept | apply openEntry_kept | apply startEntry_kept | apply runPut_kept | exact Kept.refl _ | intro _ | split | refine snd_kept (by assumption) ?_ | refine fst_kept (by assumption) ?_ | refine trd_kept (by assumption) ?_ | simp only [with_kept])

theorem rcvIssue_kept : ∀ (s : State) (f : ℕ) {z0 : State}, Kept z0 s → Kept z0 (rcvIssue s f) := by
  intros; unfold rcvIssue
  repeat' (with_reducible first | assumption | apply rcvStart_kept | exact Kept.refl _ | intro _ | split | refine snd_kept (by assumption) ?_ | refine fst_kept (by assumption) ?_ | refine trd_kept (by assumption) ?_ | simp only [with_kept])

theorem rcvDrop_kept : ∀ (s : State) (f : ℕ) {z0 : State}, Kept z0 s → Kept z0 (rcvDrop s f) := by
  intros; unfold rcvDrop
  repeat' (with_reducible first | assumption | apply frameMod_kept | apply dropFrame_kept | apply abortRun_kept | exact Kept.refl _ | intro _ | split | simp only [with_kept])

theorem rcvVerdict_kept : ∀ (s : State) (n : ℕ) (r : Run) (f : ℕ) {z0 : State}, Kept z0 s → Kept z0 (rcvVerdict s n r f) := by
  intros; unfold rcvVerdict
  repeat' (with_reducible first | assumption | apply runPut_kept | apply cnt_kept | apply frameMod_kept | apply rcvDrop_kept | apply raise_kept | exact Kept.refl _ | intro _ | split | refine snd_kept (by assumption) ?_ | refine fst_kept (by assumption) ?_ | refine trd_kept (by assumption) ?_ | simp only [with_kept])

theorem rcvPump_kept : ∀ (fuel : ℕ) (s : State) {z : State}, Kept z s → Kept z (rcvPump fuel s)
  | 0, _, _, h => h
  | fuel + 1, s, z, h => by
    unfold rcvPump
    split
    · exact rcvPump_kept _ _ (rcvVerdict_kept _ _ _ _ h)
    · exact h
theorem rcvRetry_kept : ∀ (s : State) {z0 : State}, Kept z0 s → Kept z0 (rcvRetry s) := by
  intros; unfold rcvRetry
  repeat' (with_reducible first | assumption | apply rcvStart_kept | refine foldl_kept _ ?_ ?_ | exact Kept.refl _ | intro _ | split | refine snd_kept (by assumption) ?_ | refine fst_kept (by assumption) ?_ | refine trd_kept (by assumption) ?_ | simp only [with_kept])

theorem rcvClean_kept : ∀ (s : State) {z0 : State}, Kept z0 s → Kept z0 (rcvClean s) := by
  intros; unfold rcvClean
  repeat' (with_reducible first | assumption | exact Kept.refl _ | intro _ | split | simp only [with_kept])

theorem flowPump_kept : ∀ (s : State) {z0 : State}, Kept z0 s → Kept z0 (flowPump s) := by
  intros; unfold flowPump
  repeat' (with_reducible first | assumption | apply lookFrame_kept | apply rcvClean_kept | apply rcvPump_kept | apply rcvRetry_kept | apply settleFrame_kept | apply dropWaiting_kept | apply frameCheck_kept | refine foldl_kept _ ?_ ?_ | exact Kept.refl _ | intro _ | split | simp only [with_kept])

end Sys2Proof.Machine
end

