-- ==== Sys2Proof/Laws/FermKept.lean ====
section
/-! SUPPORT. What the functions of Ferm.lean keep (Laws/Kept.lean). -/
namespace Sys2Proof.Machine
set_option linter.unusedTactic false
set_option linter.unreachableTactic false
set_option linter.unusedSimpArgs false

theorem nodeResult_kept : ∀ (s : State) (n k i : ℕ) (v : W64) {z0 : State}, Kept z0 s → Kept z0 (nodeResult s n k i v) := by
  intros; unfold nodeResult
  repeat' (with_reducible first | assumption | apply runPut_kept | exact Kept.refl _ | intro _ | split | refine snd_kept (by assumption) ?_ | refine fst_kept (by assumption) ?_ | refine trd_kept (by assumption) ?_ | simp only [with_kept])

theorem fermPolicy_kept : ∀ (s : State) (n trap : ℕ) {z0 : State}, Kept z0 s → Kept z0 (fermPolicy s n trap) := by
  intros; unfold fermPolicy
  repeat' (with_reducible first | assumption | apply abortRun_kept | apply cnt_kept | apply frameFate_kept | exact Kept.refl _ | intro _ | split | simp only [with_kept])

theorem endTask_kept : ∀ (s : State) (n k : ℕ) (node : Node) {z0 : State}, Kept z0 s → Kept z0 (endTask s n k node) := by
  intros; unfold endTask
  repeat' (with_reducible first | assumption | apply sampleTask_kept | apply runPut_kept | apply sampleTasks_kept | refine foldl_kept _ ?_ ?_ | exact Kept.refl _ | intro _ | split | refine snd_kept (by assumption) ?_ | refine fst_kept (by assumption) ?_ | refine trd_kept (by assumption) ?_ | simp only [with_kept])

theorem authNode_kept : ∀ (s : State) (n k i : ℕ) (r : Run) (node : Node) (a b : W64) {z0 : State}, Kept z0 s → Kept z0 (authNode s n k i r node a b) := by
  intros; unfold authNode
  repeat' (with_reducible first | assumption | apply fresh_kept | apply admitJob_kept | apply runMod_kept | apply countFailure_kept | apply jobRefused_kept | apply nodeResult_kept | exact Kept.refl _ | intro _ | split | refine snd_kept (by assumption) ?_ | refine fst_kept (by assumption) ?_ | refine trd_kept (by assumption) ?_ | simp only [with_kept])

theorem lookupNode_kept : ∀ (s : State) (n k i : ℕ) (r : Run) (node : Node) (a b c : W64) {z0 : State}, Kept z0 s → Kept z0 (lookupNode s n k i r node a b c) := by
  intros; unfold lookupNode
  repeat' (with_reducible first | assumption | apply nodeResult_kept | apply countTie_kept | apply raise_kept | apply cnt_kept | apply runMod_kept | exact Kept.refl _ | intro _ | split | refine snd_kept (by assumption) ?_ | refine fst_kept (by assumption) ?_ | refine trd_kept (by assumption) ?_ | simp only [with_kept])

theorem issueNode_kept : ∀ (s : State) (n k i : ℕ) (r : Run) (node : Node) {z0 : State}, Kept z0 s → Kept z0 (issueNode s n k i r node) := by
  intros; unfold issueNode
  repeat' (with_reducible first | assumption | apply touch_kept | apply tally_kept | apply cntWrap_kept | apply nodeResult_kept | apply lookupNode_kept | apply runPut_kept | apply fermPolicy_kept | apply raise_kept | apply cnt_kept | apply authNode_kept | apply endTask_kept | exact Kept.refl _ | intro _ | split | refine snd_kept (by assumption) ?_ | refine fst_kept (by assumption) ?_ | refine trd_kept (by assumption) ?_ | simp only [with_kept])

theorem storeParity_kept : ∀ (s : State) (n k i : ℕ) (r : Run) (node : Node) (what : ℕ) {z0 : State}, Kept z0 s → Kept z0 (storeParity s n k i r node what) := by
  intros; unfold storeParity
  repeat' (with_reducible first | assumption | apply fermPolicy_kept | apply raise_kept | apply cnt_kept | exact Kept.refl _ | intro _ | split | simp only [with_kept])

theorem dispatchTask_kept : ∀ (s : State) (q : ℕ) {z : State}, Kept z s → Kept z (dispatchTask s q) := by
  intro s q z h; unfold dispatchTask
  extract_lets ready go try_
  have ht : ∀ u y, try_ u = some y → Kept z y := by
    intro u y e
    obtain ⟨x, _, e⟩ := Option.bind_eq_some_iff.mp e
    refine map_kept (fun c => ?_) e
    exact runPut_kept _ _ _ h
  split
  · rename_i e; exact ht _ _ e
  · exact getD_kept h fun y e => ht _ _ e
theorem cellIssue_kept : ∀ (s : State) (c : ℕ) (bad : Option ℕ) {z0 : State}, Kept z0 s → Kept z0 (cellIssue s c bad) := by
  intros; unfold cellIssue
  repeat' (with_reducible first | assumption | apply storeParity_kept | apply issueNode_kept | apply tryCommit_kept | exact Kept.refl _ | intro _ | split | refine snd_kept (by assumption) ?_ | refine fst_kept (by assumption) ?_ | refine trd_kept (by assumption) ?_ | simp only [with_kept])

theorem relookNodes_kept : ∀ (s : State) (sel : ℕ × ℕ × ℕ → Bool) (policy : Bool) {z0 : State}, Kept z0 s → Kept z0 (relookNodes s sel policy) := by
  intros; unfold relookNodes
  repeat' (with_reducible first | assumption | apply runPut_kept | apply countTie_kept | apply nodeResult_kept | refine foldl_kept _ ?_ ?_ | exact Kept.refl _ | intro _ | split | refine snd_kept (by assumption) ?_ | refine fst_kept (by assumption) ?_ | refine trd_kept (by assumption) ?_ | simp only [with_kept])

theorem pump_kept : ∀ (s : State) {z0 : State}, Kept z0 s → Kept z0 (pump s) := by
  intros; unfold pump
  repeat' (with_reducible first | assumption | apply flowPump_kept | apply relookNodes_kept | exact Kept.refl _ | intro _ | split | simp only [with_kept])

theorem runTimeouts_kept : ∀ (s : State) {z0 : State}, Kept z0 s → Kept z0 (runTimeouts s) := by
  intros; unfold runTimeouts
  repeat' (with_reducible first | assumption | apply raise_kept | apply cnt_kept | apply fermPolicy_kept | refine foldl_kept _ ?_ ?_ | exact Kept.refl _ | intro _ | split | refine snd_kept (by assumption) ?_ | refine fst_kept (by assumption) ?_ | refine trd_kept (by assumption) ?_ | simp only [with_kept])

theorem runQueuePut_kept : ∀ (s : State) (q : ℕ) (l : List ℕ) {z0 : State}, Kept z0 s → Kept z0 (runQueuePut s q l) := by
  intros; unfold runQueuePut
  repeat' (with_reducible first | assumption | exact Kept.refl _ | intro _ | split | simp only [with_kept])

theorem statelessRun_kept : ∀ (s : State) (f : ℕ) (fr : Frame) (quarter : ℕ) (domain : Option ℕ) {z0 : State}, Kept z0 s → Kept z0 (statelessRun s f fr quarter domain) := by
  intros; unfold statelessRun
  repeat' (with_reducible first | assumption | apply tryCommit_kept | apply createRun_kept | exact Kept.refl _ | intro _ | split | simp only [with_kept])

theorem statelessStart_kept : ∀ (s : State) (f : ℕ) (fr : Frame) {z0 : State}, Kept z0 s → Kept z0 (statelessStart s f fr) := by
  intros; unfold statelessStart
  repeat' (with_reducible first | assumption | apply itemQueue_kept | apply statelessRun_kept | apply wakeQuarters_kept | apply runQueuePut_kept | apply raise_kept | apply cnt_kept | apply frameFate_kept | exact Kept.refl _ | intro _ | split | refine snd_kept (by assumption) ?_ | refine fst_kept (by assumption) ?_ | refine trd_kept (by assumption) ?_ | simp only [with_kept])

theorem runDepart_kept : ∀ (s : State) (q : ℕ) {z0 : State}, Kept z0 s → Kept z0 (runDepart s q) := by
  intros; unfold runDepart
  repeat' (with_reducible first | assumption | apply runQueuePut_kept | apply statelessRun_kept | apply wakeQuarters_kept | exact Kept.refl _ | intro _ | split | refine snd_kept (by assumption) ?_ | refine fst_kept (by assumption) ?_ | refine trd_kept (by assumption) ?_ | simp only [with_kept])

theorem itemStart_kept : ∀ {s : State} {d n : ℕ} {e : Option ItemEvent} {wayBad : Bool} {z : State} {y : State}, itemStart s d n e wayBad = some y → Kept z s → Kept z y := by
  intro s d n e wayBad z y eq h
  unfold itemStart at eq
  dsimp only at eq
  repeat' split at eq
  all_goals first
    | contradiction
    | (refine map_kept (fun q => ?_) eq
       exact tryCommit_kept _ _ _ (createRun_kept _ _ _ (with_kept.mpr h)))
    | (obtain rfl := Option.some.inj eq
       first
       | exact h
       | exact statelessRun_kept _ _ _ _ _ (with_kept.mpr h)
       | exact statefulRun_kept _ _ _ _ _ _ (with_kept.mpr h))
theorem itemDispatch_kept : ∀ (s : State) (wayBad : Bool) {z : State}, Kept z s → Kept z (itemDispatch s wayBad) := by
  intro s wayBad z h; unfold itemDispatch
  dsimp only
  split
  · rename_i e
    refine findSome_kept (fun d y hd => ?_) e
    split at hd
    · contradiction
    split at hd
    · generalize hi : itemStart _ _ _ _ _ = o at hd
      refine map_kept' (fun u hu => ?_) hd
      subst hu
      exact with_kept.mpr (itemStart_kept hi (itemsPut_kept _ _ _ h))
    · contradiction
  · split
    · exact h
    · exact wakeQuarters_kept _ h
theorem execTaskDispatch_kept : ∀ (quarter : Fin 4) (s : State) {z0 : State}, Kept z0 s → ∀ (t0 : State), execTaskDispatch quarter s = Host.Outcome.next t0 → Kept z0 t0 := by
  intros; rename_i e; unfold execTaskDispatch at e; repeat' split at e
  all_goals obtain rfl := Host.Outcome.next.inj e
  all_goals repeat' (with_reducible first | assumption | apply dispatchTask_kept | exact Kept.refl _ | intro _ | split | simp only [with_kept])

theorem execNodeIssue_kept : ∀ (cell : Fin 256) (bad : Option (Fin 4)) (s : State) {z0 : State}, Kept z0 s → ∀ (t0 : State), execNodeIssue cell bad s = Host.Outcome.next t0 → Kept z0 t0 := by
  intros; rename_i e; unfold execNodeIssue at e; repeat' split at e
  all_goals obtain rfl := Host.Outcome.next.inj e
  all_goals repeat' (with_reducible first | assumption | apply pump_kept | apply cellIssue_kept | exact Kept.refl _ | intro _ | split | simp only [with_kept])

theorem execLookupNodeComplete_kept : ∀ (s : State) {z0 : State}, Kept z0 s → ∀ (t0 : State), execLookupNodeComplete s = Host.Outcome.next t0 → Kept z0 t0 := by
  intros; rename_i e; unfold execLookupNodeComplete at e; repeat' split at e
  all_goals obtain rfl := Host.Outcome.next.inj e
  all_goals repeat' (with_reducible first | assumption | apply pump_kept | exact Kept.refl _ | intro _ | split | simp only [with_kept])

theorem execRunTimeout_kept : ∀ (s : State) {z0 : State}, Kept z0 s → ∀ (t0 : State), execRunTimeout s = Host.Outcome.next t0 → Kept z0 t0 := by
  intros; rename_i e; unfold execRunTimeout at e; repeat' split at e
  all_goals obtain rfl := Host.Outcome.next.inj e
  all_goals repeat' (with_reducible first | assumption | apply pump_kept | apply runTimeouts_kept | exact Kept.refl _ | intro _ | split | simp only [with_kept])

theorem execRunQueueDepart_kept : ∀ (quad : Fin 16) (s : State) {z0 : State}, Kept z0 s → ∀ (t0 : State), execRunQueueDepart quad s = Host.Outcome.next t0 → Kept z0 t0 := by
  intros; rename_i e; unfold execRunQueueDepart at e; repeat' split at e
  all_goals obtain rfl := Host.Outcome.next.inj e
  all_goals repeat' (with_reducible first | assumption | apply pump_kept | apply runDepart_kept | exact Kept.refl _ | intro _ | split | simp only [with_kept])

theorem execItemDispatch_kept : ∀ (wayBad : Bool) (s : State) {z0 : State}, Kept z0 s → ∀ (t0 : State), execItemDispatch wayBad s = Host.Outcome.next t0 → Kept z0 t0 := by
  intros; rename_i e; unfold execItemDispatch at e; repeat' split at e
  all_goals obtain rfl := Host.Outcome.next.inj e
  all_goals repeat' (with_reducible first | assumption | apply pump_kept | apply itemDispatch_kept | exact Kept.refl _ | intro _ | split | simp only [with_kept])

end Sys2Proof.Machine
end

