-- ==== Sys2Proof/Laws/CaskRowsKept.lean ====
section
/-! SUPPORT. What the functions of CaskRows.lean keep (Laws/Kept.lean). -/
namespace Sys2Proof.Machine
set_option linter.unusedTactic false
set_option linter.unreachableTactic false
set_option linter.unusedSimpArgs false

theorem execPrestateDepart_kept : ∀ (quad : Fin 16) (wayBad : Bool) (s : State) {z0 : State}, Kept z0 s → ∀ (t0 : State), execPrestateDepart quad wayBad s = Host.Outcome.next t0 → Kept z0 t0 := by
  intros; rename_i e; unfold execPrestateDepart at e; repeat' split at e
  all_goals obtain rfl := Host.Outcome.next.inj e
  all_goals repeat' (with_reducible first | assumption | apply pump_kept | apply psqDepart_kept | exact Kept.refl _ | intro _ | split | simp only [with_kept])

theorem execDeepReadComplete_kept : ∀ (ch : Fin 64) (errors : List (Fin 32 × BitVec 16)) (s : State) {z0 : State}, Kept z0 s → ∀ (t0 : State), execDeepReadComplete ch errors s = Host.Outcome.next t0 → Kept z0 t0 := by
  intros; rename_i e; unfold execDeepReadComplete at e; repeat' split at e
  all_goals obtain rfl := Host.Outcome.next.inj e
  all_goals repeat' (with_reducible first | assumption | apply deepReturn_kept | apply pump_kept | apply lineUncorrectable_kept | apply ledgerMod_kept | apply fetchLoop_kept | apply pumpReads_kept | apply afterServe_kept | exact Kept.refl _ | intro _ | split | refine snd_kept (by assumption) ?_ | refine fst_kept (by assumption) ?_ | refine trd_kept (by assumption) ?_ | simp only [with_kept])

theorem execCaskInsert_kept : ∀ (tag : Fin 16384) (s : State) {z0 : State}, Kept z0 s → ∀ (t0 : State), execCaskInsert tag s = Host.Outcome.next t0 → Kept z0 t0 := by
  intros; rename_i e; unfold execCaskInsert at e; repeat' split at e
  all_goals obtain rfl := Host.Outcome.next.inj e
  all_goals repeat' (with_reducible first | assumption | apply pump_kept | apply insertEntry_kept | exact Kept.refl _ | intro _ | split | simp only [with_kept])

theorem execCaskLockTimeout_kept : ∀ (s : State) {z0 : State}, Kept z0 s → ∀ (t0 : State), execCaskLockTimeout s = Host.Outcome.next t0 → Kept z0 t0 := by
  intros; rename_i e; unfold execCaskLockTimeout at e; repeat' split at e
  all_goals obtain rfl := Host.Outcome.next.inj e
  all_goals repeat' (with_reducible first | assumption | apply pump_kept | apply caskLockTimeouts_kept | exact Kept.refl _ | intro _ | split | simp only [with_kept])

theorem execCaskCommit_kept : ∀ (tag : Fin 16384) (s : State) {z0 : State}, Kept z0 s → ∀ (t0 : State), execCaskCommit tag s = Host.Outcome.next t0 → Kept z0 t0 := by
  intros; rename_i e; unfold execCaskCommit at e; repeat' split at e
  all_goals obtain rfl := Host.Outcome.next.inj e
  all_goals repeat' (with_reducible first | assumption | apply pump_kept | apply commitEntry_kept | exact Kept.refl _ | intro _ | split | simp only [with_kept])

theorem execCaskInsWindowClose_kept : ∀ (region : Fin 8) (row : ℕ) (s : State) {z0 : State}, Kept z0 s → ∀ (t0 : State), execCaskInsWindowClose region row s = Host.Outcome.next t0 → Kept z0 t0 := by
  intros; rename_i e; unfold execCaskInsWindowClose at e; repeat' split at e
  all_goals obtain rfl := Host.Outcome.next.inj e
  all_goals repeat' (with_reducible first | assumption | exact Kept.refl _ | intro _ | split | refine snd_kept (by assumption) ?_ | refine fst_kept (by assumption) ?_ | refine trd_kept (by assumption) ?_ | simp only [with_kept])

theorem execCaskReadsPeriod_kept : ∀ (s : State) {z0 : State}, Kept z0 s → ∀ (t0 : State), execCaskReadsPeriod s = Host.Outcome.next t0 → Kept z0 t0 := by
  intros; rename_i e; unfold execCaskReadsPeriod at e; repeat' split at e
  all_goals obtain rfl := Host.Outcome.next.inj e
  all_goals repeat' (with_reducible first | assumption | apply raise_kept | exact Kept.refl _ | intro _ | split | simp only [with_kept])

theorem execCaskAgeScan_kept : ∀ (line : BitVec 32) (s : State) {z0 : State}, Kept z0 s → ∀ (t0 : State), execCaskAgeScan line s = Host.Outcome.next t0 → Kept z0 t0 := by
  intros; rename_i e; unfold execCaskAgeScan at e; repeat' split at e
  all_goals obtain rfl := Host.Outcome.next.inj e
  all_goals repeat' (with_reducible first | assumption | apply ageScan_kept | exact Kept.refl _ | intro _ | split | simp only [with_kept])

theorem execCaskCmdRead_kept : ∀ (s : State) {z0 : State}, Kept z0 s → ∀ (t0 : State), execCaskCmdRead s = Host.Outcome.next t0 → Kept z0 t0 := by
  intros; rename_i e; unfold execCaskCmdRead at e; repeat' split at e
  all_goals obtain rfl := Host.Outcome.next.inj e
  all_goals repeat' (with_reducible first | assumption | apply pump_kept | apply caskCommand_kept | exact Kept.refl _ | intro _ | split | simp only [with_kept])

theorem execCaskCmdWrite_kept : ∀ (s : State) {z0 : State}, Kept z0 s → ∀ (t0 : State), execCaskCmdWrite s = Host.Outcome.next t0 → Kept z0 t0 := by
  intros; rename_i e; unfold execCaskCmdWrite at e; repeat' split at e
  all_goals obtain rfl := Host.Outcome.next.inj e
  all_goals repeat' (with_reducible first | assumption | apply pump_kept | apply caskCommand_kept | exact Kept.refl _ | intro _ | split | simp only [with_kept])

theorem execCaskCmdInsert_kept : ∀ (s : State) {z0 : State}, Kept z0 s → ∀ (t0 : State), execCaskCmdInsert s = Host.Outcome.next t0 → Kept z0 t0 := by
  intros; rename_i e; unfold execCaskCmdInsert at e; repeat' split at e
  all_goals obtain rfl := Host.Outcome.next.inj e
  all_goals repeat' (with_reducible first | assumption | apply pump_kept | apply caskCommand_kept | exact Kept.refl _ | intro _ | split | simp only [with_kept])

theorem execCaskCmdDelete_kept : ∀ (s : State) {z0 : State}, Kept z0 s → ∀ (t0 : State), execCaskCmdDelete s = Host.Outcome.next t0 → Kept z0 t0 := by
  intros; rename_i e; unfold execCaskCmdDelete at e; repeat' split at e
  all_goals obtain rfl := Host.Outcome.next.inj e
  all_goals repeat' (with_reducible first | assumption | apply pump_kept | apply caskCommand_kept | exact Kept.refl _ | intro _ | split | simp only [with_kept])

theorem execCaskCmdSearch_kept : ∀ (s : State) {z0 : State}, Kept z0 s → ∀ (t0 : State), execCaskCmdSearch s = Host.Outcome.next t0 → Kept z0 t0 := by
  intros; rename_i e; unfold execCaskCmdSearch at e; repeat' split at e
  all_goals obtain rfl := Host.Outcome.next.inj e
  all_goals repeat' (with_reducible first | assumption | apply pump_kept | apply caskCommand_kept | exact Kept.refl _ | intro _ | split | simp only [with_kept])

theorem execCaskCmdPin_kept : ∀ (s : State) {z0 : State}, Kept z0 s → ∀ (t0 : State), execCaskCmdPin s = Host.Outcome.next t0 → Kept z0 t0 := by
  intros; rename_i e; unfold execCaskCmdPin at e; repeat' split at e
  all_goals obtain rfl := Host.Outcome.next.inj e
  all_goals repeat' (with_reducible first | assumption | apply pump_kept | apply caskCommand_kept | exact Kept.refl _ | intro _ | split | simp only [with_kept])

theorem execCaskCmdUnpin_kept : ∀ (s : State) {z0 : State}, Kept z0 s → ∀ (t0 : State), execCaskCmdUnpin s = Host.Outcome.next t0 → Kept z0 t0 := by
  intros; rename_i e; unfold execCaskCmdUnpin at e; repeat' split at e
  all_goals obtain rfl := Host.Outcome.next.inj e
  all_goals repeat' (with_reducible first | assumption | apply pump_kept | apply caskCommand_kept | exact Kept.refl _ | intro _ | split | simp only [with_kept])

theorem execCaskCmdFlush_kept : ∀ (s : State) {z0 : State}, Kept z0 s → ∀ (t0 : State), execCaskCmdFlush s = Host.Outcome.next t0 → Kept z0 t0 := by
  intros; rename_i e; unfold execCaskCmdFlush at e; repeat' split at e
  all_goals obtain rfl := Host.Outcome.next.inj e
  all_goals repeat' (with_reducible first | assumption | apply pump_kept | apply caskCommand_kept | exact Kept.refl _ | intro _ | split | simp only [with_kept])

theorem execCaskCmdRepack_kept : ∀ (s : State) {z0 : State}, Kept z0 s → ∀ (t0 : State), execCaskCmdRepack s = Host.Outcome.next t0 → Kept z0 t0 := by
  intros; rename_i e; unfold execCaskCmdRepack at e; repeat' split at e
  all_goals obtain rfl := Host.Outcome.next.inj e
  all_goals repeat' (with_reducible first | assumption | apply pump_kept | apply caskCommand_kept | exact Kept.refl _ | intro _ | split | simp only [with_kept])

theorem execCaskCmdReadRow_kept : ∀ (s : State) {z0 : State}, Kept z0 s → ∀ (t0 : State), execCaskCmdReadRow s = Host.Outcome.next t0 → Kept z0 t0 := by
  intros; rename_i e; unfold execCaskCmdReadRow at e; repeat' split at e
  all_goals obtain rfl := Host.Outcome.next.inj e
  all_goals repeat' (with_reducible first | assumption | apply pump_kept | apply caskCommand_kept | exact Kept.refl _ | intro _ | split | simp only [with_kept])

theorem execCaskCmdComplete_kept : ∀ (s : State) {z0 : State}, Kept z0 s → ∀ (t0 : State), execCaskCmdComplete s = Host.Outcome.next t0 → Kept z0 t0 := by
  intros; rename_i e; unfold execCaskCmdComplete at e; repeat' split at e
  all_goals obtain rfl := Host.Outcome.next.inj e
  all_goals repeat' (with_reducible first | assumption | apply pump_kept | apply caskCmdDone_kept | exact Kept.refl _ | intro _ | split | simp only [with_kept])

theorem execDramCommandSlot_kept : ∀ (ch : Fin 64) (blocked : List ℕ) (s : State) {z0 : State}, Kept z0 s → ∀ (t0 : State), execDramCommandSlot ch blocked s = Host.Outcome.next t0 → Kept z0 t0 := by
  intros; rename_i e; unfold execDramCommandSlot at e; repeat' split at e
  all_goals obtain rfl := Host.Outcome.next.inj e
  all_goals repeat' (with_reducible first | assumption | apply pump_kept | apply pumpReads_kept | apply commandSlot_kept | exact Kept.refl _ | intro _ | split | simp only [with_kept])

end Sys2Proof.Machine
end

