-- ==== Sys2Proof/Laws/FenKept.lean ====
section
/-! SUPPORT. What the functions of Fen.lean keep (Laws/Kept.lean). -/
namespace Sys2Proof.Machine
set_option linter.unusedTactic false
set_option linter.unreachableTactic false
set_option linter.unusedSimpArgs false

theorem memberPut_kept : ∀ (s : State) (i : ℕ) (x : Member) {z0 : State}, Kept z0 s → Kept z0 (memberPut s i x) := by
  intros; unfold memberPut
  repeat' (with_reducible first | assumption | exact Kept.refl _ | intro _ | split | simp only [with_kept])

theorem fenReceive_kept : ∀ (s : State) (port : ℕ) (frame : List Byte) (type : ℕ) {z0 : State}, Kept z0 s → Kept z0 (fenReceive s port frame type).2 := by
  intros; unfold fenReceive
  repeat' (with_reducible first | assumption | apply raise_kept | apply cnt_kept | apply wf_kept | apply memberPut_kept | exact Kept.refl _ | intro _ | split | refine snd_kept (by assumption) ?_ | refine fst_kept (by assumption) ?_ | refine trd_kept (by assumption) ?_ | simp only [with_kept])

theorem fenRelay_kept : ∀ (s : State) (m : FenMsg) {z0 : State}, Kept z0 s → Kept z0 (fenRelay s m) := by
  intros; unfold fenRelay
  repeat' (with_reducible first | assumption | refine fenToken_kept (by assumption) ?_ | apply originate_kept | apply cnt_kept | exact Kept.refl _ | intro _ | split | refine snd_kept (by assumption) ?_ | refine fst_kept (by assumption) ?_ | refine trd_kept (by assumption) ?_ | simp only [with_kept])

theorem fenApply_kept : ∀ (s : State) (m : FenMsg) {z0 : State}, Kept z0 s → Kept z0 (fenApply s m) := by
  intros; unfold fenApply
  repeat' (with_reducible first | assumption | apply learnOrWait_kept | refine foldl_kept _ ?_ ?_ | exact Kept.refl _ | intro _ | split | simp only [with_kept])

theorem fenBeat_kept : ∀ (s : State) (m : FenMsg) {z0 : State}, Kept z0 s → Kept z0 (fenBeat s m) := by
  intros; unfold fenBeat
  repeat' (with_reducible first | assumption | apply memberPut_kept | apply raise_kept | apply wf_kept | exact Kept.refl _ | intro _ | split | simp only [with_kept])

theorem digestAsk_kept : ∀ (s : State) {z0 : State}, Kept z0 s → Kept z0 (digestAsk s) := by
  intros; unfold digestAsk
  repeat' (with_reducible first | assumption | exact Kept.refl _ | intro _ | split | simp only [with_kept])

theorem digestPart_kept : ∀ (s : State) (m : FenMsg) {z0 : State}, Kept z0 s → Kept z0 (digestPart s m) := by
  intros; unfold digestPart
  repeat' (with_reducible first | assumption | apply fenApply_kept | apply raise_kept | apply wf_kept | apply memberPut_kept | exact Kept.refl _ | intro _ | split | simp only [with_kept])

theorem fenMessage_kept : ∀ (s : State) (port : ℕ) (frame : List Byte) (type : ℕ) (act : State → FenMsg → State) {z : State}, (∀ (u : State) (m : FenMsg), Kept z u → Kept z (act u m)) → Kept z s → Kept z (fenMessage s port frame type act) := by
  intro s port frame type act z ha h
  have h0 := fenReceive_kept s port frame type h
  unfold fenMessage
  split
  · rename_i e; rw [e] at h0; exact ha _ _ (fenRelay_kept _ _ h0)
  · rename_i e; rw [e] at h0; exact h0
theorem sendLearns_kept : ∀ (s : State) {z0 : State}, Kept z0 s → Kept z0 (sendLearns s) := by
  intros; unfold sendLearns
  repeat' (with_reducible first | assumption | apply fenResyncPump_kept | refine fenSend_kept (by assumption) ?_ | exact Kept.refl _ | intro _ | split | refine snd_kept (by assumption) ?_ | refine fst_kept (by assumption) ?_ | refine trd_kept (by assumption) ?_ | simp only [with_kept])

theorem sendDigest_kept : ∀ (s : State) {z0 : State}, Kept z0 s → Kept z0 (sendDigest s) := by
  intros; unfold sendDigest
  repeat' (with_reducible first | assumption | apply fenResyncPump_kept | refine fenSend_kept (by assumption) ?_ | exact Kept.refl _ | intro _ | split | refine snd_kept (by assumption) ?_ | refine fst_kept (by assumption) ?_ | refine trd_kept (by assumption) ?_ | simp only [with_kept])

theorem sendBeat_kept : ∀ (s : State) {z0 : State}, Kept z0 s → Kept z0 (sendBeat s) := by
  intros; unfold sendBeat
  repeat' (with_reducible first | assumption | apply fenResyncPump_kept | refine fenSend_kept (by assumption) ?_ | exact Kept.refl _ | intro _ | split | refine snd_kept (by assumption) ?_ | refine fst_kept (by assumption) ?_ | refine trd_kept (by assumption) ?_ | simp only [with_kept])

theorem memberLapse_kept : ∀ (s : State) (i : ℕ) {z0 : State}, Kept z0 s → Kept z0 (memberLapse s i) := by
  intros; unfold memberLapse
  repeat' (with_reducible first | assumption | apply raise_kept | apply wf_kept | exact Kept.refl _ | intro _ | split | simp only [with_kept])

theorem memberLapses_kept : ∀ (s : State) {z0 : State}, Kept z0 s → Kept z0 (memberLapses s) := by
  intros; unfold memberLapses
  repeat' (with_reducible first | assumption | apply memberLapse_kept | refine foldl_kept _ ?_ ?_ | exact Kept.refl _ | intro _ | split | simp only [with_kept])

theorem memberCfg_kept : ∀ (s : State) (i : ℕ) (v : W64) {z0 : State}, Kept z0 s → Kept z0 (memberCfg s i v) := by
  intros; unfold memberCfg
  repeat' (with_reducible first | assumption | apply regWrite_kept | apply memberLapse_kept | exact Kept.refl _ | intro _ | split | simp only [with_kept])

theorem execFenLearnRx_kept : ∀ (port : Fin 64) (frame : List Byte) (s : State) {z0 : State}, Kept z0 s → ∀ (t0 : State), execFenLearnRx port frame s = Host.Outcome.next t0 → Kept z0 t0 := by
  intros; rename_i e; unfold execFenLearnRx at e; repeat' split at e
  all_goals obtain rfl := Host.Outcome.next.inj e
  all_goals repeat' (with_reducible first | assumption | apply fenMessage_kept | apply fenApply_kept | exact Kept.refl _ | intro _ | split | simp only [with_kept])

theorem execFenHeartbeatRx_kept : ∀ (port : Fin 64) (frame : List Byte) (s : State) {z0 : State}, Kept z0 s → ∀ (t0 : State), execFenHeartbeatRx port frame s = Host.Outcome.next t0 → Kept z0 t0 := by
  intros; rename_i e; unfold execFenHeartbeatRx at e; repeat' split at e
  all_goals obtain rfl := Host.Outcome.next.inj e
  all_goals repeat' (with_reducible first | assumption | apply fenMessage_kept | apply fenBeat_kept | exact Kept.refl _ | intro _ | split | simp only [with_kept])

theorem execFenResyncReqRx_kept : ∀ (port : Fin 64) (frame : List Byte) (s : State) {z0 : State}, Kept z0 s → ∀ (t0 : State), execFenResyncReqRx port frame s = Host.Outcome.next t0 → Kept z0 t0 := by
  intros; rename_i e; unfold execFenResyncReqRx at e; repeat' split at e
  all_goals obtain rfl := Host.Outcome.next.inj e
  all_goals repeat' (with_reducible first | assumption | apply fenMessage_kept | apply digestAsk_kept | exact Kept.refl _ | intro _ | split | simp only [with_kept])

theorem execFenDigestRx_kept : ∀ (port : Fin 64) (frame : List Byte) (s : State) {z0 : State}, Kept z0 s → ∀ (t0 : State), execFenDigestRx port frame s = Host.Outcome.next t0 → Kept z0 t0 := by
  intros; rename_i e; unfold execFenDigestRx at e; repeat' split at e
  all_goals obtain rfl := Host.Outcome.next.inj e
  all_goals repeat' (with_reducible first | assumption | apply fenMessage_kept | apply digestPart_kept | exact Kept.refl _ | intro _ | split | simp only [with_kept])

theorem execFenLearnSend_kept : ∀ (s : State) {z0 : State}, Kept z0 s → ∀ (t0 : State), execFenLearnSend s = Host.Outcome.next t0 → Kept z0 t0 := by
  intros; rename_i e; unfold execFenLearnSend at e; repeat' split at e
  all_goals obtain rfl := Host.Outcome.next.inj e
  all_goals repeat' (with_reducible first | assumption | apply sendLearns_kept | exact Kept.refl _ | intro _ | split | simp only [with_kept])

theorem execFenDigestSend_kept : ∀ (s : State) {z0 : State}, Kept z0 s → ∀ (t0 : State), execFenDigestSend s = Host.Outcome.next t0 → Kept z0 t0 := by
  intros; rename_i e; unfold execFenDigestSend at e; repeat' split at e
  all_goals obtain rfl := Host.Outcome.next.inj e
  all_goals repeat' (with_reducible first | assumption | apply sendDigest_kept | exact Kept.refl _ | intro _ | split | simp only [with_kept])

theorem execFenHeartbeatSend_kept : ∀ (s : State) {z0 : State}, Kept z0 s → ∀ (t0 : State), execFenHeartbeatSend s = Host.Outcome.next t0 → Kept z0 t0 := by
  intros; rename_i e; unfold execFenHeartbeatSend at e; repeat' split at e
  all_goals obtain rfl := Host.Outcome.next.inj e
  all_goals repeat' (with_reducible first | assumption | apply sendBeat_kept | exact Kept.refl _ | intro _ | split | simp only [with_kept])

theorem execFenMemberLapse_kept : ∀ (s : State) {z0 : State}, Kept z0 s → ∀ (t0 : State), execFenMemberLapse s = Host.Outcome.next t0 → Kept z0 t0 := by
  intros; rename_i e; unfold execFenMemberLapse at e; repeat' split at e
  all_goals obtain rfl := Host.Outcome.next.inj e
  all_goals repeat' (with_reducible first | assumption | apply memberLapses_kept | exact Kept.refl _ | intro _ | split | simp only [with_kept])

theorem execFenResync_kept : ∀ (s : State) {z0 : State}, Kept z0 s → ∀ (t0 : State), execFenResync s = Host.Outcome.next t0 → Kept z0 t0 := by
  intros; rename_i e; unfold execFenResync at e; repeat' split at e
  all_goals obtain rfl := Host.Outcome.next.inj e
  all_goals repeat' (with_reducible first | assumption | apply fenResync_kept | exact Kept.refl _ | intro _ | split | simp only [with_kept])

theorem execFenMemberCfgWrite_kept : ∀ (index : Fin 1024) (value : BitVec 64) (s : State) {z0 : State}, Kept z0 s → ∀ (t0 : State), execFenMemberCfgWrite index value s = Host.Outcome.next t0 → Kept z0 t0 := by
  intros; rename_i e; unfold execFenMemberCfgWrite at e; repeat' split at e
  all_goals obtain rfl := Host.Outcome.next.inj e
  all_goals repeat' (with_reducible first | assumption | apply memberCfg_kept | exact Kept.refl _ | intro _ | split | simp only [with_kept])

end Sys2Proof.Machine
end

