-- ==== Sys2Proof/Laws/LodeKept.lean ====
section
/-! SUPPORT. What the functions of Lode.lean keep (Laws/Kept.lean). -/
namespace Sys2Proof.Machine
set_option linter.unusedTactic false
set_option linter.unreachableTactic false
set_option linter.unusedSimpArgs false

theorem ptrSet_kept : ∀ (s : State) (a : ℕ) (urgent : Bool) (v : ℕ) {z0 : State}, Kept z0 s → Kept z0 (ptrSet s a urgent v) := by
  intros; unfold ptrSet
  repeat' (with_reducible first | assumption | apply wf_kept | exact Kept.refl _ | intro _ | split | simp only [with_kept])

theorem matchRound_kept : ∀ (p : ℕ) (first : Bool) (reqs : List (ℕ × ℕ × Bool)) (sm : State × List (ℕ × ℕ)) {z : State}, Kept z sm.1 → Kept z (matchRound p first reqs sm).1 := by
  intro p first reqs sm z h; unfold matchRound
  obtain ⟨s, m⟩ := sm
  dsimp only at *
  refine foldl_kept_fst _ h fun u n i hu => ?_
  repeat' (with_reducible first | assumption | apply ptrSet_kept | intro _ | split)
theorem matchPlane_kept : ∀ (s : State) (p : ℕ) {z : State}, Kept z s → Kept z (matchPlane s p) := by
  intro s p z h
  have h0 := matchRound_kept p false (requests s) (matchRound p false (requests s) (matchRound p true (requests s) (s, [])))
    (matchRound_kept p false (requests s) _ (matchRound_kept p true (requests s) (s, []) h))
  unfold matchPlane
  dsimp only
  generalize matchRound p false (requests s) (matchRound p false (requests s) (matchRound p true (requests s) (s, []))) = x at *
  exact with_kept.mpr h0
theorem chooseStream_kept : ∀ {s : State} {p i o : ℕ} {z : State} {y : ℕ × ℕ × State}, chooseStream s p i o = some y → Kept z s → Kept z y.2.2 := by
  intro s p i o z y e h
  unfold chooseStream at e
  dsimp only at e
  split at e
  · obtain rfl := Option.some.inj e; exact h
  · split at e
    · contradiction
    · obtain ⟨c, _, rfl⟩ := Option.map_eq_some_iff.mp e
      exact with_kept.mpr h
theorem poisonXing_kept : ∀ (s : State) (input x cell : ℕ) (errs : List (ℕ × Byte)) {z0 : State}, Kept z0 s → Kept z0 (poisonXing s input x cell errs) := by
  intros; unfold poisonXing
  repeat' (with_reducible first | assumption | apply cnt_kept | apply raise_kept | apply xingMod_kept | apply copyMod_kept | apply copyGone_kept | refine foldl_kept _ ?_ ?_ | exact Kept.refl _ | intro _ | split | simp only [with_kept])

theorem launchCell_kept : ∀ (s : State) (p i o k c : ℕ) (bad : Option (ℕ × List (ℕ × Byte))) {z0 : State}, Kept z0 s → Kept z0 (launchCell s p i o k c bad) := by
  intros; unfold launchCell
  repeat' (with_reducible first | assumption | apply xingMod_kept | apply tally_kept | apply cntWrap_kept | apply poisonXing_kept | refine foldl_kept _ ?_ ?_ | exact Kept.refl _ | intro _ | split | refine snd_kept (by assumption) ?_ | refine fst_kept (by assumption) ?_ | refine trd_kept (by assumption) ?_ | simp only [with_kept])

theorem cellTime_kept : ∀ (s : State) (p t : ℕ) (bad : List (ℕ × ℕ × List (ℕ × Byte))) (corrected : List ℕ) {z0 : State}, Kept z0 s → Kept z0 (cellTime s p t bad corrected) := by
  intros; unfold cellTime
  repeat' (with_reducible first | assumption | apply wrn_kept | apply cnt_kept | apply raise_kept | apply wf_kept | refine chooseStream_kept (by assumption) ?_ | apply launchCell_kept | apply matchPlane_kept | refine foldl_kept _ ?_ ?_ | exact Kept.refl _ | intro _ | split | refine snd_kept (by assumption) ?_ | refine fst_kept (by assumption) ?_ | refine trd_kept (by assumption) ?_ | simp only [with_kept])

theorem deliver_kept : ∀ (s : State) (c : Cell) {z0 : State}, Kept z0 s → Kept z0 (deliver s c) := by
  intros; unfold deliver
  repeat' (with_reducible first | assumption | apply cntWrap_kept | apply peak_kept | apply frameCheck_kept | refine foldl_kept _ ?_ ?_ | exact Kept.refl _ | intro _ | split | refine snd_kept (by assumption) ?_ | refine fst_kept (by assumption) ?_ | refine trd_kept (by assumption) ?_ | simp only [with_kept])

theorem deliverHeld_kept : ∀ (fuel : ℕ) (s : State) (key : ℕ) {z : State}, Kept z s → Kept z (deliverHeld fuel s key)
  | 0, _, _, _, h => h
  | fuel + 1, s, key, z, h => by
    unfold deliverHeld
    dsimp only
    split
    · exact h
    · exact deliverHeld_kept _ _ _ (deliver_kept _ _ (with_kept.mpr h))
theorem arriveCell_kept : ∀ (s : State) (c : Cell) {z0 : State}, Kept z0 s → Kept z0 (arriveCell s c) := by
  intros; unfold arriveCell
  repeat' (with_reducible first | assumption | apply deliverHeld_kept | apply peak_kept | apply heldPeak_kept | apply merePeak_kept | exact Kept.refl _ | intro _ | split | simp only [with_kept])

theorem cellArrive_kept : ∀ (s : State) (p o : ℕ) (hcrcBad : Bool) {z0 : State}, Kept z0 s → Kept z0 (cellArrive s p o hcrcBad) := by
  intros; unfold cellArrive
  repeat' (with_reducible first | assumption | apply cnt_kept | apply arriveCell_kept | exact Kept.refl _ | intro _ | split | refine snd_kept (by assumption) ?_ | refine fst_kept (by assumption) ?_ | refine trd_kept (by assumption) ?_ | simp only [with_kept])

theorem drainPlane_kept : ∀ (s : State) (p cause : ℕ) {z0 : State}, Kept z0 s → Kept z0 (drainPlane s p cause) := by
  intros; unfold drainPlane
  repeat' (with_reducible first | assumption | apply raise_kept | apply wf_kept | exact Kept.refl _ | intro _ | split | simp only [with_kept])

theorem planeMissed_kept : ∀ (s : State) (p : ℕ) {z0 : State}, Kept z0 s → Kept z0 (planeMissed s p) := by
  intros; unfold planeMissed
  repeat' (with_reducible first | assumption | apply drainPlane_kept | apply wf_kept | exact Kept.refl _ | intro _ | split | simp only [with_kept])

theorem planeDrained_kept : ∀ (s : State) (p : ℕ) {z0 : State}, Kept z0 s → Kept z0 (planeDrained s p) := by
  intros; unfold planeDrained
  repeat' (with_reducible first | assumption | apply raise_kept | apply wf_kept | exact Kept.refl _ | intro _ | split | simp only [with_kept])

theorem lodeConfig_kept : ∀ (s : State) (v : ℕ) {z0 : State}, Kept z0 s → Kept z0 (lodeConfig s v) := by
  intros; unfold lodeConfig
  repeat' (with_reducible first | assumption | apply accReport_kept | apply wf_kept | apply drainPlane_kept | refine foldl_kept _ ?_ ?_ | exact Kept.refl _ | intro _ | split | simp only [with_kept])

theorem loseXing_kept : ∀ (s : State) (x : ℕ) {z0 : State}, Kept z0 s → Kept z0 (loseXing s x) := by
  intros; unfold loseXing
  repeat' (with_reducible first | assumption | apply xingMod_kept | apply cutStomped_kept | apply discardCopy_kept | apply mib_kept | refine foldl_kept _ ?_ ?_ | exact Kept.refl _ | intro _ | split | refine snd_kept (by assumption) ?_ | refine fst_kept (by assumption) ?_ | refine trd_kept (by assumption) ?_ | simp only [with_kept])

theorem releaseGap_kept : ∀ (s : State) (key : ℕ) (r : Reseq) {z0 : State}, Kept z0 s → Kept z0 (releaseGap s key r) := by
  intros; unfold releaseGap
  repeat' (with_reducible first | assumption | apply planeMissed_kept | apply raise_kept | apply cnt_kept | apply loseXing_kept | apply heldPeak_kept | apply deliverHeld_kept | refine foldl_kept _ ?_ ?_ | exact Kept.refl _ | intro _ | split | refine snd_kept (by assumption) ?_ | refine fst_kept (by assumption) ?_ | refine trd_kept (by assumption) ?_ | simp only [with_kept])

theorem reseqTimeouts_kept : ∀ (s : State) {z0 : State}, Kept z0 s → Kept z0 (reseqTimeouts s) := by
  intros; unfold reseqTimeouts
  repeat' (with_reducible first | assumption | apply releaseGap_kept | refine foldl_kept _ ?_ ?_ | exact Kept.refl _ | intro _ | split | simp only [with_kept])

theorem execLodeCellTime_kept : ∀ (plane : Fin 4) (time : BitVec 12) (bad : List (Fin 18 × ℕ × List (ℕ × BitVec 8))) (corrected : List (Fin 16)) (s : State) {z0 : State}, Kept z0 s → ∀ (t0 : State), execLodeCellTime plane time bad corrected s = Host.Outcome.next t0 → Kept z0 t0 := by
  intros; rename_i e; unfold execLodeCellTime at e; repeat' split at e
  all_goals obtain rfl := Host.Outcome.next.inj e
  all_goals repeat' (with_reducible first | assumption | apply cellTime_kept | exact Kept.refl _ | intro _ | split | simp only [with_kept])

theorem execLodeCellArrive_kept : ∀ (plane : Fin 4) (output : Fin 18) (hcrcBad : Bool) (s : State) {z0 : State}, Kept z0 s → ∀ (t0 : State), execLodeCellArrive plane output hcrcBad s = Host.Outcome.next t0 → Kept z0 t0 := by
  intros; rename_i e; unfold execLodeCellArrive at e; repeat' split at e
  all_goals obtain rfl := Host.Outcome.next.inj e
  all_goals repeat' (with_reducible first | assumption | apply cellArrive_kept | exact Kept.refl _ | intro _ | split | simp only [with_kept])

theorem execReseqTimeout_kept : ∀ (s : State) {z0 : State}, Kept z0 s → ∀ (t0 : State), execReseqTimeout s = Host.Outcome.next t0 → Kept z0 t0 := by
  intros; rename_i e; unfold execReseqTimeout at e; repeat' split at e
  all_goals obtain rfl := Host.Outcome.next.inj e
  all_goals repeat' (with_reducible first | assumption | apply reseqTimeouts_kept | exact Kept.refl _ | intro _ | split | simp only [with_kept])

theorem execPlaneDrained_kept : ∀ (plane : Fin 4) (s : State) {z0 : State}, Kept z0 s → ∀ (t0 : State), execPlaneDrained plane s = Host.Outcome.next t0 → Kept z0 t0 := by
  intros; rename_i e; unfold execPlaneDrained at e; repeat' split at e
  all_goals obtain rfl := Host.Outcome.next.inj e
  all_goals repeat' (with_reducible first | assumption | apply planeDrained_kept | exact Kept.refl _ | intro _ | split | simp only [with_kept])

theorem execLodeCfgWrite_kept : ∀ (value : BitVec 32) (s : State) {z0 : State}, Kept z0 s → ∀ (t0 : State), execLodeCfgWrite value s = Host.Outcome.next t0 → Kept z0 t0 := by
  intros; rename_i e; unfold execLodeCfgWrite at e; repeat' split at e
  all_goals obtain rfl := Host.Outcome.next.inj e
  all_goals repeat' (with_reducible first | assumption | apply lodeConfig_kept | exact Kept.refl _ | intro _ | split | simp only [with_kept])

end Sys2Proof.Machine
end

