-- ==== Sys2Proof/Laws/FramesKept.lean ====
section
/-! SUPPORT. What the functions of Frames.lean keep (Laws/Kept.lean). -/
namespace Sys2Proof.Machine
set_option linter.unusedTactic false
set_option linter.unreachableTactic false
set_option linter.unusedSimpArgs false

theorem dropHead_kept : ∀ (s : State) (f : ℕ) {z0 : State}, Kept z0 s → Kept z0 (dropHead s f) := by
  intros; unfold dropHead
  repeat' (with_reducible first | assumption | apply frameMod_kept | apply frameCheck_kept | exact Kept.refl _ | intro _ | split | simp only [with_kept])

theorem discardHead_kept : ∀ (s : State) (f : ℕ) {z0 : State}, Kept z0 s → Kept z0 (discardHead s f) := by
  intros; unfold discardHead
  repeat' (with_reducible first | assumption | apply dropHead_kept | apply frameMod_kept | exact Kept.refl _ | intro _ | split | simp only [with_kept])

theorem countParse_kept : ∀ (s : State) (q : ℕ) (p : Parsed) {z0 : State}, Kept z0 s → Kept z0 (countParse s q p) := by
  intros; unfold countParse
  repeat' (with_reducible first | assumption | apply peak_kept | apply cnt_kept | apply raise_kept | refine foldl_kept _ ?_ ?_ | exact Kept.refl _ | intro _ | split | simp only [with_kept])

theorem anomalyPolicy_kept : ∀ (s : State) (f : ℕ) (fr : Frame) {z0 : State}, Kept z0 s → Kept z0 (anomalyPolicy s f fr).2 := by
  intros; unfold anomalyPolicy
  repeat' (with_reducible first | assumption | apply frameMod_kept | apply dropHead_kept | apply cnt_kept | exact Kept.refl _ | intro _ | split | refine snd_kept (by assumption) ?_ | refine fst_kept (by assumption) ?_ | refine trd_kept (by assumption) ?_ | simp only [with_kept])

theorem frameJob_kept : ∀ (s : State) (f : ℕ) (fr : Frame) {z0 : State}, Kept z0 s → Kept z0 (frameJob s f fr) := by
  intros; unfold frameJob
  repeat' (with_reducible first | assumption | apply admitJob_kept | apply countFailure_kept | apply jobRefused_kept | apply frameMod_kept | exact Kept.refl _ | intro _ | split | refine snd_kept (by assumption) ?_ | refine fst_kept (by assumption) ?_ | refine trd_kept (by assumption) ?_ | simp only [with_kept])

theorem startRun_kept : ∀ (s : State) (f : ℕ) {z0 : State}, Kept z0 s → Kept z0 (startRun s f) := by
  intros; unfold startRun
  repeat' (with_reducible first | assumption | apply dropHead_kept | apply raise_kept | apply cnt_kept | apply psqEnter_kept | apply statelessStart_kept | exact Kept.refl _ | intro _ | split | refine snd_kept (by assumption) ?_ | refine fst_kept (by assumption) ?_ | refine trd_kept (by assumption) ?_ | simp only [with_kept])

theorem classify_kept : ∀ (s : State) (f : ℕ) (cls : Option ℕ) (whole : Bool) {z : State}, Kept z s → Kept z (classify s f cls whole) := by
  intro s f cls whole z h; unfold classify
  split
  · exact h
  extract_lets q p s1 gen c s2 vid fid key
  have h1 : Kept z s1 := countParse_kept _ _ _ h
  have h2 : Kept z s2 := tally_kept _ _ _ h1
  have h3 : Kept z (fresh s2).2 := fresh_kept _ h2
  clear_value s2
  repeat' (with_reducible first | assumption | apply framePut_kept | apply discardHead_kept | apply cnt_kept | apply raise_kept | apply merePeak_kept | apply pump_kept | apply dropHead_kept | apply frameJob_kept | apply lookFrame_kept | apply rcvIssue_kept | apply startRun_kept | apply anomalyPolicy_kept | intro _ | split | refine snd_kept (by assumption) ?_ | dsimp only)
theorem abortFrame_kept : ∀ (s : State) (f : ℕ) {z0 : State}, Kept z0 s → Kept z0 (abortFrame s f) := by
  intros; unfold abortFrame
  repeat' (with_reducible first | assumption | apply cnt_kept | apply abortRun_kept | refine foldl_kept _ ?_ ?_ | exact Kept.refl _ | intro _ | split | refine snd_kept (by assumption) ?_ | refine fst_kept (by assumption) ?_ | refine trd_kept (by assumption) ?_ | simp only [with_kept])

theorem stompCopies_kept : ∀ (s : State) (f : ℕ) (byAuth : Bool) {z0 : State}, Kept z0 s → Kept z0 (stompCopies s f byAuth) := by
  intros; unfold stompCopies
  repeat' (with_reducible first | assumption | apply copyMod_kept | apply copyGone_kept | apply discardCopy_kept | apply raise_kept | apply cnt_kept | refine foldl_kept _ ?_ ?_ | exact Kept.refl _ | intro _ | split | refine snd_kept (by assumption) ?_ | refine fst_kept (by assumption) ?_ | refine trd_kept (by assumption) ?_ | simp only [with_kept])

theorem verdictBad_kept : ∀ (s : State) (f status : ℕ) {z0 : State}, Kept z0 s → Kept z0 (verdictBad s f status) := by
  intros; unfold verdictBad
  repeat' (with_reducible first | assumption | apply stompCopies_kept | apply abortFrame_kept | apply framePut_kept | apply frameCheck_kept | exact Kept.refl _ | intro _ | split | refine snd_kept (by assumption) ?_ | refine fst_kept (by assumption) ?_ | refine trd_kept (by assumption) ?_ | simp only [with_kept])

theorem verdictGood_kept : ∀ (s : State) (f : ℕ) {z0 : State}, Kept z0 s → Kept z0 (verdictGood s f) := by
  intros; unfold verdictGood
  repeat' (with_reducible first | assumption | apply framePut_kept | apply setPn_kept | apply psfpCheck_kept | apply runMod_kept | apply learnFrame_kept | apply tryCommit_kept | apply frameCheck_kept | refine foldl_kept _ ?_ ?_ | exact Kept.refl _ | intro _ | split | refine snd_kept (by assumption) ?_ | refine fst_kept (by assumption) ?_ | refine trd_kept (by assumption) ?_ | simp only [with_kept])

theorem verifyEnds_kept : ∀ (s : State) (f : ℕ) (fr : Frame) (status : ℕ) {z0 : State}, Kept z0 s → Kept z0 (verifyEnds s f fr status) := by
  intros; unfold verifyEnds
  repeat' (with_reducible first | assumption | apply verdictGood_kept | apply verdictBad_kept | apply cnt_kept | exact Kept.refl _ | intro _ | split | simp only [with_kept])

theorem conflictAtTail_kept : ∀ (s : State) (f off : ℕ) {z0 : State}, Kept z0 s → Kept z0 (conflictAtTail s f off) := by
  intros; unfold conflictAtTail
  repeat' (with_reducible first | assumption | apply framePut_kept | apply raise_kept | apply cnt_kept | apply verdictBad_kept | apply abortFrame_kept | apply frameMod_kept | apply dropHead_kept | apply dropWaiting_kept | apply runPut_kept | apply lookFrame_kept | exact Kept.refl _ | intro _ | split | refine snd_kept (by assumption) ?_ | refine fst_kept (by assumption) ?_ | refine trd_kept (by assumption) ?_ | simp only [with_kept])

theorem countWrongLan_kept : ∀ (s : State) (fr : Frame) {z0 : State}, Kept z0 s → Kept z0 (countWrongLan s fr) := by
  intros; unfold countWrongLan
  repeat' (with_reducible first | assumption | apply cnt_kept | exact Kept.refl _ | intro _ | split | simp only [with_kept])

theorem watchFrame_kept : ∀ (s : State) (fr : Frame) {z0 : State}, Kept z0 s → Kept z0 (watchFrame s fr) := by
  intros; unfold watchFrame
  repeat' (with_reducible first | assumption | apply syncWatch_kept | exact Kept.refl _ | intro _ | split | refine snd_kept (by assumption) ?_ | refine fst_kept (by assumption) ?_ | refine trd_kept (by assumption) ?_ | simp only [with_kept])

theorem tailVerdict_kept : ∀ (s : State) (f : ℕ) (fr : Frame) (ok : Bool) {z0 : State}, Kept z0 s → Kept z0 (tailVerdict s f fr ok) := by
  intros; unfold tailVerdict
  repeat' (with_reducible first | assumption | apply frameCheck_kept | apply framePut_kept | apply merePeak_kept | apply verdictBad_kept | apply countWrongLan_kept | apply watchFrame_kept | apply conflictAtTail_kept | apply rcvIssue_kept | apply verifyEnds_kept | apply verdictGood_kept | exact Kept.refl _ | intro _ | split | refine snd_kept (by assumption) ?_ | refine fst_kept (by assumption) ?_ | refine trd_kept (by assumption) ?_ | simp only [with_kept])

theorem frameHead_kept : ∀ (s : State) (l : ℕ) (bytes : List Byte) (whole : Bool) (sub fifo : ℕ) (full pmac : Bool) {z0 : State}, Kept z0 s → Kept z0 (frameHead s l bytes whole sub fifo full pmac) := by
  intros; unfold frameHead
  repeat' (with_reducible first | assumption | apply lanePut_kept | apply peak_kept | apply touch_kept | apply discardHead_kept | apply framePut_kept | apply laneEvent_kept | apply raise_kept | apply cnt_kept | apply classify_kept | exact Kept.refl _ | intro _ | split | simp only [with_kept])

theorem frameTail_kept : ∀ (s : State) (l : ℕ) (rest : List Byte) (codeError : Bool) (corrected uncorrected merge : ℕ) {z0 : State}, Kept z0 s → Kept z0 (frameTail s l rest codeError corrected uncorrected merge) := by
  intros; unfold frameTail
  repeat' (with_reducible first | assumption | apply mib_kept | apply laneEvent_kept | apply bwCount_kept | apply countReceived_kept | apply macControl_kept | apply pump_kept | apply frameCheck_kept | apply framePut_kept | apply cnt_kept | apply tailVerdict_kept | refine foldl_kept _ ?_ ?_ | exact Kept.refl _ | intro _ | split | refine snd_kept (by assumption) ?_ | refine fst_kept (by assumption) ?_ | refine trd_kept (by assumption) ?_ | simp only [with_kept])

theorem recirculate_kept : ∀ (s : State) {z0 : State}, Kept z0 s → Kept z0 (recirculate s) := by
  intros; unfold recirculate
  repeat' (with_reducible first | assumption | apply copyGone_kept | apply framePut_kept | apply classify_kept | apply pump_kept | apply tailVerdict_kept | exact Kept.refl _ | intro _ | split | refine snd_kept (by assumption) ?_ | refine fst_kept (by assumption) ?_ | refine trd_kept (by assumption) ?_ | simp only [with_kept])

theorem frameJobEnd_kept : ∀ (s : State) (f : ℕ) {z0 : State}, Kept z0 s → Kept z0 (frameJobEnd s f) := by
  intros; unfold frameJobEnd
  repeat' (with_reducible first | assumption | apply cnt_kept | apply countFailure_kept | apply runMod_kept | apply framePut_kept | apply verifyEnds_kept | exact Kept.refl _ | intro _ | split | refine snd_kept (by assumption) ?_ | refine fst_kept (by assumption) ?_ | refine trd_kept (by assumption) ?_ | simp only [with_kept])

theorem graphJobEnd_kept : ∀ (s : State) (j : Job) {z0 : State}, Kept z0 s → Kept z0 (graphJobEnd s j) := by
  intros; unfold graphJobEnd
  repeat' (with_reducible first | assumption | apply countFailure_kept | apply frameMod_kept | apply runMod_kept | exact Kept.refl _ | intro _ | split | refine snd_kept (by assumption) ?_ | refine fst_kept (by assumption) ?_ | refine trd_kept (by assumption) ?_ | simp only [with_kept])

theorem jobEnds_kept : ∀ (s : State) (core : ℕ) (bad : Bool) {z0 : State}, Kept z0 s → Kept z0 (jobEnds s core bad) := by
  intros; unfold jobEnds
  repeat' (with_reducible first | assumption | apply keyParity_kept | apply endJob_kept | apply touch_kept | apply frameJobEnd_kept | apply graphJobEnd_kept | apply hostJobEnd_kept | exact Kept.refl _ | intro _ | split | refine snd_kept (by assumption) ?_ | refine fst_kept (by assumption) ?_ | refine trd_kept (by assumption) ?_ | simp only [with_kept])

theorem execFrameHeadReceived_kept : ∀ (lane : Fin 64) (bytes : List Byte) (whole : Bool) (sub : BitVec 16) (fifo : ℕ) (full pmac : Bool) (s : State) {z0 : State}, Kept z0 s → ∀ (t0 : State), execFrameHeadReceived lane bytes whole sub fifo full pmac s = Host.Outcome.next t0 → Kept z0 t0 := by
  intros; rename_i e; unfold execFrameHeadReceived at e; repeat' split at e
  all_goals obtain rfl := Host.Outcome.next.inj e
  all_goals repeat' (with_reducible first | assumption | apply frameHead_kept | exact Kept.refl _ | intro _ | split | simp only [with_kept])

theorem execFrameTailReceived_kept : ∀ (lane : Fin 64) (rest : List Byte) (codeError : Bool) (corrected uncorrected : ℕ) (merge : Fin 4) (s : State) {z0 : State}, Kept z0 s → ∀ (t0 : State), execFrameTailReceived lane rest codeError corrected uncorrected merge s = Host.Outcome.next t0 → Kept z0 t0 := by
  intros; rename_i e; unfold execFrameTailReceived at e; repeat' split at e
  all_goals obtain rfl := Host.Outcome.next.inj e
  all_goals repeat' (with_reducible first | assumption | apply frameTail_kept | exact Kept.refl _ | intro _ | split | simp only [with_kept])

theorem execRecirculationReentry_kept : ∀ (s : State) {z0 : State}, Kept z0 s → ∀ (t0 : State), execRecirculationReentry s = Host.Outcome.next t0 → Kept z0 t0 := by
  intros; rename_i e; unfold execRecirculationReentry at e; repeat' split at e
  all_goals obtain rfl := Host.Outcome.next.inj e
  all_goals repeat' (with_reducible first | assumption | apply recirculate_kept | exact Kept.refl _ | intro _ | split | simp only [with_kept])

theorem execAuthJobComplete_kept : ∀ (core : Fin 8) (bad : Bool) (s : State) {z0 : State}, Kept z0 s → ∀ (t0 : State), execAuthJobComplete core bad s = Host.Outcome.next t0 → Kept z0 t0 := by
  intros; rename_i e; unfold execAuthJobComplete at e; repeat' split at e
  all_goals obtain rfl := Host.Outcome.next.inj e
  all_goals repeat' (with_reducible first | assumption | apply pump_kept | apply jobEnds_kept | exact Kept.refl _ | intro _ | split | simp only [with_kept])

end Sys2Proof.Machine
end

