-- ==== Sys2Proof/Laws/WindowsKept.lean ====
section
/-! SUPPORT. What the functions of Windows.lean keep (Laws/Kept.lean). -/
namespace Sys2Proof.Machine
set_option linter.unusedTactic false
set_option linter.unreachableTactic false
set_option linter.unusedSimpArgs false

theorem winTake_kept : ∀ (s : State) (t i : ℕ) {z0 : State}, Kept z0 s → Kept z0 (winTake s t i) := by
  intros; unfold winTake
  repeat' (with_reducible first | assumption | apply slotPut_kept | exact Kept.refl _ | intro _ | split | simp only [with_kept])

theorem winPublish_kept : ∀ (s : State) (t i : ℕ) (l : SlotLock) {z0 : State}, Kept z0 s → Kept z0 (winPublish s t i l) := by
  intros; unfold winPublish
  repeat' (with_reducible first | assumption | apply slotPut_kept | apply lauterDiscard_kept | apply lauterPublish_kept | apply raise_kept | apply cnt_kept | apply publish_kept | exact Kept.refl _ | intro _ | split | refine snd_kept (by assumption) ?_ | refine fst_kept (by assumption) ?_ | refine trd_kept (by assumption) ?_ | simp only [with_kept])

theorem winClear_kept : ∀ (s : State) (t i : ℕ) {z0 : State}, Kept z0 s → Kept z0 (winClear s t i) := by
  intros; unfold winClear
  repeat' (with_reducible first | assumption | apply storeStall_kept | apply slotPut_kept | apply winPublish_kept | exact Kept.refl _ | intro _ | split | refine snd_kept (by assumption) ?_ | refine fst_kept (by assumption) ?_ | refine trd_kept (by assumption) ?_ | simp only [with_kept])

theorem winUnlocked_kept : ∀ (s : State) (t addr : ℕ) {z0 : State}, Kept z0 s → Kept z0 (winUnlocked s t addr) := by
  intros; unfold winUnlocked
  repeat' (with_reducible first | assumption | apply accReport_kept | apply cnt_kept | exact Kept.refl _ | intro _ | split | simp only [with_kept])

theorem winReach_kept : ∀ (s : State) (t i : ℕ) {z0 : State}, Kept z0 s → Kept z0 (winReach s t i).2 := by
  intros; unfold winReach
  repeat' (with_reducible first | assumption | apply reach_kept | exact Kept.refl _ | intro _ | split | simp only [with_kept])

theorem winWrite_kept : ∀ (s : State) (t i off : ℕ) (data : List Byte) (addr : ℕ) {z0 : State}, Kept z0 s → Kept z0 (winWrite s t i off data addr) := by
  intros; unfold winWrite
  repeat' (with_reducible first | assumption | apply winUnlocked_kept | apply slotPut_kept | apply winClear_kept | exact Kept.refl _ | intro _ | split | refine snd_kept (by assumption) ?_ | refine fst_kept (by assumption) ?_ | refine trd_kept (by assumption) ?_ | simp only [with_kept])

theorem bar2Write_kept : ∀ (s : State) (addr : ℕ) (data : List Byte) {z0 : State}, Kept z0 s → Kept z0 (bar2Write s addr data) := by
  intros; unfold bar2Write
  repeat' (with_reducible first | assumption | apply accReport_kept | apply hostOperation_kept | apply winReach_kept | apply winWrite_kept | apply holdAccess_kept | apply asleepAccess_kept | exact Kept.refl _ | intro _ | split | refine snd_kept (by assumption) ?_ | refine fst_kept (by assumption) ?_ | refine trd_kept (by assumption) ?_ | simp only [with_kept])

theorem winCas_kept : ∀ (s : State) (t i : ℕ) (compare swap : W64) (addr : ℕ) {z0 : State}, Kept z0 s → Kept z0 (winCas s t i compare swap addr) := by
  intros; unfold winCas
  repeat' (with_reducible first | assumption | apply emit_kept | apply accReport_kept | apply winTake_kept | apply winUnlocked_kept | apply slotPut_kept | apply winClear_kept | exact Kept.refl _ | intro _ | split | refine snd_kept (by assumption) ?_ | refine fst_kept (by assumption) ?_ | refine trd_kept (by assumption) ?_ | simp only [with_kept])

theorem bar2Cas_kept : ∀ (s : State) (addr : ℕ) (compare swap : W64) {z0 : State}, Kept z0 s → Kept z0 (bar2Cas s addr compare swap) := by
  intros; unfold bar2Cas
  repeat' (with_reducible first | assumption | apply emit_kept | apply accReport_kept | apply hostOperation_kept | apply winReach_kept | apply winCas_kept | apply holdAccess_kept | apply asleepAccess_kept | exact Kept.refl _ | intro _ | split | refine snd_kept (by assumption) ?_ | refine fst_kept (by assumption) ?_ | refine trd_kept (by assumption) ?_ | simp only [with_kept])

theorem slotBytes_kept : ∀ (s : State) (addr n : ℕ) {z0 : State}, Kept z0 s → Kept z0 (slotBytes s addr n).2 := by
  intros; unfold slotBytes
  repeat' (with_reducible first | assumption | apply winReach_kept | apply asleepAccess_kept | apply accReport_kept | exact Kept.refl _ | intro _ | split | refine snd_kept (by assumption) ?_ | refine fst_kept (by assumption) ?_ | refine trd_kept (by assumption) ?_ | simp only [with_kept])

theorem bar2Read_kept : ∀ (s : State) (addr n : ℕ) {z0 : State}, Kept z0 s → Kept z0 (bar2Read s addr n) := by
  intros; unfold bar2Read
  repeat' (with_reducible first | assumption | apply emit_kept | apply accReport_kept | apply holdAccess_kept | apply hostOperation_kept | apply slotBytes_kept | exact Kept.refl _ | intro _ | split | refine snd_kept (by assumption) ?_ | refine fst_kept (by assumption) ?_ | refine trd_kept (by assumption) ?_ | simp only [with_kept])

theorem lockTimedOut_kept : ∀ (s : State) (t i : ℕ) {z0 : State}, Kept z0 s → Kept z0 (lockTimedOut s t i) := by
  intros; unfold lockTimedOut
  repeat' (with_reducible first | assumption | apply raise_kept | apply cnt_kept | exact Kept.refl _ | intro _ | split | simp only [with_kept])

theorem lookTimeouts_kept : ∀ (s : State) (lauter : Bool) {z0 : State}, Kept z0 s → Kept z0 (lookTimeouts s lauter) := by
  intros; unfold lookTimeouts
  repeat' (with_reducible first | assumption | apply lockTimedOut_kept | apply settle_kept | apply lookFrame_kept | apply relookNodes_kept | refine foldl_kept _ ?_ ?_ | exact Kept.refl _ | intro _ | split | refine snd_kept (by assumption) ?_ | refine fst_kept (by assumption) ?_ | refine trd_kept (by assumption) ?_ | simp only [with_kept])

theorem holdLimits_kept : ∀ (s : State) {z0 : State}, Kept z0 s → Kept z0 (holdLimits s) := by
  intros; unfold holdLimits
  repeat' (with_reducible first | assumption | apply slotPut_kept | apply raise_kept | refine foldl_kept _ ?_ ?_ | exact Kept.refl _ | intro _ | split | refine snd_kept (by assumption) ?_ | refine fst_kept (by assumption) ?_ | refine trd_kept (by assumption) ?_ | simp only [with_kept])

theorem tblDone_kept : ∀ (s : State) (t : ℕ) {z0 : State}, Kept z0 s → Kept z0 (tblDone s t) := by
  intros; unfold tblDone
  repeat' (with_reducible first | assumption | apply storeStall_kept | apply tblRun_kept | apply wf_kept | exact Kept.refl _ | intro _ | split | refine snd_kept (by assumption) ?_ | refine fst_kept (by assumption) ?_ | refine trd_kept (by assumption) ?_ | simp only [with_kept])

theorem execWindowWrite_kept : ∀ (addr : BitVec 32) (data : List Byte) (s : State) {z0 : State}, Kept z0 s → ∀ (t0 : State), execWindowWrite addr data s = Host.Outcome.next t0 → Kept z0 t0 := by
  intros; rename_i e; unfold execWindowWrite at e; repeat' split at e
  all_goals obtain rfl := Host.Outcome.next.inj e
  all_goals repeat' (with_reducible first | assumption | apply pump_kept | apply bar2Write_kept | exact Kept.refl _ | intro _ | split | simp only [with_kept])

theorem execWindowCas_kept : ∀ (addr : BitVec 32) (compare swap : BitVec 64) (s : State) {z0 : State}, Kept z0 s → ∀ (t0 : State), execWindowCas addr compare swap s = Host.Outcome.next t0 → Kept z0 t0 := by
  intros; rename_i e; unfold execWindowCas at e; repeat' split at e
  all_goals obtain rfl := Host.Outcome.next.inj e
  all_goals repeat' (with_reducible first | assumption | apply pump_kept | apply bar2Cas_kept | exact Kept.refl _ | intro _ | split | simp only [with_kept])

theorem execCaskWindowLock_kept : ∀ (slot : Fin 33554432) (compare swap : BitVec 64) (s : State) {z0 : State}, Kept z0 s → ∀ (t0 : State), execCaskWindowLock slot compare swap s = Host.Outcome.next t0 → Kept z0 t0 := by
  intros; rename_i e; unfold execCaskWindowLock at e; repeat' split at e
  all_goals obtain rfl := Host.Outcome.next.inj e
  all_goals repeat' (with_reducible first | assumption | apply pump_kept | apply bar2Cas_kept | exact Kept.refl _ | intro _ | split | simp only [with_kept])

theorem execCaskWindowRead_kept : ∀ (slot : Fin 33554432) (off len : ℕ) (s : State) {z0 : State}, Kept z0 s → ∀ (t0 : State), execCaskWindowRead slot off len s = Host.Outcome.next t0 → Kept z0 t0 := by
  intros; rename_i e; unfold execCaskWindowRead at e; repeat' split at e
  all_goals obtain rfl := Host.Outcome.next.inj e
  all_goals repeat' (with_reducible first | assumption | apply pump_kept | apply bar2Read_kept | exact Kept.refl _ | intro _ | split | simp only [with_kept])

theorem execLockHoldLimitExpiry_kept : ∀ (s : State) {z0 : State}, Kept z0 s → ∀ (t0 : State), execLockHoldLimitExpiry s = Host.Outcome.next t0 → Kept z0 t0 := by
  intros; rename_i e; unfold execLockHoldLimitExpiry at e; repeat' split at e
  all_goals obtain rfl := Host.Outcome.next.inj e
  all_goals repeat' (with_reducible first | assumption | apply holdLimits_kept | exact Kept.refl _ | intro _ | split | simp only [with_kept])

theorem execFwdLockTimeout_kept : ∀ (s : State) {z0 : State}, Kept z0 s → ∀ (t0 : State), execFwdLockTimeout s = Host.Outcome.next t0 → Kept z0 t0 := by
  intros; rename_i e; unfold execFwdLockTimeout at e; repeat' split at e
  all_goals obtain rfl := Host.Outcome.next.inj e
  all_goals repeat' (with_reducible first | assumption | apply pump_kept | apply lookTimeouts_kept | exact Kept.refl _ | intro _ | split | simp only [with_kept])

theorem execLauterLockTimeout_kept : ∀ (s : State) {z0 : State}, Kept z0 s → ∀ (t0 : State), execLauterLockTimeout s = Host.Outcome.next t0 → Kept z0 t0 := by
  intros; rename_i e; unfold execLauterLockTimeout at e; repeat' split at e
  all_goals obtain rfl := Host.Outcome.next.inj e
  all_goals repeat' (with_reducible first | assumption | apply pump_kept | apply lookTimeouts_kept | exact Kept.refl _ | intro _ | split | simp only [with_kept])

theorem execFwdTblCmdComplete_kept : ∀ (t : Fin 8) (s : State) {z0 : State}, Kept z0 s → ∀ (t0 : State), execFwdTblCmdComplete t s = Host.Outcome.next t0 → Kept z0 t0 := by
  intros; rename_i e; unfold execFwdTblCmdComplete at e; repeat' split at e
  all_goals obtain rfl := Host.Outcome.next.inj e
  all_goals repeat' (with_reducible first | assumption | apply pump_kept | apply tblDone_kept | exact Kept.refl _ | intro _ | split | simp only [with_kept])

end Sys2Proof.Machine
end

