-- ==== Sys2Proof/Laws/TwinFollowKept.lean ====
section
/-! SUPPORT. What the functions of TwinFollow.lean keep (Laws/Kept.lean). -/
namespace Sys2Proof.Machine
set_option linter.unusedTactic false
set_option linter.unreachableTactic false
set_option linter.unusedSimpArgs false

theorem mergeDelta_kept : ∀ (noWay : List (ℕ × ℕ)) (x : State × StagedBatch) (d : Delta) {z : State}, Kept z x.1 → Kept z (mergeDelta noWay x d).1 := by
  intro noWay x d z h; unfold mergeDelta
  obtain ⟨s, b⟩ := x
  dsimp only at *
  repeat' (with_reducible first | assumption | apply raise_kept | apply cnt_kept | apply cntWrap_kept | intro _ | split | simp only [with_kept])
theorem mergeWaiting_kept : ∀ (noWay : List (ℕ × ℕ)) (fuel : ℕ) (x : State × StagedBatch) {z : State}, Kept z x.1 → Kept z (mergeWaiting noWay fuel x).1
  | _, 0, _, _, h => h
  | noWay, fuel + 1, (s, b), z, h => by
    unfold mergeWaiting
    split
    · split
      · exact mergeWaiting_kept _ _ _ (mergeDelta_kept _ _ _ h)
      · exact h
    · exact h
theorem stageDelta_kept : ∀ (noWay : List (ℕ × ℕ)) (x : State × StagedBatch) (d : Delta) {z : State}, Kept z x.1 → Kept z (stageDelta noWay x d).1 := by
  intro noWay x d z h; unfold stageDelta
  obtain ⟨s, b⟩ := x
  dsimp only at *
  repeat' (with_reducible first | assumption | apply mergeWaiting_kept | apply mergeDelta_kept | split)
theorem stagedPut_kept : ∀ (s : State) (n : ℕ) (b : StagedBatch) (was : ℕ) {z0 : State}, Kept z0 s → Kept z0 (stagedPut s n b was) := by
  intros; unfold stagedPut
  repeat' (with_reducible first | assumption | exact Kept.refl _ | intro _ | split | simp only [with_kept])

theorem stageFrame_kept : ∀ (s : State) (lane : ℕ) (frame : List Byte) (type : ℕ) (noWay : List (ℕ × ℕ)) {z : State}, Kept z s → Kept z (stageFrame s lane frame type noWay) := by
  intro s lane frame type noWay z h
  have h0 := twinReceive_kept s lane frame type 0 h
  unfold stageFrame
  generalize twinReceive s lane frame type 0 = x at *
  obtain ⟨rx?, t⟩ := x
  cases rx? with
  | none => exact h0
  | some rx =>
    dsimp only at *
    split
    · exact h0
    · exact stagedPut_kept _ _ _ _ (foldl_kept_fst _ h0 fun u n d hu => stageDelta_kept _ _ _ hu)
theorem sealArrives_kept : ∀ (s : State) (lane : ℕ) (frame : List Byte) {z0 : State}, Kept z0 s → Kept z0 (sealArrives s lane frame) := by
  intros; unfold sealArrives
  repeat' (with_reducible first | assumption | apply twinReceive_kept | apply twinHeard_kept | apply stagedPut_kept | exact Kept.refl _ | intro _ | split | refine snd_kept (by assumption) ?_ | refine fst_kept (by assumption) ?_ | refine trd_kept (by assumption) ?_ | simp only [with_kept])

theorem gapTimeouts_kept : ∀ (s : State) {z0 : State}, Kept z0 s → Kept z0 (gapTimeouts s) := by
  intros; unfold gapTimeouts
  repeat' (with_reducible first | assumption | exact Kept.refl _ | intro _ | split | simp only [with_kept])

theorem spillMirror_kept : ∀ (s : State) (line : ℕ) {z0 : State}, Kept z0 s → Kept z0 (spillMirror s line) := by
  intros; unfold spillMirror
  repeat' (with_reducible first | assumption | exact Kept.refl _ | intro _ | split | refine snd_kept (by assumption) ?_ | refine fst_kept (by assumption) ?_ | refine trd_kept (by assumption) ?_ | simp only [with_kept])

theorem poisonLine_kept : ∀ (s : State) (line : ℕ) (ws : List W64) {z0 : State}, Kept z0 s → Kept z0 (poisonLine s line ws) := by
  intros; unfold poisonLine
  repeat' (with_reducible first | assumption | apply fresh_kept | exact Kept.refl _ | intro _ | split | refine snd_kept (by assumption) ?_ | refine fst_kept (by assumption) ?_ | refine trd_kept (by assumption) ?_ | simp only [with_kept])

theorem applyLine_kept : ∀ (s : State) (d : Delta) {z0 : State}, Kept z0 s → Kept z0 (applyLine s d) := by
  intros; unfold applyLine
  repeat' (with_reducible first | assumption | apply poisonLine_kept | apply deepWrite_kept | apply lineStore_kept | apply wayMod_kept | apply wayDrop_kept | apply spillMirror_kept | exact Kept.refl _ | intro _ | split | refine snd_kept (by assumption) ?_ | refine fst_kept (by assumption) ?_ | refine trd_kept (by assumption) ?_ | simp only [with_kept])

theorem applySlot_kept : ∀ (s : State) (d : Delta) {z0 : State}, Kept z0 s → Kept z0 (applySlot s d) := by
  intros; unfold applySlot
  repeat' (with_reducible first | assumption | apply slotPut_kept | exact Kept.refl _ | intro _ | split | simp only [with_kept])

theorem applyMove_kept : ∀ (s : State) (p f : ℕ) {z0 : State}, Kept z0 s → Kept z0 (applyMove s p f) := by
  intros; unfold applyMove
  repeat' (with_reducible first | assumption | apply slotPut_kept | refine foldl_kept _ ?_ ?_ | exact Kept.refl _ | intro _ | split | simp only [with_kept])

theorem applyImage_kept : ∀ (s : State) (d : Delta) {z0 : State}, Kept z0 s → Kept z0 (applyImage s d) := by
  intros; unfold applyImage
  repeat' (with_reducible first | assumption | apply applyLine_kept | apply applySlot_kept | apply slotPut_kept | apply applyMove_kept | apply wrn_kept | exact Kept.refl _ | intro _ | split | refine snd_kept (by assumption) ?_ | refine fst_kept (by assumption) ?_ | refine trd_kept (by assumption) ?_ | simp only [with_kept])

theorem drainImage_kept : ∀ (s : State) {z0 : State}, Kept z0 s → Kept z0 (drainImage s) := by
  intros; unfold drainImage
  repeat' (with_reducible first | assumption | apply deepWrite_kept | apply allocate_kept | apply setOver_kept | exact Kept.refl _ | intro _ | split | refine snd_kept (by assumption) ?_ | refine fst_kept (by assumption) ?_ | refine trd_kept (by assumption) ?_ | simp only [with_kept])

theorem copyAcked_kept : ∀ (s : State) {z0 : State}, Kept z0 s → Kept z0 (copyAcked s) := by
  intros; unfold copyAcked
  repeat' (with_reducible first | assumption | apply raise_kept | apply twinEnter_kept | exact Kept.refl _ | intro _ | split | refine snd_kept (by assumption) ?_ | refine fst_kept (by assumption) ?_ | refine trd_kept (by assumption) ?_ | simp only [with_kept])

theorem checkSeal_kept : ∀ (s : State) {z0 : State}, Kept z0 s → Kept z0 (checkSeal s) := by
  intros; unfold checkSeal
  repeat' (with_reducible first | assumption | apply applyImage_kept | apply applyAmendment_kept | apply copyAcked_kept | apply twinQueue_kept | refine foldl_kept _ ?_ ?_ | exact Kept.refl _ | intro _ | split | refine snd_kept (by assumption) ?_ | refine fst_kept (by assumption) ?_ | refine trd_kept (by assumption) ?_ | simp only [with_kept])

theorem dropStaged_kept : ∀ (s : State) {z0 : State}, Kept z0 s → Kept z0 (dropStaged s) := by
  intros; unfold dropStaged
  repeat' (with_reducible first | assumption | exact Kept.refl _ | intro _ | split | simp only [with_kept])

theorem joinStarts_kept : ∀ (s : State) (batch : ℕ) {z0 : State}, Kept z0 s → Kept z0 (joinStarts s batch) := by
  intros; unfold joinStarts
  repeat' (with_reducible first | assumption | apply twinEnter_kept | apply dropStaged_kept | exact Kept.refl _ | intro _ | split | simp only [with_kept])

theorem twinControlRx_kept : ∀ (s : State) (lane : ℕ) (frame : List Byte) (ctype : ℕ) (k : State → TwinRx → State) {z : State}, (∀ (u : State) (rx : TwinRx), Kept z u → Kept z (k u rx)) → Kept z s → Kept z (twinControlRx s lane frame ctype k) := by
  intro s lane frame ctype k z hk h
  have h0 := twinReceive_kept s lane frame 6 ctype h
  unfold twinControlRx
  split
  · rename_i e; rw [e] at h0; exact hk _ _ h0
  · rename_i e; rw [e] at h0; exact h0
theorem amendAnswer_kept : ∀ (s : State) (code : ℕ) {z0 : State}, Kept z0 s → Kept z0 (amendAnswer s code) := by
  intros; unfold amendAnswer
  repeat' (with_reducible first | assumption | apply twinQueue_kept | exact Kept.refl _ | intro _ | split | simp only [with_kept])

theorem amendValidate_kept : ∀ (s : State) (img : List Byte) {z0 : State}, Kept z0 s → Kept z0 (amendValidate s img) := by
  intros; unfold amendValidate
  repeat' (with_reducible first | assumption | apply amendAnswer_kept | apply billRefuse_kept | refine checkImage_kept (by assumption) ?_ | apply acceptedKey_kept | apply billTo_kept | apply fresh_kept | apply raise_kept | exact Kept.refl _ | intro _ | split | refine snd_kept (by assumption) ?_ | refine fst_kept (by assumption) ?_ | refine trd_kept (by assumption) ?_ | simp only [with_kept])

theorem amendPart_kept : ∀ (s : State) (body : List Byte) {z0 : State}, Kept z0 s → Kept z0 (amendPart s body) := by
  intros; unfold amendPart
  repeat' (with_reducible first | assumption | apply amendValidate_kept | exact Kept.refl _ | intro _ | split | refine snd_kept (by assumption) ?_ | refine fst_kept (by assumption) ?_ | refine trd_kept (by assumption) ?_ | simp only [with_kept])

theorem execDeltaRx_kept : ∀ (lane : Fin 16) (frame : List Byte) (noWay : List (ℕ × ℕ)) (s : State) {z0 : State}, Kept z0 s → ∀ (t0 : State), execDeltaRx lane frame noWay s = Host.Outcome.next t0 → Kept z0 t0 := by
  intros; rename_i e; unfold execDeltaRx at e; repeat' split at e
  all_goals obtain rfl := Host.Outcome.next.inj e
  all_goals repeat' (with_reducible first | assumption | apply stageFrame_kept | exact Kept.refl _ | intro _ | split | simp only [with_kept])

theorem execCopyRx_kept : ∀ (lane : Fin 16) (frame : List Byte) (noWay : List (ℕ × ℕ)) (s : State) {z0 : State}, Kept z0 s → ∀ (t0 : State), execCopyRx lane frame noWay s = Host.Outcome.next t0 → Kept z0 t0 := by
  intros; rename_i e; unfold execCopyRx at e; repeat' split at e
  all_goals obtain rfl := Host.Outcome.next.inj e
  all_goals repeat' (with_reducible first | assumption | apply stageFrame_kept | exact Kept.refl _ | intro _ | split | simp only [with_kept])

theorem execSealRx_kept : ∀ (lane : Fin 16) (frame : List Byte) (s : State) {z0 : State}, Kept z0 s → ∀ (t0 : State), execSealRx lane frame s = Host.Outcome.next t0 → Kept z0 t0 := by
  intros; rename_i e; unfold execSealRx at e; repeat' split at e
  all_goals obtain rfl := Host.Outcome.next.inj e
  all_goals repeat' (with_reducible first | assumption | apply sealArrives_kept | exact Kept.refl _ | intro _ | split | simp only [with_kept])

theorem execSealCheck_kept : ∀ (s : State) {z0 : State}, Kept z0 s → ∀ (t0 : State), execSealCheck s = Host.Outcome.next t0 → Kept z0 t0 := by
  intros; rename_i e; unfold execSealCheck at e; repeat' split at e
  all_goals obtain rfl := Host.Outcome.next.inj e
  all_goals repeat' (with_reducible first | assumption | apply checkSeal_kept | exact Kept.refl _ | intro _ | split | simp only [with_kept])

theorem execTwinGapTimeout_kept : ∀ (s : State) {z0 : State}, Kept z0 s → ∀ (t0 : State), execTwinGapTimeout s = Host.Outcome.next t0 → Kept z0 t0 := by
  intros; rename_i e; unfold execTwinGapTimeout at e; repeat' split at e
  all_goals obtain rfl := Host.Outcome.next.inj e
  all_goals repeat' (with_reducible first | assumption | apply gapTimeouts_kept | exact Kept.refl _ | intro _ | split | simp only [with_kept])

theorem execImageDrain_kept : ∀ (s : State) {z0 : State}, Kept z0 s → ∀ (t0 : State), execImageDrain s = Host.Outcome.next t0 → Kept z0 t0 := by
  intros; rename_i e; unfold execImageDrain at e; repeat' split at e
  all_goals obtain rfl := Host.Outcome.next.inj e
  all_goals repeat' (with_reducible first | assumption | apply drainImage_kept | exact Kept.refl _ | intro _ | split | simp only [with_kept])

theorem execJoinStartRx_kept : ∀ (lane : Fin 16) (frame : List Byte) (s : State) {z0 : State}, Kept z0 s → ∀ (t0 : State), execJoinStartRx lane frame s = Host.Outcome.next t0 → Kept z0 t0 := by
  intros; rename_i e; unfold execJoinStartRx at e; repeat' split at e
  all_goals obtain rfl := Host.Outcome.next.inj e
  all_goals repeat' (with_reducible first | assumption | apply twinControlRx_kept | apply joinStarts_kept | exact Kept.refl _ | intro _ | split | simp only [with_kept])

theorem execJoinRefuseRx_kept : ∀ (lane : Fin 16) (frame : List Byte) (s : State) {z0 : State}, Kept z0 s → ∀ (t0 : State), execJoinRefuseRx lane frame s = Host.Outcome.next t0 → Kept z0 t0 := by
  intros; rename_i e; unfold execJoinRefuseRx at e; repeat' split at e
  all_goals obtain rfl := Host.Outcome.next.inj e
  all_goals repeat' (with_reducible first | assumption | apply twinControlRx_kept | apply raise_kept | exact Kept.refl _ | intro _ | split | simp only [with_kept])

theorem execCopyDoneRx_kept : ∀ (lane : Fin 16) (frame : List Byte) (s : State) {z0 : State}, Kept z0 s → ∀ (t0 : State), execCopyDoneRx lane frame s = Host.Outcome.next t0 → Kept z0 t0 := by
  intros; rename_i e; unfold execCopyDoneRx at e; repeat' split at e
  all_goals obtain rfl := Host.Outcome.next.inj e
  all_goals repeat' (with_reducible first | assumption | apply twinControlRx_kept | apply copyAcked_kept | exact Kept.refl _ | intro _ | split | simp only [with_kept])

theorem execAmendDataRx_kept : ∀ (lane : Fin 16) (frame : List Byte) (s : State) {z0 : State}, Kept z0 s → ∀ (t0 : State), execAmendDataRx lane frame s = Host.Outcome.next t0 → Kept z0 t0 := by
  intros; rename_i e; unfold execAmendDataRx at e; repeat' split at e
  all_goals obtain rfl := Host.Outcome.next.inj e
  all_goals repeat' (with_reducible first | assumption | apply twinControlRx_kept | apply amendPart_kept | exact Kept.refl _ | intro _ | split | simp only [with_kept])

end Sys2Proof.Machine
end

