-- ==== Sys2Proof/Laws/TwinLeadKept.lean ====
section
/-! SUPPORT. What the functions of TwinLead.lean keep (Laws/Kept.lean). -/
namespace Sys2Proof.Machine
set_option linter.unusedTactic false
set_option linter.unreachableTactic false
set_option linter.unusedSimpArgs false

theorem resumeStore_kept : ∀ (s : State) {z0 : State}, Kept z0 s → Kept z0 (resumeStore s) := by
  intros; unfold resumeStore
  repeat' (with_reducible first | assumption | apply winPublish_kept | apply learnOrWait_kept | apply pump_kept | apply caskCmdTry_kept | apply lauterResume_kept | refine foldl_kept _ ?_ ?_ | exact Kept.refl _ | intro _ | split | refine snd_kept (by assumption) ?_ | refine fst_kept (by assumption) ?_ | refine trd_kept (by assumption) ?_ | simp only [with_kept])

theorem sealClosed_kept : ∀ (s : State) {z0 : State}, Kept z0 s → Kept z0 (sealClosed s) := by
  intros; unfold sealClosed
  repeat' (with_reducible first | assumption | exact Kept.refl _ | intro _ | split | refine snd_kept (by assumption) ?_ | refine fst_kept (by assumption) ?_ | refine trd_kept (by assumption) ?_ | simp only [with_kept])

theorem selfSeal_kept : ∀ (s : State) (on : Bool) {z0 : State}, Kept z0 s → Kept z0 (selfSeal s on) := by
  intros; unfold selfSeal
  repeat' (with_reducible first | assumption | apply wf_kept | apply sealClosed_kept | exact Kept.refl _ | intro _ | split | simp only [with_kept])

theorem detach_kept : ∀ (s : State) (reason : ℕ) {z0 : State}, Kept z0 s → Kept z0 (detach s reason) := by
  intros; unfold detach
  repeat' (with_reducible first | assumption | apply twinEvery_kept | apply billAbandon_kept | exact Kept.refl _ | intro _ | split | refine snd_kept (by assumption) ?_ | refine fst_kept (by assumption) ?_ | refine trd_kept (by assumption) ?_ | simp only [with_kept])

theorem followerLost_kept : ∀ (s : State) (reason why : ℕ) {z0 : State}, Kept z0 s → Kept z0 (followerLost s reason why) := by
  intros; unfold followerLost
  repeat' (with_reducible first | assumption | apply twinEnter_kept | apply detach_kept | apply raise_kept | apply resumeStore_kept | apply selfSeal_kept | exact Kept.refl _ | intro _ | split | simp only [with_kept])

theorem copySealed_kept : ∀ (s : State) {z0 : State}, Kept z0 s → Kept z0 (copySealed s) := by
  intros; unfold copySealed
  repeat' (with_reducible first | assumption | apply raise_kept | apply twinEnter_kept | exact Kept.refl _ | intro _ | split | refine snd_kept (by assumption) ?_ | refine fst_kept (by assumption) ?_ | refine trd_kept (by assumption) ?_ | simp only [with_kept])

theorem sealAnswered_kept : ∀ (s : State) (m : Seal) (status : ℕ) {z0 : State}, Kept z0 s → Kept z0 (sealAnswered s m status) := by
  intros; unfold sealAnswered
  repeat' (with_reducible first | assumption | apply peak_kept | apply wf_kept | apply resumeStore_kept | apply copySealed_kept | apply raise_kept | apply cnt_kept | apply followerLost_kept | exact Kept.refl _ | intro _ | split | simp only [with_kept])

theorem ackArrives_kept : ∀ (s : State) (lane : ℕ) (frame : List Byte) {z0 : State}, Kept z0 s → Kept z0 (ackArrives s lane frame) := by
  intros; unfold ackArrives
  repeat' (with_reducible first | assumption | apply twinReceive_kept | apply twinHeard_kept | apply sealAnswered_kept | exact Kept.refl _ | intro _ | split | refine snd_kept (by assumption) ?_ | refine fst_kept (by assumption) ?_ | refine trd_kept (by assumption) ?_ | simp only [with_kept])

theorem twinTransmit_kept : ∀ (s : State) (lane count : ℕ) {z0 : State}, Kept z0 s → Kept z0 (twinTransmit s lane count) := by
  intros; unfold twinTransmit
  repeat' (with_reducible first | assumption | apply twinEmit_kept | apply cntWrap_kept | exact Kept.refl _ | intro _ | split | refine snd_kept (by assumption) ?_ | refine fst_kept (by assumption) ?_ | refine trd_kept (by assumption) ?_ | simp only [with_kept])

theorem heartbeat_kept : ∀ (s : State) {z0 : State}, Kept z0 s → Kept z0 (heartbeat s) := by
  intros; unfold heartbeat
  repeat' (with_reducible first | assumption | apply twinQueue_kept | exact Kept.refl _ | intro _ | split | simp only [with_kept])

theorem heartbeatArrives_kept : ∀ (s : State) (lane : ℕ) (frame : List Byte) {z0 : State}, Kept z0 s → Kept z0 (heartbeatArrives s lane frame) := by
  intros; unfold heartbeatArrives
  repeat' (with_reducible first | assumption | apply twinReceive_kept | apply wrn_kept | apply twinHeard_kept | exact Kept.refl _ | intro _ | split | refine snd_kept (by assumption) ?_ | refine fst_kept (by assumption) ?_ | refine trd_kept (by assumption) ?_ | simp only [with_kept])

theorem promoted_kept : ∀ (s : State) (forced : Bool) {z0 : State}, Kept z0 s → Kept z0 (promoted s forced) := by
  intros; unfold promoted
  repeat' (with_reducible first | assumption | apply guardPns_kept | apply wrn_kept | apply twinEvery_kept | apply wf_kept | apply twinEnter_kept | apply pump_kept | apply raise_kept | exact Kept.refl _ | intro _ | split | simp only [with_kept])

theorem promoteStart_kept : ∀ (s : State) (fence : Bool) {z0 : State}, Kept z0 s → Kept z0 (promoteStart s fence) := by
  intros; unfold promoteStart
  repeat' (with_reducible first | assumption | apply billOrphan_kept | apply billAbandon_kept | apply dropStaged_kept | apply raise_kept | apply twinEnter_kept | apply wf_kept | apply promoted_kept | exact Kept.refl _ | intro _ | split | simp only [with_kept])

theorem fenceWaited_kept : ∀ (s : State) {z0 : State}, Kept z0 s → Kept z0 (fenceWaited s) := by
  intros; unfold fenceWaited
  repeat' (with_reducible first | assumption | apply promoted_kept | exact Kept.refl _ | intro _ | split | refine snd_kept (by assumption) ?_ | refine fst_kept (by assumption) ?_ | refine trd_kept (by assumption) ?_ | simp only [with_kept])

theorem leadLost_kept : ∀ (s : State) {z0 : State}, Kept z0 s → Kept z0 (leadLost s) := by
  intros; unfold leadLost
  repeat' (with_reducible first | assumption | apply raise_kept | apply twinEnter_kept | apply dropStaged_kept | apply promoteStart_kept | exact Kept.refl _ | intro _ | split | simp only [with_kept])

theorem heartbeatMissed_kept : ∀ (s : State) {z0 : State}, Kept z0 s → Kept z0 (heartbeatMissed s) := by
  intros; unfold heartbeatMissed
  repeat' (with_reducible first | assumption | apply wf_kept | apply followerLost_kept | apply leadLost_kept | exact Kept.refl _ | intro _ | split | simp only [with_kept])

theorem joinFollower_kept : ∀ (s : State) {z0 : State}, Kept z0 s → Kept z0 (joinFollower s) := by
  intros; unfold joinFollower
  repeat' (with_reducible first | assumption | apply twinEnter_kept | apply twinQueue_kept | apply raise_kept | exact Kept.refl _ | intro _ | split | simp only [with_kept])

theorem helloArrives_kept : ∀ (s : State) (rx : TwinRx) {z0 : State}, Kept z0 s → Kept z0 (helloArrives s rx) := by
  intros; unfold helloArrives
  repeat' (with_reducible first | assumption | apply twinQueue_kept | apply raise_kept | apply joinFollower_kept | exact Kept.refl _ | intro _ | split | simp only [with_kept])

theorem admitTimeout_kept : ∀ (s : State) {z0 : State}, Kept z0 s → Kept z0 (admitTimeout s) := by
  intros; unfold admitTimeout
  repeat' (with_reducible first | assumption | apply twinQueue_kept | exact Kept.refl _ | intro _ | split | refine snd_kept (by assumption) ?_ | refine fst_kept (by assumption) ?_ | refine trd_kept (by assumption) ?_ | simp only [with_kept])

theorem hello_kept : ∀ (s : State) {z0 : State}, Kept z0 s → Kept z0 (hello s) := by
  intros; unfold hello
  repeat' (with_reducible first | assumption | apply twinQueue_kept | exact Kept.refl _ | intro _ | split | simp only [with_kept])

theorem detachArrives_kept : ∀ (s : State) {z0 : State}, Kept z0 s → Kept z0 (detachArrives s) := by
  intros; unfold detachArrives
  repeat' (with_reducible first | assumption | apply followerLost_kept | apply raise_kept | apply twinEnter_kept | apply dropStaged_kept | exact Kept.refl _ | intro _ | split | simp only [with_kept])

theorem promotedArrives_kept : ∀ (s : State) (batch : ℕ) {z0 : State}, Kept z0 s → Kept z0 (promotedArrives s batch) := by
  intros; unfold promotedArrives
  repeat' (with_reducible first | assumption | apply raise_kept | exact Kept.refl _ | intro _ | split | simp only [with_kept])

theorem amendResult_kept : ∀ (s : State) (code : ℕ) {z0 : State}, Kept z0 s → Kept z0 (amendResult s code) := by
  intros; unfold amendResult
  repeat' (with_reducible first | assumption | apply stage_kept | apply billBack_kept | apply billRefuse_kept | exact Kept.refl _ | intro _ | split | refine snd_kept (by assumption) ?_ | refine fst_kept (by assumption) ?_ | refine trd_kept (by assumption) ?_ | simp only [with_kept])

theorem twinResult_kept : ∀ (s : State) (r : ℕ) {z0 : State}, Kept z0 s → Kept z0 (twinResult s r) := by
  intros; unfold twinResult
  repeat' (with_reducible first | assumption | apply wf_kept | exact Kept.refl _ | intro _ | split | simp only [with_kept])

theorem twinPromote_kept : ∀ (s : State) (fence fenced force : Bool) {z0 : State}, Kept z0 s → Kept z0 (twinPromote s fence fenced force) := by
  intros; unfold twinPromote
  repeat' (with_reducible first | assumption | apply twinResult_kept | apply promoteStart_kept | exact Kept.refl _ | intro _ | split | simp only [with_kept])

theorem twinStop_kept : ∀ (s : State) {z0 : State}, Kept z0 s → Kept z0 (twinStop s) := by
  intros; unfold twinStop
  repeat' (with_reducible first | assumption | apply twinEnter_kept | apply dropStaged_kept | apply detach_kept | apply resumeStore_kept | exact Kept.refl _ | intro _ | split | simp only [with_kept])

theorem twinCommand_kept : ∀ (s : State) (op : ℕ) (fence fenced force : Bool) {z0 : State}, Kept z0 s → Kept z0 (twinCommand s op fence fenced force) := by
  intros; unfold twinCommand
  repeat' (with_reducible first | assumption | apply twinResult_kept | apply selfSeal_kept | apply twinEnter_kept | apply hello_kept | apply dropStaged_kept | apply twinPromote_kept | apply resumeStore_kept | apply detach_kept | apply twinStop_kept | apply joinFollower_kept | apply wf_kept | exact Kept.refl _ | intro _ | split | refine snd_kept (by assumption) ?_ | refine fst_kept (by assumption) ?_ | refine trd_kept (by assumption) ?_ | simp only [with_kept])

theorem fenceLook_kept : ∀ (s : State) (sent : List ℕ) {z0 : State}, Kept z0 s → Kept z0 (fenceLook s sent) := by
  intros; unfold fenceLook
  repeat' (with_reducible first | assumption | apply raise_kept | apply wf_kept | apply laneCtrl_kept | refine foldl_kept _ ?_ ?_ | exact Kept.refl _ | intro _ | split | simp only [with_kept])

theorem copyRow_kept : ∀ (s : State) (row : ℕ) {z0 : State}, Kept z0 s → Kept z0 (copyRow s row) := by
  intros; unfold copyRow
  repeat' (with_reducible first | assumption | apply peak_kept | exact Kept.refl _ | intro _ | split | simp only [with_kept])

theorem cursorStep_kept : ∀ (s : State) {z0 : State}, Kept z0 s → Kept z0 (cursorStep s) := by
  intros; unfold cursorStep
  repeat' (with_reducible first | assumption | apply mirror_kept | apply copyRow_kept | apply copySealed_kept | apply twinQueue_kept | exact Kept.refl _ | intro _ | split | refine snd_kept (by assumption) ?_ | refine fst_kept (by assumption) ?_ | refine trd_kept (by assumption) ?_ | simp only [with_kept])

theorem lastDeltas_kept : ∀ (s : State) {z0 : State}, Kept z0 s → Kept z0 (lastDeltas s) := by
  intros; unfold lastDeltas
  repeat' (with_reducible first | assumption | apply mirror_kept | refine foldl_kept _ ?_ ?_ | exact Kept.refl _ | intro _ | split | simp only [with_kept])

theorem queueSeal_kept : ∀ (s : State) (new : ℕ) {z0 : State}, Kept z0 s → Kept z0 (queueSeal s new) := by
  intros; unfold queueSeal
  repeat' (with_reducible first | assumption | exact Kept.refl _ | intro _ | split | refine snd_kept (by assumption) ?_ | refine fst_kept (by assumption) ?_ | refine trd_kept (by assumption) ?_ | simp only [with_kept])

theorem closeBatch_kept : ∀ (s : State) (new : ℕ) {z0 : State}, Kept z0 s → Kept z0 (closeBatch s new) := by
  intros; unfold closeBatch
  repeat' (with_reducible first | assumption | apply queueSeal_kept | apply lastDeltas_kept | exact Kept.refl _ | intro _ | split | simp only [with_kept])

theorem openCopy_kept : ∀ (s : State) {z0 : State}, Kept z0 s → Kept z0 (openCopy s) := by
  intros; unfold openCopy
  repeat' (with_reducible first | assumption | apply wf_kept | exact Kept.refl _ | intro _ | split | simp only [with_kept])

theorem batchBoundary_kept : ∀ (s : State) {z0 : State}, Kept z0 s → Kept z0 (batchBoundary s) := by
  intros; unfold batchBoundary
  repeat' (with_reducible first | assumption | apply closeBatch_kept | apply applyAmendment_kept | apply openCopy_kept | apply hello_kept | apply pump_kept | exact Kept.refl _ | intro _ | split | simp only [with_kept])

theorem twinLink_kept : ∀ (s : State) (l : ℕ) (up : Bool) {z0 : State}, Kept z0 s → Kept z0 (twinLink s l up) := by
  intros; unfold twinLink
  repeat' (with_reducible first | assumption | apply wf_kept | apply fresh_kept | apply raise_kept | exact Kept.refl _ | intro _ | split | refine snd_kept (by assumption) ?_ | refine fst_kept (by assumption) ?_ | refine trd_kept (by assumption) ?_ | simp only [with_kept])

theorem twinEye_kept : ∀ (s : State) (l height corrected uncorrected : ℕ) {z0 : State}, Kept z0 s → Kept z0 (twinEye s l height corrected uncorrected) := by
  intros; unfold twinEye
  repeat' (with_reducible first | assumption | apply wf_kept | apply cnt_kept | apply cntWrap_kept | apply slackReport_kept | apply raise_kept | exact Kept.refl _ | intro _ | split | simp only [with_kept])

theorem execBatchBoundary_kept : ∀ (s : State) {z0 : State}, Kept z0 s → ∀ (t0 : State), execBatchBoundary s = Host.Outcome.next t0 → Kept z0 t0 := by
  intros; rename_i e; unfold execBatchBoundary at e; repeat' split at e
  all_goals obtain rfl := Host.Outcome.next.inj e
  all_goals repeat' (with_reducible first | assumption | apply batchBoundary_kept | exact Kept.refl _ | intro _ | split | simp only [with_kept])

theorem execTwinFrameTransmit_kept : ∀ (lane : Fin 16) (count : ℕ) (s : State) {z0 : State}, Kept z0 s → ∀ (t0 : State), execTwinFrameTransmit lane count s = Host.Outcome.next t0 → Kept z0 t0 := by
  intros; rename_i e; unfold execTwinFrameTransmit at e; repeat' split at e
  all_goals obtain rfl := Host.Outcome.next.inj e
  all_goals repeat' (with_reducible first | assumption | apply twinTransmit_kept | exact Kept.refl _ | intro _ | split | simp only [with_kept])

theorem execSealAckRx_kept : ∀ (lane : Fin 16) (frame : List Byte) (s : State) {z0 : State}, Kept z0 s → ∀ (t0 : State), execSealAckRx lane frame s = Host.Outcome.next t0 → Kept z0 t0 := by
  intros; rename_i e; unfold execSealAckRx at e; repeat' split at e
  all_goals obtain rfl := Host.Outcome.next.inj e
  all_goals repeat' (with_reducible first | assumption | apply ackArrives_kept | exact Kept.refl _ | intro _ | split | simp only [with_kept])

theorem execHeartbeatSend_kept : ∀ (s : State) {z0 : State}, Kept z0 s → ∀ (t0 : State), execHeartbeatSend s = Host.Outcome.next t0 → Kept z0 t0 := by
  intros; rename_i e; unfold execHeartbeatSend at e; repeat' split at e
  all_goals obtain rfl := Host.Outcome.next.inj e
  all_goals repeat' (with_reducible first | assumption | apply heartbeat_kept | exact Kept.refl _ | intro _ | split | simp only [with_kept])

theorem execHeartbeatRx_kept : ∀ (lane : Fin 16) (frame : List Byte) (s : State) {z0 : State}, Kept z0 s → ∀ (t0 : State), execHeartbeatRx lane frame s = Host.Outcome.next t0 → Kept z0 t0 := by
  intros; rename_i e; unfold execHeartbeatRx at e; repeat' split at e
  all_goals obtain rfl := Host.Outcome.next.inj e
  all_goals repeat' (with_reducible first | assumption | apply heartbeatArrives_kept | exact Kept.refl _ | intro _ | split | simp only [with_kept])

theorem execHeartbeatMiss_kept : ∀ (s : State) {z0 : State}, Kept z0 s → ∀ (t0 : State), execHeartbeatMiss s = Host.Outcome.next t0 → Kept z0 t0 := by
  intros; rename_i e; unfold execHeartbeatMiss at e; repeat' split at e
  all_goals obtain rfl := Host.Outcome.next.inj e
  all_goals repeat' (with_reducible first | assumption | apply heartbeatMissed_kept | exact Kept.refl _ | intro _ | split | simp only [with_kept])

theorem execHelloRx_kept : ∀ (lane : Fin 16) (frame : List Byte) (s : State) {z0 : State}, Kept z0 s → ∀ (t0 : State), execHelloRx lane frame s = Host.Outcome.next t0 → Kept z0 t0 := by
  intros; rename_i e; unfold execHelloRx at e; repeat' split at e
  all_goals obtain rfl := Host.Outcome.next.inj e
  all_goals repeat' (with_reducible first | assumption | apply twinControlRx_kept | apply helloArrives_kept | exact Kept.refl _ | intro _ | split | simp only [with_kept])

theorem execDetachRx_kept : ∀ (lane : Fin 16) (frame : List Byte) (s : State) {z0 : State}, Kept z0 s → ∀ (t0 : State), execDetachRx lane frame s = Host.Outcome.next t0 → Kept z0 t0 := by
  intros; rename_i e; unfold execDetachRx at e; repeat' split at e
  all_goals obtain rfl := Host.Outcome.next.inj e
  all_goals repeat' (with_reducible first | assumption | apply twinControlRx_kept | apply detachArrives_kept | exact Kept.refl _ | intro _ | split | simp only [with_kept])

theorem execAmendResultRx_kept : ∀ (lane : Fin 16) (frame : List Byte) (s : State) {z0 : State}, Kept z0 s → ∀ (t0 : State), execAmendResultRx lane frame s = Host.Outcome.next t0 → Kept z0 t0 := by
  intros; rename_i e; unfold execAmendResultRx at e; repeat' split at e
  all_goals obtain rfl := Host.Outcome.next.inj e
  all_goals repeat' (with_reducible first | assumption | apply twinControlRx_kept | apply amendResult_kept | exact Kept.refl _ | intro _ | split | simp only [with_kept])

theorem execPromotedRx_kept : ∀ (lane : Fin 16) (frame : List Byte) (s : State) {z0 : State}, Kept z0 s → ∀ (t0 : State), execPromotedRx lane frame s = Host.Outcome.next t0 → Kept z0 t0 := by
  intros; rename_i e; unfold execPromotedRx at e; repeat' split at e
  all_goals obtain rfl := Host.Outcome.next.inj e
  all_goals repeat' (with_reducible first | assumption | apply twinControlRx_kept | apply promotedArrives_kept | exact Kept.refl _ | intro _ | split | simp only [with_kept])

theorem execTwinLead_kept : ∀ (s : State) {z0 : State}, Kept z0 s → ∀ (t0 : State), execTwinLead s = Host.Outcome.next t0 → Kept z0 t0 := by
  intros; rename_i e; unfold execTwinLead at e; repeat' split at e
  all_goals obtain rfl := Host.Outcome.next.inj e
  all_goals repeat' (with_reducible first | assumption | apply twinCommand_kept | exact Kept.refl _ | intro _ | split | simp only [with_kept])

theorem execTwinFollow_kept : ∀ (s : State) {z0 : State}, Kept z0 s → ∀ (t0 : State), execTwinFollow s = Host.Outcome.next t0 → Kept z0 t0 := by
  intros; rename_i e; unfold execTwinFollow at e; repeat' split at e
  all_goals obtain rfl := Host.Outcome.next.inj e
  all_goals repeat' (with_reducible first | assumption | apply twinCommand_kept | exact Kept.refl _ | intro _ | split | simp only [with_kept])

theorem execTwinPromote_kept : ∀ (fence fenced force : Bool) (s : State) {z0 : State}, Kept z0 s → ∀ (t0 : State), execTwinPromote fence fenced force s = Host.Outcome.next t0 → Kept z0 t0 := by
  intros; rename_i e; unfold execTwinPromote at e; repeat' split at e
  all_goals obtain rfl := Host.Outcome.next.inj e
  all_goals repeat' (with_reducible first | assumption | apply twinCommand_kept | exact Kept.refl _ | intro _ | split | simp only [with_kept])

theorem execTwinAlone_kept : ∀ (s : State) {z0 : State}, Kept z0 s → ∀ (t0 : State), execTwinAlone s = Host.Outcome.next t0 → Kept z0 t0 := by
  intros; rename_i e; unfold execTwinAlone at e; repeat' split at e
  all_goals obtain rfl := Host.Outcome.next.inj e
  all_goals repeat' (with_reducible first | assumption | apply twinCommand_kept | exact Kept.refl _ | intro _ | split | simp only [with_kept])

theorem execTwinStop_kept : ∀ (s : State) {z0 : State}, Kept z0 s → ∀ (t0 : State), execTwinStop s = Host.Outcome.next t0 → Kept z0 t0 := by
  intros; rename_i e; unfold execTwinStop at e; repeat' split at e
  all_goals obtain rfl := Host.Outcome.next.inj e
  all_goals repeat' (with_reducible first | assumption | apply twinCommand_kept | exact Kept.refl _ | intro _ | split | simp only [with_kept])

theorem execTwinAdmit_kept : ∀ (s : State) {z0 : State}, Kept z0 s → ∀ (t0 : State), execTwinAdmit s = Host.Outcome.next t0 → Kept z0 t0 := by
  intros; rename_i e; unfold execTwinAdmit at e; repeat' split at e
  all_goals obtain rfl := Host.Outcome.next.inj e
  all_goals repeat' (with_reducible first | assumption | apply twinCommand_kept | exact Kept.refl _ | intro _ | split | simp only [with_kept])

theorem execTwinUnfence_kept : ∀ (s : State) {z0 : State}, Kept z0 s → ∀ (t0 : State), execTwinUnfence s = Host.Outcome.next t0 → Kept z0 t0 := by
  intros; rename_i e; unfold execTwinUnfence at e; repeat' split at e
  all_goals obtain rfl := Host.Outcome.next.inj e
  all_goals repeat' (with_reducible first | assumption | apply twinCommand_kept | exact Kept.refl _ | intro _ | split | simp only [with_kept])

theorem execFenceWaitExpiry_kept : ∀ (s : State) {z0 : State}, Kept z0 s → ∀ (t0 : State), execFenceWaitExpiry s = Host.Outcome.next t0 → Kept z0 t0 := by
  intros; rename_i e; unfold execFenceWaitExpiry at e; repeat' split at e
  all_goals obtain rfl := Host.Outcome.next.inj e
  all_goals repeat' (with_reducible first | assumption | apply fenceWaited_kept | exact Kept.refl _ | intro _ | split | simp only [with_kept])

theorem execTwFenceInChange_kept : ∀ (level : Bool) (sent : List ℕ) (s : State) {z0 : State}, Kept z0 s → ∀ (t0 : State), execTwFenceInChange level sent s = Host.Outcome.next t0 → Kept z0 t0 := by
  intros; rename_i e; unfold execTwFenceInChange at e; repeat' split at e
  all_goals obtain rfl := Host.Outcome.next.inj e
  all_goals repeat' (with_reducible first | assumption | apply fenceLook_kept | exact Kept.refl _ | intro _ | split | simp only [with_kept])

theorem execJoinAdmitTimeout_kept : ∀ (s : State) {z0 : State}, Kept z0 s → ∀ (t0 : State), execJoinAdmitTimeout s = Host.Outcome.next t0 → Kept z0 t0 := by
  intros; rename_i e; unfold execJoinAdmitTimeout at e; repeat' split at e
  all_goals obtain rfl := Host.Outcome.next.inj e
  all_goals repeat' (with_reducible first | assumption | apply admitTimeout_kept | exact Kept.refl _ | intro _ | split | simp only [with_kept])

theorem execCopyCursorStep_kept : ∀ (s : State) {z0 : State}, Kept z0 s → ∀ (t0 : State), execCopyCursorStep s = Host.Outcome.next t0 → Kept z0 t0 := by
  intros; rename_i e; unfold execCopyCursorStep at e; repeat' split at e
  all_goals obtain rfl := Host.Outcome.next.inj e
  all_goals repeat' (with_reducible first | assumption | apply cursorStep_kept | exact Kept.refl _ | intro _ | split | simp only [with_kept])

theorem execTwinLaneUp_kept : ∀ (lane : Fin 16) (s : State) {z0 : State}, Kept z0 s → ∀ (t0 : State), execTwinLaneUp lane s = Host.Outcome.next t0 → Kept z0 t0 := by
  intros; rename_i e; unfold execTwinLaneUp at e; repeat' split at e
  all_goals obtain rfl := Host.Outcome.next.inj e
  all_goals repeat' (with_reducible first | assumption | apply twinLink_kept | exact Kept.refl _ | intro _ | split | simp only [with_kept])

theorem execTwinLaneDown_kept : ∀ (lane : Fin 16) (s : State) {z0 : State}, Kept z0 s → ∀ (t0 : State), execTwinLaneDown lane s = Host.Outcome.next t0 → Kept z0 t0 := by
  intros; rename_i e; unfold execTwinLaneDown at e; repeat' split at e
  all_goals obtain rfl := Host.Outcome.next.inj e
  all_goals repeat' (with_reducible first | assumption | apply twinLink_kept | exact Kept.refl _ | intro _ | split | simp only [with_kept])

theorem execTwinEyeMeasure_kept : ∀ (lane : Fin 16) (height : BitVec 8) (corrected uncorrected : ℕ) (s : State) {z0 : State}, Kept z0 s → ∀ (t0 : State), execTwinEyeMeasure lane height corrected uncorrected s = Host.Outcome.next t0 → Kept z0 t0 := by
  intros; rename_i e; unfold execTwinEyeMeasure at e; repeat' split at e
  all_goals obtain rfl := Host.Outcome.next.inj e
  all_goals repeat' (with_reducible first | assumption | apply twinEye_kept | exact Kept.refl _ | intro _ | split | simp only [with_kept])

end Sys2Proof.Machine
end

