-- ==== Sys2Proof/Laws/HostIfKept.lean ====
section
/-! SUPPORT. What the functions of HostIf.lean keep (Laws/Kept.lean). -/
namespace Sys2Proof.Machine
set_option linter.unusedTactic false
set_option linter.unreachableTactic false
set_option linter.unusedSimpArgs false

theorem aroundFree_kept : ∀ (s : State) {z0 : State}, Kept z0 s → Kept z0 (aroundFree s).2 := by
  intros; unfold aroundFree
  repeat' (with_reducible first | assumption | exact Kept.refl _ | intro _ | split | simp only [with_kept])

theorem ringAdvance_kept : ∀ (s : State) (e : ℕ) {z0 : State}, Kept z0 s → Kept z0 (ringAdvance s e) := by
  intros; unfold ringAdvance
  repeat' (with_reducible first | assumption | apply wf_kept | exact Kept.refl _ | intro _ | split | simp only [with_kept])

theorem ringStop_kept : ∀ (s : State) (e : ℕ) {z0 : State}, Kept z0 s → Kept z0 (ringStop s e) := by
  intros; unfold ringStop
  repeat' (with_reducible first | assumption | apply wf_kept | exact Kept.refl _ | intro _ | split | simp only [with_kept])

theorem ringBadCheck_kept : ∀ (s : State) (e : ℕ) {z0 : State}, Kept z0 s → Kept z0 (ringBadCheck s e) := by
  intros; unfold ringBadCheck
  repeat' (with_reducible first | assumption | apply raise_kept | apply ringStop_kept | exact Kept.refl _ | intro _ | split | simp only [with_kept])

theorem cqAdmit_kept : ∀ (s : State) (q : ℕ) {z0 : State}, Kept z0 s → Kept z0 (cqAdmit s q) := by
  intros; unfold cqAdmit
  repeat' (with_reducible first | assumption | exact Kept.refl _ | intro _ | split | simp only [with_kept])

theorem ringDiscard_kept : ∀ (s : State) (e : ℕ) {z0 : State}, Kept z0 s → Kept z0 (ringDiscard s e) := by
  intros; unfold ringDiscard
  repeat' (with_reducible first | assumption | apply cnt_kept | exact Kept.refl _ | intro _ | split | refine snd_kept (by assumption) ?_ | refine fst_kept (by assumption) ?_ | refine trd_kept (by assumption) ?_ | simp only [with_kept])

theorem ringCfg_kept : ∀ (s : State) (e : ℕ) (v : W64) {z0 : State}, Kept z0 s → Kept z0 (ringCfg s e v) := by
  intros; unfold ringCfg
  repeat' (with_reducible first | assumption | apply regWrite_kept | apply wf_kept | apply ringDiscard_kept | apply cqAdmit_kept | exact Kept.refl _ | intro _ | split | simp only [with_kept])

theorem ringTail_kept : ∀ (s : State) (e : ℕ) (v : W64) {z0 : State}, Kept z0 s → Kept z0 (ringTail s e v) := by
  intros; unfold ringTail
  repeat' (with_reducible first | assumption | apply wf_kept | apply regWrite_kept | apply cqAdmit_kept | exact Kept.refl _ | intro _ | split | simp only [with_kept])

theorem unlessBusy_kept : ∀ (s : State) (busy : Bool) (a : ℕ) (v : W64) {z0 : State}, Kept z0 s → Kept z0 (unlessBusy s busy a v) := by
  intros; unfold unlessBusy
  repeat' (with_reducible first | assumption | apply accReport_kept | apply regWrite_kept | exact Kept.refl _ | intro _ | split | simp only [with_kept])

theorem msixCtl_kept : ∀ (s : State) (v : ℕ) (w : W64) {z0 : State}, Kept z0 s → Kept z0 (msixCtl s v w) := by
  intros; unfold msixCtl
  repeat' (with_reducible first | assumption | apply regWrite_kept | apply eventVector_kept | apply raiseVector_kept | exact Kept.refl _ | intro _ | split | simp only [with_kept])

theorem goWrite_kept : ∀ (s : State) (a : ℕ) (v : W64) (start : State → State) {z : State}, (∀ (u : State), Kept z u → Kept z (start u)) → Kept z s → Kept z (goWrite s a v start) := by
  intro s a v start z hs h
  have h0 := regWrite_kept s a v h
  unfold goWrite
  dsimp only
  split
  · exact hs _ (wf_kept _ _ _ _ _ h0)
  · exact h0
theorem pairWrite_kept : ∀ (s : State) (a : ℕ) (v : W64) (f g : ℕ × ℕ) (bad : ℕ → ℕ → Bool) {z0 : State}, Kept z0 s → Kept z0 (pairWrite s a v f g bad) := by
  intros; unfold pairWrite
  repeat' (with_reducible first | assumption | apply regWrite_kept | apply accReport_kept | exact Kept.refl _ | intro _ | split | refine snd_kept (by assumption) ?_ | refine fst_kept (by assumption) ?_ | refine trd_kept (by assumption) ?_ | simp only [with_kept])

theorem writeBillCore_kept : ∀ (s : State) (a : ℕ) (v : W64) {z0 : State}, Kept z0 s → Kept z0 (writeBillCore s a v) := by
  intros; unfold writeBillCore
  repeat' (with_reducible first | assumption | apply accReport_kept | apply billCommand_kept | apply pairWrite_kept | apply recalCommand_kept | apply regWrite_kept | exact Kept.refl _ | intro _ | split | simp only [with_kept])

theorem writePort_kept : ∀ (s : State) (x : Around) (a : ℕ) (v : W64) {z0 : State}, Kept z0 s → Kept z0 (writePort s x a v) := by
  intros; unfold writePort
  repeat' (with_reducible first | assumption | apply laneCtrl_kept | apply regWrite_kept | apply mdioCommand_kept | apply i2cCommand_kept | exact Kept.refl _ | intro _ | split | refine snd_kept (by assumption) ?_ | refine fst_kept (by assumption) ?_ | refine trd_kept (by assumption) ?_ | simp only [with_kept])

theorem writeTables_kept : ∀ (s : State) (a : ℕ) (v : W64) {z0 : State}, Kept z0 s → Kept z0 (writeTables s a v) := by
  intros; unfold writeTables
  repeat' (with_reducible first | assumption | apply clselWrite_kept | apply unlessBusy_kept | apply goWrite_kept | apply tblStart_kept | apply rehashStart_kept | apply regWrite_kept | exact Kept.refl _ | intro _ | split | refine snd_kept (by assumption) ?_ | refine fst_kept (by assumption) ?_ | refine trd_kept (by assumption) ?_ | simp only [with_kept])

theorem writeStores_kept : ∀ (s : State) (a : ℕ) (v : W64) {z0 : State}, Kept z0 s → Kept z0 (writeStores s a v) := by
  intros; unfold writeStores
  repeat' (with_reducible first | assumption | apply goWrite_kept | apply lauterStart_kept | apply caskCommand_kept | apply pairWrite_kept | apply regWrite_kept | exact Kept.refl _ | intro _ | split | simp only [with_kept])

theorem writeDeepFerm_kept : ∀ (s : State) (x : Around) (a : ℕ) (v : W64) {z0 : State}, Kept z0 s → Kept z0 (writeDeepFerm s x a v) := by
  intros; unfold writeDeepFerm
  repeat' (with_reducible first | assumption | apply deepCommand_kept | apply regWrite_kept | apply accReport_kept | exact Kept.refl _ | intro _ | split | refine snd_kept (by assumption) ?_ | refine fst_kept (by assumption) ?_ | refine trd_kept (by assumption) ?_ | simp only [with_kept])

theorem writeMereEgress_kept : ∀ (s : State) (a : ℕ) (v : W64) {z0 : State}, Kept z0 s → Kept z0 (writeMereEgress s a v) := by
  intros; unfold writeMereEgress
  repeat' (with_reducible first | assumption | apply egressCells_kept | apply regWrite_kept | apply lodeConfig_kept | apply egressWrite_kept | exact Kept.refl _ | intro _ | split | refine snd_kept (by assumption) ?_ | refine fst_kept (by assumption) ?_ | refine trd_kept (by assumption) ?_ | simp only [with_kept])

theorem writeAuth_kept : ∀ (s : State) (a : ℕ) (v : W64) {z0 : State}, Kept z0 s → Kept z0 (writeAuth s a v) := by
  intros; unfold writeAuth
  repeat' (with_reducible first | assumption | apply goWrite_kept | apply keyCommand_kept | apply hjTail_kept | apply pnChanged_kept | apply regWrite_kept | exact Kept.refl _ | intro _ | split | refine snd_kept (by assumption) ?_ | refine fst_kept (by assumption) ?_ | refine trd_kept (by assumption) ?_ | simp only [with_kept])

theorem writeTime_kept : ∀ (s : State) (a : ℕ) (v : W64) {z0 : State}, Kept z0 s → Kept z0 (writeTime s a v) := by
  intros; unfold writeTime
  repeat' (with_reducible first | assumption | apply writeRate_kept | apply timeCommand_kept | apply ldelayMeasure_kept | apply toutArm_kept | apply toutDisarm_kept | apply capturePop_kept | apply regWrite_kept | exact Kept.refl _ | intro _ | split | refine snd_kept (by assumption) ?_ | refine fst_kept (by assumption) ?_ | refine trd_kept (by assumption) ?_ | simp only [with_kept])

theorem writeTwinFen_kept : ∀ (s : State) (x : Around) (a : ℕ) (v : W64) {z0 : State}, Kept z0 s → Kept z0 (writeTwinFen s x a v) := by
  intros; unfold writeTwinFen
  repeat' (with_reducible first | assumption | apply goWrite_kept | apply twinCommand_kept | apply fenceLook_kept | apply regWrite_kept | apply fenResync_kept | apply wf_kept | apply twinLink_kept | apply memberCfg_kept | exact Kept.refl _ | intro _ | split | refine snd_kept (by assumption) ?_ | refine fst_kept (by assumption) ?_ | refine trd_kept (by assumption) ?_ | simp only [with_kept])

theorem writeEventPerf_kept : ∀ (s : State) (a : ℕ) (v : W64) {z0 : State}, Kept z0 s → Kept z0 (writeEventPerf s a v) := by
  intros; unfold writeEventPerf
  repeat' (with_reducible first | assumption | apply eventCfg_kept | apply unlessBusy_kept | apply eventHead_kept | apply eventSoft_kept | apply perfCmd_kept | apply bwWindowWrite_kept | apply psCfgWrite_kept | apply eventRoute_kept | apply counterCtl_kept | apply counterValue_kept | apply regWrite_kept | exact Kept.refl _ | intro _ | split | refine snd_kept (by assumption) ?_ | refine fst_kept (by assumption) ?_ | refine trd_kept (by assumption) ?_ | simp only [with_kept])

theorem writePowerHost_kept : ∀ (s : State) (a : ℕ) (v : W64) {z0 : State}, Kept z0 s → Kept z0 (writePowerHost s a v) := by
  intros; unfold writePowerHost
  repeat' (with_reducible first | assumption | apply goWrite_kept | apply powerCommand_kept | apply regWrite_kept | apply msixCtl_kept | apply unlessBusy_kept | apply ringCfg_kept | apply ringTail_kept | exact Kept.refl _ | intro _ | split | refine snd_kept (by assumption) ?_ | refine fst_kept (by assumption) ?_ | refine trd_kept (by assumption) ?_ | simp only [with_kept])

theorem regSet_kept : ∀ (s : State) (x : Around) (a : ℕ) (v : W64) {z0 : State}, Kept z0 s → Kept z0 (regSet s x a v) := by
  intros; unfold regSet
  repeat' (with_reducible first | assumption | apply regWrite_kept | apply writeBillCore_kept | apply writePort_kept | apply writeTables_kept | apply writeStores_kept | apply writeDeepFerm_kept | apply writeMereEgress_kept | apply writeAuth_kept | apply writeTime_kept | apply writeTwinFen_kept | apply writeEventPerf_kept | apply writePowerHost_kept | exact Kept.refl _ | intro _ | split | simp only [with_kept])

theorem afterRead_kept : ∀ (s : State) (a : ℕ) (r : RegRow) {z0 : State}, Kept z0 s → Kept z0 (afterRead s a r) := by
  intros; unfold afterRead
  repeat' (with_reducible first | assumption | apply snapTime_kept | apply wrn_kept | apply regionPut_kept | apply wr_kept | exact Kept.refl _ | intro _ | split | refine snd_kept (by assumption) ?_ | refine fst_kept (by assumption) ?_ | refine trd_kept (by assumption) ?_ | simp only [with_kept])

theorem mibRead_kept : ∀ (s : State) (l k dword value : ℕ) {z0 : State}, Kept z0 s → Kept z0 (mibRead s l k dword value).2 := by
  intros; unfold mibRead
  repeat' (with_reducible first | assumption | apply latchCounter_kept | apply lanePut_kept | exact Kept.refl _ | intro _ | split | refine snd_kept (by assumption) ?_ | refine fst_kept (by assumption) ?_ | refine trd_kept (by assumption) ?_ | simp only [with_kept])

theorem bar0Fetch_kept : ∀ (s : State) (a n : ℕ) {z0 : State}, Kept z0 s → Kept z0 (bar0Fetch s a n).2 := by
  intros; unfold bar0Fetch
  repeat' (with_reducible first | assumption | apply accReport_kept | apply mibRead_kept | apply afterRead_kept | apply reach_kept | apply asleepAccess_kept | exact Kept.refl _ | intro _ | split | refine snd_kept (by assumption) ?_ | refine fst_kept (by assumption) ?_ | refine trd_kept (by assumption) ?_ | simp only [with_kept])

theorem regPut_kept : ∀ (s : State) (x : Around) (base : ℕ) (r : RegRow) (k : ℕ) (data : List Byte) {z0 : State}, Kept z0 s → Kept z0 (regPut s x base r k data) := by
  intros; unfold regPut
  repeat' (with_reducible first | assumption | apply regSet_kept | exact Kept.refl _ | intro _ | split | simp only [with_kept])

theorem bar0Put_kept : ∀ (s : State) (x : Around) (a : ℕ) (data : List Byte) (full : Bool) {z0 : State}, Kept z0 s → Kept z0 (bar0Put s x a data full).2 := by
  intros; unfold bar0Put
  repeat' (with_reducible first | assumption | apply accReport_kept | apply regPut_kept | apply reach_kept | apply asleepAccess_kept | exact Kept.refl _ | intro _ | split | refine snd_kept (by assumption) ?_ | refine fst_kept (by assumption) ?_ | refine trd_kept (by assumption) ?_ | simp only [with_kept])

theorem bar0Write_kept : ∀ (s : State) (x : Around) (a : ℕ) (data : List Byte) (full : Bool) {z0 : State}, Kept z0 s → Kept z0 (bar0Write s x a data full) := by
  intros; unfold bar0Write
  repeat' (with_reducible first | assumption | apply bar0Put_kept | apply holdAccess_kept | exact Kept.refl _ | intro _ | split | refine snd_kept (by assumption) ?_ | refine fst_kept (by assumption) ?_ | refine trd_kept (by assumption) ?_ | simp only [with_kept])

theorem bar0Read_kept : ∀ (s : State) (a n : ℕ) {z0 : State}, Kept z0 s → Kept z0 (bar0Read s a n) := by
  intros; unfold bar0Read
  repeat' (with_reducible first | assumption | apply bar0Fetch_kept | apply emit_kept | apply holdAccess_kept | exact Kept.refl _ | intro _ | split | refine snd_kept (by assumption) ?_ | refine fst_kept (by assumption) ?_ | refine trd_kept (by assumption) ?_ | simp only [with_kept])

theorem bar4Read_kept : ∀ (s : State) (a n : ℕ) {z0 : State}, Kept z0 s → Kept z0 (bar4Read s a n) := by
  intros; unfold bar4Read
  repeat' (with_reducible first | assumption | apply emit_kept | apply accReport_kept | exact Kept.refl _ | intro _ | split | simp only [with_kept])

theorem serveOne_kept : ∀ (s : State) (h : HeldAccess) {z0 : State}, Kept z0 s → Kept z0 (serveOne s h) := by
  intros; unfold serveOne
  repeat' (with_reducible first | assumption | apply aroundFree_kept | apply bar0Write_kept | apply bar0Read_kept | apply bar2Write_kept | apply bar2Cas_kept | apply bar2Read_kept | exact Kept.refl _ | intro _ | split | refine snd_kept (by assumption) ?_ | refine fst_kept (by assumption) ?_ | refine trd_kept (by assumption) ?_ | simp only [with_kept])

theorem serveHeld_kept : ∀ (s : State) (h : ℕ) {z0 : State}, Kept z0 s → Kept z0 (serveHeld s h) := by
  intros; unfold serveHeld
  repeat' (with_reducible first | assumption | apply serveOne_kept | apply humPut_kept | refine foldl_kept _ ?_ ?_ | exact Kept.refl _ | intro _ | split | simp only [with_kept])

theorem execRegisterWrite_kept : ∀ (bar : Fin 3) (addr : BitVec 32) (data : List Byte) (full : Bool) (sent : List ℕ) (s : State) {z0 : State}, Kept z0 s → ∀ (t0 : State), execRegisterWrite bar addr data full sent s = Host.Outcome.next t0 → Kept z0 t0 := by
  intros; rename_i e; unfold execRegisterWrite at e; repeat' split at e
  all_goals obtain rfl := Host.Outcome.next.inj e
  all_goals repeat' (with_reducible first | assumption | apply pump_kept | apply fresh_kept | apply bar0Write_kept | apply bar2Write_kept | apply accReport_kept | exact Kept.refl _ | intro _ | split | refine snd_kept (by assumption) ?_ | refine fst_kept (by assumption) ?_ | refine trd_kept (by assumption) ?_ | simp only [with_kept])

theorem execRegisterRead_kept : ∀ (bar : Fin 3) (addr : BitVec 32) (len : ℕ) (s : State) {z0 : State}, Kept z0 s → ∀ (t0 : State), execRegisterRead bar addr len s = Host.Outcome.next t0 → Kept z0 t0 := by
  intros; rename_i e; unfold execRegisterRead at e; repeat' split at e
  all_goals obtain rfl := Host.Outcome.next.inj e
  all_goals repeat' (with_reducible first | assumption | apply pump_kept | apply bar0Read_kept | apply bar2Read_kept | apply bar4Read_kept | exact Kept.refl _ | intro _ | split | refine snd_kept (by assumption) ?_ | refine fst_kept (by assumption) ?_ | refine trd_kept (by assumption) ?_ | simp only [with_kept])

theorem execHostAccStatusRead_kept : ∀ (s : State) {z0 : State}, Kept z0 s → ∀ (t0 : State), execHostAccStatusRead s = Host.Outcome.next t0 → Kept z0 t0 := by
  intros; rename_i e; unfold execHostAccStatusRead at e; repeat' split at e
  all_goals obtain rfl := Host.Outcome.next.inj e
  all_goals repeat' (with_reducible first | assumption | apply bar0Read_kept | exact Kept.refl _ | intro _ | split | simp only [with_kept])

theorem execAtomicopUnsupported_kept : ∀ (bar : Fin 3) (addr : BitVec 32) (s : State) {z0 : State}, Kept z0 s → ∀ (t0 : State), execAtomicopUnsupported bar addr s = Host.Outcome.next t0 → Kept z0 t0 := by
  intros; rename_i e; unfold execAtomicopUnsupported at e; repeat' split at e
  all_goals obtain rfl := Host.Outcome.next.inj e
  all_goals repeat' (with_reducible first | assumption | apply emit_kept | apply accReport_kept | exact Kept.refl _ | intro _ | split | simp only [with_kept])

theorem execCounterLowRead_kept : ∀ (lane : Fin 64) (k : Fin 22) (s : State) {z0 : State}, Kept z0 s → ∀ (t0 : State), execCounterLowRead lane k s = Host.Outcome.next t0 → Kept z0 t0 := by
  intros; rename_i e; unfold execCounterLowRead at e; repeat' split at e
  all_goals obtain rfl := Host.Outcome.next.inj e
  all_goals repeat' (with_reducible first | assumption | apply bar0Read_kept | exact Kept.refl _ | intro _ | split | simp only [with_kept])

theorem execTimeSnapRead_kept : ∀ (s : State) {z0 : State}, Kept z0 s → ∀ (t0 : State), execTimeSnapRead s = Host.Outcome.next t0 → Kept z0 t0 := by
  intros; rename_i e; unfold execTimeSnapRead at e; repeat' split at e
  all_goals obtain rfl := Host.Outcome.next.inj e
  all_goals repeat' (with_reducible first | assumption | apply bar0Read_kept | exact Kept.refl _ | intro _ | split | simp only [with_kept])

theorem rowWrite_kept : ∀ (s : State) (x : Around) (a v : ℕ) {z0 : State}, Kept z0 s → Kept z0 (rowWrite s x a v) := by
  intros; unfold rowWrite
  repeat' (with_reducible first | assumption | apply pump_kept | apply bar0Write_kept | exact Kept.refl _ | intro _ | split | simp only [with_kept])

theorem execEgressCellsWrite_kept : ∀ (quad : Fin 16) (value : BitVec 32) (s : State) {z0 : State}, Kept z0 s → ∀ (t0 : State), execEgressCellsWrite quad value s = Host.Outcome.next t0 → Kept z0 t0 := by
  intros; rename_i e; unfold execEgressCellsWrite at e; repeat' split at e
  all_goals obtain rfl := Host.Outcome.next.inj e
  all_goals repeat' (with_reducible first | assumption | apply rowWrite_kept | exact Kept.refl _ | intro _ | split | simp only [with_kept])

theorem execLaneCtrlWrite_kept : ∀ (lane : Fin 64) (value : BitVec 32) (sent : ℕ) (s : State) {z0 : State}, Kept z0 s → ∀ (t0 : State), execLaneCtrlWrite lane value sent s = Host.Outcome.next t0 → Kept z0 t0 := by
  intros; rename_i e; unfold execLaneCtrlWrite at e; repeat' split at e
  all_goals obtain rfl := Host.Outcome.next.inj e
  all_goals repeat' (with_reducible first | assumption | apply rowWrite_kept | exact Kept.refl _ | intro _ | split | simp only [with_kept])

theorem execAnRestart_kept : ∀ (lane : Fin 64) (s : State) {z0 : State}, Kept z0 s → ∀ (t0 : State), execAnRestart lane s = Host.Outcome.next t0 → Kept z0 t0 := by
  intros; rename_i e; unfold execAnRestart at e; repeat' split at e
  all_goals obtain rfl := Host.Outcome.next.inj e
  all_goals repeat' (with_reducible first | assumption | apply aroundFree_kept | apply rowWrite_kept | exact Kept.refl _ | intro _ | split | refine snd_kept (by assumption) ?_ | refine fst_kept (by assumption) ?_ | refine trd_kept (by assumption) ?_ | simp only [with_kept])

theorem execDeepRetrain_kept : ∀ (ch : Fin 64) (value : BitVec 32) (s : State) {z0 : State}, Kept z0 s → ∀ (t0 : State), execDeepRetrain ch value s = Host.Outcome.next t0 → Kept z0 t0 := by
  intros; rename_i e; unfold execDeepRetrain at e; repeat' split at e
  all_goals obtain rfl := Host.Outcome.next.inj e
  all_goals repeat' (with_reducible first | assumption | apply rowWrite_kept | exact Kept.refl _ | intro _ | split | simp only [with_kept])

theorem execDeepZqNow_kept : ∀ (ch : Fin 64) (value : BitVec 32) (s : State) {z0 : State}, Kept z0 s → ∀ (t0 : State), execDeepZqNow ch value s = Host.Outcome.next t0 → Kept z0 t0 := by
  intros; rename_i e; unfold execDeepZqNow at e; repeat' split at e
  all_goals obtain rfl := Host.Outcome.next.inj e
  all_goals repeat' (with_reducible first | assumption | apply rowWrite_kept | exact Kept.refl _ | intro _ | split | simp only [with_kept])

theorem execDeepReadMr_kept : ∀ (ch : Fin 64) (value : BitVec 32) (data : BitVec 8) (s : State) {z0 : State}, Kept z0 s → ∀ (t0 : State), execDeepReadMr ch value data s = Host.Outcome.next t0 → Kept z0 t0 := by
  intros; rename_i e; unfold execDeepReadMr at e; repeat' split at e
  all_goals obtain rfl := Host.Outcome.next.inj e
  all_goals repeat' (with_reducible first | assumption | apply rowWrite_kept | exact Kept.refl _ | intro _ | split | simp only [with_kept])

theorem execRingEnable_kept : ∀ (ring : Fin 36) (value : BitVec 32) (s : State) {z0 : State}, Kept z0 s → ∀ (t0 : State), execRingEnable ring value s = Host.Outcome.next t0 → Kept z0 t0 := by
  intros; rename_i e; unfold execRingEnable at e; repeat' split at e
  all_goals obtain rfl := Host.Outcome.next.inj e
  all_goals repeat' (with_reducible first | assumption | apply pump_kept | apply ringCfg_kept | exact Kept.refl _ | intro _ | split | simp only [with_kept])

theorem execTxRingTail_kept : ∀ (ring : Fin 16) (value : BitVec 32) (s : State) {z0 : State}, Kept z0 s → ∀ (t0 : State), execTxRingTail ring value s = Host.Outcome.next t0 → Kept z0 t0 := by
  intros; rename_i e; unfold execTxRingTail at e; repeat' split at e
  all_goals obtain rfl := Host.Outcome.next.inj e
  all_goals repeat' (with_reducible first | assumption | apply ringTail_kept | exact Kept.refl _ | intro _ | split | simp only [with_kept])

theorem execRxRingTail_kept : ∀ (ring : Fin 16) (value : BitVec 32) (s : State) {z0 : State}, Kept z0 s → ∀ (t0 : State), execRxRingTail ring value s = Host.Outcome.next t0 → Kept z0 t0 := by
  intros; rename_i e; unfold execRxRingTail at e; repeat' split at e
  all_goals obtain rfl := Host.Outcome.next.inj e
  all_goals repeat' (with_reducible first | assumption | apply ringTail_kept | exact Kept.refl _ | intro _ | split | simp only [with_kept])

theorem execCqTail_kept : ∀ (queue : Fin 4) (value : BitVec 32) (s : State) {z0 : State}, Kept z0 s → ∀ (t0 : State), execCqTail queue value s = Host.Outcome.next t0 → Kept z0 t0 := by
  intros; rename_i e; unfold execCqTail at e; repeat' split at e
  all_goals obtain rfl := Host.Outcome.next.inj e
  all_goals repeat' (with_reducible first | assumption | apply ringTail_kept | exact Kept.refl _ | intro _ | split | simp only [with_kept])

end Sys2Proof.Machine
end

