-- ==== Sys2Proof/Laws/HostRingsKept.lean ====
section
/-! SUPPORT. What the functions of HostRings.lean keep (Laws/Kept.lean). -/
namespace Sys2Proof.Machine
set_option linter.unusedTactic false
set_option linter.unreachableTactic false
set_option linter.unusedSimpArgs false

theorem ringVector_kept : ∀ (s : State) (e : ℕ) {z0 : State}, Kept z0 s → Kept z0 (ringVector s e) := by
  intros; unfold ringVector
  repeat' (with_reducible first | assumption | apply raiseVector_kept | exact Kept.refl _ | intro _ | split | simp only [with_kept])

theorem txConsume_kept : ∀ (s : State) (ring : ℕ) (irq : Bool) {z0 : State}, Kept z0 s → Kept z0 (txConsume s ring irq) := by
  intros; unfold txConsume
  repeat' (with_reducible first | assumption | apply ringAdvance_kept | apply emit_kept | apply ringVector_kept | exact Kept.refl _ | intro _ | split | simp only [with_kept])

theorem txDescriptor_kept : ∀ (s : State) (ring : ℕ) (d : List Byte) {z0 : State}, Kept z0 s → Kept z0 (txDescriptor s ring d) := by
  intros; unfold txDescriptor
  repeat' (with_reducible first | assumption | apply ringBadCheck_kept | apply txConsume_kept | apply raise_kept | apply cnt_kept | exact Kept.refl _ | intro _ | split | refine snd_kept (by assumption) ?_ | refine fst_kept (by assumption) ?_ | refine trd_kept (by assumption) ?_ | simp only [with_kept])

theorem injectFrame_kept : ∀ (s : State) (x : TxFetch) (data : List Byte) {z0 : State}, Kept z0 s → Kept z0 (injectFrame s x data) := by
  intros; unfold injectFrame
  repeat' (with_reducible first | assumption | apply framePut_kept | apply frameCheck_kept | apply makeCopies_kept | exact Kept.refl _ | intro _ | split | refine snd_kept (by assumption) ?_ | refine fst_kept (by assumption) ?_ | refine trd_kept (by assumption) ?_ | simp only [with_kept])

theorem txFrame_kept : ∀ (s : State) (ring : ℕ) (data : List Byte) {z0 : State}, Kept z0 s → Kept z0 (txFrame s ring data) := by
  intros; unfold txFrame
  repeat' (with_reducible first | assumption | apply txConsume_kept | apply cntWrap_kept | apply injectFrame_kept | exact Kept.refl _ | intro _ | split | refine snd_kept (by assumption) ?_ | refine fst_kept (by assumption) ?_ | refine trd_kept (by assumption) ?_ | simp only [with_kept])

theorem rxFill_kept : ∀ (ring copy : ℕ) (bytes : List Byte) (sample : Bool) (l : List (List Byte)) (s : State) (n : ℕ) {z : State}, Kept z s → Kept z (rxFill ring copy bytes sample l s n)
  | _, _, _, _, [], _, _, _, h => h
  | ring, copy, bytes, sample, d :: ds, s, n, z, h => by
    unfold rxFill
    dsimp only
    split
    · exact h
    split
    · exact ringBadCheck_kept _ _ h
    · have h1 := ringAdvance_kept _ (16 + ring) (emit_kept _ (.hostWrite (rdn (emit s (.hostWrite (leAt d 0 8) (slice bytes n (rxBuffer s ring)))) (Reg.HOST_RXr_CMPL ring) + 8 * ringHead (emit s (.hostWrite (leAt d 0 8) (slice bytes n (rxBuffer s ring)))) (16 + ring)) (toLE 2 (slice bytes n (rxBuffer s ring)).length ++ toLE 1 (b2n (n == 0) + 2 * b2n (decide (bytes.length ≤ n + (slice bytes n (rxBuffer s ring)).length)) + 4 * b2n sample + 128 * ringPhase s (16 + ring)) ++ toLE 1 ring ++ toLE 4 bytes.length)) (emit_kept _ (.hostWrite (leAt d 0 8) (slice bytes n (rxBuffer s ring))) h))
      split
      · exact copyGone_kept _ _ (ringVector_kept _ _ (cntWrap_kept _ _ _ (with_kept.mpr h1)))
      · exact rxFill_kept _ _ _ _ _ _ _ (with_kept.mpr h1)
theorem rxDeliver_kept : ∀ (s : State) (ring : ℕ) (descs : List (List Byte)) {z0 : State}, Kept z0 s → Kept z0 (rxDeliver s ring descs) := by
  intros; unfold rxDeliver
  repeat' (with_reducible first | assumption | apply copyGone_kept | apply raise_kept | apply cnt_kept | apply rxFill_kept | exact Kept.refl _ | intro _ | split | refine snd_kept (by assumption) ?_ | refine fst_kept (by assumption) ?_ | refine trd_kept (by assumption) ?_ | simp only [with_kept])

theorem cqEnd_kept : ∀ (s : State) (q : ℕ) (cmd : List Byte) (status code index : ℕ) (reads : List ℕ) {z0 : State}, Kept z0 s → Kept z0 (cqEnd s q cmd status code index reads) := by
  intros; unfold cqEnd
  repeat' (with_reducible first | assumption | apply emit_kept | apply cntWrap_kept | apply cnt_kept | apply ringAdvance_kept | apply ringVector_kept | exact Kept.refl _ | intro _ | split | simp only [with_kept])

theorem cqAccess_kept : ∀ {α : Type} (s : State) (f : State → α × State) {z : State}, (∀ u, Kept z u → Kept z (f u).2) → Kept z s → Kept z (cqAccess s f).2.2 := by
  intro α s f z hf h
  have h0 := hf { s with host := { s.host with probe := some 0 } } (with_kept.mpr h)
  unfold cqAccess
  generalize f { s with host := { s.host with probe := some 0 } } = x at *
  exact with_kept.mpr h0
theorem cqRun_kept : ∀ (cmd : List Byte) (q : ℕ) (write : Bool) (count fuel : ℕ) (s : State) (c : CqCmd) {z : State}, Kept z s → Kept z (cqRun cmd q write count fuel s c)
  | _, _, _, _, 0, _, _, _, h => h
  | cmd, q, write, count, fuel + 1, s, c, z, h => by
    unfold cqRun
    dsimp only
    split
    · exact cqEnd_kept _ _ _ _ _ _ _ h
    split
    · have h1 := aroundFree_kept s h
      generalize aroundFree s = x at *
      obtain ⟨x, t⟩ := x
      dsimp only at *
      have h2 := cqAccess_kept t (fun s => bar0Put s x (leAt cmd (8 + 8 * c.done) 4) (slice cmd (12 + 8 * c.done) 4) true) (fun u hu => bar0Put_kept _ _ _ _ _ hu) h1
      generalize cqAccess t (fun s => bar0Put s x (leAt cmd (8 + 8 * c.done) 4) (slice cmd (12 + 8 * c.done) 4) true) = y at *
      obtain ⟨held, code, u⟩ := y
      dsimp only at *
      split
      · exact with_kept.mpr h2
      split
      · exact cqRun_kept _ _ _ _ _ _ _ h2
      · exact cqEnd_kept _ _ _ _ _ _ _ h2
    · have h2 := cqAccess_kept s (fun s => bar0Fetch s (leAt cmd (8 + 4 * c.done) 4) 4) (fun u hu => bar0Fetch_kept _ _ _ hu) h
      generalize cqAccess s (fun s => bar0Fetch s (leAt cmd (8 + 4 * c.done) 4) 4) = y at *
      obtain ⟨r, code, u⟩ := y
      dsimp only at *
      split
      · exact with_kept.mpr h2
      split
      · exact cqRun_kept _ _ _ _ _ _ _ h2
      · exact cqEnd_kept _ _ _ _ _ _ _ h2
theorem cqPoll_kept : ∀ (s : State) (c : CqCmd) {z0 : State}, Kept z0 s → Kept z0 (cqPoll s c) := by
  intros; unfold cqPoll
  repeat' (with_reducible first | assumption | apply cqAccess_kept | apply bar0Fetch_kept | apply cqEnd_kept | exact Kept.refl _ | intro _ | split | refine snd_kept (by assumption) ?_ | refine fst_kept (by assumption) ?_ | refine trd_kept (by assumption) ?_ | simp only [with_kept])

theorem cqCommand_kept : ∀ (s : State) (q op : ℕ) (cmd : List Byte) {z0 : State}, Kept z0 s → Kept z0 (cqCommand s q op cmd) := by
  intros; unfold cqCommand
  repeat' (with_reducible first | assumption | apply cqRun_kept | apply cqEnd_kept | apply cqPoll_kept | exact Kept.refl _ | intro _ | split | refine snd_kept (by assumption) ?_ | refine fst_kept (by assumption) ?_ | refine trd_kept (by assumption) ?_ | simp only [with_kept])

theorem cqPollAgain_kept : ∀ (s : State) (q : ℕ) {z0 : State}, Kept z0 s → Kept z0 (cqPollAgain s q) := by
  intros; unfold cqPollAgain
  repeat' (with_reducible first | assumption | apply cqPoll_kept | exact Kept.refl _ | intro _ | split | refine snd_kept (by assumption) ?_ | refine fst_kept (by assumption) ?_ | refine trd_kept (by assumption) ?_ | simp only [with_kept])

theorem cqResume_kept : ∀ (s : State) {z0 : State}, Kept z0 s → Kept z0 (cqResume s) := by
  intros; unfold cqResume
  repeat' (with_reducible first | assumption | apply cqPoll_kept | apply cqCommand_kept | exact Kept.refl _ | intro _ | split | refine snd_kept (by assumption) ?_ | refine fst_kept (by assumption) ?_ | refine trd_kept (by assumption) ?_ | simp only [with_kept])

theorem bulkEnds_kept : ∀ (s : State) {z0 : State}, Kept z0 s → Kept z0 (bulkEnds s) := by
  intros; unfold bulkEnds
  repeat' (with_reducible first | assumption | apply lauterResult_kept | apply caskCmdDone_kept | exact Kept.refl _ | intro _ | split | simp only [with_kept])

theorem stopEngines_kept : ∀ (s : State) {z0 : State}, Kept z0 s → Kept z0 (stopEngines s) := by
  intros; unfold stopEngines
  repeat' (with_reducible first | assumption | apply ringStop_kept | apply ringDiscard_kept | apply eventCfg_kept | apply wf_kept | apply fetchError_kept | apply raise_kept | apply bulkEnds_kept | refine foldl_kept _ ?_ ?_ | exact Kept.refl _ | intro _ | split | simp only [with_kept])

theorem resetHost_kept : ∀ (s : State) {z : State}, Kept z s → Kept z (resetHost s) :=
  fun _ _ h => with_kept.mpr (filter_kept _ h)
theorem linkLost_kept : ∀ (s : State) {z0 : State}, Kept z0 s → Kept z0 (linkLost s) := by
  intros; unfold linkLost
  repeat' (with_reducible first | assumption | apply stopEngines_kept | apply cnt_kept | apply wrn_kept | apply resetHost_kept | exact Kept.refl _ | intro _ | split | simp only [with_kept])

theorem dmaError_kept : ∀ (s : State) (engine kind : ℕ) {z0 : State}, Kept z0 s → Kept z0 (dmaError s engine kind) := by
  intros; unfold dmaError
  repeat' (with_reducible first | assumption | apply raise_kept | apply ringStop_kept | apply wf_kept | apply fetchError_kept | exact Kept.refl _ | intro _ | split | simp only [with_kept])

theorem execTxDescriptor_kept : ∀ (ring : Fin 16) (desc : List Byte) (s : State) {z0 : State}, Kept z0 s → ∀ (t0 : State), execTxDescriptor ring desc s = Host.Outcome.next t0 → Kept z0 t0 := by
  intros; rename_i e; unfold execTxDescriptor at e; repeat' split at e
  all_goals obtain rfl := Host.Outcome.next.inj e
  all_goals repeat' (with_reducible first | assumption | apply txDescriptor_kept | exact Kept.refl _ | intro _ | split | simp only [with_kept])

theorem execTxFrameConsumed_kept : ∀ (ring : Fin 16) (data : List Byte) (s : State) {z0 : State}, Kept z0 s → ∀ (t0 : State), execTxFrameConsumed ring data s = Host.Outcome.next t0 → Kept z0 t0 := by
  intros; rename_i e; unfold execTxFrameConsumed at e; repeat' split at e
  all_goals obtain rfl := Host.Outcome.next.inj e
  all_goals repeat' (with_reducible first | assumption | apply pump_kept | apply txFrame_kept | exact Kept.refl _ | intro _ | split | simp only [with_kept])

theorem execRxFrameDeliver_kept : ∀ (ring : Fin 16) (descs : List (List Byte)) (s : State) {z0 : State}, Kept z0 s → ∀ (t0 : State), execRxFrameDeliver ring descs s = Host.Outcome.next t0 → Kept z0 t0 := by
  intros; rename_i e; unfold execRxFrameDeliver at e; repeat' split at e
  all_goals obtain rfl := Host.Outcome.next.inj e
  all_goals repeat' (with_reducible first | assumption | apply pump_kept | apply rxDeliver_kept | exact Kept.refl _ | intro _ | split | simp only [with_kept])

theorem execCqWrite_kept : ∀ (queue : Fin 4) (cmd : List Byte) (s : State) {z0 : State}, Kept z0 s → ∀ (t0 : State), execCqWrite queue cmd s = Host.Outcome.next t0 → Kept z0 t0 := by
  intros; rename_i e; unfold execCqWrite at e; repeat' split at e
  all_goals obtain rfl := Host.Outcome.next.inj e
  all_goals repeat' (with_reducible first | assumption | apply pump_kept | apply cqCommand_kept | exact Kept.refl _ | intro _ | split | simp only [with_kept])

theorem execCqRead_kept : ∀ (queue : Fin 4) (cmd : List Byte) (s : State) {z0 : State}, Kept z0 s → ∀ (t0 : State), execCqRead queue cmd s = Host.Outcome.next t0 → Kept z0 t0 := by
  intros; rename_i e; unfold execCqRead at e; repeat' split at e
  all_goals obtain rfl := Host.Outcome.next.inj e
  all_goals repeat' (with_reducible first | assumption | apply pump_kept | apply cqCommand_kept | exact Kept.refl _ | intro _ | split | simp only [with_kept])

theorem execCqWait_kept : ∀ (queue : Fin 4) (cmd : List Byte) (s : State) {z0 : State}, Kept z0 s → ∀ (t0 : State), execCqWait queue cmd s = Host.Outcome.next t0 → Kept z0 t0 := by
  intros; rename_i e; unfold execCqWait at e; repeat' split at e
  all_goals obtain rfl := Host.Outcome.next.inj e
  all_goals repeat' (with_reducible first | assumption | apply pump_kept | apply cqCommand_kept | exact Kept.refl _ | intro _ | split | simp only [with_kept])

theorem execCqWaitPoll_kept : ∀ (queue : Fin 4) (s : State) {z0 : State}, Kept z0 s → ∀ (t0 : State), execCqWaitPoll queue s = Host.Outcome.next t0 → Kept z0 t0 := by
  intros; rename_i e; unfold execCqWaitPoll at e; repeat' split at e
  all_goals obtain rfl := Host.Outcome.next.inj e
  all_goals repeat' (with_reducible first | assumption | apply pump_kept | apply cqPollAgain_kept | exact Kept.refl _ | intro _ | split | simp only [with_kept])

theorem execPcieLinkDown_kept : ∀ (s : State) {z0 : State}, Kept z0 s → ∀ (t0 : State), execPcieLinkDown s = Host.Outcome.next t0 → Kept z0 t0 := by
  intros; rename_i e; unfold execPcieLinkDown at e; repeat' split at e
  all_goals obtain rfl := Host.Outcome.next.inj e
  all_goals repeat' (with_reducible first | assumption | apply pump_kept | apply linkLost_kept | exact Kept.refl _ | intro _ | split | simp only [with_kept])

theorem execPcieLinkUp_kept : ∀ (speed : BitVec 3) (width : BitVec 4) (s : State) {z0 : State}, Kept z0 s → ∀ (t0 : State), execPcieLinkUp speed width s = Host.Outcome.next t0 → Kept z0 t0 := by
  intros; rename_i e; unfold execPcieLinkUp at e; repeat' split at e
  all_goals obtain rfl := Host.Outcome.next.inj e
  all_goals repeat' (with_reducible first | assumption | apply wrn_kept | apply raise_kept | exact Kept.refl _ | intro _ | split | simp only [with_kept])

theorem execFunctionLevelReset_kept : ∀ (s : State) {z0 : State}, Kept z0 s → ∀ (t0 : State), execFunctionLevelReset s = Host.Outcome.next t0 → Kept z0 t0 := by
  intros; rename_i e; unfold execFunctionLevelReset at e; repeat' split at e
  all_goals obtain rfl := Host.Outcome.next.inj e
  all_goals repeat' (with_reducible first | assumption | apply pump_kept | apply raise_kept | apply resetHost_kept | apply stopEngines_kept | exact Kept.refl _ | intro _ | split | simp only [with_kept])

theorem execDmaReadError_kept : ∀ (engine : Fin 52) (kind : Fin 4) (s : State) {z0 : State}, Kept z0 s → ∀ (t0 : State), execDmaReadError engine kind s = Host.Outcome.next t0 → Kept z0 t0 := by
  intros; rename_i e; unfold execDmaReadError at e; repeat' split at e
  all_goals obtain rfl := Host.Outcome.next.inj e
  all_goals repeat' (with_reducible first | assumption | apply pump_kept | apply dmaError_kept | exact Kept.refl _ | intro _ | split | simp only [with_kept])

end Sys2Proof.Machine
end

