-- ==== Sys2Proof/Laws/ChipKept.lean ====
section
/-! SUPPORT. What the functions of Chip.lean keep (Laws/Kept.lean). -/
namespace Sys2Proof.Machine
set_option linter.unusedTactic false
set_option linter.unreachableTactic false
set_option linter.unusedSimpArgs false

theorem clearBlocks_kept : ∀ (s : State) (regs : List (ℕ × W64)) {z : State}, Kept z { s with regs := regs } → Kept z (clearBlocks s regs) := by
  intro s regs z h
  refine Kept.same (s := { s with regs := regs, chip := { s.chip with rstN := false, tjArmed := true } }) ?_ rfl rfl rfl
  exact chipf_kept (s := { s with regs := regs }) h rfl rfl rfl rfl
theorem powerOn_kept : ∀ (s : State) {z : State}, Kept z s → Kept z (powerOn s) := by
  intro s z h
  have h0 := clearBlocks_kept s State.reset.regs (regs_kept h fun _ => show State.reset.regsOk = true by decide)
  refine chip_kept (s := clearBlocks s State.reset.regs) h0 rfl rfl fun ok => ⟨?_, fun _ _ => rfl⟩
  simp only [State.fusesOk, Bool.and_eq_true] at *
  exact ⟨ok.1, rfl⟩
theorem chipReset_kept : ∀ (s : State) (pwrgood : Bool) (sent : List ℕ) {z : State}, Kept z s → Kept z (chipReset s pwrgood sent) := by
  intro s pwrgood sent z h
  unfold chipReset
  extract_lets s1 scratch t
  have h1 : Kept z s1 := foldl_kept _ h fun u p hu => cutOff_kept _ _ _ hu
  have hm : ∀ x ∈ scratch, x ∈ s1.regs := fun x hx => (List.mem_filter.mp hx).1
  have h2 : Kept z { s1 with regs := (Reg.CHIP_RST_CAUSE, 2) :: scratch } := by
    refine regs_kept h1 fun hs => ?_
    rw [State.regsOk, Bool.and_eq_true, List.all_eq_true, rising_iff, List.pairwise_cons] at *
    refine ⟨⟨fun x hx => ?_, hs.1.filter _⟩, fun x hx => ?_⟩
    · have := (List.mem_filter.mp hx).2
      have e : Reg.CHIP_RST_CAUSE < Reg.CHIP_SCRATCHn 0 := by simp [Reg.CHIP_RST_CAUSE, Reg.CHIP_SCRATCHn]
      simp only [decide_eq_true_eq] at this
      exact Nat.lt_of_lt_of_le e this.1
    · rcases List.mem_cons.mp hx with rfl | hx
      · rfl
      · exact hs.2 x (hm x hx)
  have h3 : Kept z t := clearBlocks_kept s1 _ h2
  clear_value t
  exact chipf_kept h3 rfl rfl rfl rfl
theorem resetRelease_kept : ∀ (s : State) (bootHost tref : Bool) (margins : List (List ℕ)) {z : State}, Kept z s → Kept z (resetRelease s bootHost tref margins) := by
  intro s bootHost tref margins z h
  unfold resetRelease
  split
  · exact h
  extract_lets q s1 s2 s3 s4
  have h1 : Kept z s1 := chipf_kept h rfl rfl rfl rfl
  have h3 : Kept z s3 := wrn_kept _ _ _ (wrn_kept _ _ _ (wrn_kept _ _ _ h1))
  have h4 : Kept z s4 := by
    unfold s4; split
    · exact wf_kept _ _ _ _ _ h3
    · exact h3
  exact foldl_kept _ h4 fun u n hu => wf_kept _ _ _ _ _ (sweptCode_kept _ _ hu)
theorem fuseRequest_kept : ∀ (s : State) (field v : ℕ) (tj : ℤ) {z : State}, Kept z s → Kept z (fuseRequest s field v tj) := by
  intro s field v tj z h
  unfold fuseRequest
  extract_lets q s1 q1 answer key
  have h1 : Kept z s1 := chipf_kept h rfl rfl rfl rfl
  have ha : ∀ a b, Kept z (answer a b) := fun a b => chipf_kept h1 rfl rfl rfl rfl
  split
  · exact ha _ _
  split
  · exact ha _ _
  · rename_i hc hn
    refine chip_kept h1 rfl rfl fun ok => ⟨?_, fun _ _ => rfl⟩
    simp only [State.fusesOk, Bool.and_eq_true] at *
    refine ⟨ok.1, ?_⟩
    simp only [Option.all_some, Bool.and_eq_true, decide_eq_true_eq]
    simp only [Bool.or_eq_true, not_or, decide_eq_true_eq] at hc
    refine ⟨by omega, by simpa using hn⟩
theorem fuseDone_kept : ∀ (s : State) {z : State}, Kept z s → Kept z (fuseDone s) := by
  intro s z h
  unfold fuseDone
  split
  · exact h
  rename_i f v hp
  dsimp only
  split
  · refine chip_kept h rfl rfl fun ok => ⟨?_, fun _ _ => rfl⟩
    simp only [State.fusesOk, Bool.and_eq_true] at *
    exact ⟨ok.1, rfl⟩
  · rename_i hv
    refine chip_kept (s := s) h rfl rfl fun ok => ?_
    simp only [State.fusesOk, Bool.and_eq_true, hp, Option.all_some, decide_eq_true_eq, List.all_eq_true] at *
    obtain ⟨⟨ok1, ok2⟩, ok3, ok4⟩ := ok
    refine ⟨⟨⟨rising_tabSet _ _ ok1, fun x hx => ?_⟩, rfl⟩, fun g hg => ?_⟩
    · rcases mem_tabSet hx with rfl | hx
      · exact ⟨ok3, by simpa using hv⟩
      · exact ok2 x hx
    · rw [tabFind_tabSet]
      split
      · rename_i e; subst e
        rw [Option.isNone_iff_eq_none] at ok4
        rw [ok4] at hg; cases hg
      · rfl
theorem tjSample_kept : ∀ (s : State) (tj : ℕ) {z : State}, Kept z s → Kept z (tjSample s tj) := by
  intro s tj z h
  unfold tjSample
  extract_lets limit t l hot s1
  have h1 : Kept z s1 := wf_kept _ _ _ _ _ (wrn_kept _ _ _ h)
  split
  · exact raise_kept _ _ _ _ (chipf_kept h1 rfl rfl rfl rfl)
  split
  · exact chipf_kept h1 rfl rfl rfl rfl
  · exact h1
theorem execPowerOnReset_kept : ∀ (s : State) {z0 : State}, Kept z0 s → ∀ (t0 : State), execPowerOnReset s = Host.Outcome.next t0 → Kept z0 t0 := by
  intros; rename_i e; unfold execPowerOnReset at e; repeat' split at e
  all_goals obtain rfl := Host.Outcome.next.inj e
  all_goals repeat' (with_reducible first | assumption | apply powerOn_kept | exact Kept.refl _ | intro _ | split | simp only [with_kept])

theorem execChipReset_kept : ∀ (pwrgood : Bool) (sent : List ℕ) (s : State) {z0 : State}, Kept z0 s → ∀ (t0 : State), execChipReset pwrgood sent s = Host.Outcome.next t0 → Kept z0 t0 := by
  intros; rename_i e; unfold execChipReset at e; repeat' split at e
  all_goals obtain rfl := Host.Outcome.next.inj e
  all_goals repeat' (with_reducible first | assumption | apply chipReset_kept | exact Kept.refl _ | intro _ | split | simp only [with_kept])

theorem execPcieFundamentalReset_kept : ∀ (s : State) {z0 : State}, Kept z0 s → ∀ (t0 : State), execPcieFundamentalReset s = Host.Outcome.next t0 → Kept z0 t0 := by
  intros; rename_i e; unfold execPcieFundamentalReset at e; repeat' split at e
  all_goals obtain rfl := Host.Outcome.next.inj e
  all_goals repeat' (with_reducible first | assumption | apply wf_kept | apply linkLost_kept | exact Kept.refl _ | intro _ | split | simp only [with_kept])

theorem execJtagReset_kept : ∀ (s : State) {z : State}, Kept z s → ∀ (t : State), execJtagReset s = .next t → Kept z t := by
  intro s z h t e
  obtain rfl := Host.Outcome.next.inj e
  exact chipf_kept h rfl rfl rfl rfl
theorem execResetRelease_kept : ∀ (bootHost tref : Bool) (margins : List (List ℕ)) (s : State) {z0 : State}, Kept z0 s → ∀ (t0 : State), execResetRelease bootHost tref margins s = Host.Outcome.next t0 → Kept z0 t0 := by
  intros; rename_i e; unfold execResetRelease at e; repeat' split at e
  all_goals obtain rfl := Host.Outcome.next.inj e
  all_goals repeat' (with_reducible first | assumption | apply resetRelease_kept | exact Kept.refl _ | intro _ | split | simp only [with_kept])

theorem execFuseProg_kept : ∀ (field : BitVec 8) (value : BitVec 256) (tj : BitVec 12) (s : State) {z0 : State}, Kept z0 s → ∀ (t0 : State), execFuseProg field value tj s = Host.Outcome.next t0 → Kept z0 t0 := by
  intros; rename_i e; unfold execFuseProg at e; repeat' split at e
  all_goals obtain rfl := Host.Outcome.next.inj e
  all_goals repeat' (with_reducible first | assumption | apply fuseRequest_kept | exact Kept.refl _ | intro _ | split | simp only [with_kept])

theorem execFuseStatus_kept : ∀ (s : State) {z : State}, Kept z s → ∀ (t : State), execFuseStatus s = .next t → Kept z t := by
  intro s z h t e
  obtain rfl := Host.Outcome.next.inj e
  exact emit_kept _ _ (chipf_kept h rfl rfl rfl rfl)
theorem execFuseProgramComplete_kept : ∀ (s : State) {z0 : State}, Kept z0 s → ∀ (t0 : State), execFuseProgramComplete s = Host.Outcome.next t0 → Kept z0 t0 := by
  intros; rename_i e; unfold execFuseProgramComplete at e; repeat' split at e
  all_goals obtain rfl := Host.Outcome.next.inj e
  all_goals repeat' (with_reducible first | assumption | apply fuseDone_kept | exact Kept.refl _ | intro _ | split | simp only [with_kept])

theorem execTjSample_kept : ∀ (tj : BitVec 12) (s : State) {z0 : State}, Kept z0 s → ∀ (t0 : State), execTjSample tj s = Host.Outcome.next t0 → Kept z0 t0 := by
  intros; rename_i e; unfold execTjSample at e; repeat' split at e
  all_goals obtain rfl := Host.Outcome.next.inj e
  all_goals repeat' (with_reducible first | assumption | apply tjSample_kept | exact Kept.refl _ | intro _ | split | simp only [with_kept])

end Sys2Proof.Machine
end

