-- ==== Sys2Proof/Laws/Fields.lean ====
section
/-! SUPPORT. Reading bit fields after they are set. -/
namespace Sys2Proof.Machine

theorem testBit_natFld (v hi lo i : Nat) : (natFld v hi lo).testBit i = (decide (i < hi + 1 - lo) && v.testBit (lo + i)) := by
  simp [natFld, Nat.testBit_mod_two_pow, Nat.testBit_shiftRight]

theorem getLsbD_maskOf (hi lo i : Nat) : (maskOf hi lo).getLsbD i = (decide (i < 64) && (decide (lo ≤ i) && decide (i ≤ hi))) := by
  simp only [maskOf, BitVec.getLsbD_ofNat, ← Nat.shiftLeft_eq, Nat.testBit_shiftLeft, Nat.testBit_two_pow_sub_one]
  by_cases h1 : i < 64 <;> by_cases h2 : lo ≤ i <;> simp [h1, h2]
  all_goals omega

/-- Bit i of a word with bits [hi:lo] replaced. -/
theorem bitOf_setFld (v : W64) (hi lo n i : Nat) :
    bitOf (setFld v hi lo n) i = if lo ≤ i ∧ i ≤ hi ∧ i < 64 then n.testBit (i - lo) else bitOf v i := by
  simp only [bitOf, setFld, BitVec.getLsbD_or, BitVec.getLsbD_and, BitVec.getLsbD_not, getLsbD_maskOf, BitVec.getLsbD_ofNat,
    ← Nat.shiftLeft_eq, Nat.testBit_shiftLeft, Nat.testBit_mod_two_pow]
  by_cases h1 : i < 64
  · by_cases h2 : lo ≤ i
    · by_cases h3 : i ≤ hi
      · have : i - lo < hi + 1 - lo := by omega
        simp [h1, h2, h3, this]
      · have : ¬ i - lo < hi + 1 - lo := by omega
        simp [h1, h2, h3, this]
    · simp [h1, h2]
  · simp [h1, BitVec.getLsbD_of_ge v i (by omega)]

theorem testBit_fld (v : W64) (hi lo i : Nat) : (fld v hi lo).testBit i = (decide (i < hi + 1 - lo) && bitOf v (lo + i)) := by
  simp [fld, testBit_natFld, bitOf, BitVec.testBit_toNat]

/-- A field reads as it was set. -/
theorem fld_setFld_same (v : W64) (hi lo n : Nat) (h : hi < 64) :
    fld (setFld v hi lo n) hi lo = n % 2 ^ (hi + 1 - lo) := by
  refine Nat.eq_of_testBit_eq fun i => ?_
  rw [testBit_fld, bitOf_setFld, Nat.testBit_mod_two_pow]
  by_cases h1 : i < hi + 1 - lo
  · have : lo ≤ lo + i ∧ lo + i ≤ hi ∧ lo + i < 64 := by omega
    simp [h1, this]
  · simp [h1]

/-- Setting a field leaves the others. -/
theorem fld_setFld_ne (v : W64) (hi lo n hi' lo' : Nat) (h : hi' < lo ∨ hi < lo') :
    fld (setFld v hi lo n) hi' lo' = fld v hi' lo' := by
  refine Nat.eq_of_testBit_eq fun i => ?_
  rw [testBit_fld, testBit_fld, bitOf_setFld]
  by_cases h1 : i < hi' + 1 - lo'
  · have : ¬ (lo ≤ lo' + i ∧ lo' + i ≤ hi ∧ lo' + i < 64) := by omega
    simp [this]
  · simp [h1]

theorem fld_lt (v : W64) (hi lo : Nat) : fld v hi lo < 2 ^ (hi + 1 - lo) := by
  simp only [fld, natFld]; exact Nat.mod_lt _ (Nat.two_pow_pos _)

end Sys2Proof.Machine
end

