-- ==== Sys2Proof/Laws/State.lean ====
section
/-! SUPPORT. The fields of the state after each named operation, and what a register reads after a write. -/
namespace Sys2Proof.Machine

@[simp] theorem wr_pending (s : State) (a : Nat) (v : W64) : (wr s a v).pending = s.pending := (rfl)
@[simp] theorem wr_free (s : State) (a : Nat) (v : W64) : (wr s a v).free = s.free := (rfl)
@[simp] theorem wr_out (s : State) (a : Nat) (v : W64) : (wr s a v).out = s.out := (rfl)
@[simp] theorem wr_ev (s : State) (a : Nat) (v : W64) : (wr s a v).ev = s.ev := (rfl)
@[simp] theorem wr_time (s : State) (a : Nat) (v : W64) : (wr s a v).time = s.time := (rfl)
@[simp] theorem wr_perf (s : State) (a : Nat) (v : W64) : (wr s a v).perf = s.perf := (rfl)
@[simp] theorem wr_core (s : State) (a : Nat) (v : W64) : (wr s a v).core = s.core := (rfl)
@[simp] theorem wr_hummocks (s : State) (a : Nat) (v : W64) : (wr s a v).hummocks = s.hummocks := (rfl)
@[simp] theorem wr_bill (s : State) (a : Nat) (v : W64) : (wr s a v).bill = s.bill := (rfl)
@[simp] theorem wr_lanes (s : State) (a : Nat) (v : W64) : (wr s a v).lanes = s.lanes := (rfl)
@[simp] theorem wr_fwd (s : State) (a : Nat) (v : W64) : (wr s a v).fwd = s.fwd := (rfl)
@[simp] theorem wr_lauter (s : State) (a : Nat) (v : W64) : (wr s a v).lauter = s.lauter := (rfl)
@[simp] theorem wr_twin (s : State) (a : Nat) (v : W64) : (wr s a v).twin = s.twin := (rfl)
@[simp] theorem wr_frames (s : State) (a : Nat) (v : W64) : (wr s a v).frames = s.frames := (rfl)
@[simp] theorem wr_nextFrame (s : State) (a : Nat) (v : W64) : (wr s a v).nextFrame = s.nextFrame := (rfl)
@[simp] theorem wr_fen (s : State) (a : Nat) (v : W64) : (wr s a v).fen = s.fen := (rfl)
@[simp] theorem wr_cask (s : State) (a : Nat) (v : W64) : (wr s a v).cask = s.cask := (rfl)
@[simp] theorem wr_deep (s : State) (a : Nat) (v : W64) : (wr s a v).deep = s.deep := (rfl)
@[simp] theorem wr_ferm (s : State) (a : Nat) (v : W64) : (wr s a v).ferm = s.ferm := (rfl)
@[simp] theorem wr_auth (s : State) (a : Nat) (v : W64) : (wr s a v).auth = s.auth := (rfl)
@[simp] theorem wr_mere (s : State) (a : Nat) (v : W64) : (wr s a v).mere = s.mere := (rfl)
@[simp] theorem wr_egress (s : State) (a : Nat) (v : W64) : (wr s a v).egress = s.egress := (rfl)
@[simp] theorem wr_chip (s : State) (a : Nat) (v : W64) : (wr s a v).chip = s.chip := (rfl)
@[simp] theorem wr_host (s : State) (a : Nat) (v : W64) : (wr s a v).host = s.host := (rfl)

@[simp] theorem wrn_pending (s : State) (a n : Nat) : (wrn s a n).pending = s.pending := (rfl)
@[simp] theorem wrn_free (s : State) (a n : Nat) : (wrn s a n).free = s.free := (rfl)
@[simp] theorem wrn_out (s : State) (a n : Nat) : (wrn s a n).out = s.out := (rfl)
@[simp] theorem wrn_ev (s : State) (a n : Nat) : (wrn s a n).ev = s.ev := (rfl)
@[simp] theorem wrn_time (s : State) (a n : Nat) : (wrn s a n).time = s.time := (rfl)
@[simp] theorem wrn_perf (s : State) (a n : Nat) : (wrn s a n).perf = s.perf := (rfl)
@[simp] theorem wrn_core (s : State) (a n : Nat) : (wrn s a n).core = s.core := (rfl)
@[simp] theorem wrn_hummocks (s : State) (a n : Nat) : (wrn s a n).hummocks = s.hummocks := (rfl)
@[simp] theorem wrn_bill (s : State) (a n : Nat) : (wrn s a n).bill = s.bill := (rfl)
@[simp] theorem wrn_lanes (s : State) (a n : Nat) : (wrn s a n).lanes = s.lanes := (rfl)
@[simp] theorem wrn_fwd (s : State) (a n : Nat) : (wrn s a n).fwd = s.fwd := (rfl)
@[simp] theorem wrn_lauter (s : State) (a n : Nat) : (wrn s a n).lauter = s.lauter := (rfl)
@[simp] theorem wrn_twin (s : State) (a n : Nat) : (wrn s a n).twin = s.twin := (rfl)
@[simp] theorem wrn_frames (s : State) (a n : Nat) : (wrn s a n).frames = s.frames := (rfl)
@[simp] theorem wrn_nextFrame (s : State) (a n : Nat) : (wrn s a n).nextFrame = s.nextFrame := (rfl)
@[simp] theorem wrn_fen (s : State) (a n : Nat) : (wrn s a n).fen = s.fen := (rfl)
@[simp] theorem wrn_cask (s : State) (a n : Nat) : (wrn s a n).cask = s.cask := (rfl)
@[simp] theorem wrn_deep (s : State) (a n : Nat) : (wrn s a n).deep = s.deep := (rfl)
@[simp] theorem wrn_ferm (s : State) (a n : Nat) : (wrn s a n).ferm = s.ferm := (rfl)
@[simp] theorem wrn_auth (s : State) (a n : Nat) : (wrn s a n).auth = s.auth := (rfl)
@[simp] theorem wrn_mere (s : State) (a n : Nat) : (wrn s a n).mere = s.mere := (rfl)
@[simp] theorem wrn_egress (s : State) (a n : Nat) : (wrn s a n).egress = s.egress := (rfl)
@[simp] theorem wrn_chip (s : State) (a n : Nat) : (wrn s a n).chip = s.chip := (rfl)
@[simp] theorem wrn_host (s : State) (a n : Nat) : (wrn s a n).host = s.host := (rfl)

@[simp] theorem wf_pending (s : State) (a hi lo n : Nat) : (wf s a hi lo n).pending = s.pending := (rfl)
@[simp] theorem wf_free (s : State) (a hi lo n : Nat) : (wf s a hi lo n).free = s.free := (rfl)
@[simp] theorem wf_out (s : State) (a hi lo n : Nat) : (wf s a hi lo n).out = s.out := (rfl)
@[simp] theorem wf_ev (s : State) (a hi lo n : Nat) : (wf s a hi lo n).ev = s.ev := (rfl)
@[simp] theorem wf_time (s : State) (a hi lo n : Nat) : (wf s a hi lo n).time = s.time := (rfl)
@[simp] theorem wf_perf (s : State) (a hi lo n : Nat) : (wf s a hi lo n).perf = s.perf := (rfl)
@[simp] theorem wf_core (s : State) (a hi lo n : Nat) : (wf s a hi lo n).core = s.core := (rfl)
@[simp] theorem wf_hummocks (s : State) (a hi lo n : Nat) : (wf s a hi lo n).hummocks = s.hummocks := (rfl)
@[simp] theorem wf_bill (s : State) (a hi lo n : Nat) : (wf s a hi lo n).bill = s.bill := (rfl)
@[simp] theorem wf_lanes (s : State) (a hi lo n : Nat) : (wf s a hi lo n).lanes = s.lanes := (rfl)
@[simp] theorem wf_fwd (s : State) (a hi lo n : Nat) : (wf s a hi lo n).fwd = s.fwd := (rfl)
@[simp] theorem wf_lauter (s : State) (a hi lo n : Nat) : (wf s a hi lo n).lauter = s.lauter := (rfl)
@[simp] theorem wf_twin (s : State) (a hi lo n : Nat) : (wf s a hi lo n).twin = s.twin := (rfl)
@[simp] theorem wf_frames (s : State) (a hi lo n : Nat) : (wf s a hi lo n).frames = s.frames := (rfl)
@[simp] theorem wf_nextFrame (s : State) (a hi lo n : Nat) : (wf s a hi lo n).nextFrame = s.nextFrame := (rfl)
@[simp] theorem wf_fen (s : State) (a hi lo n : Nat) : (wf s a hi lo n).fen = s.fen := (rfl)
@[simp] theorem wf_cask (s : State) (a hi lo n : Nat) : (wf s a hi lo n).cask = s.cask := (rfl)
@[simp] theorem wf_deep (s : State) (a hi lo n : Nat) : (wf s a hi lo n).deep = s.deep := (rfl)
@[simp] theorem wf_ferm (s : State) (a hi lo n : Nat) : (wf s a hi lo n).ferm = s.ferm := (rfl)
@[simp] theorem wf_auth (s : State) (a hi lo n : Nat) : (wf s a hi lo n).auth = s.auth := (rfl)
@[simp] theorem wf_mere (s : State) (a hi lo n : Nat) : (wf s a hi lo n).mere = s.mere := (rfl)
@[simp] theorem wf_egress (s : State) (a hi lo n : Nat) : (wf s a hi lo n).egress = s.egress := (rfl)
@[simp] theorem wf_chip (s : State) (a hi lo n : Nat) : (wf s a hi lo n).chip = s.chip := (rfl)
@[simp] theorem wf_host (s : State) (a hi lo n : Nat) : (wf s a hi lo n).host = s.host := (rfl)

@[simp] theorem cnt_pending (s : State) (a n : Nat) : (cnt s a n).pending = s.pending := (rfl)
@[simp] theorem cnt_free (s : State) (a n : Nat) : (cnt s a n).free = s.free := (rfl)
@[simp] theorem cnt_out (s : State) (a n : Nat) : (cnt s a n).out = s.out := (rfl)
@[simp] theorem cnt_ev (s : State) (a n : Nat) : (cnt s a n).ev = s.ev := (rfl)
@[simp] theorem cnt_time (s : State) (a n : Nat) : (cnt s a n).time = s.time := (rfl)
@[simp] theorem cnt_perf (s : State) (a n : Nat) : (cnt s a n).perf = s.perf := (rfl)
@[simp] theorem cnt_core (s : State) (a n : Nat) : (cnt s a n).core = s.core := (rfl)
@[simp] theorem cnt_hummocks (s : State) (a n : Nat) : (cnt s a n).hummocks = s.hummocks := (rfl)
@[simp] theorem cnt_bill (s : State) (a n : Nat) : (cnt s a n).bill = s.bill := (rfl)
@[simp] theorem cnt_lanes (s : State) (a n : Nat) : (cnt s a n).lanes = s.lanes := (rfl)
@[simp] theorem cnt_fwd (s : State) (a n : Nat) : (cnt s a n).fwd = s.fwd := (rfl)
@[simp] theorem cnt_lauter (s : State) (a n : Nat) : (cnt s a n).lauter = s.lauter := (rfl)
@[simp] theorem cnt_twin (s : State) (a n : Nat) : (cnt s a n).twin = s.twin := (rfl)
@[simp] theorem cnt_frames (s : State) (a n : Nat) : (cnt s a n).frames = s.frames := (rfl)
@[simp] theorem cnt_nextFrame (s : State) (a n : Nat) : (cnt s a n).nextFrame = s.nextFrame := (rfl)
@[simp] theorem cnt_fen (s : State) (a n : Nat) : (cnt s a n).fen = s.fen := (rfl)
@[simp] theorem cnt_cask (s : State) (a n : Nat) : (cnt s a n).cask = s.cask := (rfl)
@[simp] theorem cnt_deep (s : State) (a n : Nat) : (cnt s a n).deep = s.deep := (rfl)
@[simp] theorem cnt_ferm (s : State) (a n : Nat) : (cnt s a n).ferm = s.ferm := (rfl)
@[simp] theorem cnt_auth (s : State) (a n : Nat) : (cnt s a n).auth = s.auth := (rfl)
@[simp] theorem cnt_mere (s : State) (a n : Nat) : (cnt s a n).mere = s.mere := (rfl)
@[simp] theorem cnt_egress (s : State) (a n : Nat) : (cnt s a n).egress = s.egress := (rfl)
@[simp] theorem cnt_chip (s : State) (a n : Nat) : (cnt s a n).chip = s.chip := (rfl)
@[simp] theorem cnt_host (s : State) (a n : Nat) : (cnt s a n).host = s.host := (rfl)

@[simp] theorem cntWrap_pending (s : State) (a n : Nat) : (cntWrap s a n).pending = s.pending := (rfl)
@[simp] theorem cntWrap_free (s : State) (a n : Nat) : (cntWrap s a n).free = s.free := (rfl)
@[simp] theorem cntWrap_out (s : State) (a n : Nat) : (cntWrap s a n).out = s.out := (rfl)
@[simp] theorem cntWrap_ev (s : State) (a n : Nat) : (cntWrap s a n).ev = s.ev := (rfl)
@[simp] theorem cntWrap_time (s : State) (a n : Nat) : (cntWrap s a n).time = s.time := (rfl)
@[simp] theorem cntWrap_perf (s : State) (a n : Nat) : (cntWrap s a n).perf = s.perf := (rfl)
@[simp] theorem cntWrap_core (s : State) (a n : Nat) : (cntWrap s a n).core = s.core := (rfl)
@[simp] theorem cntWrap_hummocks (s : State) (a n : Nat) : (cntWrap s a n).hummocks = s.hummocks := (rfl)
@[simp] theorem cntWrap_bill (s : State) (a n : Nat) : (cntWrap s a n).bill = s.bill := (rfl)
@[simp] theorem cntWrap_lanes (s : State) (a n : Nat) : (cntWrap s a n).lanes = s.lanes := (rfl)
@[simp] theorem cntWrap_fwd (s : State) (a n : Nat) : (cntWrap s a n).fwd = s.fwd := (rfl)
@[simp] theorem cntWrap_lauter (s : State) (a n : Nat) : (cntWrap s a n).lauter = s.lauter := (rfl)
@[simp] theorem cntWrap_twin (s : State) (a n : Nat) : (cntWrap s a n).twin = s.twin := (rfl)
@[simp] theorem cntWrap_frames (s : State) (a n : Nat) : (cntWrap s a n).frames = s.frames := (rfl)
@[simp] theorem cntWrap_nextFrame (s : State) (a n : Nat) : (cntWrap s a n).nextFrame = s.nextFrame := (rfl)
@[simp] theorem cntWrap_fen (s : State) (a n : Nat) : (cntWrap s a n).fen = s.fen := (rfl)
@[simp] theorem cntWrap_cask (s : State) (a n : Nat) : (cntWrap s a n).cask = s.cask := (rfl)
@[simp] theorem cntWrap_deep (s : State) (a n : Nat) : (cntWrap s a n).deep = s.deep := (rfl)
@[simp] theorem cntWrap_ferm (s : State) (a n : Nat) : (cntWrap s a n).ferm = s.ferm := (rfl)
@[simp] theorem cntWrap_auth (s : State) (a n : Nat) : (cntWrap s a n).auth = s.auth := (rfl)
@[simp] theorem cntWrap_mere (s : State) (a n : Nat) : (cntWrap s a n).mere = s.mere := (rfl)
@[simp] theorem cntWrap_egress (s : State) (a n : Nat) : (cntWrap s a n).egress = s.egress := (rfl)
@[simp] theorem cntWrap_chip (s : State) (a n : Nat) : (cntWrap s a n).chip = s.chip := (rfl)
@[simp] theorem cntWrap_host (s : State) (a n : Nat) : (cntWrap s a n).host = s.host := (rfl)

@[simp] theorem emit_pending (s : State) (o : Out) : (emit s o).pending = s.pending := (rfl)
@[simp] theorem emit_free (s : State) (o : Out) : (emit s o).free = s.free := (rfl)
@[simp] theorem emit_regs (s : State) (o : Out) : (emit s o).regs = s.regs := (rfl)
@[simp] theorem emit_ev (s : State) (o : Out) : (emit s o).ev = s.ev := (rfl)
@[simp] theorem emit_time (s : State) (o : Out) : (emit s o).time = s.time := (rfl)
@[simp] theorem emit_perf (s : State) (o : Out) : (emit s o).perf = s.perf := (rfl)
@[simp] theorem emit_core (s : State) (o : Out) : (emit s o).core = s.core := (rfl)
@[simp] theorem emit_hummocks (s : State) (o : Out) : (emit s o).hummocks = s.hummocks := (rfl)
@[simp] theorem emit_bill (s : State) (o : Out) : (emit s o).bill = s.bill := (rfl)
@[simp] theorem emit_lanes (s : State) (o : Out) : (emit s o).lanes = s.lanes := (rfl)
@[simp] theorem emit_fwd (s : State) (o : Out) : (emit s o).fwd = s.fwd := (rfl)
@[simp] theorem emit_lauter (s : State) (o : Out) : (emit s o).lauter = s.lauter := (rfl)
@[simp] theorem emit_twin (s : State) (o : Out) : (emit s o).twin = s.twin := (rfl)
@[simp] theorem emit_frames (s : State) (o : Out) : (emit s o).frames = s.frames := (rfl)
@[simp] theorem emit_nextFrame (s : State) (o : Out) : (emit s o).nextFrame = s.nextFrame := (rfl)
@[simp] theorem emit_fen (s : State) (o : Out) : (emit s o).fen = s.fen := (rfl)
@[simp] theorem emit_cask (s : State) (o : Out) : (emit s o).cask = s.cask := (rfl)
@[simp] theorem emit_deep (s : State) (o : Out) : (emit s o).deep = s.deep := (rfl)
@[simp] theorem emit_ferm (s : State) (o : Out) : (emit s o).ferm = s.ferm := (rfl)
@[simp] theorem emit_auth (s : State) (o : Out) : (emit s o).auth = s.auth := (rfl)
@[simp] theorem emit_mere (s : State) (o : Out) : (emit s o).mere = s.mere := (rfl)
@[simp] theorem emit_egress (s : State) (o : Out) : (emit s o).egress = s.egress := (rfl)
@[simp] theorem emit_chip (s : State) (o : Out) : (emit s o).chip = s.chip := (rfl)
@[simp] theorem emit_host (s : State) (o : Out) : (emit s o).host = s.host := (rfl)

@[simp] theorem fresh_pending (s : State) : ((fresh s).2).pending = s.pending := (rfl)
@[simp] theorem fresh_out (s : State) : ((fresh s).2).out = s.out := (rfl)
@[simp] theorem fresh_regs (s : State) : ((fresh s).2).regs = s.regs := (rfl)
@[simp] theorem fresh_ev (s : State) : ((fresh s).2).ev = s.ev := (rfl)
@[simp] theorem fresh_time (s : State) : ((fresh s).2).time = s.time := (rfl)
@[simp] theorem fresh_perf (s : State) : ((fresh s).2).perf = s.perf := (rfl)
@[simp] theorem fresh_core (s : State) : ((fresh s).2).core = s.core := (rfl)
@[simp] theorem fresh_hummocks (s : State) : ((fresh s).2).hummocks = s.hummocks := (rfl)
@[simp] theorem fresh_bill (s : State) : ((fresh s).2).bill = s.bill := (rfl)
@[simp] theorem fresh_lanes (s : State) : ((fresh s).2).lanes = s.lanes := (rfl)
@[simp] theorem fresh_fwd (s : State) : ((fresh s).2).fwd = s.fwd := (rfl)
@[simp] theorem fresh_lauter (s : State) : ((fresh s).2).lauter = s.lauter := (rfl)
@[simp] theorem fresh_twin (s : State) : ((fresh s).2).twin = s.twin := (rfl)
@[simp] theorem fresh_frames (s : State) : ((fresh s).2).frames = s.frames := (rfl)
@[simp] theorem fresh_nextFrame (s : State) : ((fresh s).2).nextFrame = s.nextFrame := (rfl)
@[simp] theorem fresh_fen (s : State) : ((fresh s).2).fen = s.fen := (rfl)
@[simp] theorem fresh_cask (s : State) : ((fresh s).2).cask = s.cask := (rfl)
@[simp] theorem fresh_deep (s : State) : ((fresh s).2).deep = s.deep := (rfl)
@[simp] theorem fresh_ferm (s : State) : ((fresh s).2).ferm = s.ferm := (rfl)
@[simp] theorem fresh_auth (s : State) : ((fresh s).2).auth = s.auth := (rfl)
@[simp] theorem fresh_mere (s : State) : ((fresh s).2).mere = s.mere := (rfl)
@[simp] theorem fresh_egress (s : State) : ((fresh s).2).egress = s.egress := (rfl)
@[simp] theorem fresh_chip (s : State) : ((fresh s).2).chip = s.chip := (rfl)
@[simp] theorem fresh_host (s : State) : ((fresh s).2).host = s.host := (rfl)

@[simp] theorem raise_pending (s : State) (e d0 d1 : Nat) : (raise s e d0 d1).pending = s.pending := (rfl)
@[simp] theorem raise_free (s : State) (e d0 d1 : Nat) : (raise s e d0 d1).free = s.free := (rfl)
@[simp] theorem raise_out (s : State) (e d0 d1 : Nat) : (raise s e d0 d1).out = s.out := (rfl)
@[simp] theorem raise_regs (s : State) (e d0 d1 : Nat) : (raise s e d0 d1).regs = s.regs := (rfl)
@[simp] theorem raise_time (s : State) (e d0 d1 : Nat) : (raise s e d0 d1).time = s.time := (rfl)
@[simp] theorem raise_perf (s : State) (e d0 d1 : Nat) : (raise s e d0 d1).perf = s.perf := (rfl)
@[simp] theorem raise_core (s : State) (e d0 d1 : Nat) : (raise s e d0 d1).core = s.core := (rfl)
@[simp] theorem raise_hummocks (s : State) (e d0 d1 : Nat) : (raise s e d0 d1).hummocks = s.hummocks := (rfl)
@[simp] theorem raise_bill (s : State) (e d0 d1 : Nat) : (raise s e d0 d1).bill = s.bill := (rfl)
@[simp] theorem raise_lanes (s : State) (e d0 d1 : Nat) : (raise s e d0 d1).lanes = s.lanes := (rfl)
@[simp] theorem raise_fwd (s : State) (e d0 d1 : Nat) : (raise s e d0 d1).fwd = s.fwd := (rfl)
@[simp] theorem raise_lauter (s : State) (e d0 d1 : Nat) : (raise s e d0 d1).lauter = s.lauter := (rfl)
@[simp] theorem raise_twin (s : State) (e d0 d1 : Nat) : (raise s e d0 d1).twin = s.twin := (rfl)
@[simp] theorem raise_frames (s : State) (e d0 d1 : Nat) : (raise s e d0 d1).frames = s.frames := (rfl)
@[simp] theorem raise_nextFrame (s : State) (e d0 d1 : Nat) : (raise s e d0 d1).nextFrame = s.nextFrame := (rfl)
@[simp] theorem raise_fen (s : State) (e d0 d1 : Nat) : (raise s e d0 d1).fen = s.fen := (rfl)
@[simp] theorem raise_cask (s : State) (e d0 d1 : Nat) : (raise s e d0 d1).cask = s.cask := (rfl)
@[simp] theorem raise_deep (s : State) (e d0 d1 : Nat) : (raise s e d0 d1).deep = s.deep := (rfl)
@[simp] theorem raise_ferm (s : State) (e d0 d1 : Nat) : (raise s e d0 d1).ferm = s.ferm := (rfl)
@[simp] theorem raise_auth (s : State) (e d0 d1 : Nat) : (raise s e d0 d1).auth = s.auth := (rfl)
@[simp] theorem raise_mere (s : State) (e d0 d1 : Nat) : (raise s e d0 d1).mere = s.mere := (rfl)
@[simp] theorem raise_egress (s : State) (e d0 d1 : Nat) : (raise s e d0 d1).egress = s.egress := (rfl)
@[simp] theorem raise_chip (s : State) (e d0 d1 : Nat) : (raise s e d0 d1).chip = s.chip := (rfl)
@[simp] theorem raise_host (s : State) (e d0 d1 : Nat) : (raise s e d0 d1).host = s.host := (rfl)

@[simp] theorem tally_pending (s : State) (e n : Nat) : (tally s e n).pending = s.pending := (rfl)
@[simp] theorem tally_free (s : State) (e n : Nat) : (tally s e n).free = s.free := (rfl)
@[simp] theorem tally_out (s : State) (e n : Nat) : (tally s e n).out = s.out := (rfl)
@[simp] theorem tally_regs (s : State) (e n : Nat) : (tally s e n).regs = s.regs := (rfl)
@[simp] theorem tally_ev (s : State) (e n : Nat) : (tally s e n).ev = s.ev := (rfl)
@[simp] theorem tally_time (s : State) (e n : Nat) : (tally s e n).time = s.time := (rfl)
@[simp] theorem tally_core (s : State) (e n : Nat) : (tally s e n).core = s.core := (rfl)
@[simp] theorem tally_hummocks (s : State) (e n : Nat) : (tally s e n).hummocks = s.hummocks := (rfl)
@[simp] theorem tally_bill (s : State) (e n : Nat) : (tally s e n).bill = s.bill := (rfl)
@[simp] theorem tally_lanes (s : State) (e n : Nat) : (tally s e n).lanes = s.lanes := (rfl)
@[simp] theorem tally_fwd (s : State) (e n : Nat) : (tally s e n).fwd = s.fwd := (rfl)
@[simp] theorem tally_lauter (s : State) (e n : Nat) : (tally s e n).lauter = s.lauter := (rfl)
@[simp] theorem tally_twin (s : State) (e n : Nat) : (tally s e n).twin = s.twin := (rfl)
@[simp] theorem tally_frames (s : State) (e n : Nat) : (tally s e n).frames = s.frames := (rfl)
@[simp] theorem tally_nextFrame (s : State) (e n : Nat) : (tally s e n).nextFrame = s.nextFrame := (rfl)
@[simp] theorem tally_fen (s : State) (e n : Nat) : (tally s e n).fen = s.fen := (rfl)
@[simp] theorem tally_cask (s : State) (e n : Nat) : (tally s e n).cask = s.cask := (rfl)
@[simp] theorem tally_deep (s : State) (e n : Nat) : (tally s e n).deep = s.deep := (rfl)
@[simp] theorem tally_ferm (s : State) (e n : Nat) : (tally s e n).ferm = s.ferm := (rfl)
@[simp] theorem tally_auth (s : State) (e n : Nat) : (tally s e n).auth = s.auth := (rfl)
@[simp] theorem tally_mere (s : State) (e n : Nat) : (tally s e n).mere = s.mere := (rfl)
@[simp] theorem tally_egress (s : State) (e n : Nat) : (tally s e n).egress = s.egress := (rfl)
@[simp] theorem tally_chip (s : State) (e n : Nat) : (tally s e n).chip = s.chip := (rfl)
@[simp] theorem tally_host (s : State) (e n : Nat) : (tally s e n).host = s.host := (rfl)

@[simp] theorem peak_pending (s : State) (a hi lo n : Nat) : (peak s a hi lo n).pending = s.pending := by unfold peak; split <;> rfl
@[simp] theorem peak_free (s : State) (a hi lo n : Nat) : (peak s a hi lo n).free = s.free := by unfold peak; split <;> rfl
@[simp] theorem peak_out (s : State) (a hi lo n : Nat) : (peak s a hi lo n).out = s.out := by unfold peak; split <;> rfl
@[simp] theorem peak_ev (s : State) (a hi lo n : Nat) : (peak s a hi lo n).ev = s.ev := by unfold peak; split <;> rfl
@[simp] theorem peak_time (s : State) (a hi lo n : Nat) : (peak s a hi lo n).time = s.time := by unfold peak; split <;> rfl
@[simp] theorem peak_perf (s : State) (a hi lo n : Nat) : (peak s a hi lo n).perf = s.perf := by unfold peak; split <;> rfl
@[simp] theorem peak_core (s : State) (a hi lo n : Nat) : (peak s a hi lo n).core = s.core := by unfold peak; split <;> rfl
@[simp] theorem peak_hummocks (s : State) (a hi lo n : Nat) : (peak s a hi lo n).hummocks = s.hummocks := by unfold peak; split <;> rfl
@[simp] theorem peak_bill (s : State) (a hi lo n : Nat) : (peak s a hi lo n).bill = s.bill := by unfold peak; split <;> rfl
@[simp] theorem peak_lanes (s : State) (a hi lo n : Nat) : (peak s a hi lo n).lanes = s.lanes := by unfold peak; split <;> rfl
@[simp] theorem peak_fwd (s : State) (a hi lo n : Nat) : (peak s a hi lo n).fwd = s.fwd := by unfold peak; split <;> rfl
@[simp] theorem peak_lauter (s : State) (a hi lo n : Nat) : (peak s a hi lo n).lauter = s.lauter := by unfold peak; split <;> rfl
@[simp] theorem peak_twin (s : State) (a hi lo n : Nat) : (peak s a hi lo n).twin = s.twin := by unfold peak; split <;> rfl
@[simp] theorem peak_frames (s : State) (a hi lo n : Nat) : (peak s a hi lo n).frames = s.frames := by unfold peak; split <;> rfl
@[simp] theorem peak_nextFrame (s : State) (a hi lo n : Nat) : (peak s a hi lo n).nextFrame = s.nextFrame := by unfold peak; split <;> rfl
@[simp] theorem peak_fen (s : State) (a hi lo n : Nat) : (peak s a hi lo n).fen = s.fen := by unfold peak; split <;> rfl
@[simp] theorem peak_cask (s : State) (a hi lo n : Nat) : (peak s a hi lo n).cask = s.cask := by unfold peak; split <;> rfl
@[simp] theorem peak_deep (s : State) (a hi lo n : Nat) : (peak s a hi lo n).deep = s.deep := by unfold peak; split <;> rfl
@[simp] theorem peak_ferm (s : State) (a hi lo n : Nat) : (peak s a hi lo n).ferm = s.ferm := by unfold peak; split <;> rfl
@[simp] theorem peak_auth (s : State) (a hi lo n : Nat) : (peak s a hi lo n).auth = s.auth := by unfold peak; split <;> rfl
@[simp] theorem peak_mere (s : State) (a hi lo n : Nat) : (peak s a hi lo n).mere = s.mere := by unfold peak; split <;> rfl
@[simp] theorem peak_egress (s : State) (a hi lo n : Nat) : (peak s a hi lo n).egress = s.egress := by unfold peak; split <;> rfl
@[simp] theorem peak_chip (s : State) (a hi lo n : Nat) : (peak s a hi lo n).chip = s.chip := by unfold peak; split <;> rfl
@[simp] theorem peak_host (s : State) (a hi lo n : Nat) : (peak s a hi lo n).host = s.host := by unfold peak; split <;> rfl

@[simp] theorem emit_out (s : State) (o : Out) : (emit s o).out = o :: s.out := (rfl)
@[simp] theorem fresh_free (s : State) : (fresh s).2.free = s.free + 1 := (rfl)
@[simp] theorem raise_occ (s : State) (e d0 d1 : Nat) : (raise s e d0 d1).ev.occ = s.ev.occ ++ [⟨e, d0, d1, tickNo s⟩] := (rfl)

/-- A register reads the same when other parts of the state change. -/
@[simp] theorem rd_with {s : State} {pending_} {free_} {out_} {ev_} {time_} {perf_} {core_} {hummocks_} {bill_} {lanes_} {fwd_} {lauter_} {twin_} {frames_} {nextFrame_} {fen_} {cask_} {deep_} {ferm_} {auth_} {mere_} {egress_} {chip_} {host_} (a : Nat) :
    rd { pending := pending_, free := free_, out := out_, regs := s.regs, ev := ev_, time := time_, perf := perf_, core := core_, hummocks := hummocks_, bill := bill_, lanes := lanes_, fwd := fwd_, lauter := lauter_, twin := twin_, frames := frames_, nextFrame := nextFrame_, fen := fen_, cask := cask_, deep := deep_, ferm := ferm_, auth := auth_, mere := mere_, egress := egress_, chip := chip_, host := host_ } a = rd s a := (rfl)

@[simp] theorem rd_emit (s : State) (o : Out) (b : Nat) : rd (emit s o) b = rd s b := (rfl)
@[simp] theorem rd_fresh (s : State) (b : Nat) : rd ((fresh s).2) b = rd s b := (rfl)
@[simp] theorem rd_raise (s : State) (e d0 d1 : Nat) (b : Nat) : rd (raise s e d0 d1) b = rd s b := (rfl)
@[simp] theorem rd_tally (s : State) (e n : Nat) (b : Nat) : rd (tally s e n) b = rd s b := (rfl)

/-- What a register reads after a write. -/
theorem rd_wr (s : State) (a : Nat) (v : W64) (b : Nat) : rd (wr s a v) b = if b = a then v else rd s b := by
  simp only [rd, wr]
  by_cases e : a = b
  · subst e; simp [tabFind_tabPut]
  · rw [if_neg (Ne.symm e), tabPut]
    split
    · rw [tabFind_tabDel, if_neg e]
    · rw [tabFind_tabSet, if_neg e]

@[simp] theorem rd_wr_same (s : State) (a : Nat) (v : W64) : rd (wr s a v) a = v := by rw [rd_wr, if_pos rfl]

theorem rd_wr_ne {s : State} {a b : Nat} (v : W64) (hb : b ≠ a) : rd (wr s a v) b = rd s b := by rw [rd_wr, if_neg hb]

@[simp] theorem rd_wrn_same (s : State) (a n : Nat) : rd (wrn s a n) a = BitVec.ofNat 64 n := rd_wr_same s a _

theorem rd_wrn_ne {s : State} {a b : Nat} (n : Nat) (hb : b ≠ a) : rd (wrn s a n) b = rd s b := rd_wr_ne _ hb

theorem rdn_wrn_same (s : State) (a n : Nat) : rdn (wrn s a n) a = n % 2 ^ 64 := by simp [rdn]

@[simp] theorem rd_wf_same (s : State) (a hi lo n : Nat) : rd (wf s a hi lo n) a = setFld (rd s a) hi lo n := rd_wr_same s a _

theorem rd_wf_ne {s : State} {a b : Nat} (hi lo n : Nat) (hb : b ≠ a) : rd (wf s a hi lo n) b = rd s b := rd_wr_ne _ hb

/-- A field reads as it was set. -/
@[simp] theorem rf_wf_same (s : State) (a hi lo n : Nat) (hh : hi < 64) :
    rf (wf s a hi lo n) a hi lo = n % 2 ^ (hi + 1 - lo) := by
  rw [rf, rd_wf_same, fld_setFld_same _ _ _ _ hh]

/-- The other fields of a register, and the other registers, stay. -/
theorem rf_wf_ne {s : State} {a b hi lo hi' lo' : Nat} (n : Nat) (hb : b ≠ a ∨ hi' < lo ∨ hi < lo') :
    rf (wf s a hi lo n) b hi' lo' = rf s b hi' lo' := by
  by_cases e : b = a
  · subst e
    rw [rf, rd_wf_same, fld_setFld_ne _ _ _ _ _ _ (by omega), rf]
  · rw [rf, rd_wf_ne _ _ _ e, rf]

@[simp] theorem rb_wf_same (s : State) (a hi lo n i : Nat) :
    rb (wf s a hi lo n) a i = if lo ≤ i ∧ i ≤ hi ∧ i < 64 then n.testBit (i - lo) else rb s a i := by
  rw [rb, rd_wf_same, bitOf_setFld, rb]

theorem rb_wf_ne {s : State} {a b : Nat} (hi lo n i : Nat) (hb : b ≠ a) :
    rb (wf s a hi lo n) b i = rb s b i := by
  rw [rb, rd_wf_ne _ _ _ hb, rb]

/-- A saturating counter after it counts. -/
theorem rdn_cnt_same (s : State) (a n : Nat) : rdn (cnt s a n) a = min (rdn s a + n) (2 ^ 32 - 1) := by
  rw [cnt, rdn_wrn_same, satAdd]; omega

theorem rd_cnt_ne {s : State} {a b : Nat} (n : Nat) (hb : b ≠ a) : rd (cnt s a n) b = rd s b := rd_wr_ne _ hb

@[simp] theorem regsOk_wr {s : State} (a : Nat) (v : W64) (h : s.regsOk = true) : (wr s a v).regsOk = true :=
  (wr_kept s a v (Kept.refl s)).regs h

@[simp] theorem regsOk_wrn {s : State} (a n : Nat) (h : s.regsOk = true) : (wrn s a n).regsOk = true :=
  (wrn_kept s a n (Kept.refl s)).regs h
@[simp] theorem regsOk_wf {s : State} (a hi lo n : Nat) (h : s.regsOk = true) : (wf s a hi lo n).regsOk = true :=
  (wf_kept s a hi lo n (Kept.refl s)).regs h
@[simp] theorem regsOk_cnt {s : State} (a n : Nat) (h : s.regsOk = true) : (cnt s a n).regsOk = true :=
  (cnt_kept s a n (Kept.refl s)).regs h
@[simp] theorem regsOk_cntWrap {s : State} (a n : Nat) (h : s.regsOk = true) : (cntWrap s a n).regsOk = true :=
  (cntWrap_kept s a n (Kept.refl s)).regs h
@[simp] theorem regsOk_emit (s : State) (o : Out) : (emit s o).regsOk = s.regsOk := (rfl)
@[simp] theorem regsOk_fresh (s : State) : ((fresh s).2).regsOk = s.regsOk := (rfl)
@[simp] theorem regsOk_raise (s : State) (e d0 d1 : Nat) : (raise s e d0 d1).regsOk = s.regsOk := (rfl)
@[simp] theorem regsOk_tally (s : State) (e n : Nat) : (tally s e n).regsOk = s.regsOk := (rfl)
@[simp] theorem regsOk_peak {s : State} (a hi lo n : Nat) (h : s.regsOk = true) : (peak s a hi lo n).regsOk = true :=
  (peak_kept s a hi lo n (Kept.refl s)).regs h

/-- The register file stays canonical when other parts of the state change. -/
@[simp] theorem regsOk_with {s : State} {pending_} {free_} {out_} {ev_} {time_} {perf_} {core_} {hummocks_} {bill_} {lanes_} {fwd_} {lauter_} {twin_} {frames_} {nextFrame_} {fen_} {cask_} {deep_} {ferm_} {auth_} {mere_} {egress_} {chip_} {host_} :
    ({ pending := pending_, free := free_, out := out_, regs := s.regs, ev := ev_, time := time_, perf := perf_, core := core_, hummocks := hummocks_, bill := bill_, lanes := lanes_, fwd := fwd_, lauter := lauter_, twin := twin_, frames := frames_, nextFrame := nextFrame_, fen := fen_, cask := cask_, deep := deep_, ferm := ferm_, auth := auth_, mere := mere_, egress := egress_, chip := chip_, host := host_ } : State).regsOk = s.regsOk := (rfl)

end Sys2Proof.Machine
end

