-- ==== Sys2Proof/Laws/Only.lean ====
section
/-! SUPPORT. What the named operations leave as it was (Only of Safety.lean). -/
namespace Sys2Proof.Machine

theorem Only.refl (s : State) : Only s s [] [] [] := ⟨fun _ _ => rfl, by simp, rfl, rfl⟩

/-- More registers may be named. -/
theorem Only.mono {s t : State} {as bs : List Nat} {occ : List (Nat × Nat × Nat)} {outs : List Out} (h : Only s t as occ outs)
    (hb : ∀ a ∈ as, a ∈ bs) : Only s t bs occ outs :=
  ⟨fun a ha => h.regs a fun k => ha (hb a k), h.occ, h.out, h.rest⟩

theorem Only.time {s t : State} {as : List Nat} {occ : List (Nat × Nat × Nat)} {outs : List Out} (h : Only s t as occ outs) :
    t.time = s.time := by
  have := congrArg State.time h.rest
  exact this

theorem Only.wr {s t : State} {as : List Nat} {occ : List (Nat × Nat × Nat)} {outs : List Out} {a : Nat} (v : W64)
    (h : Only s t as occ outs) (ha : a ∈ as) : Only s (wr t a v) as occ outs := by
  refine ⟨fun b hb => ?_, h.occ, h.out, h.rest⟩
  rw [rd_wr_ne v (by rintro rfl; exact hb ha), h.regs b hb]

theorem Only.raise {s t : State} {as : List Nat} {occ : List (Nat × Nat × Nat)} {outs : List Out} (e d0 d1 : Nat)
    (h : Only s t as occ outs) : Only s (raise t e d0 d1) as (occ ++ [(e, d0, d1)]) outs := by
  refine ⟨fun b hb => h.regs b hb, ?_, h.out, h.rest⟩
  have ht : tickNo t = tickNo s := by rw [tickNo, tickNo, h.time]
  rw [raise_occ, h.occ, ht]
  simp

theorem Only.emit {s t : State} {as : List Nat} {occ : List (Nat × Nat × Nat)} {outs : List Out} (o : Out)
    (h : Only s t as occ outs) : Only s (emit t o) as occ (outs ++ [o]) := by
  refine ⟨fun b hb => h.regs b hb, h.occ, ?_, h.rest⟩
  rw [emit_out, h.out]
  simp

/-- The first access that is reported (R510). -/
theorem accReport_first {s : State} (code bar : Nat) (write : Bool) (addr : Nat) (hp : s.host.probe = none)
    (h0 : rf s Reg.HOST_ACC_STATUS 3 0 = 0) :
    Only s (accReport s code bar write addr) [Reg.HOST_ACC_STATUS, Reg.HOST_ACC_ADDR] [(0xFC8, 0, pack2 code bar)] [] ∧
    rdn (accReport s code bar write addr) Reg.HOST_ACC_STATUS = (code + bar * 16 + b2n write * 64) % 2 ^ 64 ∧
    rdn (accReport s code bar write addr) Reg.HOST_ACC_ADDR = addr % 2 ^ 64 := by
  rw [rf] at h0
  have ne : Reg.HOST_ACC_STATUS ≠ Reg.HOST_ACC_ADDR := by decide
  simp only [accReport, hp, h0, if_true]
  refine ⟨?_, ?_, ?_⟩
  · exact Only.raise _ _ _ (Only.wr _ (Only.wr _ ((Only.refl s).mono (bs := [Reg.HOST_ACC_STATUS, Reg.HOST_ACC_ADDR])
      (by simp)) (a := Reg.HOST_ACC_STATUS) (by simp)) (a := Reg.HOST_ACC_ADDR) (by simp))
  · simp [rdn, rd_wrn_ne, ne]
  · simp [rdn]

end Sys2Proof.Machine
end

