-- ==== Sys2Proof/Laws/PowerKept.lean ====
section
/-! SUPPORT. What the functions of Power.lean keep (Laws/Kept.lean). -/
namespace Sys2Proof.Machine
set_option linter.unusedTactic false
set_option linter.unreachableTactic false
set_option linter.unusedSimpArgs false

theorem prepareVote_kept : ∀ (s : State) (h : ℕ) {z0 : State}, Kept z0 s → Kept z0 (prepareVote s h) := by
  intros; unfold prepareVote
  repeat' (with_reducible first | assumption | apply giveUp_kept | apply chanPowerSet_kept | apply humPut_kept | apply humEnter_kept | exact Kept.refl _ | intro _ | split | refine snd_kept (by assumption) ?_ | refine fst_kept (by assumption) ?_ | refine trd_kept (by assumption) ?_ | simp only [with_kept])

theorem prepareExpired_kept : ∀ (s : State) (h : ℕ) {z0 : State}, Kept z0 s → Kept z0 (prepareExpired s h) := by
  intros; unfold prepareExpired
  repeat' (with_reducible first | assumption | apply giveUp_kept | exact Kept.refl _ | intro _ | split | refine snd_kept (by assumption) ?_ | refine fst_kept (by assumption) ?_ | refine trd_kept (by assumption) ?_ | simp only [with_kept])

theorem quiesceTimeout_kept : ∀ (s : State) {z0 : State}, Kept z0 s → Kept z0 (quiesceTimeout s) := by
  intros; unfold quiesceTimeout
  repeat' (with_reducible first | assumption | apply giveUp_kept | refine foldl_kept _ ?_ ?_ | exact Kept.refl _ | intro _ | split | simp only [with_kept])

theorem idleExpired_kept : ∀ (s : State) (h : ℕ) {z0 : State}, Kept z0 s → Kept z0 (idleExpired s h) := by
  intros; unfold idleExpired
  repeat' (with_reducible first | assumption | apply touch_kept | apply startPrepare_kept | exact Kept.refl _ | intro _ | split | simp only [with_kept])

theorem humResume_kept : ∀ (s : State) (h : ℕ) {z0 : State}, Kept z0 s → Kept z0 (humResume s h) := by
  intros; unfold humResume
  repeat' (with_reducible first | assumption | apply pump_kept | apply cqResume_kept | apply placeJobs_kept | apply lauterResume_kept | apply serveHeld_kept | exact Kept.refl _ | intro _ | split | simp only [with_kept])

theorem resumeAck_kept : ∀ (s : State) (h : ℕ) {z0 : State}, Kept z0 s → Kept z0 (resumeAck s h) := by
  intros; unfold resumeAck
  repeat' (with_reducible first | assumption | apply chanPowerSet_kept | apply humPut_kept | apply cnt_kept | apply lastRefuser_kept | apply humEnter_kept | apply raise_kept | apply humResume_kept | exact Kept.refl _ | intro _ | split | simp only [with_kept])

theorem sleepBlocks_kept : ∀ (s : State) (h : ℕ) {z0 : State}, Kept z0 s → Kept z0 (sleepBlocks s h) := by
  intros; unfold sleepBlocks
  repeat' (with_reducible first | assumption | apply twinLink_kept | apply chanPowerSet_kept | apply regionSleep_kept | refine foldl_kept _ ?_ ?_ | exact Kept.refl _ | intro _ | split | simp only [with_kept])

theorem refuseHeld_kept : ∀ (h : ℕ) (s : State) (x : HeldAccess) {z0 : State}, Kept z0 s → Kept z0 (refuseHeld h s x) := by
  intros; unfold refuseHeld
  repeat' (with_reducible first | assumption | apply asleepAccess_kept | apply emit_kept | exact Kept.refl _ | intro _ | split | simp only [with_kept])

theorem asleepLook_kept : ∀ (s : State) (h : ℕ) {z0 : State}, Kept z0 s → Kept z0 (asleepLook s h) := by
  intros; unfold asleepLook
  repeat' (with_reducible first | assumption | apply startWake_kept | apply humPut_kept | apply refuseHeld_kept | apply lauterAsleep_kept | refine foldl_kept _ ?_ ?_ | exact Kept.refl _ | intro _ | split | refine snd_kept (by assumption) ?_ | refine fst_kept (by assumption) ?_ | refine trd_kept (by assumption) ?_ | simp only [with_kept])

theorem powerGated_kept : ∀ (s : State) (h : ℕ) {z0 : State}, Kept z0 s → Kept z0 (powerGated s h) := by
  intros; unfold powerGated
  repeat' (with_reducible first | assumption | apply humEnter_kept | apply sleepBlocks_kept | apply humPut_kept | apply raise_kept | apply wf_kept | apply pump_kept | apply cqResume_kept | apply asleepLook_kept | exact Kept.refl _ | intro _ | split | simp only [with_kept])

theorem wakeChannel_kept : ∀ (s : State) (c : ℕ) {z0 : State}, Kept z0 s → Kept z0 (wakeChannel s c) := by
  intros; unfold wakeChannel
  repeat' (with_reducible first | assumption | apply emit_kept | apply drankPut_kept | apply debtSet_kept | apply chanEvent_kept | apply chanPowerSet_kept | refine foldl_kept _ ?_ ?_ | exact Kept.refl _ | intro _ | split | simp only [with_kept])

theorem wakeBlocks_kept : ∀ (s : State) (h : ℕ) {z0 : State}, Kept z0 s → Kept z0 (wakeBlocks s h) := by
  intros; unfold wakeBlocks
  repeat' (with_reducible first | assumption | apply regionWake_kept | apply wakeChannel_kept | refine foldl_kept _ ?_ ?_ | exact Kept.refl _ | intro _ | split | simp only [with_kept])

theorem wakeComplete_kept : ∀ (s : State) (h : ℕ) {z0 : State}, Kept z0 s → Kept z0 (wakeComplete s h) := by
  intros; unfold wakeComplete
  repeat' (with_reducible first | assumption | apply touch_kept | apply humEnter_kept | apply wakeBlocks_kept | apply raise_kept | apply wf_kept | apply humResume_kept | exact Kept.refl _ | intro _ | split | simp only [with_kept])

theorem selftestDone_kept : ∀ (s : State) (h : ℕ) (firstFail : Option ℕ) {z0 : State}, Kept z0 s → Kept z0 (selftestDone s h firstFail) := by
  intros; unfold selftestDone
  repeat' (with_reducible first | assumption | apply wakeChannel_kept | apply wrn_kept | apply wf_kept | apply humEnter_kept | apply humPut_kept | apply humResume_kept | apply raise_kept | refine foldl_kept _ ?_ ?_ | exact Kept.refl _ | intro _ | split | simp only [with_kept])

theorem watchWindow_kept : ∀ (s : State) (q : ℕ) (readings : List ℕ) {z0 : State}, Kept z0 s → Kept z0 (watchWindow s q readings) := by
  intros; unfold watchWindow
  repeat' (with_reducible first | assumption | apply humPut_kept | apply wf_kept | apply raise_kept | apply startWake_kept | refine foldl_kept _ ?_ ?_ | exact Kept.refl _ | intro _ | split | simp only [with_kept])

theorem execQuarterQuiesceTimeout_kept : ∀ (s : State) {z0 : State}, Kept z0 s → ∀ (t0 : State), execQuarterQuiesceTimeout s = Host.Outcome.next t0 → Kept z0 t0 := by
  intros; rename_i e; unfold execQuarterQuiesceTimeout at e; repeat' split at e
  all_goals obtain rfl := Host.Outcome.next.inj e
  all_goals repeat' (with_reducible first | assumption | apply quiesceTimeout_kept | exact Kept.refl _ | intro _ | split | simp only [with_kept])

theorem execHummockIdleExpiry_kept : ∀ (h : Fin 40) (s : State) {z0 : State}, Kept z0 s → ∀ (t0 : State), execHummockIdleExpiry h s = Host.Outcome.next t0 → Kept z0 t0 := by
  intros; rename_i e; unfold execHummockIdleExpiry at e; repeat' split at e
  all_goals obtain rfl := Host.Outcome.next.inj e
  all_goals repeat' (with_reducible first | assumption | apply idleExpired_kept | exact Kept.refl _ | intro _ | split | simp only [with_kept])

theorem execPrepareVote_kept : ∀ (h : Fin 40) (s : State) {z0 : State}, Kept z0 s → ∀ (t0 : State), execPrepareVote h s = Host.Outcome.next t0 → Kept z0 t0 := by
  intros; rename_i e; unfold execPrepareVote at e; repeat' split at e
  all_goals obtain rfl := Host.Outcome.next.inj e
  all_goals repeat' (with_reducible first | assumption | apply prepareVote_kept | exact Kept.refl _ | intro _ | split | simp only [with_kept])

theorem execPrepareLimitExpiry_kept : ∀ (h : Fin 40) (s : State) {z0 : State}, Kept z0 s → ∀ (t0 : State), execPrepareLimitExpiry h s = Host.Outcome.next t0 → Kept z0 t0 := by
  intros; rename_i e; unfold execPrepareLimitExpiry at e; repeat' split at e
  all_goals obtain rfl := Host.Outcome.next.inj e
  all_goals repeat' (with_reducible first | assumption | apply prepareExpired_kept | exact Kept.refl _ | intro _ | split | simp only [with_kept])

theorem execRollbackResumeAck_kept : ∀ (h : Fin 40) (s : State) {z0 : State}, Kept z0 s → ∀ (t0 : State), execRollbackResumeAck h s = Host.Outcome.next t0 → Kept z0 t0 := by
  intros; rename_i e; unfold execRollbackResumeAck at e; repeat' split at e
  all_goals obtain rfl := Host.Outcome.next.inj e
  all_goals repeat' (with_reducible first | assumption | apply resumeAck_kept | exact Kept.refl _ | intro _ | split | simp only [with_kept])

theorem execPowerGated_kept : ∀ (h : Fin 40) (s : State) {z0 : State}, Kept z0 s → ∀ (t0 : State), execPowerGated h s = Host.Outcome.next t0 → Kept z0 t0 := by
  intros; rename_i e; unfold execPowerGated at e; repeat' split at e
  all_goals obtain rfl := Host.Outcome.next.inj e
  all_goals repeat' (with_reducible first | assumption | apply powerGated_kept | exact Kept.refl _ | intro _ | split | simp only [with_kept])

theorem execWakeComplete_kept : ∀ (h : Fin 40) (s : State) {z0 : State}, Kept z0 s → ∀ (t0 : State), execWakeComplete h s = Host.Outcome.next t0 → Kept z0 t0 := by
  intros; rename_i e; unfold execWakeComplete at e; repeat' split at e
  all_goals obtain rfl := Host.Outcome.next.inj e
  all_goals repeat' (with_reducible first | assumption | apply wakeComplete_kept | exact Kept.refl _ | intro _ | split | simp only [with_kept])

theorem execSelftestComplete_kept : ∀ (h : Fin 40) (firstFail : Option (BitVec 8)) (s : State) {z0 : State}, Kept z0 s → ∀ (t0 : State), execSelftestComplete h firstFail s = Host.Outcome.next t0 → Kept z0 t0 := by
  intros; rename_i e; unfold execSelftestComplete at e; repeat' split at e
  all_goals obtain rfl := Host.Outcome.next.inj e
  all_goals repeat' (with_reducible first | assumption | apply selftestDone_kept | exact Kept.refl _ | intro _ | split | simp only [with_kept])

theorem execFenWatchWindow_kept : ∀ (quad : Fin 16) (readings : List ℕ) (s : State) {z0 : State}, Kept z0 s → ∀ (t0 : State), execFenWatchWindow quad readings s = Host.Outcome.next t0 → Kept z0 t0 := by
  intros; rename_i e; unfold execFenWatchWindow at e; repeat' split at e
  all_goals obtain rfl := Host.Outcome.next.inj e
  all_goals repeat' (with_reducible first | assumption | apply watchWindow_kept | exact Kept.refl _ | intro _ | split | simp only [with_kept])

end Sys2Proof.Machine
end

