-- ==== Sys2Proof/Laws/TickKept.lean ====
section
/-! SUPPORT. What the functions of Tick.lean keep (Laws/Kept.lean). -/
namespace Sys2Proof.Machine
set_option linter.unusedTactic false
set_option linter.unreachableTactic false
set_option linter.unusedSimpArgs false

theorem raiseIn_kept : ∀ (s : State) (n source d0 d1 : ℕ) {z0 : State}, Kept z0 s → Kept z0 (raiseIn s n source d0 d1) := by
  intros; unfold raiseIn
  repeat' (with_reducible first | assumption | exact Kept.refl _ | intro _ | split | simp only [with_kept])

theorem alertSample_kept : ∀ (s : State) (n : ℕ) (low : Bool) {z0 : State}, Kept z0 s → Kept z0 (alertSample s n low) := by
  intros; unfold alertSample
  repeat' (with_reducible first | assumption | apply raiseIn_kept | apply wf_kept | exact Kept.refl _ | intro _ | split | simp only [with_kept])

theorem ledgerSample_kept : ∀ (s : State) (n : ℕ) {z0 : State}, Kept z0 s → Kept z0 (ledgerSample s n) := by
  intros; unfold ledgerSample
  repeat' (with_reducible first | assumption | apply raiseIn_kept | exact Kept.refl _ | intro _ | split | simp only [with_kept])

theorem reseqSample_kept : ∀ (s : State) (n : ℕ) {z0 : State}, Kept z0 s → Kept z0 (reseqSample s n) := by
  intros; unfold reseqSample
  repeat' (with_reducible first | assumption | apply raiseIn_kept | apply cnt_kept | exact Kept.refl _ | intro _ | split | refine snd_kept (by assumption) ?_ | refine fst_kept (by assumption) ?_ | refine trd_kept (by assumption) ?_ | simp only [with_kept])

theorem storeSample_kept : ∀ (s : State) (n : ℕ) {z0 : State}, Kept z0 s → Kept z0 (storeSample s n) := by
  intros; unfold storeSample
  repeat' (with_reducible first | assumption | apply raiseIn_kept | apply cnt_kept | exact Kept.refl _ | intro _ | split | simp only [with_kept])

theorem eventItems_kept : ∀ (s : State) (n : ℕ) (os : List Occ) {z0 : State}, Kept z0 s → Kept z0 (eventItems s n os) := by
  intros; unfold eventItems
  repeat' (with_reducible first | assumption | apply itemQueue_kept | refine foldl_kept _ ?_ ?_ | exact Kept.refl _ | intro _ | split | refine snd_kept (by assumption) ?_ | refine fst_kept (by assumption) ?_ | refine trd_kept (by assumption) ?_ | simp only [with_kept])

theorem freeGens_kept : ∀ (s : State) {z0 : State}, Kept z0 s → Kept z0 (freeGens s) := by
  intros; unfold freeGens
  repeat' (with_reducible first | assumption | exact Kept.refl _ | intro _ | split | simp only [with_kept])

theorem tickClose_kept : ∀ (s : State) (pmbAlert : Bool) {z0 : State}, Kept z0 s → Kept z0 (tickClose s pmbAlert) := by
  intros; unfold tickClose
  repeat' (with_reducible first | assumption | apply storeSample_kept | apply reseqSample_kept | apply ledgerSample_kept | apply alertSample_kept | apply takeOccs_kept | apply closeRecords_kept | apply eventItems_kept | apply closeCounters_kept | apply freeGens_kept | exact Kept.refl _ | intro _ | split | refine snd_kept (by assumption) ?_ | refine fst_kept (by assumption) ?_ | refine trd_kept (by assumption) ?_ | simp only [with_kept])

theorem execTickClose_kept : ∀ (pmbAlert : Bool) (s : State) {z0 : State}, Kept z0 s → ∀ (t0 : State), execTickClose pmbAlert s = Host.Outcome.next t0 → Kept z0 t0 := by
  intros; rename_i e; unfold execTickClose at e; repeat' split at e
  all_goals obtain rfl := Host.Outcome.next.inj e
  all_goals repeat' (with_reducible first | assumption | apply tickClose_kept | exact Kept.refl _ | intro _ | split | simp only [with_kept])

end Sys2Proof.Machine
end

