-- ==== Sys2Proof/Laws/Writes.lean ====
section
/-! SUPPORT. What a write of a register by its access types (R10, R11) leaves in its bits. -/
namespace Sys2Proof.Machine

/-- Bit i after a write of v over `old`, where the write names no reserved value. -/
theorem bitOf_regMerge (r : RegRow) (old v : W64) (i : Nat) (h : reservedBits r v = 0) (hi : i < 64) :
    bitOf (regMerge r old v) i =
      (((if r.rw.testBit i || r.wo.testBit i then bitOf v i else bitOf old i) || (bitOf v i && r.w1s.testBit i)) &&
        !(bitOf v i && r.w1c.testBit i)) := by
  simp only [regMerge, h, bitOf, BitVec.getLsbD_or, BitVec.getLsbD_and, BitVec.getLsbD_not, BitVec.getLsbD_ofNat, hi,
    decide_true, Bool.true_and, BitVec.getLsbD_zero, Bool.not_false, Bool.and_true]
  cases r.rw.testBit i <;> cases r.wo.testBit i <;> cases v.getLsbD i <;> cases old.getLsbD i <;> simp

/-- A read-write field reads as it was written. -/
theorem fld_regMerge (r : RegRow) (old v : W64) (hi lo : Nat) (h : reservedBits r v = 0) (hh : hi < 64)
    (hw : ∀ i, lo ≤ i → i ≤ hi → r.rw.testBit i = true ∧ r.w1c.testBit i = false) :
    fld (regMerge r old v) hi lo = fld v hi lo := by
  refine Nat.eq_of_testBit_eq fun i => ?_
  rw [testBit_fld, testBit_fld]
  by_cases k : i < hi + 1 - lo
  · have ⟨w1, w2⟩ := hw (lo + i) (by omega) (by omega)
    rw [bitOf_regMerge r old v _ h (by omega)]
    simp [k, w1, w2]
    intro a _; exact a
  · simp [k]

/-- A write that names no reserved value, of a register of the map. -/
theorem regWrite_row {s : State} {a : Nat} {v : W64} {r : RegRow} (hf : findRow a = some r) (h : reservedBits r v = 0) :
    regWrite s a v = wr s a (regMerge r (rd s a) v) := by
  rw [regWrite, hf]; simp [h]

/-- A register without named values has no reserved ones. -/
theorem reservedBits_nil (r : RegRow) (v : W64) (h : r.valid = []) : reservedBits r v = 0 := by rw [reservedBits, h]; rfl

end Sys2Proof.Machine
end

