-- ==== Sys2Proof/Tests/Slice0.lean ====
section
/-! SUPPORT. Tests: what the checks of well-formedness refuse, small steps with results from the rules, and for every statement with
hypotheses a state that meets them. -/
namespace Sys2Proof.Tests
open Sys2Proof Sys2Proof.Machine
set_option maxRecDepth 20000

/-! ### Ill-formed commands -/

theorem test_wf_refuses_frameHeadReceived : Instr.wf (.frameHeadReceived 0 [] false 0 0 false false) = false := by decide
theorem test_wf_refuses_deepReadComplete : Instr.wf (.deepReadComplete 0 [(0, 0)]) = false := by decide
theorem test_wf_refuses_deepReadComplete_many : Instr.wf (.deepReadComplete 0 (List.replicate 33 (0, 1))) = false := by decide
theorem test_wf_refuses_caskInsWindowClose : Instr.wf (.caskInsWindowClose 0 (2 ^ 27)) = false := by decide
theorem test_wf_refuses_transmissionSelect : Instr.wf (.transmissionSelect 0 0 0 (some (0, [(0, 0)]))) = false := by decide
theorem test_wf_refuses_hjGmacGenerate : Instr.wf (.hjGmacGenerate [] []) = false := by decide
theorem test_wf_refuses_hjGmacVerify : Instr.wf (.hjGmacVerify [] []) = false := by decide
theorem test_wf_refuses_hjCmacGenerate : Instr.wf (.hjCmacGenerate [] []) = false := by decide
theorem test_wf_refuses_hjCmacVerify : Instr.wf (.hjCmacVerify [] []) = false := by decide
theorem test_wf_refuses_hjHmacGenerate : Instr.wf (.hjHmacGenerate [] []) = false := by decide
theorem test_wf_refuses_hjHmacVerify : Instr.wf (.hjHmacVerify [] []) = false := by decide
theorem test_wf_refuses_hjSave : Instr.wf (.hjSave [] []) = false := by decide
theorem test_wf_refuses_hjRestore : Instr.wf (.hjRestore [] []) = false := by decide
theorem test_wf_refuses_calibrationPeriodEnd : Instr.wf (.calibrationPeriodEnd [(101, 0, 0)]) = false := by decide
theorem test_wf_refuses_probeOffsetStep_region : Instr.wf (.probeOffsetStep [(101, 0, 0)]) = false := by decide
theorem test_wf_refuses_probeOffsetStep_count : Instr.wf (.probeOffsetStep [(0, 1, 2)]) = false := by decide
theorem test_wf_refuses_forcedRecalComplete_length : Instr.wf (.forcedRecalComplete [1]) = false := by decide
theorem test_wf_refuses_forcedRecalComplete_margin : Instr.wf (.forcedRecalComplete (List.replicate 64 16)) = false := by decide
theorem test_wf_refuses_eqAdaptStep_length : Instr.wf (.eqAdaptStep 0 []) = false := by decide
theorem test_wf_refuses_eqAdaptStep_move : Instr.wf (.eqAdaptStep 0 (List.replicate 9 2)) = false := by decide
theorem test_wf_refuses_fwdParityScan : Instr.wf (.fwdParityScan 7 16384 false) = false := by decide
theorem test_wf_refuses_dramCommandSlot : Instr.wf (.dramCommandSlot 0 [10]) = false := by decide
theorem test_wf_refuses_retrainComplete : Instr.wf (.retrainComplete 0 (List.replicate 33 (0, 0, 0, 0))) = false := by decide
theorem test_wf_refuses_initialTrainingComplete : Instr.wf (.initialTrainingComplete 0 none [] [0, 0, 0]) = false := by decide
theorem test_wf_refuses_initialTrainingComplete_eyes : Instr.wf (.initialTrainingComplete 0 none (List.replicate 33 (0, 0, 0, 0)) []) = false := by decide
theorem test_wf_refuses_fenWatchWindow : Instr.wf (.fenWatchWindow 0 []) = false := by decide
theorem test_wf_refuses_txDescriptor : Instr.wf (.txDescriptor 0 []) = false := by decide
theorem test_wf_refuses_rxFrameDeliver : Instr.wf (.rxFrameDeliver 0 [[]]) = false := by decide
theorem test_wf_refuses_cqWrite : Instr.wf (.cqWrite 0 []) = false := by decide
theorem test_wf_refuses_cqRead : Instr.wf (.cqRead 0 []) = false := by decide
theorem test_wf_refuses_cqWait : Instr.wf (.cqWait 0 []) = false := by decide
theorem test_wf_refuses_chipReset : Instr.wf (.chipReset true []) = false := by decide
theorem test_wf_refuses_resetRelease_length : Instr.wf (.resetRelease false false []) = false := by decide
theorem test_wf_refuses_resetRelease_row : Instr.wf (.resetRelease false false (List.replicate 101 [])) = false := by decide

/-! ### The state after reset, and single steps -/

theorem test_reset_regs : State.reset.regsOk = true ∧ State.reset.fusesOk = true ∧ State.reset.pending = [] := by decide

/-- R2: the identity registers. -/
theorem test_reset_identity : rdn State.reset Reg.CHIP_ID = 0x57496416 ∧ rdn State.reset Reg.CHIP_REV = 0xB0 := by decide

/-- The state that a command leaves, for tests. -/
def after (c : Instr) (s : State) : State := match exec c s with
  | .next t => t
  | _ => s

/-- R570: the temperature register and its limit of 110 °C (0x1B8). -/
theorem test_tj_over : rb (after (.tjSample 0x1B8) State.reset) Reg.CHIP_ALERT 1 = true ∧
    rb (after (.tjSample 0x1B7) State.reset) Reg.CHIP_ALERT 1 = false := by decide

/-- R540: programming BK0 takes FUSE_PROG and its completion. -/
theorem test_fuse : (after .fuseProgramComplete (after (.fuseProg 1 7 100) State.reset)).chip.fuses = [(1, 7)] := by decide

/-- R493: SLEEP of an AWAKE hummock enters PREPARE (1). -/
theorem test_sleep : humState (after (.powerSleep 3) State.reset) 3 = 1 := by decide

/-- R90: an MDIO read is sent with its fields: PHYAD 5, DEVAD 1. -/
theorem test_mdio : (after (.mdioRead 1 (BitVec.ofNat 32 (5 + 1 * 32))) State.reset).out = [.mdio 1 false 2 5 1 0] := by decide

/-- R89: HEIGHT below the threshold of 15 raises lane event 6 of lane 2 (0x126). -/
theorem test_eye : (after (.eyeMeasure 2 14 3) State.reset).ev.occ.any (fun e => e.source == 0x126) = true := by decide


/-! ### States that meet the hypotheses of the statements -/

theorem test_wit_StepRunsFront : State.reset.pending = [] := by decide

theorem test_wit_StepKeepsRegisterFile : State.reset.regsOk = true ∧ ∃ t, step State.reset = .next t := ⟨by decide, _, rfl⟩

/-- A device with BK0 programmed and BK1 being programmed. -/
def fuseState0 : State := { State.reset with chip := { fuses := [(1, 5)], prog := some (3, 7) } }

theorem test_wit_StepKeepsFuses : ({ fuseState0 with pending := [.fuseProgramComplete] } : State).fusesOk = true ∧
    (tabFind fuseState0.chip.fuses 1).isSome = true ∧ ∃ t, step { fuseState0 with pending := [.fuseProgramComplete] } = .next t :=
  ⟨by decide, by decide, _, rfl⟩

theorem test_wit_RegisterFieldsMerge : (findRow Reg.CORE_CFG).isSome = true ∧ State.reset.host.probe = none ∧
    rf State.reset Reg.HOST_ACC_STATUS 3 0 = 0 ∧
    (findRow Reg.CORE_CFG).all (fun r => reservedBits r 0x436 == 0) = true ∧
    (findRow (Reg.PORT_MDIOm_CFG 0)).all (fun r => reservedBits r 1 != 0) = true := by decide

theorem test_wit_UnassignedOffsets : regAt (0xF00#32).toNat = none ∧ State.reset.host.probe = none ∧
    rf State.reset Reg.HOST_ACC_STATUS 3 0 = 0 := by decide

theorem test_wit_HashesAreCrc32c : (5 : Nat) < 2 ^ 32 := by decide

theorem test_wit_ArrivalsAroundCommit :
    let s := wr (wr { State.reset with hummocks := [(0, { held := [{ bar := 0, addr := 0, len := 4, data := none }] }), (1, { wakeNext := true })] }
      (Reg.POWER_Hh_STATUS 0) 4) (Reg.POWER_Hh_STATUS 1) 4
    humState s 0 = 4 ∧ (hum s 0).held ≠ [] ∧ (hum s 0).wakeNext = false ∧ s.lauter.cmd = none ∧ rb s (Reg.POWER_Hh_CFG 0) 0 = false ∧
    rb (wr s (Reg.POWER_Hh_CFG 0) 1) (Reg.POWER_Hh_CFG 0) 0 = true ∧ humState s 1 = 4 ∧ (hum s 1).wakeNext = true ∧
    humState (wr State.reset (Reg.POWER_Hh_STATUS 0) 3) 0 = 3 := by decide

theorem test_wit_TimeRateWriteTakesEffect : (1000#32).toInt.natAbs ≤ 2 ^ 22 ∧
    2 ^ 22 < (0x80000000#32).toInt.natAbs ∧ State.reset.host.probe = none ∧ rf State.reset Reg.HOST_ACC_STATUS 3 0 = 0 := by decide

theorem test_wit_TimeChangeIsOneStep : bitOf ((1#32).setWidth 64) 0 = true ∧ bitOf ((1#32).setWidth 64) 1 = false ∧
    bitOf ((2#32).setWidth 64) 0 = false ∧ bitOf ((2#32).setWidth 64) 1 = true ∧
    (State.reset.time.acc : Int) + (rd State.reset Reg.TIME_ADJ).toInt * 2 ^ 16 = 0 ∧ State.reset.host.probe = none ∧
    rf State.reset Reg.HOST_ACC_STATUS 3 0 = 0 ∧ bitOf ((3#32).setWidth 64) 0 = true ∧ bitOf ((3#32).setWidth 64) 1 = true := by decide

/-- A state with a link watched, PPS_IN captured and much elapsed time. -/
def watchState : State :=
  wr (wr (wr { State.reset with time := { cycles := 200000000000, ppsEn := true, ppsAt := some 0 } } Reg.TIME_STATUS 4)
    (Reg.TIME_PORTp_CFG 0) 8) (Reg.TIME_PORTp_STATUS 0) 1

theorem test_wit_TimeReferenceWatch : rb watchState (Reg.TIME_PORTp_CFG 0) 3 = true ∧
    rb watchState (Reg.TIME_PORTp_STATUS 0) 0 = true ∧
    tabGet watchState.time.lastSync 0 0 + rf watchState Reg.TIME_SYNC_TIMEOUT 15 0 * 1000000 ≤ nowNs watchState ∧
    watchState.time.rateTold = false ∧ watchState.time.rateAt + rf watchState Reg.TIME_SERVO_TIMEOUT 15 0 * 1000000 ≤ nowNs watchState ∧
    watchState.time.ppsEn = true ∧ watchState.time.ppsAt = some 0 ∧ 1001000000 ≤ nowNs watchState ∧
    rb watchState Reg.TIME_STATUS 2 = true := by decide

/-- A state with entries in every FIFO of the time unit, and one that is full. -/
def fifoState : State :=
  wr (wr { State.reset with time := {
    cycles := 5000000, tcap := [(0, [⟨8192, false⟩]), (1, List.replicate 16 ⟨0, true⟩)], txts := [⟨1, 2, 3⟩] } }
    (Reg.TIME_TCAPn_CFG 0) 1) (Reg.TIME_TCAPn_CFG 1) 2

theorem test_wit_TimeFifosAndTables : rb fifoState (Reg.TIME_TCAPn_CFG 0) 0 = true ∧ (tabGet fifoState.time.tcap 0 []).length < 16 ∧
    rb fifoState (Reg.TIME_TCAPn_CFG 1) 1 = true ∧ 16 ≤ (tabGet fifoState.time.tcap 1 []).length := by decide

/-- A core whose region 0 is awake at the end of a full period, region 1 in one that is invalid, and a code change under way. -/
def coreState : State :=
  { State.reset with core := { regions :=
      [(0, { counts := List.replicate 10 (300, 0) ++ List.replicate 6 (300, 2) }), (2, { nextCode := some 5 })] } }

theorem test_wit_CalibrationPeriod : regionAsleep coreState 0 = false ∧ (regionOf coreState 0).guardLeft ≠ 3 ∧
    (regionOf coreState 0).nextCode = none ∧ ((regionOf coreState 0).counts.length = 16 ∧ ∀ c ∈ (regionOf coreState 0).counts, 256 ≤ c.1) ∧
    regionAsleep coreState 1 = false ∧ (regionOf coreState 1).guardLeft ≠ 3 ∧ (regionOf coreState 1).nextCode = none ∧
    (regionOf coreState 1).counts.length < 16 := by decide

theorem test_wit_DelayCodes : (regionOf coreState 2).nextCode = some 5 ∧ regionAsleep coreState 2 = false ∧
    (0x80000002#32).getLsbD 31 = true ∧ (0x80000002#32).toNat % 128 < 101 ∧ coreState.core.recal = none ∧
    otherPlaneOut coreState 2 = (rdn coreState Reg.LODE_STATUS % 16 != 15) := by decide

theorem test_wit_DelayCodes_complete : ({ coreState with core := { coreState.core with recal := some 2 } } : State).core.recal = some 2 ∧
    rf coreState Reg.CORE_CFG 3 0 ≤ [2, 9, 9][1] ∧ [2, 9, 9][0] < rf coreState Reg.CORE_CFG 3 0 := by decide

theorem test_wit_ResetReleased : State.reset.chip.rstN = false ∧
    ({ State.reset with chip := { rstN := true } } : State).chip.rstN = true ∧
    (([[2, 3]].getD 0 []).take 64).findIdx? (fun m => decide (rf State.reset Reg.CORE_CFG 3 0 ≤ m)) = some 1 := by decide

/-- A device with BK0 programmed and BK1 being programmed. -/
def fuseState : State := { State.reset with chip := { fuses := [(1, 5)], prog := some (3, 7) } }

theorem test_wit_FusesProgram : fuseState.chip.prog = some (3, 7) ∧ (tabFind fuseState.chip.fuses 1).isSome = true ∧
    State.reset.chip.rstN = false ∧ State.reset.chip.pwrgood = true ∧ State.reset.chip.prog = none ∧
    (1#8).toNat = 1 ∧ (7#256).toNat % 2 ^ 128 ≠ 0 ∧ 0 ≤ (100#12).toInt ∧ (100#12).toInt ≤ 400 := by decide

/-- Port 0 at 10 Gb/s with its link up, both enables set and both pauses honoured. -/
def portState : State := wr (wr State.reset (Reg.PORT_LANEl_STATUS 0) 0x307) (Reg.PORT_LANEl_CTRL 0) 0x63

/-- A MAC control frame of 64 bytes: PAUSE for hi = 0, PFC for hi = 1. -/
def controlFrame (hi : Byte) : List Byte :=
  let b : List Byte := List.replicate 12 1 ++ [0x88, 0x08, hi, 1, 0, 3] ++ List.replicate 42 0
  b ++ toLE 4 (crc32 b)

theorem test_wit_PauseFrame : isPort portState 0 = true ∧ linkUp portState 0 = true ∧ rb portState (Reg.PORT_LANEl_CTRL 0) 0 = true ∧
    (controlFrame 0).length = 64 ∧ 64 ≤ rf portState (Reg.PORT_LANEl_MAX_LEN 0) 13 0 ∧ beAt (controlFrame 0) 12 2 = 0x8808 ∧
    beAt (controlFrame 0) 14 2 = 1 ∧ beAt (controlFrame 1) 14 2 = 0x0101 := by decide

theorem test_wit_PauseFrame_fcs : fcsGood (controlFrame 0) = true ∧ fcsGood (controlFrame 1) = true := by decide

/-- Port 0 as an SGMII port whose section 0x02 entry has AN37. -/
def sgmiiState : State :=
  { wr (wr State.reset (Reg.PORT_LANEl_STATUS 0) 0x187) (Reg.PORT_LANEl_CTRL 0) 3 with bill := { sections := [(2, [0, 1])] } }

theorem test_wit_LinkStateChanges : isPort portState 0 = true ∧ humDown portState 0 = false ∧ linkUp portState 0 = true ∧
    3 ≤ portMode portState 0 ∧ rf portState (Reg.PORT_LANEl_CTRL 0) 1 0 ≠ 0 ∧
    linkUp (wr portState (Reg.PORT_LANEl_STATUS 0) 0x300) 0 = false ∧ laneAn37 sgmiiState 0 = true ∧
    laneNegotiates sgmiiState 0 = true ∧ portMode sgmiiState 0 = 1 ∧ rf sgmiiState (Reg.PORT_LANEl_STATUS 0) 7 6 ≠ 0 ∧
    rb sgmiiState (Reg.PORT_LANEl_CTRL 0) 1 = true := by decide

theorem test_wit_EqualisersAndEyes : rb portState (Reg.PORT_LANEl_CTRL 0) 4 = false ∧ rb portState (Reg.PORT_LANEl_STATUS 0) 1 = true ∧
    (laneOf portState 0).eq.moved = none ∧ humDown portState 0 = false ∧ (laneOf portState 0).eyeLow = false ∧
    (0#8).toNat < rf portState (Reg.PORT_Qq_EYE_THRESH 0) 7 0 := by decide

theorem test_wit_ManagementBuses : rb State.reset (Reg.PORT_MDIOm_CMD 0) 31 = false ∧ rb State.reset (Reg.PORT_I2Cq_CMD 0) 31 = false ∧
    rb (wr State.reset (Reg.PORT_MDIOm_CMD 0) 0x80000800) (Reg.PORT_MDIOm_CMD 0) 31 = true ∧
    rb (wr State.reset (Reg.PORT_I2Cq_CMD 0) 0x80020080) (Reg.PORT_I2Cq_CMD 0) 31 = true ∧
    rb (wr State.reset (Reg.PORT_I2Cq_CMD 0) 0x80020080) (Reg.PORT_I2Cq_CMD 0) 7 = true ∧
    (0x00020050#32).toNat / 2 ^ 16 % 64 = 2 := by decide

theorem test_wit_SleepIsAsked : humState State.reset 20 = 0 ∧ humState (wr State.reset (Reg.POWER_Hh_STATUS 0) 4) 0 = 4 ∧
    humState (wr State.reset (Reg.POWER_Hh_STATUS 0) 3) 0 = 3 ∧
    (let s : State := { State.reset with time := { cycles := 5000000 } }
     let u := wr s (Reg.POWER_Hh_IDLE 0) 10
     rdn u (Reg.POWER_Hh_IDLE 0) ≠ 0 ∧ (hum u 0).idleSince + 1000 * rdn u (Reg.POWER_Hh_IDLE 0) ≤ nowNs u ∧ humState u 0 = 0 ∧
     (humBlocks 0).any (blockBusy u) = false ∧ (humBlocks 0).any (blockBusy (wr u (Reg.PORT_LANEl_STATUS 0) 0x301)) = true) := by decide

/-- H0 in PREPARE with its link up and three blocks agreed, H16 in PREPARE while the twin runs, H17 in PREPARE, H1 in ROLLBACK,
and a quarter in PREPARE that holds a slot. -/
def prepareState : State :=
  let s : State := { State.reset with
    time := { cycles := 10000000000 }, bill := { sections := [(0x0C, [0, 0, 0x0F])] }
    hummocks := [(0, { agreed := 3 }), (1, { agreed := 2 }), (2, { agreed := 1 })] }
  let s := wr (wr s (Reg.PORT_LANEl_STATUS 0) 0x301) Reg.TWIN_STATUS 2
  let s := wr (wr s (Reg.POWER_Hh_STATUS 0) 1) (Reg.POWER_Hh_STATUS 16) 1
  wr (wr (wr s (Reg.POWER_Hh_STATUS 17) 1) (Reg.POWER_Hh_STATUS 1) 2) (Reg.POWER_Hh_STATUS 2) 2

theorem test_wit_PrepareVotes : askedBlock prepareState 0 = some 0x100 ∧ blockVote prepareState 0x100 = .refuse 0x100 ∧
    humState prepareState 0 = 1 ∧ (hum prepareState 0).agreed ≠ 0 ∧
    askedBlock prepareState 16 = some 0x800 ∧ blockVote prepareState 0x800 = .refuse 0x800 ∧ (hum prepareState 16).agreed = 0 ∧
    askedBlock prepareState 17 = some 0x801 ∧ blockVote prepareState 0x801 = .agree ∧
    (hum prepareState 17).asked + 1000 * rf prepareState Reg.POWER_PREPARE_LIMIT 15 0 ≤ nowNs prepareState ∧
    humState prepareState 1 = 2 ∧ 1 < (hum prepareState 1).agreed ∧ humState prepareState 2 = 2 ∧ (hum prepareState 2).agreed ≤ 1 := by decide

theorem test_wit_PrepareVotes_quarter :
    let s := wr { prepareState with ferm := { prepareState.ferm with runs := [(0, { tasks := [{}] })] } } (Reg.POWER_Hh_STATUS 28) 1
    humState s 28 = 1 ∧ (hum s 28).agreed = 0 ∧ 0 < slotsUsed s 0 ∧
    (hum s 28).asked + 1000 * rf s Reg.FERM_QUIESCE 15 0 ≤ nowNs s ∧ ∀ k ∈ [29, 30, 31], humState s k ≠ 1 := by decide

/-- A quad asleep with fen watch, and hummocks in COMMIT, WAKING and TEST. -/
def watchedState : State :=
  let s : State := { State.reset with time := { cycles := 10000000000 } }
  let s := wr (wr (wr s (Reg.POWER_Hh_STATUS 0) 4) (Reg.POWER_Hh_CFG 0) 6) (Reg.PORT_LANEl_STATUS 1) 0x300
  wr (wr (wr s (Reg.POWER_Hh_STATUS 1) 3) (Reg.POWER_Hh_STATUS 2) 5) (Reg.POWER_Hh_STATUS 3) 6

theorem test_wit_SleepAndWake : humState watchedState 0 = 4 ∧ rb watchedState (Reg.POWER_Hh_CFG 0) 2 = true ∧
    rb watchedState (Reg.POWER_Hh_CFG 0) 1 = true ∧
    (hum watchedState 0).watchAt + 1000000 * rf watchedState (Reg.POWER_Hh_FW 0) 9 0 ≤ nowNs watchedState ∧
    isPort watchedState 1 = true ∧ humState watchedState 1 = 3 ∧ humState watchedState 2 = 5 ∧ humState watchedState 3 = 6 := by decide

/-- Two records wait in staging, and the ring of 64 entries is enabled with the link up. -/
def ringState : State :=
  let s : State := { State.reset with ev := { stage := [⟨0xFC3, 7, 0, 5, 9, 1, 0, none⟩, ⟨0xFC3, 7, 0, 6, 9, 2, 0, none⟩], openTick := 3 }, time := { tick := 5 } }
  wr (wr (wr (wr s Reg.EVENT_CFG 1) Reg.HOST_LINK 1) Reg.EVENT_RING_SIZE 6) Reg.EVENT_STAGE_THRESH 100

theorem test_wit_EventRingRules : rf ringState Reg.EVENT_CFG 1 0 = 1 ∧ rb ringState Reg.HOST_LINK 0 = true ∧ ringIsFull ringState = false ∧
    (1 : Nat) ≤ rf ringState Reg.EVENT_STAGE_THRESH 13 0 ∧ ringState.ev.stageArmed = true ∧ rb State.reset Reg.EVENT_CFG 0 = false ∧
    (let s := wr (wr ringState Reg.EVENT_RING_TAIL 62) Reg.EVENT_RING_HEAD 63
     ringIsFull s = true ∧ ringIsFull (wr s Reg.EVENT_RING_HEAD 5) = false) := by decide

theorem test_wit_RoutesSoftVectors : ringState.ev.routeHold.all (fun h => h.2.1 != 4095) = true ∧
    (findRow (Reg.EVENT_SRCs_ROUTE 4095)).isSome = true ∧
    (let s := wr ringState (Reg.EVENT_VECv_PEND 255) 1
     rb s (Reg.EVENT_VECv_PEND 255) 0 = true ∧ tabFind s.ev.lastRaise 255 = none ∧
     rb (wr s (Reg.HOST_MSIXv_CTL 255) 0) (Reg.HOST_MSIXv_CTL 255) 0 = false ∧
     rb (wr s (Reg.HOST_MSIXv_CTL 255) 1) (Reg.HOST_MSIXv_CTL 255) 0 = true) := by decide

theorem test_wit_CountersAndWindows : (∃ r, findRow (Reg.PERF_CNTi_CTL 1022) = some r ∧ reservedBits r 0x12107 = 0) ∧
    selOccurrence 0x2107 = false ∧ selCondition 0x2107 = true ∧ selOccurrence 0x1107 = true ∧
    (let s : State := { wr State.reset Reg.PERF_BW_WINDOW 1000 with time := { acc := 2500 * 2 ^ 32 } }
     s.perf.bwIndex < timeN s / rdn s Reg.PERF_BW_WINDOW) := by
  refine ⟨⟨_, rfl, by decide⟩, by decide, by decide, by decide, by decide⟩

theorem test_wit_SampleRing : (let s := wr (wr (wr State.reset Reg.HOST_LINK 1) Reg.PERF_PS_RING_SIZE 6) Reg.PERF_PS_RING_TAIL 63
     (rf s Reg.PERF_PS_RING_TAIL 19 0 + 1) % 2 ^ rf s Reg.PERF_PS_RING_SIZE 4 0 ≠ rf (wr s Reg.PERF_PS_RING_HEAD 5) Reg.PERF_PS_RING_HEAD 19 0 % 64 ∧
     (rf s Reg.PERF_PS_RING_TAIL 19 0 + 1) % 2 ^ rf s Reg.PERF_PS_RING_SIZE 4 0 = rf s Reg.PERF_PS_RING_HEAD 19 0 % 64 ∧
     rb s Reg.HOST_LINK 0 = true ∧ rb State.reset Reg.HOST_LINK 0 = false) := by decide

theorem test_wit_TickClosesInOrder : ringState.ev.openTick < ringState.time.tick ∧ State.reset.time.tick ≤ State.reset.ev.openTick ∧
    rdn ringState Reg.EVENT_SEQ < 2 ^ 32 := by decide

/-- Port 0 runs entry 0 of a list of two, the second Set-And-Hold, whose change is due, and a later change is pending. -/
def gateState (pending : Option Nat) (entry : Nat) : State :=
  let s : State := { State.reset with
    egress := { ports := [(0, { gates := { running := true, cycle := 1000, len := 2, cycleStart := 5000, entry := entry, nextAt := 5500, pending := pending } })] }
    time := { acc := 6000 * 2 ^ 32 } }
  wr (wr (wr (wr (wr (wr s (Reg.EGRESS_PORTp_CFG 0) 0x00FF1430) (Reg.EGRESS_PORTp_OPERi 0 1) 0x10F00000200) (Reg.EGRESS_PORTp_GCL_LEN 0) 1)
    (Reg.EGRESS_PORTp_ADMINi 0 0) 0xFF00000100) (Reg.EGRESS_PORTp_GCL_CYCLE 0) 1000) (Reg.PORT_LANEl_STATUS 0) 0x301

theorem test_wit_PortGateLists : rf (gateState none 0) (Reg.EGRESS_PORTp_GCL_LEN 0) 10 0 = 1 ∧ rdn (gateState none 0) (Reg.EGRESS_PORTp_GCL_CYCLE 0) = 1000 ∧
    rf (gateState none 0) (Reg.EGRESS_PORTp_ADMINi 0 0) 31 0 = 256 ∧ curQueue (gateState (some 6000) 0) 0 = none ∧
    rb (gateState none 0) (Reg.EGRESS_PORTp_CFG 0) 4 = true ∧ rb (gateState none 0) (Reg.EGRESS_PORTp_CFG 0) 5 = true ∧
    rb (gateState none 0) (Reg.EGRESS_PORTp_CFG 0) 8 = false ∧ isPort (gateState none 0) 0 = true ∧ 1000 ≤ portRate (gateState none 0) 0 ∧
    timeN (gateState none 0) = 6000 ∧ operOp (gateState none 0) 0 1 = 1 ∧ (eport (gateState none 1) 0).gates.len ≤ 1 + 1 ∧
    rf (wr State.reset (Reg.EGRESS_PORTp_GCL_LEN 63) 2048) (Reg.EGRESS_PORTp_GCL_LEN 63) 10 0 = 0 ∧
    rf (wr (gateState none 0) (Reg.EGRESS_PORTp_ADMINi 0 0) 1001) (Reg.EGRESS_PORTp_ADMINi 0 0) 31 0 = 1001 := by decide

theorem test_wit_StreamGateLists :
    (let s := wr (wr (wr State.reset (Reg.EGRESS_SGg_LEN 255) 64) (Reg.EGRESS_SGg_CYCLE 255) 1000) (Reg.EGRESS_SGg_ENTRYi 255 63) 1000
     rdn s (Reg.EGRESS_SGg_LEN 255) = 64 ∧ rdn s (Reg.EGRESS_SGg_CYCLE 255) = 1000 ∧
     (List.range 64).foldl (fun t i => t + rf s (Reg.EGRESS_SGg_ENTRYi 255 i) 31 0) 0 = 1000) ∧
    (let s : State := { State.reset with egress := { sgates := [(3, { running := true, cycle := 8, len := 1, nextAt := 5 }), (4, { pending := some 9 })] }, time := { acc := 9 * 2 ^ 32 } }
     (sgate s 3).pending = none ∧ (sgate s 3).running = true ∧ (sgate s 3).nextAt ≤ timeN s ∧ (sgate s 4).pending = some 9 ∧ 9 ≤ timeN s) := by decide

/-- Port 0 is up; a frame of 64 bytes waits at its output in queue 7 as copy 5, or is in transmission from it. -/
def txState (st : Nat) (arrived : Nat) : State :=
  let s : State := { State.reset with
    frames := [(2, { bytes := List.replicate 64 0#8, done := true, verdict := some true, disposed := true })]
    mere := { copies := [(5, { frame := 2, port := 0, queue := 7, cls := 0, st := st, xing := 1, ct := true })]
              xings := [(1, { frame := 2, input := 0, output := 0, queue := 7, cls := 0, ports := 1, ct := true, arrived := arrived })] }
    egress := { ports := if st = 3 then [(0, { cur := some 5 })] else [] } }
  wr (wr s (Reg.PORT_LANEl_STATUS 0) 0x301) (Reg.PORT_LANEl_CTRL 0) 3

theorem test_wit_TransmissionStartsAndEnds : isPort (txState 1 80) 0 = true ∧ humDown (txState 1 80) 0 = false ∧ (eport (txState 1 80) 0).cur = none ∧
    (queueHead (touch (txState 1 80) 0) 0 7 (fun _ => true)).map (·.1) = some 5 ∧ rb (txState 1 80) (Reg.EGRESS_PORTp_SCHED 0) 7 = true ∧
    (selectCopy (touch (txState 1 80) 0) 0 (fun _ => true)).1.map (·.1) = some 5 ∧
    (let u := touch (txState 1 80) 0
     ∃ c fr, copyOf u 5 = some c ∧ frameOf u 2 = some fr ∧ refuseStart u 5 c fr = none ∧ (startCopy u 0 5 c fr 99).isSome = true) ∧
    (let u := txState 3 80
     (eport u 0).cur = some 5 ∧ ∃ c x fr, copyOf u 5 = some c ∧ xingOf u c.xing = some x ∧ frameOf u c.frame = some fr ∧ xingCrossed u x = true ∧
       fr.verdict.isSome = true ∧ (copyFinal u c).length ≤ rf u (Reg.PORT_LANEl_MAX_LEN 0) 13 0 ∧ c.stomp = false) ∧
    (let u := txState 3 40
     ∃ c x, copyOf u 5 = some c ∧ xingOf u c.xing = some x ∧ c.ct = true ∧ xingCrossed u x = false) := by
  refine ⟨by decide, by decide, by decide, by decide, by decide, by decide, ⟨_, _, rfl, rfl, by decide, by decide⟩, ⟨by decide, _, _, _, rfl, rfl, rfl, by decide, by decide, by decide, by decide⟩, ⟨_, _, rfl, rfl, by decide, by decide⟩⟩

theorem test_wit_QueuesTimeOut : rising (txState 1 80).mere.copies = true ∧
    (let s : State := { txState 1 80 with lanes := [(0, { downAt := some 0 })], time := { cycles := 10 ^ 9 } }
     (laneOf s 0).downAt = some 0 ∧ 0 + 1000 * rf s Reg.EGRESS_DOWN_TIMEOUT 15 0 ≤ nowNs s ∧
     s.mere.copies.filter (fun c => c.2.port == 0 && !c.2.begun) ≠ [] ∧ 1000 * rf s Reg.EGRESS_HOLD_TIMEOUT 15 0 ≤ nowNs s) ∧
    (let s : State := { txState 1 80 with bill := { gens := [(0, { classes := [4#8] })] } }
     heldCopies (txState 1 80) = [] ∧ (heldCopies s).map (·.1) = [5] ∧ (heldCopies s).all (fun c => !c.2.told && (xingOf s c.2.xing).isSome) = true) := by decide

theorem test_wit_RegisterAccesses : (∃ r, findRow Reg.CHIP_ALERT = some r ∧ r.width = 4) ∧ bar0Hummock Reg.CHIP_ALERT = none ∧ mibAt Reg.CHIP_ALERT = none ∧
    Reg.CHIP_ALERT % 4 = 0 ∧ Reg.CHIP_ALERT < 0x00100000 ∧ State.reset.host.probe = none ∧ rf State.reset Reg.HOST_ACC_STATUS 3 0 = 0 ∧
    regAt 0xFFFF0 = none ∧ 0xFFFF0 % 4 = 0 := by
  refine ⟨⟨_, rfl, by decide⟩, ?_⟩; decide

theorem test_wit_RowsOfTheirOwn : ¬ ((0x738#32).getLsbD 6 = true ∧ 57 ≤ (0x738#32).toNat % 64) ∧ humState State.reset 15 = 0 ∧ billDrained State.reset = true ∧
    1024 ≤ sharedCells State.reset 15 2048 ∧ portMode State.reset 63 ≠ 7 ∧ humState State.reset 27 = 0 ∧
    rb State.reset (Reg.DEEP_CHc_CMD_STATUS 63) 0 = false ∧ (0x80000008#32).getLsbD 31 = true ∧
    (let s : State := { State.reset with bill := { sections := [(2, [0#8, 1#8])] }, frames := [(0, {})] }
     billDrained s = false ∧ laneNegotiates s 0 = true ∧ isPort (wr s (Reg.PORT_LANEl_STATUS 0) 0x301) 0 = true) := by decide

/-- Ring e is enabled with 64 entries and one descriptor posted, and the link is up. -/
def hostRing (e : Nat) : State :=
  wr (wr (wr State.reset Reg.HOST_LINK 1) (ringCfgReg e) 0x19) (ringTailReg e) 1

theorem test_wit_RingsFollowR515 : ringOn State.reset 35 = false ∧ ringLive (hostRing 15) 15 = true ∧ ringPending (hostRing 15) 15 = 1 ∧
    tabFind (hostRing 15).host.fetch 15 = none ∧ descChecks (List.replicate 32 0#8) 32 = false ∧
    (let d := [0, 0, 0, 0, 0, 0, 0, 0, 64, 0, 0, 1, 0, 0, 0, 0, 0, 0, 0, 0, 0, 0, 0, 0, 0, 0, 0, 0].map (BitVec.ofNat 8)
     let d := d ++ toLE 4 (crc32c d)
     descChecks d 32 = true ∧ (txParse 15 d).any (fun f => decide (injectUsed (hostRing 15) + f.len + 4 ≤ 524288)) = true) ∧
    (let d := List.replicate 28 0#8
     let d := d ++ toLE 4 (crc32c d)
     descChecks d 32 = true ∧ txParse 15 d = none) := by decide

theorem test_wit_DeliveryToTheHost :
    (let u := txState 1 80
     let s : State := { hostRing 16 with frames := u.frames, mere := { u.mere with copies := [(5, { frame := 2, port := 64, queue := 7, cls := 0, st := 1, xing := 1 })] } }
     let s := wr (wr s (ringCfgReg 16) 0x020019) (Reg.HOST_MSIXv_CTL 0) 1
     let d := List.replicate 12 0#8
     tabFind s.host.rxPart 0 = none ∧ (rxNext s 0).map (·.1) = some 5 ∧ ringLive s 16 = true ∧ rxBuffer s 0 = 128 ∧
     (rxNext s 0).any (fun c => decide (rxBytes s c.2 ≠ [] ∧ (rxBytes s c.2).length ≤ 128)) = true ∧
     descChecks (d ++ toLE 4 (crc32c d)) 16 = true ∧ ringPending s 16 = 1 ∧ vecMasked s (rf s (ringCfgReg 16) 15 8) = true ∧
     ringPending (wr s (ringTailReg 16) 0) 16 = 0) := by decide

/-- A command of a queue: OP, FENCE, COUNT, and from byte 8 its words. -/
def cqBytes (op flags count : Nat) (words : List Nat) : List Byte :=
  let b := toLE 1 op ++ toLE 1 flags ++ toLE 2 count ++ toLE 4 7 ++ words.flatMap (toLE 4)
  let b := b ++ List.replicate (60 - b.length) 0#8
  b ++ toLE 4 (crc32c b)

theorem test_wit_CommandQueuesRun : (hostRing 35).host.cur = none ∧ (cqBytes 1 0 6 []).length = 64 ∧ cqTurn (hostRing 35) 3 = true ∧
    descChecks (cqBytes 1 0 6 []) 64 = true ∧ byteAt (cqBytes 1 0 6 []) 0 = 1 ∧ leAt (cqBytes 1 0 6 []) 2 2 = 6 ∧
    descChecks (cqBytes 2 0 1 []) 64 = true ∧ byteAt (cqBytes 2 0 1 []) 0 = 2 ∧
    descChecks (cqBytes 3 0 1 [0, 0, 0, 65535]) 64 = true ∧ byteAt (cqBytes 3 0 1 [0, 0, 0, 65535]) 0 = 3 ∧ leAt (cqBytes 3 0 1 [0, 0, 0, 65535]) 20 4 = 65535 ∧
    (byteAt (cqBytes 1 0 6 []) 1).testBit 1 = false := by decide

theorem test_wit_CommandQueuesRun_access :
    (let r := cqAccess State.reset (fun s => bar0Fetch s Reg.CHIP_ALERT 4)
     r.1.toOption.isSome = true ∧ r.2.1 = 0) ∧
    (let r := cqAccess State.reset (fun s => bar0Put s { sent := [], mr := 0 } Reg.EVENT_STAGE_THRESH (toLE 4 9) true)
     r.1 = none ∧ r.2.1 = 0) := by decide

theorem test_wit_LinkAndFunctionReset : rb (hostRing 0) Reg.HOST_LINK 0 = true ∧ rb State.reset Reg.HOST_LINK 0 = false := by decide

theorem test_wit_DeepStoreCommands :
    (let s : State := { wr State.reset (Reg.DEEP_CHc_STATUS 63) 1 with
       deep := [(63, { reads := [{ line := 63 * 0, at_ := 0, tag := 5, hint := false }], inflight := [{ line := 9, at_ := 0, tag := 5, hint := false }], banks := [(15, { row := some 3, decided := some (3, true) }), (1, { row := some 2, decided := some (2, false), hint := some (5, 9) })] })]
       time := { cycles := 1000 } }
     chanRuns s 63 = true ∧ (demand (slotMode s 63) 63 8).isSome = true ∧ [1, 2, 4, 5, 6, 7].all (fun k => (demand (slotMode s 63) 63 k).isNone) = true ∧
     (chanOf s 63).inflight.length = 1 ∧ (tabGet s.cask.lines 9 {}).bad = [] ∧ (dbank s 63 15).used + 540 ≤ nowNs s ∧ 1 < rankCount (wr s Reg.DEEP_MAP 4) ∧
     (drank s 63 1).dueAt + dueInterval (rateOf s 63 1) ≤ nowNs s) ∧
    chanPower (wr State.reset (Reg.DEEP_CHc_STATUS 0) 4) 0 = 1 ∧ chanPower (wr State.reset (Reg.DEEP_CHc_STATUS 0) 8) 0 = 2 ∧
    chanPower (wr State.reset (Reg.DEEP_CHc_STATUS 63) 16) 63 = 4 := by decide

theorem test_wit_DeepUpkeep :
    (let s : State := { wr (wr State.reset (Reg.DEEP_CHc_STATUS 63) 1) Reg.DEEP_MAP 4 with
       deep := [(63, { retrain := some 7, ranks := [(1, { catchup := some (0, 2, 2, 64), zqDue := some 9 })] })], time := { cycles := 10 ^ 10 } }
     chanRuns s 63 = true ∧ 1 < rankCount s ∧ (drank s 63 1).mr4At < staggerIndex s 63 1 4000000 ∧ (drank s 63 1).oscAt < staggerIndex s 63 1 1000000 ∧
     (drank s 63 1).zqAt < staggerIndex s 63 1 128000000 ∧ rb s Reg.DEEP_CFG 9 = true ∧ rb s Reg.DEEP_CFG 8 = true ∧ rb s Reg.DEEP_ORDER 0 = false ∧
     (drank s 63 1).catchup = some (0, 2, 2, 64) ∧ 0 < debt (wr s (Reg.DEEP_CHc_DEBT 63) 0x4000) 63 1 ∧ dueInterval 1 < dueInterval (rateOf s 63 1) ∧
     (chanOf s 63).seededAt + 1000000000 ≤ nowNs s ∧ (chanOf s 63).retrain = some 7) ∧
    rb State.reset (Reg.DEEP_CHc_STATUS 15) 0 = false ∧ chanFailed State.reset 15 = false ∧ 15 < 2 ^ chanBits State.reset := by decide

theorem test_wit_KeysAreLoadedAndErased : rb State.reset Reg.AUTH_KEY_STATUS 0 = false ∧ rf State.reset Reg.AUTH_KEY_POLICY 12 0 % 4 < 2 ∧
    (let p := rf (wr State.reset Reg.AUTH_KEY_POLICY (2 + 4 * 64)) Reg.AUTH_KEY_POLICY 12 0
     2 ≤ p % 4 ∧ 64 < p / 4 % 128 + 1) ∧ wrapKey State.reset = none ∧
    (let s : State := { State.reset with chip := { State.reset.chip with fuses := [(5, 7)] } }
     wrapKey s = some (toBE 32 7) ∧ rb (wr s Reg.AUTH_CFG 1) Reg.AUTH_CFG 0 = true) ∧
    (let s : State := { State.reset with auth := { cmd := some { op := 1, slot := 4095, key := [], policy := 0, jobs := [6] }, jobs := [(6, { user := .host, core := 0, slot := 4095, bytes := 1 })] } }
     s.auth.jobs.any (fun j => [6].contains j.1) = true ∧ s.auth.jobs.any (fun j => [7].contains j.1) = false) := by decide

theorem test_wit_HostJobsAreServed :
    (let s := wr (wr State.reset Reg.AUTH_HJ_SIZE 64) Reg.AUTH_HJ_TAIL 1
     2 ≤ rf s Reg.AUTH_HJ_SIZE 15 0 ∧ rb s Reg.AUTH_HJ_HEAD 31 = false ∧ rf s Reg.AUTH_HJ_HEAD 15 0 ≠ rf s Reg.AUTH_HJ_TAIL 15 0 ∧ s.auth.jobs.length < 4096) ∧
    (let d := [8, 0, 5, 0, 255, 255, 16, 0, 0, 0, 0, 0, 0, 0, 0, 0, 2, 0, 0, 0, 9, 0, 0, 0, 0, 0, 0, 0].map (BitVec.ofNat 8)
     let b := d ++ toLE 4 (crc32c d)
     b.length = 32 ∧ crc32c (b.take 28) = leAt b 28 4 ∧ byteAt b 0 = 8 ∧ crc32c ((List.replicate 32 0#8).take 28) ≠ leAt (List.replicate 32 0#8) 28 4) ∧
    (let h : HostJob := { op := 1, flags := 0, slot := 5, ctx := 0xFFFF, tagLen := 16, addr := 0, len := 0, cookie := 9, data := [] }
     let s : State := { State.reset with auth := { jobs := [(6, { user := .host, core := 7, slot := 5, bytes := 0, host := some h })] } }
     (nextJob s 7).map (·.1) = some 6) := by decide

theorem test_wit_WindowSlots : (match slot2 0x048FFFC0 with | .table t i => t == 7 && i == 16383 | _ => false) = true ∧ follower State.reset = false ∧
    (winRead State.reset 7 16383).getD 0 0 = 0 ∧ storeFull State.reset = false ∧
    (let ws := (List.replicate 7 (0 : W64)) ++ [BitVec.ofNat 64 (checkOf [])]
     let s : State := { State.reset with fwd := { slots := [(slotKey 7 16383, { lock := some { staged := ws, since := 0 } })] }, time := { cycles := 10 ^ 9 } }
     (winRead s 7 16383).getD 0 0 = 0x8000000000000000 ∧ fld (((ws.set 0 0).take 8).getD 7 0) 31 0 = checkOf ((ws.set 0 0).take 8) ∧
     badEntry 7 16383 ((ws.set 0 0).take 8) = none ∧ rising s.fwd.slots = true ∧ 0 + rf s Reg.FWD_LOCK_HOLD_LIMIT 19 0 * 1000 ≤ nowNs s ∧
     4 * rf s Reg.FWD_LOCK_TIMEOUT 17 0 ≤ nowNs s) ∧
    (let s : State := { State.reset with frames := [(3, { waitAt := some (0, 7, 5) })] }
     (lookFrame (lockTimedOut s 7 5) 3 (fwdPolicy (lockTimedOut s 7 5)) .wait).ferm.runs.flatMap (fun e => e.2.tasks.flatMap (·.looking)) = []) := by decide

theorem test_wit_ForwardingTables : rb State.reset (Reg.FWD_TBLt_STATUS 7) 0 = false ∧ rehashing State.reset = false ∧
    rehashing (wr State.reset Reg.FWD_FDB_REHASH 2) = true ∧ (listedSlots State.reset 0) = [] ∧ storeFull State.reset = false ∧
    (let s : State := { wr (wr State.reset Reg.FWD_CFG 2) Reg.FEN_CFG 1 with
       fwd := { slots := [(slotKey 0 524287, { words := [0x4000000000000001, 5, 9, 0, 0, 0, 0] }), (slotKey 5 1, { words := [0x4040000000000005, 0, 0, 0, 0, 0, 0] })]
                announced := [(524287, (0, 8))], lpmPending := [(slotKey 1 0, [1])], windows := [(127, { opened := 0, failures := 1, told := false })]
                cmds := [(7, { op := 1, index := 16383, data := List.replicate 8 0 })] }
       time := { cycles := 10 ^ 15, tick := 10 ^ 15 } }
     let x := slotOf s 0 524287
     rb s Reg.FWD_CFG 1 = true ∧ x.valid = true ∧ bitOf (x.word 0) 58 = false ∧ bitOf (x.word 0) 57 = false ∧ s.fen.flush = [] ∧ 8 < (x.word 2).toNat ∧
     rf s Reg.FWD_FDB_AGE 15 0 * 1000000000 ≤ (s.time.tick - 9) * tickNs s ∧ rf s Reg.FWD_FDB_AGE 15 0 * 250000000 ≤ nowNs s ∧
     fld ((slotOf s 5 1).word 0) 11 0 = fld (x.word 1) 11 0 ∧ fld ((slotOf s 5 1).word 0) 55 54 = 1 ∧ (slotOf s 5 1).valid = true ∧ rb s Reg.FEN_CFG 0 = true ∧
     rf s Reg.FWD_INS_WINDOW 15 0 * 1000000 ≤ nowNs s ∧ x.words ≠ [] ∧ 16383 < tblSize 7) := by decide

end Sys2Proof.Tests
end

section
/-! SUPPORT. What every command and every step keeps, from what each command keeps (Laws/*Kept.lean); what a write of a register
by its access types does with reserved values (R10, R11); and the statements of 00_scope.md settled with these. -/
namespace Sys2Proof.Machine

/-! ### Commands and steps -/

/-- One arm per command, as `exec` dispatches them. -/
theorem exec_kept {i : Instr} {s t : State} (e : exec i s = .next t) : Kept s t := by
  cases i with
  | frameHeadReceived => exact execFrameHeadReceived_kept _ _ _ _ _ _ _ _ (.refl s) t e
  | frameTailReceived => exact execFrameTailReceived_kept _ _ _ _ _ _ _ (.refl s) t e
  | pauseFrameReceived => exact execPauseFrameReceived_kept _ _ _ (.refl s) t e
  | pfcFrameReceived => exact execPfcFrameReceived_kept _ _ _ (.refl s) t e
  | pauseQuantaExpiry => exact execPauseQuantaExpiry_kept _ _ (.refl s) t e
  | pauseRepeat => exact execPauseRepeat_kept _ _ (.refl s) t e
  | prestateDepart => exact execPrestateDepart_kept _ _ _ (.refl s) t e
  | deepReadComplete => exact execDeepReadComplete_kept _ _ _ (.refl s) t e
  | caskInsert => exact execCaskInsert_kept _ _ (.refl s) t e
  | caskLockTimeout => exact execCaskLockTimeout_kept _ (.refl s) t e
  | caskCommit => exact execCaskCommit_kept _ _ (.refl s) t e
  | caskInsWindowClose => exact execCaskInsWindowClose_kept _ _ _ (.refl s) t e
  | caskReadsPeriod => exact execCaskReadsPeriod_kept _ (.refl s) t e
  | caskAgeScan => exact execCaskAgeScan_kept _ _ (.refl s) t e
  | taskDispatch => exact execTaskDispatch_kept _ _ (.refl s) t e
  | nodeIssue => exact execNodeIssue_kept _ _ _ (.refl s) t e
  | lookupNodeComplete => exact execLookupNodeComplete_kept _ (.refl s) t e
  | runTimeout => exact execRunTimeout_kept _ (.refl s) t e
  | runQueueDepart => exact execRunQueueDepart_kept _ _ (.refl s) t e
  | recirculationReentry => exact execRecirculationReentry_kept _ (.refl s) t e
  | itemDispatch => exact execItemDispatch_kept _ _ (.refl s) t e
  | quarterQuiesceTimeout => exact execQuarterQuiesceTimeout_kept _ (.refl s) t e
  | copyVoqEnter => exact execCopyVoqEnter_kept _ _ _ _ (.refl s) t e
  | lodeCellTime => exact execLodeCellTime_kept _ _ _ _ _ (.refl s) t e
  | lodeCellArrive => exact execLodeCellArrive_kept _ _ _ _ (.refl s) t e
  | reseqTimeout => exact execReseqTimeout_kept _ (.refl s) t e
  | planeDrained => exact execPlaneDrained_kept _ _ (.refl s) t e
  | lodeCfgWrite => exact execLodeCfgWrite_kept _ _ (.refl s) t e
  | egressCellsWrite => exact execEgressCellsWrite_kept _ _ _ (.refl s) t e
  | transmissionSelect => exact execTransmissionSelect_kept _ _ _ _ _ (.refl s) t e
  | transmitComplete => exact execTransmitComplete_kept _ _ (.refl s) t e
  | ctUnderrun => exact execCtUnderrun_kept _ _ _ (.refl s) t e
  | egressFifoUnderrun => exact execEgressFifoUnderrun_kept _ _ _ (.refl s) t e
  | linkDownTimeout => exact execLinkDownTimeout_kept _ _ (.refl s) t e
  | holdTimeout => exact execHoldTimeout_kept _ (.refl s) t e
  | gateEntryChange => exact execGateEntryChange_kept _ _ (.refl s) t e
  | setAndHoldAssert => exact execSetAndHoldAssert_kept _ _ (.refl s) t e
  | gclConfigChange => exact execGclConfigChange_kept _ _ (.refl s) t e
  | gclConfigStart => exact execGclConfigStart_kept _ _ (.refl s) t e
  | preemptVerifyDone => exact execPreemptVerifyDone_kept _ _ _ (.refl s) t e
  | sgConfigChange => exact execSgConfigChange_kept _ _ (.refl s) t e
  | sgEntryChange => exact execSgEntryChange_kept _ _ (.refl s) t e
  | authJobComplete => exact execAuthJobComplete_kept _ _ _ (.refl s) t e
  | loadClear => exact execLoadClear_kept _ (.refl s) t e
  | loadWrapped => exact execLoadWrapped_kept _ (.refl s) t e
  | keyErase => exact execKeyErase_kept _ (.refl s) t e
  | readPolicy => exact execReadPolicy_kept _ (.refl s) t e
  | keyCmdComplete => exact execKeyCmdComplete_kept _ (.refl s) t e
  | authHjTailWrite => exact execAuthHjTailWrite_kept _ _ (.refl s) t e
  | hjGmacGenerate => exact execHjGmacGenerate_kept _ _ _ (.refl s) t e
  | hjGmacVerify => exact execHjGmacVerify_kept _ _ _ (.refl s) t e
  | hjCmacGenerate => exact execHjCmacGenerate_kept _ _ _ (.refl s) t e
  | hjCmacVerify => exact execHjCmacVerify_kept _ _ _ (.refl s) t e
  | hjHmacGenerate => exact execHjHmacGenerate_kept _ _ _ (.refl s) t e
  | hjHmacVerify => exact execHjHmacVerify_kept _ _ _ (.refl s) t e
  | hjSave => exact execHjSave_kept _ _ _ (.refl s) t e
  | hjRestore => exact execHjRestore_kept _ _ _ (.refl s) t e
  | timeRateWrite => exact execTimeRateWrite_kept _ _ (.refl s) t e
  | timeSet => exact execTimeSet_kept _ _ (.refl s) t e
  | timeAdjust => exact execTimeAdjust_kept _ _ (.refl s) t e
  | timeSnapRead => exact execTimeSnapRead_kept _ (.refl s) t e
  | trefLost => exact execTrefLost_kept _ (.refl s) t e
  | trefRestored => exact execTrefRestored_kept _ _ (.refl s) t e
  | syncTimeout => exact execSyncTimeout_kept _ _ (.refl s) t e
  | servoTimeout => exact execServoTimeout_kept _ (.refl s) t e
  | residenceTimeout => exact execResidenceTimeout_kept _ (.refl s) t e
  | txtsPop => exact execTxtsPop_kept _ (.refl s) t e
  | ldelayMeasurement => exact execLdelayMeasurement_kept _ _ _ (.refl s) t e
  | toutArm => exact execToutArm_kept _ _ (.refl s) t e
  | toutDisarm => exact execToutDisarm_kept _ _ (.refl s) t e
  | toutEdge => exact execToutEdge_kept _ _ (.refl s) t e
  | tcapEdge => exact execTcapEdge_kept _ _ _ (.refl s) t e
  | tcapPop => exact execTcapPop_kept _ _ (.refl s) t e
  | ppsEdge => exact execPpsEdge_kept _ (.refl s) t e
  | ppsTimeout => exact execPpsTimeout_kept _ (.refl s) t e
  | batchBoundary => exact execBatchBoundary_kept _ (.refl s) t e
  | bootLoad => exact execBootLoad_kept _ (.refl s) t e
  | fullLoadHost => exact execFullLoadHost_kept _ (.refl s) t e
  | fullLoadFlash => exact execFullLoadFlash_kept _ (.refl s) t e
  | amendmentLoad => exact execAmendmentLoad_kept _ (.refl s) t e
  | restageOrphan => exact execRestageOrphan_kept _ (.refl s) t e
  | discardAmendment => exact execDiscardAmendment_kept _ (.refl s) t e
  | firstPassComplete => exact execFirstPassComplete_kept _ _ _ (.refl s) t e
  | installComplete => exact execInstallComplete_kept _ _ (.refl s) t e
  | billFetchError => exact execBillFetchError_kept _ (.refl s) t e
  | calibrationPeriodEnd => exact execCalibrationPeriodEnd_kept _ _ (.refl s) t e
  | probeOffsetStep => exact execProbeOffsetStep_kept _ _ (.refl s) t e
  | delayCodeApply => exact execDelayCodeApply_kept _ _ (.refl s) t e
  | handshakeReplay => exact execHandshakeReplay_kept _ _ (.refl s) t e
  | forcedRecalStart => exact execForcedRecalStart_kept _ _ (.refl s) t e
  | forcedRecalComplete => exact execForcedRecalComplete_kept _ _ (.refl s) t e
  | linkUp => exact execLinkUp_kept _ _ (.refl s) t e
  | negotiationComplete => exact execNegotiationComplete_kept _ _ _ (.refl s) t e
  | linkDown => exact execLinkDown_kept _ _ _ _ _ (.refl s) t e
  | remoteFaultReceived => exact execRemoteFaultReceived_kept _ _ _ (.refl s) t e
  | highBer => exact execHighBer_kept _ _ (.refl s) t e
  | sgmiiSpeedChange => exact execSgmiiSpeedChange_kept _ _ _ _ (.refl s) t e
  | quadRefclkLost => exact execQuadRefclkLost_kept _ _ (.refl s) t e
  | anRestart => exact execAnRestart_kept _ _ (.refl s) t e
  | laneCtrlWrite => exact execLaneCtrlWrite_kept _ _ _ _ (.refl s) t e
  | eqAdaptStep => exact execEqAdaptStep_kept _ _ _ (.refl s) t e
  | eyeMeasure => exact execEyeMeasure_kept _ _ _ _ (.refl s) t e
  | mdioAddress => exact execMdioAddress_kept _ _ _ (.refl s) t e
  | mdioWrite => exact execMdioWrite_kept _ _ _ (.refl s) t e
  | mdioRead => exact execMdioRead_kept _ _ _ (.refl s) t e
  | mdioReadInc => exact execMdioReadInc_kept _ _ _ (.refl s) t e
  | mdioComplete => exact execMdioComplete_kept _ _ _ (.refl s) t e
  | i2cRead => exact execI2cRead_kept _ _ _ (.refl s) t e
  | i2cWrite => exact execI2cWrite_kept _ _ _ (.refl s) t e
  | i2cComplete => exact execI2cComplete_kept _ _ _ _ (.refl s) t e
  | i2cTimeout => exact execI2cTimeout_kept _ _ (.refl s) t e
  | counterLowRead => exact execCounterLowRead_kept _ _ _ (.refl s) t e
  | gristClselWrite => exact execGristClselWrite_kept _ _ _ (.refl s) t e
  | windowCas => exact execWindowCas_kept _ _ _ _ (.refl s) t e
  | windowWrite => exact execWindowWrite_kept _ _ _ (.refl s) t e
  | caskWindowLock => exact execCaskWindowLock_kept _ _ _ _ (.refl s) t e
  | caskWindowRead => exact execCaskWindowRead_kept _ _ _ _ (.refl s) t e
  | lockHoldLimitExpiry => exact execLockHoldLimitExpiry_kept _ (.refl s) t e
  | fwdLockTimeout => exact execFwdLockTimeout_kept _ (.refl s) t e
  | fwdParityScan => exact execFwdParityScan_kept _ _ _ _ (.refl s) t e
  | insWindowClose => exact execInsWindowClose_kept _ _ (.refl s) t e
  | fdbRehashStart => exact execFdbRehashStart_kept _ (.refl s) t e
  | fdbRehashComplete => exact execFdbRehashComplete_kept _ (.refl s) t e
  | fdbAgeScan => exact execFdbAgeScan_kept _ _ (.refl s) t e
  | lpmRouteEntered => exact execLpmRouteEntered_kept _ (.refl s) t e
  | learnReannounce => exact execLearnReannounce_kept _ _ (.refl s) t e
  | fwdTblRead => exact execFwdTblRead_kept _ _ (.refl s) t e
  | fwdTblWrite => exact execFwdTblWrite_kept _ _ (.refl s) t e
  | fwdTblInsert => exact execFwdTblInsert_kept _ _ (.refl s) t e
  | fwdTblDelete => exact execFwdTblDelete_kept _ _ (.refl s) t e
  | fwdTblSearch => exact execFwdTblSearch_kept _ _ (.refl s) t e
  | fwdTblCmdComplete => exact execFwdTblCmdComplete_kept _ _ (.refl s) t e
  | lauterRead => exact execLauterRead_kept _ (.refl s) t e
  | lauterWrite => exact execLauterWrite_kept _ (.refl s) t e
  | lauterInsert => exact execLauterInsert_kept _ (.refl s) t e
  | lauterDelete => exact execLauterDelete_kept _ (.refl s) t e
  | lauterSearch => exact execLauterSearch_kept _ (.refl s) t e
  | lauterStep => exact execLauterStep_kept _ (.refl s) t e
  | lauterEntryMove => exact execLauterEntryMove_kept _ _ (.refl s) t e
  | lauterInsertComplete => exact execLauterInsertComplete_kept _ (.refl s) t e
  | lauterStepComplete => exact execLauterStepComplete_kept _ (.refl s) t e
  | lauterLockTimeout => exact execLauterLockTimeout_kept _ (.refl s) t e
  | lauterParityScan => exact execLauterParityScan_kept _ _ _ (.refl s) t e
  | caskCmdRead => exact execCaskCmdRead_kept _ (.refl s) t e
  | caskCmdWrite => exact execCaskCmdWrite_kept _ (.refl s) t e
  | caskCmdInsert => exact execCaskCmdInsert_kept _ (.refl s) t e
  | caskCmdDelete => exact execCaskCmdDelete_kept _ (.refl s) t e
  | caskCmdSearch => exact execCaskCmdSearch_kept _ (.refl s) t e
  | caskCmdPin => exact execCaskCmdPin_kept _ (.refl s) t e
  | caskCmdUnpin => exact execCaskCmdUnpin_kept _ (.refl s) t e
  | caskCmdFlush => exact execCaskCmdFlush_kept _ (.refl s) t e
  | caskCmdRepack => exact execCaskCmdRepack_kept _ (.refl s) t e
  | caskCmdReadRow => exact execCaskCmdReadRow_kept _ (.refl s) t e
  | caskCmdComplete => exact execCaskCmdComplete_kept _ (.refl s) t e
  | dramCommandSlot => exact execDramCommandSlot_kept _ _ _ (.refl s) t e
  | rowHoldTimeout => exact execRowHoldTimeout_kept _ _ _ (.refl s) t e
  | hintExpiry => exact execHintExpiry_kept _ _ _ (.refl s) t e
  | refreshDue => exact execRefreshDue_kept _ _ _ (.refl s) t e
  | mr4Poll => exact execMr4Poll_kept _ _ _ _ (.refl s) t e
  | catchupComplete => exact execCatchupComplete_kept _ _ _ (.refl s) t e
  | nrReseed => exact execNrReseed_kept _ _ (.refl s) t e
  | deepCorrWindow => exact execDeepCorrWindow_kept _ _ (.refl s) t e
  | dqsOscRead => exact execDqsOscRead_kept _ _ _ _ _ (.refl s) t e
  | probeWindowEnd => exact execProbeWindowEnd_kept _ _ (.refl s) t e
  | zqStart => exact execZqStart_kept _ _ _ (.refl s) t e
  | zqLatch => exact execZqLatch_kept _ _ _ (.refl s) t e
  | deepRetrain => exact execDeepRetrain_kept _ _ _ (.refl s) t e
  | deepZqNow => exact execDeepZqNow_kept _ _ _ (.refl s) t e
  | deepReadMr => exact execDeepReadMr_kept _ _ _ _ (.refl s) t e
  | retrainComplete => exact execRetrainComplete_kept _ _ _ (.refl s) t e
  | initialTrainingComplete => exact execInitialTrainingComplete_kept _ _ _ _ _ (.refl s) t e
  | srQueuesEmpty => exact execSrQueuesEmpty_kept _ _ (.refl s) t e
  | srPrechargeComplete => exact execSrPrechargeComplete_kept _ _ (.refl s) t e
  | srExitComplete => exact execSrExitComplete_kept _ _ (.refl s) t e
  | deltaRx => exact execDeltaRx_kept _ _ _ _ (.refl s) t e
  | copyRx => exact execCopyRx_kept _ _ _ _ (.refl s) t e
  | sealRx => exact execSealRx_kept _ _ _ (.refl s) t e
  | sealCheck => exact execSealCheck_kept _ (.refl s) t e
  | sealAckRx => exact execSealAckRx_kept _ _ _ (.refl s) t e
  | heartbeatRx => exact execHeartbeatRx_kept _ _ _ (.refl s) t e
  | helloRx => exact execHelloRx_kept _ _ _ (.refl s) t e
  | joinStartRx => exact execJoinStartRx_kept _ _ _ (.refl s) t e
  | joinRefuseRx => exact execJoinRefuseRx_kept _ _ _ (.refl s) t e
  | copyDoneRx => exact execCopyDoneRx_kept _ _ _ (.refl s) t e
  | detachRx => exact execDetachRx_kept _ _ _ (.refl s) t e
  | amendDataRx => exact execAmendDataRx_kept _ _ _ (.refl s) t e
  | amendResultRx => exact execAmendResultRx_kept _ _ _ (.refl s) t e
  | promotedRx => exact execPromotedRx_kept _ _ _ (.refl s) t e
  | twinFrameTransmit => exact execTwinFrameTransmit_kept _ _ _ (.refl s) t e
  | twinGapTimeout => exact execTwinGapTimeout_kept _ (.refl s) t e
  | imageDrain => exact execImageDrain_kept _ (.refl s) t e
  | heartbeatSend => exact execHeartbeatSend_kept _ (.refl s) t e
  | heartbeatMiss => exact execHeartbeatMiss_kept _ (.refl s) t e
  | twinLead => exact execTwinLead_kept _ (.refl s) t e
  | twinFollow => exact execTwinFollow_kept _ (.refl s) t e
  | twinPromote => exact execTwinPromote_kept _ _ _ _ (.refl s) t e
  | twinAlone => exact execTwinAlone_kept _ (.refl s) t e
  | twinStop => exact execTwinStop_kept _ (.refl s) t e
  | twinAdmit => exact execTwinAdmit_kept _ (.refl s) t e
  | twinUnfence => exact execTwinUnfence_kept _ (.refl s) t e
  | fenceWaitExpiry => exact execFenceWaitExpiry_kept _ (.refl s) t e
  | twFenceInChange => exact execTwFenceInChange_kept _ _ _ (.refl s) t e
  | joinAdmitTimeout => exact execJoinAdmitTimeout_kept _ (.refl s) t e
  | copyCursorStep => exact execCopyCursorStep_kept _ (.refl s) t e
  | twinLaneUp => exact execTwinLaneUp_kept _ _ (.refl s) t e
  | twinLaneDown => exact execTwinLaneDown_kept _ _ (.refl s) t e
  | twinEyeMeasure => exact execTwinEyeMeasure_kept _ _ _ _ _ (.refl s) t e
  | fenLearnRx => exact execFenLearnRx_kept _ _ _ (.refl s) t e
  | fenHeartbeatRx => exact execFenHeartbeatRx_kept _ _ _ (.refl s) t e
  | fenResyncReqRx => exact execFenResyncReqRx_kept _ _ _ (.refl s) t e
  | fenDigestRx => exact execFenDigestRx_kept _ _ _ (.refl s) t e
  | fenLearnSend => exact execFenLearnSend_kept _ (.refl s) t e
  | fenDigestSend => exact execFenDigestSend_kept _ (.refl s) t e
  | fenHeartbeatSend => exact execFenHeartbeatSend_kept _ (.refl s) t e
  | fenMemberLapse => exact execFenMemberLapse_kept _ (.refl s) t e
  | fenResync => exact execFenResync_kept _ (.refl s) t e
  | fenMemberCfgWrite => exact execFenMemberCfgWrite_kept _ _ _ (.refl s) t e
  | tickClose => exact execTickClose_kept _ _ (.refl s) t e
  | eventRecordWrite => exact execEventRecordWrite_kept _ (.refl s) t e
  | eventRingHeadWrite => exact execEventRingHeadWrite_kept _ _ (.refl s) t e
  | eventCfgWrite => exact execEventCfgWrite_kept _ _ (.refl s) t e
  | eventRouteWrite => exact execEventRouteWrite_kept _ _ _ (.refl s) t e
  | eventSoftWrite => exact execEventSoftWrite_kept _ _ (.refl s) t e
  | vectorHoldoffExpiry => exact execVectorHoldoffExpiry_kept _ _ (.refl s) t e
  | perfSnap => exact execPerfSnap_kept _ (.refl s) t e
  | perfClearAll => exact execPerfClearAll_kept _ (.refl s) t e
  | perfCntValueWrite => exact execPerfCntValueWrite_kept _ _ _ (.refl s) t e
  | perfCntCtlWrite => exact execPerfCntCtlWrite_kept _ _ _ (.refl s) t e
  | bwWindowEnd => exact execBwWindowEnd_kept _ (.refl s) t e
  | perfBwWindowWrite => exact execPerfBwWindowWrite_kept _ _ (.refl s) t e
  | sampleRecordWrite => exact execSampleRecordWrite_kept _ (.refl s) t e
  | hummockIdleExpiry => exact execHummockIdleExpiry_kept _ _ (.refl s) t e
  | powerSleep => exact execPowerSleep_kept _ _ (.refl s) t e
  | powerWake => exact execPowerWake_kept _ _ (.refl s) t e
  | powerSelftest => exact execPowerSelftest_kept _ _ (.refl s) t e
  | prepareVote => exact execPrepareVote_kept _ _ (.refl s) t e
  | prepareLimitExpiry => exact execPrepareLimitExpiry_kept _ _ (.refl s) t e
  | rollbackResumeAck => exact execRollbackResumeAck_kept _ _ (.refl s) t e
  | powerGated => exact execPowerGated_kept _ _ (.refl s) t e
  | wakeComplete => exact execWakeComplete_kept _ _ (.refl s) t e
  | selftestComplete => exact execSelftestComplete_kept _ _ _ (.refl s) t e
  | fenWatchWindow => exact execFenWatchWindow_kept _ _ _ (.refl s) t e
  | registerWrite => exact execRegisterWrite_kept _ _ _ _ _ _ (.refl s) t e
  | atomicopUnsupported => exact execAtomicopUnsupported_kept _ _ _ (.refl s) t e
  | hostAccStatusRead => exact execHostAccStatusRead_kept _ (.refl s) t e
  | ringEnable => exact execRingEnable_kept _ _ _ (.refl s) t e
  | txRingTail => exact execTxRingTail_kept _ _ _ (.refl s) t e
  | txDescriptor => exact execTxDescriptor_kept _ _ _ (.refl s) t e
  | txFrameConsumed => exact execTxFrameConsumed_kept _ _ _ (.refl s) t e
  | rxRingTail => exact execRxRingTail_kept _ _ _ (.refl s) t e
  | rxFrameDeliver => exact execRxFrameDeliver_kept _ _ _ (.refl s) t e
  | cqTail => exact execCqTail_kept _ _ _ (.refl s) t e
  | cqWrite => exact execCqWrite_kept _ _ _ (.refl s) t e
  | cqRead => exact execCqRead_kept _ _ _ (.refl s) t e
  | cqWait => exact execCqWait_kept _ _ _ (.refl s) t e
  | cqWaitPoll => exact execCqWaitPoll_kept _ _ (.refl s) t e
  | pcieLinkDown => exact execPcieLinkDown_kept _ (.refl s) t e
  | pcieLinkUp => exact execPcieLinkUp_kept _ _ _ (.refl s) t e
  | functionLevelReset => exact execFunctionLevelReset_kept _ (.refl s) t e
  | dmaReadError => exact execDmaReadError_kept _ _ _ (.refl s) t e
  | powerOnReset => exact execPowerOnReset_kept _ (.refl s) t e
  | chipReset => exact execChipReset_kept _ _ _ (.refl s) t e
  | pcieFundamentalReset => exact execPcieFundamentalReset_kept _ (.refl s) t e
  | jtagReset => exact execJtagReset_kept _ (.refl s) t e
  | resetRelease => exact execResetRelease_kept _ _ _ _ (.refl s) t e
  | fuseProg => exact execFuseProg_kept _ _ _ _ (.refl s) t e
  | fuseStatus => exact execFuseStatus_kept _ (.refl s) t e
  | fuseProgramComplete => exact execFuseProgramComplete_kept _ (.refl s) t e
  | tjSample => exact execTjSample_kept _ _ (.refl s) t e
  | registerRead => exact execRegisterRead_kept _ _ _ _ (.refl s) t e
  | quadRefclkRestored => exact execQuadRefclkRestored_kept _ _ (.refl s) t e

theorem regsOk_exec {i : Instr} {s t : State} (hs : s.regsOk = true) (e : exec i s = .next t) : t.regsOk = true :=
  (exec_kept e).regs hs

/-- Settles O4: a step is a command on the state with the queue's rest, which leaves the registers as they are, or one cycle of
the clock; both keep what `Kept` lists. -/
theorem stepKeepsRegisterFile : Obligations.StepKeepsRegisterFile := by
  unfold Obligations.StepKeepsRegisterFile
  intro s t hs e
  rw [step] at e
  split at e
  case h_1 c rest _ => exact regsOk_exec (s := { s with pending := rest }) hs e
  case h_2 =>
    obtain rfl := Host.Outcome.next.inj e
    exact (timeCycle_kept s (.refl s)).regs hs

/-! ### Register writes -/

/-- Bit i after a write of v over `old`: a bit of a reserved value is not put, whatever the row lists (R10, R11). -/
theorem bitOf_regMerge_reserved (r : RegRow) (old v : W64) {i : Nat} (hi : i < 64) :
    bitOf (regMerge r old v) i =
      (((if (r.rw.testBit i || r.wo.testBit i) && !bitOf (reservedBits r v) i then bitOf v i else bitOf old i) ||
        (bitOf v i && r.w1s.testBit i)) && !(bitOf v i && r.w1c.testBit i)) := by
  rw [← Bool.cond_eq_ite]
  simp only [regMerge, bitOf, BitVec.getLsbD_or, BitVec.getLsbD_and, BitVec.getLsbD_not, BitVec.getLsbD_ofNat, hi,
    decide_true, Bool.true_and]
  cases (r.rw.testBit i || r.wo.testBit i) && !(reservedBits r v).getLsbD i <;> simp

/-- A write that names a reserved value, of a register of the map (R11). -/
theorem regWrite_row_reserved {s : State} {a : Nat} {v : W64} {r : RegRow} (hf : findRow a = some r) (h : reservedBits r v ≠ 0) :
    regWrite s a v = wr (accReport s 1 0 true a) a (regMerge r (rd (accReport s 1 0 true a) a) v) := by
  rw [regWrite, hf]; simp only [if_neg h]

/-- The code of a first access that is reported (R510). -/
theorem rf_accReport_code {s : State} {code : Nat} (bar : Nat) (write : Bool) (addr : Nat) (hc : code < 16)
    (hp : s.host.probe = none) (h0 : rf s Reg.HOST_ACC_STATUS 3 0 = 0) :
    rf (accReport s code bar write addr) Reg.HOST_ACC_STATUS 3 0 = code := by
  obtain ⟨-, status, -⟩ := accReport_first code bar write addr hp h0
  rw [rdn] at status
  rw [rf, fld, status, natFld]
  omega

/-- A write that names no reserved value stores the merge and changes nothing else. -/
theorem regWrite_only {s : State} {a : Nat} {v : W64} {r : RegRow} (hf : findRow a = some r) (h : reservedBits r v = 0) :
    rd (regWrite s a v) a = regMerge r (rd s a) v ∧ Only s (regWrite s a v) [a] [] [] := by
  rw [regWrite_row hf h]
  exact ⟨rd_wr_same .., .wr _ ((Only.refl s).mono (by simp)) (by simp)⟩

/-- A write that names a reserved value stores the merge and is reported with code 1, here as the first access since
HOST_ACC_STATUS was read (R510). -/
theorem regWrite_reserved {s : State} {a : Nat} {v : W64} {r : RegRow} (hf : findRow a = some r) (h : reservedBits r v ≠ 0)
    (hp : s.host.probe = none) (h0 : rf s Reg.HOST_ACC_STATUS 3 0 = 0) (hs : a ≠ Reg.HOST_ACC_STATUS) (ha : a ≠ Reg.HOST_ACC_ADDR) :
    rd (regWrite s a v) a = regMerge r (rd s a) v ∧ rf (regWrite s a v) Reg.HOST_ACC_STATUS 3 0 = 1 ∧
      rdn (regWrite s a v) Reg.HOST_ACC_ADDR = a % 2 ^ 64 ∧
      Only s (regWrite s a v) [a, Reg.HOST_ACC_STATUS, Reg.HOST_ACC_ADDR] [(0xFC8, 0, pack2 1 0)] [] := by
  obtain ⟨only, -, addr⟩ := accReport_first 1 0 true a hp h0
  have code : rf (accReport s 1 0 true a) Reg.HOST_ACC_STATUS 3 0 = 1 := rf_accReport_code 0 true a (by decide) hp h0
  have old : rd (accReport s 1 0 true a) a = rd s a := only.regs a (by simp [hs, ha])
  rw [regWrite_row_reserved hf h, old]
  refine ⟨rd_wr_same .., ?_, ?_, .wr _ (only.mono (by simp)) (by simp)⟩
  · rw [rf, rd_wr_ne _ hs.symm, ← rf, code]
  · rw [rdn, rd_wr_ne _ ha.symm, ← rdn, addr]

/-- Settles O6: the merge bit by bit, and `regWrite` by whether the value names a reserved one. -/
theorem registerFieldsMerge : Obligations.RegisterFieldsMerge := by
  unfold Obligations.RegisterFieldsMerge
  exact ⟨fun r old v _ hi => bitOf_regMerge_reserved r old v hi,
    fun _ _ _ _ hf => ⟨regWrite_only hf, regWrite_reserved hf⟩⟩

/-! ### Reset -/

/-- After power-on the one register off its reset value is the cause of the reset (R536). -/
theorem regsOk_reset : State.reset.regsOk = true := by decide

/-- No fuse field is programmed (R539). -/
theorem fusesOk_reset : State.reset.fusesOk = true := by decide

/-- Settles O3: the identity registers are not listed and read as their rows say (R2). -/
theorem resetInvariant : Obligations.ResetInvariant := by
  unfold Obligations.ResetInvariant
  exact ⟨regsOk_reset, fusesOk_reset, rfl, by decide⟩

end Sys2Proof.Machine
end

section
/-! SUPPORT. The self-timed core (03_selftimed_core.md): what a probe step, a calibration period, a code change, a replay and a
forced recalibration do to the regions and their registers, and the statements about them settled with this. -/
namespace Sys2Proof.Machine

/-! ### One region after another -/

/-- What no step of a fold changes, the fold does not change. -/
theorem foldl_view {σ ι α : Type} (view : σ → α) {f : σ → ι → σ} :
    ∀ (l : List ι) (s : σ), (∀ i ∈ l, ∀ u, view (f u i) = view u) → view (l.foldl f s) = view s
  | [], _, _ => rfl
  | i :: l, s, h => by
    rw [List.foldl_cons, foldl_view view l _ fun j hj => h j (List.mem_cons_of_mem _ hj), h i List.mem_cons_self]

/-- A fold over units, where only unit n's own step changes what `view` shows: it shows what that step leaves. -/
theorem foldl_range_view {σ α : Type} (view : σ → α) {f : σ → Nat → σ} {n : Nat}
    (h : ∀ m ≠ n, ∀ u, view (f u m) = view u) :
    ∀ {k : Nat}, n < k → ∀ s, ∃ u, view u = view s ∧ view ((List.range k).foldl f s) = view (f u n)
  | k + 1, hn, s => by
    rw [List.range_succ, List.foldl_concat]
    rcases Nat.lt_succ_iff_lt_or_eq.mp hn with lt | rfl
    · obtain ⟨u, hu, after⟩ := foldl_range_view view h lt s
      exact ⟨u, hu, by rw [h k (Nat.ne_of_gt lt), after]⟩
    · exact ⟨_, foldl_view view _ s fun i hi => h i (Nat.ne_of_lt (List.mem_range.mp hi)), rfl⟩

/-! ### The state of a region -/

@[simp] theorem regionOf_regionPut (s : State) (n m : Nat) (r : Region) :
    regionOf (regionPut s n r) m = if n = m then r else regionOf s m := tabGet_tabPut ..

theorem regionOf_regionPut_ne {s : State} {n m : Nat} (r : Region) (h : m ≠ n) : regionOf (regionPut s n r) m = regionOf s m := by
  rw [regionOf_regionPut, if_neg h.symm]

@[simp] theorem regionOf_wf (s : State) (a hi lo v n : Nat) : regionOf (wf s a hi lo v) n = regionOf s n := rfl
@[simp] theorem regionOf_cnt (s : State) (a v n : Nat) : regionOf (cnt s a v) n = regionOf s n := rfl
@[simp] theorem regionOf_raise (s : State) (e d0 d1 n : Nat) : regionOf (raise s e d0 d1) n = regionOf s n := rfl

/-! ### What a period's end in a region leaves as it was -/

/-- The registers that the end of a calibration period in region n may write. -/
def periodRegs (n : Nat) : List Nat :=
  [Reg.CORE_REGn_STATUS n, Reg.CORE_REGn_HANDSHAKES n, Reg.CORE_REGn_THROUGHPUT n, Reg.CORE_SLACKd 0, Reg.CORE_RECAL_STATUS]

/-- Of the regions' states and the registers, t differs from s only in what belongs to a period's end in region n. -/
structure PeriodOnly (n : Nat) (s t : State) : Prop where
  regions : ∀ m, m ≠ n → regionOf t m = regionOf s m
  regs : ∀ a, a ∉ periodRegs n → rd t a = rd s a

theorem PeriodOnly.refl (n : Nat) (s : State) : PeriodOnly n s s := ⟨fun _ _ => rfl, fun _ _ => rfl⟩

theorem PeriodOnly.trans {n : Nat} {s t u : State} (h : PeriodOnly n s t) (k : PeriodOnly n t u) : PeriodOnly n s u :=
  ⟨fun m hm => (k.regions m hm).trans (h.regions m hm), fun a ha => (k.regs a ha).trans (h.regs a ha)⟩

theorem PeriodOnly.wr {n : Nat} {s t : State} (h : PeriodOnly n s t) {a : Nat} (ha : a ∈ periodRegs n) (v : W64) :
    PeriodOnly n s (wr t a v) :=
  h.trans ⟨fun _ _ => rfl, fun _ hb => rd_wr_ne v fun e => hb (e ▸ ha)⟩

theorem PeriodOnly.raise {n : Nat} {s t : State} (h : PeriodOnly n s t) (e d0 d1 : Nat) : PeriodOnly n s (raise t e d0 d1) :=
  ⟨h.regions, h.regs⟩

theorem PeriodOnly.put {n : Nat} {s t : State} (h : PeriodOnly n s t) (r : Region) : PeriodOnly n s (regionPut t n r) :=
  h.trans ⟨fun _ hm => regionOf_regionPut_ne r hm, fun _ _ => rfl⟩

theorem status_mem_periodRegs (n : Nat) : Reg.CORE_REGn_STATUS n ∈ periodRegs n := List.mem_cons_self

/-- The STATUS of one region is not among what the period's end in another may write. -/
theorem notMem_periodRegs_status {n m : Nat} (h : n ≠ m) : Reg.CORE_REGn_STATUS n ∉ periodRegs m := by
  simp only [periodRegs, List.mem_cons, List.not_mem_nil, or_false, Reg.CORE_REGn_STATUS,
    Reg.CORE_REGn_HANDSHAKES, Reg.CORE_REGn_THROUGHPUT, Reg.CORE_SLACKd, Reg.CORE_RECAL_STATUS]
  omega

/-- Nor are the registers below the slack monitor's, CORE_RECAL_STATUS apart: the limits of all regions and CORE_PERIODS. -/
theorem notMem_periodRegs_of_lt {a : Nat} (n : Nat) (h : a < Reg.CORE_SLACKd 0) (hr : a ≠ Reg.CORE_RECAL_STATUS) :
    a ∉ periodRegs n := by
  simp only [periodRegs, List.mem_cons, List.not_mem_nil, or_false, Reg.CORE_REGn_STATUS,
    Reg.CORE_REGn_HANDSHAKES, Reg.CORE_REGn_THROUGHPUT, Reg.CORE_SLACKd, Reg.CORE_RECAL_STATUS] at h hr ⊢
  omega

/-! ### What the slack monitor and the recalibrator leave as they were -/

/-- The slack monitor writes its register of the domain and raises an event or none. -/
theorem slackLook_cases (s : State) (d : Nat) :
    ∃ v, slackLook s d = wrn s (Reg.CORE_SLACKd d) v ∨
      ∃ e d0 d1, slackLook s d = raise (wrn s (Reg.CORE_SLACKd d) v) e d0 d1 := by
  unfold slackLook
  extract_lets us
  split
  · exact ⟨_, .inl rfl⟩
  · extract_lets below
    split
    · exact ⟨_, .inr ⟨_, _, _, rfl⟩⟩
    · exact ⟨_, .inl rfl⟩

theorem slackLook_core (s : State) (d : Nat) : (slackLook s d).core = s.core := by
  obtain ⟨v, h | ⟨e, d0, d1, h⟩⟩ := slackLook_cases s d
  · rw [h, wrn_core]
  · rw [h, raise_core, wrn_core]

theorem rd_slackLook {s : State} {d a : Nat} (ha : a ≠ Reg.CORE_SLACKd d) : rd (slackLook s d) a = rd s a := by
  obtain ⟨v, h | ⟨e, d0, d1, h⟩⟩ := slackLook_cases s d
  · rw [h, rd_wrn_ne _ ha]
  · rw [h, rd_raise, rd_wrn_ne _ ha]

theorem regionOf_slackReport (s : State) (d unit margin threshold n : Nat) :
    regionOf (slackReport s d unit margin threshold) n = regionOf s n := by
  rw [slackReport, regionOf, slackLook_core, regionOf]

theorem rd_slackReport {s : State} {d a : Nat} (unit margin threshold : Nat) (ha : a ≠ Reg.CORE_SLACKd d) :
    rd (slackReport s d unit margin threshold) a = rd s a := by
  rw [slackReport, rd_slackLook ha, rd_with]

theorem regionOf_recalStart (s : State) (n : Nat) (out : Bool) (m : Nat) : regionOf (recalStart s n out) m = regionOf s m := by
  unfold recalStart
  extract_lets result u v
  split <;> rfl

theorem rd_recalStart {s : State} {a : Nat} (n : Nat) (out : Bool) (ha : a ≠ Reg.CORE_RECAL_STATUS) :
    rd (recalStart s n out) a = rd s a := by
  unfold recalStart
  extract_lets result u v
  split
  · rw [rd_wf_ne _ _ _ ha, rd_wf_ne _ _ _ ha]
    exact rd_wf_ne _ _ _ ha
  · exact rd_wf_ne _ _ _ ha

theorem PeriodOnly.slackReport {n : Nat} {s t : State} (h : PeriodOnly n s t) (unit margin threshold : Nat) :
    PeriodOnly n s (slackReport t 0 unit margin threshold) :=
  h.trans ⟨fun _ _ => regionOf_slackReport .., fun _ ha => rd_slackReport _ _ _ fun e => ha (by simp [periodRegs, e])⟩

theorem PeriodOnly.recalStart {n : Nat} {s t : State} (h : PeriodOnly n s t) (m : Nat) (out : Bool) :
    PeriodOnly n s (recalStart t m out) :=
  h.trans ⟨fun _ _ => regionOf_recalStart .., fun _ ha => rd_recalStart _ _ fun e => ha (by simp [periodRegs, e])⟩

/-! ### The stages of a period's end in an awake region, in the order of `regionPeriodEnd` -/

/-- The region's measured handshakes and throughput, which HEADROOM looks at (R71). -/
def periodMeasured (readings : List (Nat × Nat × Nat)) (s : State) (n : Nat) : State :=
  match readings.find? (fun e => e.1 == n) with
  | some (_, hs, tp) => wf (wrn s (Reg.CORE_REGn_HANDSHAKES n) hs) (Reg.CORE_REGn_THROUGHPUT n) 11 0 tp
  | none => wrn s (Reg.CORE_REGn_HANDSHAKES n) 0

/-- Event 0x022 for more replays in the period than CORE_REPLAY_LIMIT (R74). -/
def periodReplays (s : State) (n : Nat) (r : Region) : State :=
  if rdn s Reg.CORE_REPLAY_LIMIT < r.replays then raise s 0x022 n r.replays else s

/-- A region as the next period finds it. -/
def periodFresh (r : Region) : Region := { r with counts := [], replays := 0, guardLeft := r.guardLeft - 1 }

/-- A low margin at code 63 raises 0x020, its recovery 0x021 (R68). -/
def periodAlarm (s : State) (n code m : Nat) : State :=
  let st := Reg.CORE_REGn_STATUS n
  let low := m < rf s Reg.CORE_CFG 7 4
  if code = 63 ∧ low then (if rb s st 16 then s else raise (wf s st 16 16 1) 0x020 n m)
  else if rb s st 16 && !low then raise (wf s st 16 16 0) 0x021 n (pack2 code m)
  else s

/-- The margin shown, and STALE clear. -/
def periodMargins (s : State) (n m : Nat) : State :=
  wf (wf s (Reg.CORE_REGn_STATUS n) 11 8 m) (Reg.CORE_REGn_STATUS n) 17 17 0

/-- A valid measurement: its margin is shown and asks for a code (R62). -/
def periodMoved (s : State) (n : Nat) (r : Region) : State :=
  let m := periodMargin r.counts
  let code := rf s (Reg.CORE_REGn_STATUS n) 5 0
  let code' := nextCodeOf (periodMargins s n m) code m
  let u := regionPut (periodAlarm (periodMargins s n m) n code m) n { periodFresh r with
    staleRun := 0, minMargin := some (min m (r.minMargin.getD 15)), nextCode := if code' = code then r.nextCode else some code' }
  slackReport u 0 n m (rf u Reg.CORE_CFG 7 4)

/-- An invalid measurement: STALE (R62), and event 0x026 after 16 of them (R74). -/
def periodStale (s : State) (n : Nat) (r : Region) : State :=
  let u := regionPut (wf s (Reg.CORE_REGn_STATUS n) 17 17 1) n { periodFresh r with staleRun := r.staleRun + 1 }
  if r.staleRun + 1 = 16 ∧ ¬ 0 < r.guardLeft then raise u 0x026 n (rdn u (Reg.CORE_REGn_HANDSHAKES n)) else u

/-- The measurement is judged, but for the first period after a wake (R66). -/
def periodJudged (s : State) (n : Nat) (r : Region) : State :=
  if r.guardLeft = 3 then regionPut s n (periodFresh r)
  else if periodValid r then periodMoved s n r
  else periodStale s n r

/-- WAKE_GUARD ends (R66), and too many replays start a recalibration where ORDER asks for it (R72). -/
def periodClosed (s : State) (n : Nat) (r : Region) (limit : Nat) : State :=
  let u := if r.guardLeft = 1 then wf s (Reg.CORE_REGn_STATUS n) 19 19 0 else s
  if limit < r.replays ∧ rb u Reg.CORE_ORDER 0 then recalStart u n (otherPlaneOut u n) else u

theorem regionPeriodEnd_asleep {s : State} {n : Nat} (readings : List (Nat × Nat × Nat)) (h : regionAsleep s n = true) :
    regionPeriodEnd readings s n = regionPut s n { regionOf s n with counts := [], replays := 0 } := by
  rw [regionPeriodEnd, if_pos h]

theorem regionPeriodEnd_awake {s : State} {n : Nat} (readings : List (Nat × Nat × Nat)) (h : regionAsleep s n = false) :
    regionPeriodEnd readings s n =
      let u := periodMeasured readings s n
      periodClosed (periodJudged (periodReplays u n (regionOf s n)) n (regionOf s n)) n (regionOf s n)
        (rdn u Reg.CORE_REPLAY_LIMIT) := by
  rw [regionPeriodEnd, if_neg (by simp [h])]
  rfl

/-! ### What each stage leaves as it was -/

theorem periodMeasured_only (readings : List (Nat × Nat × Nat)) (s : State) (n : Nat) :
    PeriodOnly n s (periodMeasured readings s n) := by
  rw [periodMeasured]
  split
  · exact ((PeriodOnly.refl n s).wr (by simp [periodRegs]) _).wr (by simp [periodRegs]) _
  · exact (PeriodOnly.refl n s).wr (by simp [periodRegs]) _

theorem periodReplays_only (s : State) (n : Nat) (r : Region) : PeriodOnly n s (periodReplays s n r) := by
  rw [periodReplays]
  split
  · exact (PeriodOnly.refl n s).raise _ _ _
  · exact .refl n s

theorem periodMargins_only (s : State) (n m : Nat) : PeriodOnly n s (periodMargins s n m) :=
  ((PeriodOnly.refl n s).wr (status_mem_periodRegs n) _).wr (status_mem_periodRegs n) _

theorem periodAlarm_only (s : State) (n code m : Nat) : PeriodOnly n s (periodAlarm s n code m) := by
  unfold periodAlarm
  extract_lets st low
  have h (v : Nat) : PeriodOnly n s (wf s st 16 16 v) := (PeriodOnly.refl n s).wr (status_mem_periodRegs n) _
  split
  · split
    · exact .refl n s
    · exact (h 1).raise _ _ _
  · split
    · exact (h 0).raise _ _ _
    · exact .refl n s

theorem periodMoved_only (s : State) (n : Nat) (r : Region) : PeriodOnly n s (periodMoved s n r) :=
  (((periodMargins_only s n _).trans (periodAlarm_only _ n _ _)).put _).slackReport _ _ _

theorem periodStale_only (s : State) (n : Nat) (r : Region) : PeriodOnly n s (periodStale s n r) := by
  unfold periodStale
  extract_lets next u
  have h : PeriodOnly n s u := ((PeriodOnly.refl n s).wr (status_mem_periodRegs n) _).put _
  split
  · exact h.raise _ _ _
  · exact h

theorem periodJudged_only (s : State) (n : Nat) (r : Region) : PeriodOnly n s (periodJudged s n r) := by
  rw [periodJudged]
  split
  · exact (PeriodOnly.refl n s).put _
  · split
    · exact periodMoved_only s n r
    · exact periodStale_only s n r

theorem periodClosed_only (s : State) (n : Nat) (r : Region) (limit : Nat) : PeriodOnly n s (periodClosed s n r limit) := by
  unfold periodClosed
  extract_lets u
  have h : PeriodOnly n s u := by
    unfold u
    split
    · exact (PeriodOnly.refl n s).wr (status_mem_periodRegs n) _
    · exact .refl n s
  split
  · exact h.recalStart _ _
  · exact h

theorem regionPeriodEnd_only (readings : List (Nat × Nat × Nat)) (s : State) (n : Nat) :
    PeriodOnly n s (regionPeriodEnd readings s n) := by
  cases h : regionAsleep s n with
  | true =>
    rw [regionPeriodEnd_asleep readings h]
    exact (PeriodOnly.refl n s).put _
  | false =>
    rw [regionPeriodEnd_awake readings h]
    exact (((periodMeasured_only readings s n).trans (periodReplays_only _ n _)).trans (periodJudged_only _ n _)).trans
      (periodClosed_only _ n _ _)

/-! ### What a period's end leaves in its own region -/

/-- Region n's state, MARGIN and STALE. -/
def periodShown (n : Nat) (s : State) : Region × Nat × Bool :=
  (regionOf s n, rf s (Reg.CORE_REGn_STATUS n) 11 8, rb s (Reg.CORE_REGn_STATUS n) 17)

theorem periodShown_congr {s t : State} {n : Nat} (region : regionOf t n = regionOf s n)
    (status : rd t (Reg.CORE_REGn_STATUS n) = rd s (Reg.CORE_REGn_STATUS n)) : periodShown n t = periodShown n s := by
  rw [periodShown, periodShown, region, rf, rb, status, rf, rb]

/-- The other bits of STATUS are not shown. -/
theorem periodShown_wf {s : State} {n hi lo : Nat} (v : Nat) (h : 17 < lo ∨ 11 < lo ∧ hi < 17) :
    periodShown n (wf s (Reg.CORE_REGn_STATUS n) hi lo v) = periodShown n s := by
  have margin : 11 < lo := by omega
  have stale : ¬ (lo ≤ 17 ∧ 17 ≤ hi ∧ 17 < 64) := by omega
  rw [periodShown, regionOf_wf, rf_wf_ne v (.inr (.inl margin)), rb_wf_same, if_neg stale, periodShown]

theorem periodShown_raise (s : State) (n e d0 d1 : Nat) : periodShown n (raise s e d0 d1) = periodShown n s := rfl

theorem periodShown_put (s : State) (n : Nat) (r : Region) :
    periodShown n (regionPut s n r) = (r, (periodShown n s).2) := by
  rw [periodShown, regionOf_regionPut, if_pos rfl]
  rfl

theorem periodShown_slackReport (s : State) (n unit margin threshold : Nat) :
    periodShown n (slackReport s 0 unit margin threshold) = periodShown n s :=
  periodShown_congr (regionOf_slackReport ..)
    (rd_slackReport _ _ _ (by simp only [Reg.CORE_REGn_STATUS, Reg.CORE_SLACKd]; omega))

theorem periodShown_recalStart (s : State) (n m : Nat) (out : Bool) :
    periodShown n (recalStart s m out) = periodShown n s :=
  periodShown_congr (regionOf_recalStart ..)
    (rd_recalStart _ _ (by simp only [Reg.CORE_REGn_STATUS, Reg.CORE_RECAL_STATUS]; omega))

theorem periodShown_margins (s : State) (n m : Nat) : periodShown n (periodMargins s n m) = (regionOf s n, m % 16, false) := by
  rw [periodShown, periodMargins, rf_wf_ne 0 (.inr (.inl (by decide))), rf_wf_same _ _ _ _ _ (by decide), rb_wf_same]
  rfl

theorem periodShown_alarm (s : State) (n code m : Nat) : periodShown n (periodAlarm s n code m) = periodShown n s := by
  unfold periodAlarm
  extract_lets st low
  have h (v : Nat) : periodShown n (wf s st 16 16 v) = periodShown n s := periodShown_wf v (by decide)
  split
  · split
    · rfl
    · exact h 1
  · split
    · exact h 0
    · rfl

theorem periodShown_closed (s : State) (n : Nat) (r : Region) (limit : Nat) :
    periodShown n (periodClosed s n r limit) = periodShown n s := by
  unfold periodClosed
  extract_lets u
  have h : periodShown n u = periodShown n s := by
    unfold u
    split
    · exact periodShown_wf 0 (by decide)
    · rfl
  split
  · rw [periodShown_recalStart, h]
  · exact h

theorem nextCodeOf_congr {s t : State} (h : rd t Reg.CORE_CFG = rd s Reg.CORE_CFG) (code margin : Nat) :
    nextCodeOf t code margin = nextCodeOf s code margin := by
  unfold nextCodeOf rf
  rw [h]

theorem cfg_notMem_periodRegs (n : Nat) : Reg.CORE_CFG ∉ periodRegs n := notMem_periodRegs_of_lt n (by decide) (by decide)

/-- A valid measurement shows its margin, clears STALE and asks for the code of R62. -/
theorem periodShown_moved (s : State) (n : Nat) (r : Region) :
    let m := periodMargin r.counts
    let code := rf s (Reg.CORE_REGn_STATUS n) 5 0
    periodShown n (periodMoved s n r) = ({ periodFresh r with
      staleRun := 0, minMargin := some (min m (r.minMargin.getD 15)),
      nextCode := if nextCodeOf s code m = code then r.nextCode else some (nextCodeOf s code m) }, m % 16, false) := by
  intro m code
  have cfg := (periodMargins_only s n m).regs _ (cfg_notMem_periodRegs n)
  rw [periodMoved, periodShown_slackReport, periodShown_put, periodShown_alarm, periodShown_margins, nextCodeOf_congr cfg]

/-- An invalid measurement sets STALE and asks for no code. -/
theorem periodShown_stale (s : State) (n : Nat) (r : Region) :
    periodShown n (periodStale s n r) =
      ({ periodFresh r with staleRun := r.staleRun + 1 }, rf s (Reg.CORE_REGn_STATUS n) 11 8, true) := by
  unfold periodStale
  extract_lets next u
  have h : periodShown n u = ({ periodFresh r with staleRun := r.staleRun + 1 }, rf s (Reg.CORE_REGn_STATUS n) 11 8, true) := by
    unfold u
    rw [periodShown_put, periodShown, rf_wf_ne 1 (.inr (.inl (by decide))), rb_wf_same]
    rfl
  split
  · rw [periodShown_raise, h]
  · exact h

theorem status_ne_measured (n : Nat) :
    Reg.CORE_REGn_STATUS n ≠ Reg.CORE_REGn_HANDSHAKES n ∧ Reg.CORE_REGn_STATUS n ≠ Reg.CORE_REGn_THROUGHPUT n := by
  simp only [Reg.CORE_REGn_STATUS, Reg.CORE_REGn_HANDSHAKES, Reg.CORE_REGn_THROUGHPUT]; omega

theorem rd_periodReplays (s : State) (n : Nat) (r : Region) (a : Nat) : rd (periodReplays s n r) a = rd s a := by
  rw [periodReplays]
  split <;> rfl

/-- The measured handshakes and throughput do not touch STATUS. -/
theorem rd_periodMeasured_status (readings : List (Nat × Nat × Nat)) (s : State) (n : Nat) :
    rd (periodMeasured readings s n) (Reg.CORE_REGn_STATUS n) = rd s (Reg.CORE_REGn_STATUS n) := by
  obtain ⟨handshakes, throughput⟩ := status_ne_measured n
  rw [periodMeasured]
  split
  · rw [rd_wf_ne _ _ _ throughput, rd_wrn_ne _ handshakes]
  · exact rd_wrn_ne _ handshakes

/-- What the end of a period shows is what the judging of the measurement leaves, on STATUS and CORE_CFG as they were. -/
theorem periodShown_awake {s : State} {n : Nat} (readings : List (Nat × Nat × Nat)) (h : regionAsleep s n = false) :
    ∃ u, rd u (Reg.CORE_REGn_STATUS n) = rd s (Reg.CORE_REGn_STATUS n) ∧ rd u Reg.CORE_CFG = rd s Reg.CORE_CFG ∧
      periodShown n (regionPeriodEnd readings s n) = periodShown n (periodJudged u n (regionOf s n)) := by
  refine ⟨periodReplays (periodMeasured readings s n) n (regionOf s n), ?_, ?_, ?_⟩
  · rw [rd_periodReplays, rd_periodMeasured_status]
  · rw [rd_periodReplays, (periodMeasured_only readings s n).regs _ (cfg_notMem_periodRegs n)]
  · rw [regionPeriodEnd_awake readings h]
    exact periodShown_closed ..

theorem periodValid_iff (r : Region) : periodValid r = true ↔ r.counts.length = 16 ∧ ∀ c ∈ r.counts, 256 ≤ c.1 := by
  simp [periodValid]

theorem periodShown_regionOf {s : State} {n : Nat} {r : Region} {p : Nat × Bool} (h : periodShown n s = (r, p)) :
    regionOf s n = r := congrArg Prod.fst h

/-- Whatever the judging finds, the region starts the next period without counts and replays. -/
theorem periodJudged_clears (s : State) (n : Nat) (r : Region) :
    (regionOf (periodJudged s n r) n).counts = [] ∧ (regionOf (periodJudged s n r) n).replays = 0 := by
  rw [periodJudged]
  split
  · rw [regionOf_regionPut, if_pos rfl]
    exact ⟨rfl, rfl⟩
  · split
    · rw [periodShown_regionOf (periodShown_moved s n r)]
      exact ⟨rfl, rfl⟩
    · rw [periodShown_regionOf (periodShown_stale s n r)]
      exact ⟨rfl, rfl⟩

theorem regionPeriodEnd_clears (readings : List (Nat × Nat × Nat)) (s : State) (n : Nat) :
    (regionOf (regionPeriodEnd readings s n) n).counts = [] ∧ (regionOf (regionPeriodEnd readings s n) n).replays = 0 := by
  cases h : regionAsleep s n with
  | true =>
    rw [regionPeriodEnd_asleep readings h, regionOf_regionPut, if_pos rfl]
    exact ⟨rfl, rfl⟩
  | false =>
    obtain ⟨u, -, -, shown⟩ := periodShown_awake readings h
    have region : regionOf (regionPeriodEnd readings s n) n = regionOf (periodJudged u n (regionOf s n)) n :=
      congrArg Prod.fst shown
    rw [region]
    exact periodJudged_clears ..

/-! ### CALIBRATION_PERIOD_END -/

theorem regionOf_updateHeadroom (s : State) (n : Nat) : regionOf (updateHeadroom s) n = regionOf s n := by
  unfold updateHeadroom
  split
  · rfl
  · extract_lets u v th
    split
    · split <;> rfl
    · split <;> rfl

theorem rd_updateHeadroom {s : State} {a : Nat} (ha : a ≠ Reg.CORE_STATUS) : rd (updateHeadroom s) a = rd s a := by
  have put (n h : Nat) : rd (wf (wf s Reg.CORE_STATUS 11 0 h) Reg.CORE_STATUS 22 16 n) a = rd s a := by
    rw [rd_wf_ne _ _ _ ha, rd_wf_ne _ _ _ ha]
  unfold updateHeadroom
  split
  · rfl
  · extract_lets u th v
    split
    · split <;> exact put ..
    · split <;> exact put ..

/-- The period counts itself, and the next one begins at probe offset 0 (R61, R62). -/
def periodCounted (s : State) : State :=
  let u := cntWrap s Reg.CORE_PERIODS 1
  let u := wrn u Reg.CORE_PERIODS (rdn u Reg.CORE_PERIODS % 2 ^ 32)
  { u with core := { u.core with offset := 0 } }

theorem regionOf_periodCounted (s : State) (n : Nat) : regionOf (periodCounted s) n = regionOf s n := rfl

theorem rd_periodCounted_ne {s : State} {a : Nat} (ha : a ≠ Reg.CORE_PERIODS) : rd (periodCounted s) a = rd s a := by
  rw [periodCounted, rd_with, rd_wrn_ne _ ha]
  exact rd_wrn_ne _ ha

theorem rdn_periodCounted (s : State) : rdn (periodCounted s) Reg.CORE_PERIODS = (rdn s Reg.CORE_PERIODS + 1) % 2 ^ 32 := by
  rw [periodCounted, rdn, rd_with, ← rdn, rdn_wrn_same, cntWrap, rdn_wrn_same]
  omega

/-- The state after CALIBRATION_PERIOD_END. -/
def periodEnded (readings : List (Nat × Nat × Nat)) (s : State) : State :=
  periodCounted (updateHeadroom ((List.range 101).foldl (regionPeriodEnd readings) s))

theorem exec_calibrationPeriodEnd (readings : List (Nat × Nat × Nat)) (s : State) :
    exec (.calibrationPeriodEnd readings) s = .next (periodEnded readings s) := rfl

/-- What region n's calibration depends on, beside its own period: its state, its STATUS and the limits. -/
def calView (n : Nat) (s : State) : Region × W64 × W64 :=
  (regionOf s n, rd s (Reg.CORE_REGn_STATUS n), rd s Reg.CORE_CFG)

theorem PeriodOnly.calView {m n : Nat} {s t : State} (h : PeriodOnly m s t) (ne : m ≠ n) : calView n t = calView n s := by
  rw [Machine.calView, h.regions n ne.symm, h.regs _ (notMem_periodRegs_status ne.symm), h.regs _ (cfg_notMem_periodRegs m),
    Machine.calView]

theorem calView_periodCounted (s : State) (n : Nat) : calView n (periodCounted (updateHeadroom s)) = calView n s := by
  have status : Reg.CORE_REGn_STATUS n ≠ Reg.CORE_PERIODS ∧ Reg.CORE_REGn_STATUS n ≠ Reg.CORE_STATUS := by
    simp only [Reg.CORE_REGn_STATUS, Reg.CORE_PERIODS, Reg.CORE_STATUS]; omega
  have cfg : Reg.CORE_CFG ≠ Reg.CORE_PERIODS ∧ Reg.CORE_CFG ≠ Reg.CORE_STATUS := by decide
  rw [calView, regionOf_periodCounted, regionOf_updateHeadroom, rd_periodCounted_ne status.1, rd_updateHeadroom status.2,
    rd_periodCounted_ne cfg.1, rd_updateHeadroom cfg.2, calView]

/-- At the end of a period each region meets its own step alone. -/
theorem calView_periodEnded (readings : List (Nat × Nat × Nat)) (s : State) {n : Nat} (hn : n < 101) :
    ∃ u, calView n u = calView n s ∧ calView n (periodEnded readings s) = calView n (regionPeriodEnd readings u n) := by
  obtain ⟨u, before, after⟩ := foldl_range_view (calView n)
    (fun m ne u => (regionPeriodEnd_only readings u m).calView ne) hn s
  exact ⟨u, before, (calView_periodCounted _ n).trans after⟩

theorem regionOf_periodEnded_clears (readings : List (Nat × Nat × Nat)) (s : State) {n : Nat} (hn : n < 101) :
    (regionOf (periodEnded readings s) n).counts = [] ∧ (regionOf (periodEnded readings s) n).replays = 0 := by
  obtain ⟨u, -, after⟩ := calView_periodEnded readings s hn
  rw [(Prod.mk.inj after).1]
  exact regionPeriodEnd_clears readings u n

/-- What CALIBRATION_PERIOD_END shows of an awake region is what the judging of its measurement leaves. -/
theorem periodShown_periodEnded {s : State} {n : Nat} (readings : List (Nat × Nat × Nat)) (hn : n < 101)
    (awake : regionAsleep s n = false) :
    ∃ u, rd u (Reg.CORE_REGn_STATUS n) = rd s (Reg.CORE_REGn_STATUS n) ∧ rd u Reg.CORE_CFG = rd s Reg.CORE_CFG ∧
      periodShown n (periodEnded readings s) = periodShown n (periodJudged u n (regionOf s n)) := by
  obtain ⟨v, before, after⟩ := calView_periodEnded readings s hn
  obtain ⟨region, status, cfg⟩ := Prod.mk.inj before |>.imp_right Prod.mk.inj
  obtain ⟨region', status', -⟩ := Prod.mk.inj after |>.imp_right Prod.mk.inj
  have awake' : regionAsleep v n = false := by rw [regionAsleep, rb, status, ← rb, ← regionAsleep, awake]
  obtain ⟨u, hs, hc, shown⟩ := periodShown_awake readings awake'
  exact ⟨u, hs.trans status, hc.trans cfg, by rw [periodShown_congr region' status', shown, region]⟩

/-- The code that a region asks for, its code itself where it asks for none. -/
theorem getD_ite_some {α : Type} [DecidableEq α] (a b : α) : (if b = a then none else some b).getD a = b := by
  split
  · exact Eq.symm ‹_›
  · rfl

/-- A valid measurement shows its margin, clears STALE and asks for the code of the first rule that applies (R62). -/
theorem periodEnded_valid {s : State} {n : Nat} (readings : List (Nat × Nat × Nat)) (hn : n < 101)
    (awake : regionAsleep s n = false) (full : (regionOf s n).guardLeft ≠ 3) (still : (regionOf s n).nextCode = none)
    (valid : periodValid (regionOf s n) = true) :
    let t := periodEnded readings s
    let code := rf s (Reg.CORE_REGn_STATUS n) 5 0
    let m := periodMargin (regionOf s n).counts
    rf t (Reg.CORE_REGn_STATUS n) 11 8 = m % 16 ∧ rb t (Reg.CORE_REGn_STATUS n) 17 = false ∧
      (regionOf t n).nextCode.getD code = nextCodeOf s code m := by
  intro t code m
  obtain ⟨u, status, cfg, shown⟩ := periodShown_periodEnded readings hn awake
  have codes : rf u (Reg.CORE_REGn_STATUS n) 5 0 = code := by rw [rf, status, ← rf]
  rw [periodJudged, if_neg full, if_pos valid, periodShown_moved, codes, nextCodeOf_congr cfg, still] at shown
  obtain ⟨region, margin, stale⟩ := Prod.mk.inj shown |>.imp_right Prod.mk.inj
  exact ⟨margin, stale, by rw [region]; exact getD_ite_some ..⟩

/-- An invalid measurement leaves the code and sets STALE (R62). -/
theorem periodEnded_invalid {s : State} {n : Nat} (readings : List (Nat × Nat × Nat)) (hn : n < 101)
    (awake : regionAsleep s n = false) (full : (regionOf s n).guardLeft ≠ 3) (still : (regionOf s n).nextCode = none)
    (invalid : ¬ periodValid (regionOf s n) = true) :
    (regionOf (periodEnded readings s) n).nextCode = none ∧ rb (periodEnded readings s) (Reg.CORE_REGn_STATUS n) 17 = true := by
  obtain ⟨u, -, -, shown⟩ := periodShown_periodEnded readings hn awake
  rw [periodJudged, if_neg full, if_neg invalid, periodShown_stale] at shown
  obtain ⟨region, -, stale⟩ := Prod.mk.inj shown |>.imp_right Prod.mk.inj
  exact ⟨by rw [region]; exact still, stale⟩

theorem rdn_periodEnded (readings : List (Nat × Nat × Nat)) (s : State) :
    rdn (periodEnded readings s) Reg.CORE_PERIODS = (rdn s Reg.CORE_PERIODS + 1) % 2 ^ 32 := by
  have kept : rd ((List.range 101).foldl (regionPeriodEnd readings) s) Reg.CORE_PERIODS = rd s Reg.CORE_PERIODS :=
    foldl_view (rd · Reg.CORE_PERIODS) _ _ fun n _ u =>
      (regionPeriodEnd_only readings u n).regs _ (notMem_periodRegs_of_lt n (by decide) (by decide))
  rw [periodEnded, rdn_periodCounted, rdn, rd_updateHeadroom (by decide), kept, ← rdn]

/-! ### PROBE_OFFSET_STEP -/

/-- The handshakes and mismatches counted in region n. -/
def probeCount (counts : List (Nat × Nat × Nat)) (n : Nat) : Nat × Nat :=
  match counts.find? (fun e => e.1 == n) with
  | some (_, h, m) => (h, m)
  | none => (0, 0)

/-- One region's counts at the offset that ends (R61). -/
def probeCounted (counts : List (Nat × Nat × Nat)) (s : State) (n : Nat) : State :=
  if regionAsleep s n then s
  else regionPut s n { regionOf s n with counts := ((regionOf s n).counts ++ [probeCount counts n]).take 16 }

/-- The regions after PROBE_OFFSET_STEP. -/
def probeStepped (counts : List (Nat × Nat × Nat)) (s : State) : State := (List.range 101).foldl (probeCounted counts) s

theorem exec_probeOffsetStep (counts : List (Nat × Nat × Nat)) (s : State) :
    exec (.probeOffsetStep counts) s =
      let u := probeStepped counts s
      .next { u with core := { u.core with offset := min 15 (u.core.offset + 1) } } := rfl

theorem probeCounted_asleep {s : State} {n : Nat} (counts : List (Nat × Nat × Nat)) (h : regionAsleep s n = true) :
    probeCounted counts s n = s := if_pos h

theorem counts_probeCounted {s : State} {n : Nat} (counts : List (Nat × Nat × Nat)) (h : regionAsleep s n = false) :
    (regionOf (probeCounted counts s n) n).counts = ((regionOf s n).counts ++ [probeCount counts n]).take 16 := by
  rw [probeCounted, if_neg (by simp [h]), regionOf_regionPut, if_pos rfl]

/-- A region's count changes nothing but the region's state. -/
theorem probeCounted_put (counts : List (Nat × Nat × Nat)) (s : State) (n : Nat) :
    probeCounted counts s n = s ∨ ∃ r, probeCounted counts s n = regionPut s n r := by
  rw [probeCounted]
  split
  · exact .inl rfl
  · exact .inr ⟨_, rfl⟩

/-- The state without the regions' states. -/
def withoutRegions (s : State) : State := { s with core := { s.core with regions := [] } }

theorem withoutRegions_probeStepped (counts : List (Nat × Nat × Nat)) (s : State) :
    withoutRegions (probeStepped counts s) = withoutRegions s :=
  foldl_view withoutRegions _ s fun n _ u => by
    rcases probeCounted_put counts u n with h | ⟨r, h⟩
    · rw [h]
    · rw [h]
      rfl

/-- What a region's count depends on: the region's state and whether it sleeps. -/
def probeView (n : Nat) (s : State) : Region × Bool := (regionOf s n, regionAsleep s n)

theorem probeView_probeCounted_ne (counts : List (Nat × Nat × Nat)) (s : State) {m n : Nat} (h : m ≠ n) :
    probeView n (probeCounted counts s m) = probeView n s := by
  rcases probeCounted_put counts s m with e | ⟨r, e⟩
  · rw [e]
  · rw [e, probeView, regionOf_regionPut_ne r h.symm]
    rfl

/-- In a probe step each region meets its own count alone. -/
theorem probeView_probeStepped (counts : List (Nat × Nat × Nat)) (s : State) {n : Nat} (hn : n < 101) :
    ∃ u, probeView n u = probeView n s ∧ probeView n (probeStepped counts s) = probeView n (probeCounted counts u n) :=
  foldl_range_view (probeView n) (fun _ ne u => probeView_probeCounted_ne counts u ne) hn s

/-- A sleeping region keeps its state, whether the block has it or not. -/
theorem regionOf_probeStepped_asleep (counts : List (Nat × Nat × Nat)) {s : State} {n : Nat} (h : regionAsleep s n = true) :
    regionOf (probeStepped counts s) n = regionOf s n := by
  by_cases hn : n < 101
  · obtain ⟨u, before, after⟩ := probeView_probeStepped counts s hn
    obtain ⟨region, asleep⟩ := Prod.mk.inj before
    rw [probeCounted_asleep counts (asleep.trans h)] at after
    exact (Prod.mk.inj after).1.trans region
  · have unlisted : ∀ m ∈ List.range 101, m ≠ n := fun m hm e => hn (e ▸ List.mem_range.mp hm)
    exact congrArg Prod.fst (foldl_view (probeView n) _ s fun m hm u => probeView_probeCounted_ne counts u (unlisted m hm))

/-- An awake region keeps one count more. -/
theorem counts_probeStepped_awake (counts : List (Nat × Nat × Nat)) {s : State} {n : Nat} (hn : n < 101)
    (h : regionAsleep s n = false) (room : (regionOf s n).counts.length < 16) :
    (regionOf (probeStepped counts s) n).counts = (regionOf s n).counts ++ [probeCount counts n] := by
  obtain ⟨u, before, after⟩ := probeView_probeStepped counts s hn
  obtain ⟨region, asleep⟩ := Prod.mk.inj before
  rw [(Prod.mk.inj after).1, counts_probeCounted counts (asleep.trans h), region]
  exact List.take_of_length_le (by simpa using room)

/-- Settles O16: each region meets its own step of a period's end alone, and its own count of a probe step. -/
theorem calibrationPeriod : Obligations.CalibrationPeriod := by
  unfold Obligations.CalibrationPeriod
  intro s
  refine ⟨fun readings => ⟨_, exec_calibrationPeriodEnd readings s, rfl, rdn_periodEnded readings s,
      fun n hn => regionOf_periodEnded_clears readings s hn, ?period⟩,
    fun counts => ⟨_, exec_probeOffsetStep counts s, ?offset, ?awake,
      fun n asleep => regionOf_probeStepped_asleep counts asleep, ?rest⟩⟩
  case period =>
    intro n hn awake full still code cs margin thresh target hyst
    split
    next valid => exact periodEnded_valid readings hn awake full still ((periodValid_iff _).mpr valid)
    next invalid => exact periodEnded_invalid readings hn awake full still fun valid => invalid ((periodValid_iff _).mp valid)
  case offset =>
    have kept : (probeStepped counts s).core.offset = s.core.offset :=
      congrArg (·.core.offset) (withoutRegions_probeStepped counts s)
    exact congrArg (fun i => min 15 (i + 1)) kept
  case awake =>
    intro n hn awake room
    have counted := counts_probeStepped_awake counts hn awake room
    exact ⟨(congrArg List.length counted).trans List.length_append, _, counted.symm⟩
  case rest => exact congrArg (fun u : State => { u with core := s.core }) (withoutRegions_probeStepped counts s)

/-! ### Delay codes, replays and forced recalibration -/

theorem exec_delayCodeApply {s : State} {n : Fin 101} {c : Nat} (h : (regionOf s n).nextCode = some c) :
    exec (.delayCodeApply n) s =
      .next (wf (regionPut s n { regionOf s n with nextCode := none }) (Reg.CORE_REGn_STATUS n) 5 0 c) := by
  rw [exec, execDelayCodeApply, h]

theorem exec_handshakeReplay {s : State} {n : Fin 101} (h : regionAsleep s n = false) :
    exec (.handshakeReplay n) s =
      .next (cnt (regionPut s n { regionOf s n with replays := (regionOf s n).replays + 1 }) (Reg.CORE_REGn_REPLAYS n) 1) := by
  rw [exec, execHandshakeReplay, if_neg (by simp [h])]

/-- GO is bit 31 of the dword (R72). -/
theorem recalCommand_go {s : State} {v : BitVec 32} (h : v.getLsbD 31 = true) :
    recalCommand s v.toNat = recalStart s (v.toNat % 128) (otherPlaneOut s (v.toNat % 128)) := by
  refine if_pos ?_
  rw [BitVec.getLsbD, Nat.testBit_eq_decide_div_mod_eq] at h
  exact of_decide_eq_true h

/-- A recalibration of region n that starts: BUSY, the region and RESULT 0 in CORE_RECAL_STATUS (R72). -/
def recalMarked (s : State) (n : Nat) : State :=
  let u := { s with core := { s.core with recal := some n } }
  wf (wf (wf u Reg.CORE_RECAL_STATUS 7 1 n) Reg.CORE_RECAL_STATUS 9 8 0) Reg.CORE_RECAL_STATUS 0 0 1

/-- A recalibration of an awake region starts while none runs and no other plane is out (R72, R549). -/
theorem recalStart_accepted {s : State} {n : Nat} (hn : n < 101) (idle : s.core.recal = none) (awake : regionAsleep s n = false) :
    recalStart s n false = recalMarked s n := by
  have region : ¬ 100 < n := by omega
  simp only [recalStart, recalMarked, if_neg region, idle, awake, Option.isSome_none, Bool.false_eq_true, and_false, if_false,
    if_true]

theorem recalMarked_only (s : State) (n : Nat) :
    Only { s with core := { s.core with recal := some n } } (recalMarked s n) [Reg.CORE_RECAL_STATUS] [] [] := by
  have h (u : State) : Only u u [Reg.CORE_RECAL_STATUS] [] [] := (Only.refl u).mono (by simp)
  exact (((h _).wr _ (by simp)).wr _ (by simp)).wr _ (by simp)

theorem recalMarked_fields (s : State) {n : Nat} (hn : n < 128) :
    rb (recalMarked s n) Reg.CORE_RECAL_STATUS 0 = true ∧ rf (recalMarked s n) Reg.CORE_RECAL_STATUS 7 1 = n ∧
      rf (recalMarked s n) Reg.CORE_RECAL_STATUS 9 8 = 0 := by
  refine ⟨?_, ?_, ?_⟩
  · rw [recalMarked, rb_wf_same]
    rfl
  · rw [recalMarked, rf_wf_ne 1 (.inr (by decide)), rf_wf_ne 0 (.inr (by decide)), rf_wf_same _ _ _ _ _ (by decide)]
    exact Nat.mod_eq_of_lt hn
  · rw [recalMarked, rf_wf_ne 1 (.inr (by decide)), rf_wf_same _ _ _ _ _ (by decide)]
    rfl

/-- A sweep finds the lowest code whose margin reaches TARGET (R73). -/
theorem sweptCode_lowest {s : State} {margins : List Nat} {c : Nat} (hc : c < 64)
    (reached : ∃ h : c < margins.length, rf s Reg.CORE_CFG 3 0 ≤ margins[c])
    (below : ∀ i (h : i < margins.length), i < c → margins[i] < rf s Reg.CORE_CFG 3 0) : sweptCode s margins = (c, s) := by
  obtain ⟨hm, reached⟩ := reached
  have found : (margins.take 64).findIdx? (fun m => decide (rf s Reg.CORE_CFG 3 0 ≤ m)) = some c := by
    rw [List.findIdx?_eq_some_iff_getElem]
    refine ⟨by rw [List.length_take]; omega, by simpa using reached, fun j hj => ?_⟩
    simpa using below j (by omega) hj
  rw [sweptCode, found]

@[simp] theorem rf_raise (s : State) (e d0 d1 a hi lo : Nat) : rf (raise s e d0 d1) a hi lo = rf s a hi lo := rfl
@[simp] theorem rb_raise (s : State) (e d0 d1 a i : Nat) : rb (raise s e d0 d1) a i = rb s a i := rfl

/-- A recalibration of region n that ends at code c: the code in force and shown, and event 0x024 (R73). -/
def recalClosed (s : State) (n c : Nat) : State :=
  let u := { s with core := { s.core with recal := none } }
  let u := wf (regionPut u n { regionOf u n with nextCode := none }) (Reg.CORE_REGn_STATUS n) 5 0 c
  raise (wf (wf (wf u Reg.CORE_RECAL_STATUS 0 0 0) Reg.CORE_RECAL_STATUS 9 8 0) Reg.CORE_RECAL_STATUS 21 16 c) 0x024 n c

theorem exec_forcedRecalComplete {s : State} {margins : List Nat} {n c : Nat} (h : s.core.recal = some n)
    (swept : sweptCode s margins = (c, s)) :
    exec (.forcedRecalComplete margins) s = .next (recalClosed s n c) := by
  simp only [exec, execForcedRecalComplete, h, swept, recalClosed]

theorem recalClosed_code (s : State) (n : Nat) {c : Nat} (hc : c < 64) :
    rf (recalClosed s n c) (Reg.CORE_REGn_STATUS n) 5 0 = c := by
  have ne : Reg.CORE_REGn_STATUS n ≠ Reg.CORE_RECAL_STATUS := by simp only [Reg.CORE_REGn_STATUS, Reg.CORE_RECAL_STATUS]; omega
  rw [recalClosed, rf_raise, rf_wf_ne c (.inl ne), rf_wf_ne 0 (.inl ne), rf_wf_ne 0 (.inl ne), rf_wf_same _ _ _ _ _ (by decide)]
  exact Nat.mod_eq_of_lt hc

theorem recalClosed_fields (s : State) (n : Nat) {c : Nat} (hc : c < 64) :
    rb (recalClosed s n c) Reg.CORE_RECAL_STATUS 0 = false ∧ rf (recalClosed s n c) Reg.CORE_RECAL_STATUS 21 16 = c := by
  refine ⟨?_, ?_⟩
  · rw [recalClosed, rb_raise, rb_wf_same, if_neg (by decide), rb_wf_same, if_neg (by decide), rb_wf_same]
    rfl
  · rw [recalClosed, rf_raise, rf_wf_same _ _ _ _ _ (by decide)]
    exact Nat.mod_eq_of_lt hc

theorem nextCode_recalClosed (s : State) (n c : Nat) : (regionOf (recalClosed s n c) n).nextCode = none := by
  simp only [recalClosed, regionOf_raise, regionOf_wf, regionOf_regionPut, if_true]

/-- Settles O17: each of the four commands by its equation under its conditions. -/
theorem delayCodes : Obligations.DelayCodes := by
  unfold Obligations.DelayCodes
  intro s
  refine ⟨?apply, ?replay, ?start, ?complete⟩
  case apply =>
    intro n c h
    refine ⟨_, exec_delayCodeApply h, rf_wf_same _ _ _ _ _ (by decide), ?_, fun m hm => regionOf_regionPut_ne _ hm,
      fun a ha => rd_wf_ne _ _ _ ha⟩
    rw [regionOf_wf, regionOf_regionPut, if_pos rfl]
  case replay =>
    intro n awake
    refine ⟨_, exec_handshakeReplay awake, ?_, rdn_cnt_same .., fun a ha => rd_cnt_ne _ ha, rfl⟩
    rw [regionOf_cnt, regionOf_regionPut, if_pos rfl]
  case start =>
    intro v go region idle awake plane
    have started : exec (.forcedRecalStart v) s = .next (recalMarked s (v.toNat % 128)) := by
      rw [exec, execForcedRecalStart, recalCommand_go go, plane, recalStart_accepted region idle awake]
    obtain ⟨busy, shown, result⟩ := recalMarked_fields s (Nat.mod_lt v.toNat (by decide : 128 > 0))
    exact ⟨_, started, rfl, busy, shown, result, recalMarked_only ..⟩
  case complete =>
    intro margins n c h hc reached below
    obtain ⟨busy, code⟩ := recalClosed_fields s n hc
    exact ⟨_, exec_forcedRecalComplete h (sweptCode_lowest hc reached below), recalClosed_code s n hc, rfl, busy, code,
      nextCode_recalClosed s n c, rfl⟩

end Sys2Proof.Machine
end

section
/-! SUPPORT. Port lanes (04_port_lanes.md): what an equaliser step, an eye measurement and a command of a management bus leave
in the lane, the registers and the outputs, and the statements about them settled with this. -/
namespace Sys2Proof.Machine

/-! ### A lane beside its registers -/

@[simp] theorem laneOf_lanePut (s : State) (l m : Nat) (x : Lane) : laneOf (lanePut s l x) m = if l = m then x else laneOf s m :=
  tabGet_tabPut ..

@[simp] theorem laneOf_laneEvent (s : State) (l k d1 m : Nat) : laneOf (laneEvent s l k d1) m = laneOf s m := rfl

/-- Lane event k carries the lane and its MODE (R94). -/
theorem mem_occ_laneEvent (s : State) (l k d1 : Nat) :
    ⟨0x100 + 16 * l + k, pack2 l (portMode s l), d1, tickNo s⟩ ∈ (laneEvent s l k d1).ev.occ := by
  rw [laneEvent, raise_occ]
  exact List.mem_append_right _ List.mem_cons_self

/-! ### EQ_ADAPT_STEP -/

/-- A tap after its move: by one step at most, whatever the receiver asks for (R88). -/
def tapMoved (taps : Nat) (moves : List Int) (v : Int) (i : Nat) : Int :=
  if i < taps then v + max (-1) (min 1 (moves.getD i 0)) else v

theorem natAbs_tapMoved_sub_le (taps : Nat) (moves : List Int) (v : Int) (i : Nat) :
    (tapMoved taps moves v i - v).natAbs ≤ 1 := by
  rw [tapMoved]
  split <;> omega

/-- The equaliser's last move is 10 µs old or older. -/
def Equaliser.Ready (e : Equaliser) (now : Nat) : Prop := ∀ m, e.moved = some m → m + 10000 ≤ now

theorem eqStep_ready {e : Equaliser} {now : Nat} (taps : Nat) (moves : List Int) (h : e.Ready now) :
    eqStep e taps now moves = { taps := e.taps.mapIdx fun i v => tapMoved taps moves v i, moved := some now } := by
  rw [eqStep, List.mapIdx_eq_zipIdx_map]
  cases hm : e.moved with
  | none => rfl
  | some m =>
    simp only [decide_eq_true (h m hm)]
    rfl

theorem eqStep_early {e : Equaliser} {now m : Nat} (taps : Nat) (moves : List Int) (hm : e.moved = some m)
    (early : now < m + 10000) : eqStep e taps now moves = e := by
  simp [eqStep, hm, Nat.not_le.mpr early]

theorem natAbs_taps_eqStep_sub_le {e : Equaliser} {now : Nat} (taps : Nat) (moves : List Int) (h : e.Ready now) (i : Nat) :
    ((eqStep e taps now moves).taps.getD i 0 - e.taps.getD i 0).natAbs ≤ 1 := by
  rw [eqStep_ready taps moves h, List.getD_eq_getElem?_getD, List.getElem?_mapIdx, List.getD_eq_getElem?_getD]
  cases e.taps[i]? with
  | none => simp
  | some v => exact natAbs_tapMoved_sub_le taps moves v i

/-- EQ_FREEZE of port lane k, or of twin lane k - 64 (R409). -/
def eqFrozen (s : State) (k : Nat) : Bool :=
  if k < 64 then rb s (Reg.PORT_LANEl_CTRL k) 4 else rb s (Reg.TWIN_LANEl_CTRL (k - 64)) 0

/-- The lane has signal. -/
def eqLive (s : State) (k : Nat) : Bool :=
  if k < 64 then rb s (Reg.PORT_LANEl_STATUS k) 1 else rb s (Reg.TWIN_LANEl_STATUS (k - 64)) 0

/-- How many taps the lane has. -/
def eqTaps (s : State) (k : Nat) : Nat := if k < 64 ∧ portMode s k < 3 then 1 else 9

/-- The state after an adaptation step of a live lane. -/
def eqAdapted (s : State) (k : Nat) (moves : List Int) : State :=
  lanePut s k { laneOf s k with eq := eqStep (laneOf s k).eq (eqTaps s k) (nowNs s) moves }

theorem exec_eqAdaptStep (lane : Fin 80) (moves : List Int) (s : State) :
    exec (.eqAdaptStep lane moves) s =
      .next (if eqFrozen s lane.val || !eqLive s lane.val then s else eqAdapted s lane.val moves) := rfl

theorem exec_eqAdaptStep_held {lane : Fin 80} {s : State} (moves : List Int)
    (h : eqFrozen s lane.val = true ∨ eqLive s lane.val = false) : exec (.eqAdaptStep lane moves) s = .next s := by
  rw [exec_eqAdaptStep, if_pos (by simpa using h)]

theorem exec_eqAdaptStep_live {lane : Fin 80} {s : State} (moves : List Int) (free : eqFrozen s lane.val = false)
    (live : eqLive s lane.val = true) : exec (.eqAdaptStep lane moves) s = .next (eqAdapted s lane.val moves) := by
  rw [exec_eqAdaptStep, if_neg (by simp [free, live])]

theorem eq_eqAdapted (s : State) (k : Nat) (moves : List Int) :
    (laneOf (eqAdapted s k moves) k).eq = eqStep (laneOf s k).eq (eqTaps s k) (nowNs s) moves := by
  rw [eqAdapted, laneOf_lanePut, if_pos rfl]

/-! ### EYE_MEASURE -/

/-- The slack monitor touches neither the lanes nor the time. -/
theorem slackReport_lanes_time (s : State) (d unit margin threshold : Nat) :
    (slackReport s d unit margin threshold).lanes = s.lanes ∧ (slackReport s d unit margin threshold).time = s.time := by
  rw [slackReport]
  obtain ⟨v, h | ⟨e, d0, d1, h⟩⟩ := slackLook_cases
    { s with core := { s.core with slack := tabSet s.core.slack (d * 65536 + unit) (margin, threshold) } } d
  · rw [h]
    exact ⟨rfl, rfl⟩
  · rw [h]
    exact ⟨rfl, rfl⟩

/-- The measured eye in its register, and HEIGHT as the lane's margin in slack domain 2 (R89, R70). -/
def eyeShown (s : State) (l height width threshold : Nat) : State :=
  slackReport (wrn s (Reg.PORT_LANEl_EYE l) (height + width * 256)) 2 l height threshold

/-- Event 6 is raised while it is armed, and armed again at the threshold plus 4 (R89). -/
def eyeJudged (s : State) (l height threshold : Nat) : State :=
  let x := laneOf s l
  if x.eyeLow then
    if threshold + 4 ≤ height then lanePut s l { x with eyeLow := false } else s
  else if height < threshold then laneEvent (lanePut s l { x with eyeLow := true }) l 6 height
  else s

theorem eyeMeasure_awake {s : State} {l : Nat} (height width : Nat) (h : humDown s (l / 4) = false) :
    eyeMeasure s l height width =
      let threshold := rf s (Reg.PORT_Qq_EYE_THRESH (l / 4)) 7 0
      eyeJudged (eyeShown s l height width threshold) l height threshold := by
  rw [eyeMeasure, if_neg (by simp [h])]
  rfl

theorem exec_eyeMeasure_awake {lane : Fin 64} {s : State} (height width : BitVec 8)
    (h : humDown s (lane.val / 4) = false) :
    exec (.eyeMeasure lane height width) s =
      let threshold := rf s (Reg.PORT_Qq_EYE_THRESH (lane.val / 4)) 7 0
      .next (eyeJudged (eyeShown s lane.val height.toNat width.toNat threshold) lane.val height.toNat threshold) := by
  rw [exec, execEyeMeasure, eyeMeasure_awake _ _ h]

theorem laneOf_eyeShown (s : State) (l height width threshold m : Nat) :
    laneOf (eyeShown s l height width threshold) m = laneOf s m := by
  rw [eyeShown, laneOf, (slackReport_lanes_time ..).1, wrn_lanes, laneOf]

theorem tickNo_eyeShown (s : State) (l height width threshold : Nat) :
    tickNo (eyeShown s l height width threshold) = tickNo s := by
  rw [eyeShown, tickNo, (slackReport_lanes_time ..).2, wrn_time, tickNo]

theorem rd_eyeShown_ne {s : State} {l a : Nat} (height width threshold : Nat) (eye : a ≠ Reg.PORT_LANEl_EYE l)
    (slack : a ≠ Reg.CORE_SLACKd 2) : rd (eyeShown s l height width threshold) a = rd s a := by
  rw [eyeShown, rd_slackReport _ _ _ slack, rd_wrn_ne _ eye]

theorem rdn_eyeShown (s : State) (l threshold : Nat) {height width : Nat} (hh : height < 256) (hw : width < 256) :
    rdn (eyeShown s l height width threshold) (Reg.PORT_LANEl_EYE l) = height + width * 256 := by
  have ne : Reg.PORT_LANEl_EYE l ≠ Reg.CORE_SLACKd 2 := by simp only [Reg.PORT_LANEl_EYE, Reg.CORE_SLACKd]; omega
  rw [eyeShown, rdn, rd_slackReport _ _ _ ne, ← rdn, rdn_wrn_same]
  omega

theorem portMode_eyeShown (s : State) (l height width threshold : Nat) :
    portMode (eyeShown s l height width threshold) l = portMode s l := by
  have eye : Reg.PORT_LANEl_STATUS l ≠ Reg.PORT_LANEl_EYE l := by simp only [Reg.PORT_LANEl_STATUS, Reg.PORT_LANEl_EYE]; omega
  have slack : Reg.PORT_LANEl_STATUS l ≠ Reg.CORE_SLACKd 2 := by simp only [Reg.PORT_LANEl_STATUS, Reg.CORE_SLACKd]; omega
  rw [portMode, rf, rd_eyeShown_ne _ _ _ eye slack, ← rf, ← portMode]

theorem rd_eyeJudged (s : State) (l height threshold a : Nat) : rd (eyeJudged s l height threshold) a = rd s a := by
  rw [eyeJudged]
  split
  · split <;> rfl
  · split <;> rfl

theorem eyeLow_eyeJudged (s : State) (l height threshold : Nat) :
    (laneOf (eyeJudged s l height threshold) l).eyeLow =
      if (laneOf s l).eyeLow = true then decide (height < threshold + 4) else decide (height < threshold) := by
  rw [eyeJudged]
  split
  next low =>
    split
    next recovered => simpa using recovered
    next still => simpa [low] using still
  next armed =>
    split
    next below => simpa using below
    next above => simpa [armed] using above

theorem mem_occ_eyeJudged {s : State} {l height threshold : Nat} (armed : (laneOf s l).eyeLow = false)
    (below : height < threshold) :
    ⟨0x106 + 16 * l, pack2 l (portMode s l), height, tickNo s⟩ ∈ (eyeJudged s l height threshold).ev.occ := by
  have source : 0x106 + 16 * l = 0x100 + 16 * l + 6 := by omega
  rw [eyeJudged, if_neg (by simp [armed]), if_pos below, source]
  exact mem_occ_laneEvent (lanePut s l { laneOf s l with eyeLow := true }) l 6 height

/-- Settles O23: an adaptation step is `eqStep` on the lane alone; a measurement shows the eye, then judges it. -/
theorem equalisersAndEyes : Obligations.EqualisersAndEyes := by
  unfold Obligations.EqualisersAndEyes
  refine ⟨?adapt, ?eye⟩
  case adapt =>
    intro lane moves s k frozen live
    refine ⟨exec_eqAdaptStep_held moves,
      fun free signal => ⟨_, exec_eqAdaptStep_live moves free signal, rfl, ?others, ?ready, ?early⟩⟩
    case others =>
      intro j hj
      rw [eqAdapted, laneOf_lanePut, if_neg hj.symm]
    case ready =>
      intro ready
      refine ⟨?_, ?_, fun i => ?_⟩
      · rw [eq_eqAdapted, eqStep_ready _ _ ready]
      · rw [eq_eqAdapted, eqStep_ready _ _ ready, List.length_mapIdx]
      · rw [eq_eqAdapted]
        exact natAbs_taps_eqStep_sub_le _ _ ready i
    case early =>
      rintro ⟨m, moved, early⟩
      rw [eq_eqAdapted]
      exact eqStep_early _ _ moved early
  case eye =>
    intro lane height width s l th awake
    refine ⟨_, exec_eyeMeasure_awake height width awake, ?shown, ?kept, ?low, ?event⟩
    case shown => rw [rdn, rd_eyeJudged, ← rdn, rdn_eyeShown s l _ height.isLt width.isLt]
    case kept =>
      intro a eye slack
      rw [rd_eyeJudged, rd_eyeShown_ne _ _ _ eye slack]
    case low => rw [eyeLow_eyeJudged, laneOf_eyeShown]
    case event =>
      intro armed below
      have still : (laneOf (eyeShown s l height.toNat width.toNat th) l).eyeLow = false := by rw [laneOf_eyeShown, armed]
      have raised := mem_occ_eyeJudged still below
      rwa [portMode_eyeShown, tickNo_eyeShown] at raised

/-! ### Management buses: what a dword written to a command register leaves in its fields -/

theorem getLsbD_eq_decide {w : Nat} (v : BitVec w) (i : Nat) : v.getLsbD i = decide (v.toNat / 2 ^ i % 2 = 1) := by
  rw [BitVec.getLsbD, Nat.testBit_eq_decide_div_mod_eq]

/-- A bit of a dword, in numbers. -/
theorem bitOf_ofNat (v : Nat) {i : Nat} (hi : i < 64) : bitOf (BitVec.ofNat 64 v) i = decide (v / 2 ^ i % 2 = 1) := by
  rw [bitOf, BitVec.getLsbD_ofNat, Nat.testBit_eq_decide_div_mod_eq, decide_eq_true hi, Bool.true_and]

/-- A field of a dword, in numbers. -/
theorem fld_ofNat {v : Nat} (hi lo : Nat) (hv : v < 2 ^ 32) :
    fld (BitVec.ofNat 64 v) hi lo = v / 2 ^ lo % 2 ^ (hi + 1 - lo) := by
  rw [fld, BitVec.toNat_ofNat, Nat.mod_eq_of_lt (by omega), natFld, Nat.shiftRight_eq_div_pow]

section
variable (s : State) {a v : Nat} {r : RegRow} (hf : findRow a = some r) (h : reservedBits r (BitVec.ofNat 64 v) = 0)
include hf h

/-- A field that the row lists whole as read-write reads as it was written. -/
theorem rf_regWrite_rw (hi lo : Nat) (hv : v < 2 ^ 32) (hh : hi < 64) (whole : natFld r.rw hi lo = 2 ^ (hi + 1 - lo) - 1)
    (w1c : r.w1c = 0) : rf (regWrite s a (BitVec.ofNat 64 v)) a hi lo = v / 2 ^ lo % 2 ^ (hi + 1 - lo) := by
  have merged : fld (regMerge r (rd s a) (BitVec.ofNat 64 v)) hi lo = fld (BitVec.ofNat 64 v) hi lo := by
    refine fld_regMerge r _ _ hi lo h hh fun i low high => ⟨?_, by rw [w1c, Nat.zero_testBit]⟩
    obtain ⟨k, rfl⟩ := Nat.exists_eq_add_of_le low
    have bit := testBit_natFld r.rw hi lo k
    have inside : k < hi + 1 - lo := by omega
    simpa [whole, Nat.testBit_two_pow_sub_one, inside] using bit.symm
  rw [rf, (regWrite_only hf h).1, merged, fld_ofNat hi lo hv]

/-- A bit that the row lists as read-write reads as it was written. -/
theorem rb_regWrite_rw (i : Nat) (hi : i < 64) (listed : r.rw.testBit i = true) (w1s : r.w1s.testBit i = false)
    (w1c : r.w1c = 0) : rb (regWrite s a (BitVec.ofNat 64 v)) a i = decide (v / 2 ^ i % 2 = 1) := by
  rw [rb, (regWrite_only hf h).1, bitOf_regMerge _ _ _ _ h hi, listed, w1s, w1c, bitOf_ofNat v hi]
  simp

/-- A bit that is set by writing 1 reads 1 after it (R10). -/
theorem rb_regWrite_w1s (i : Nat) (hi : i < 64) (w1s : r.w1s.testBit i = true) (w1c : r.w1c = 0) (one : v / 2 ^ i % 2 = 1) :
    rb (regWrite s a (BitVec.ofNat 64 v)) a i = true := by
  rw [rb, (regWrite_only hf h).1, bitOf_regMerge _ _ _ _ h hi, w1s, w1c, bitOf_ofNat v hi, decide_eq_true one]
  simp

end

/-! ### MDIO -/

/-- The row of PORT_MDIOm_CMD (R95). -/
def mdioRow : RegRow := { base := 0x500004, dims := [(4, 0x20)], rw := 0x1fff, w1s := 0x80000000 }

theorem findRow_mdioCmd : ∀ bus : Fin 4, findRow (Reg.PORT_MDIOm_CMD bus.val) = some mdioRow := by decide

theorem mdioData_ne_cmd (m : Nat) : Reg.PORT_MDIOm_DATA m ≠ Reg.PORT_MDIOm_CMD m := by
  simp only [Reg.PORT_MDIOm_DATA, Reg.PORT_MDIOm_CMD]; omega

/-- The dword of an MDIO row sets BUSY and names the row's operation and the written addresses and frame kind. -/
theorem mdioValue_fields (value : Nat) {op : Nat} (hop : op < 4) :
    let v := mdioValue value op
    v < 2 ^ 32 ∧ v / 2 ^ 31 % 2 = 1 ∧ v / 2 ^ 0 % 2 ^ 5 = value % 32 ∧ v / 2 ^ 5 % 2 ^ 5 = value / 32 % 32 ∧
      v / 2 ^ 0 % 2 ^ 10 = value % 1024 ∧ v / 2 ^ 10 % 2 ^ 2 = op ∧ v / 2 ^ 12 % 2 = value / 2 ^ 12 % 2 := by
  intro v
  simp only [v, mdioValue]
  refine ⟨?_, ?_, ?_, ?_, ?_, ?_, ?_⟩ <;> omega

/-- The MDIO frame of operation op that a written dword asks for. -/
def mdioAsked (s : State) (m op : Nat) (value : BitVec 32) : Out :=
  .mdio m (value.getLsbD 12) op (value.toNat % 32) (value.toNat / 32 % 32) (rf s (Reg.PORT_MDIOm_DATA m) 15 0)

/-- The MDIO frame that PORT_MDIOm_CMD and PORT_MDIOm_DATA ask for (R90). -/
def mdioFrame (s : State) (m : Nat) : Out :=
  let cmd := Reg.PORT_MDIOm_CMD m
  .mdio m (rb s cmd 12) (rf s cmd 11 10) (rf s cmd 4 0) (rf s cmd 9 5) (rf s (Reg.PORT_MDIOm_DATA m) 15 0)

/-- The state after a dword with BUSY starts an MDIO frame. -/
def mdioStarted (s : State) (m v : Nat) : State :=
  let u := regWrite s (Reg.PORT_MDIOm_CMD m) (BitVec.ofNat 64 v)
  emit u (mdioFrame u m)

theorem mdioCommand_busy {s : State} {m v : Nat} (go : v / 2 ^ 31 % 2 = 1) (busy : rb s (Reg.PORT_MDIOm_CMD m) 31 = true) :
    mdioCommand s m v = s := by
  rw [mdioCommand, if_pos ⟨go, busy⟩]

theorem mdioCommand_idle {s : State} {m v : Nat} (go : v / 2 ^ 31 % 2 = 1) (idle : rb s (Reg.PORT_MDIOm_CMD m) 31 = false) :
    mdioCommand s m v = mdioStarted s m v := by
  rw [mdioCommand, if_neg (by simp [idle]), if_pos go]
  rfl

/-- What an MDIO frame that starts leaves: BUSY and the operands in the command register, and the frame sent. -/
theorem mdioStarted_spec {m : Nat} (row : findRow (Reg.PORT_MDIOm_CMD m) = some mdioRow) (value : BitVec 32) (s : State)
    {op : Nat} (hop : op < 4) :
    let t := mdioStarted s m (mdioValue value.toNat op)
    rb t (Reg.PORT_MDIOm_CMD m) 31 = true ∧ rf t (Reg.PORT_MDIOm_CMD m) 11 10 = op ∧
      rf t (Reg.PORT_MDIOm_CMD m) 9 0 = value.toNat % 1024 ∧ rb t (Reg.PORT_MDIOm_CMD m) 12 = value.getLsbD 12 ∧
      Only s t [Reg.PORT_MDIOm_CMD m] [] [mdioAsked s m op value] := by
  obtain ⟨dword, go, phy, dev, addresses, operation, kind⟩ := mdioValue_fields value.toNat hop
  have allowed : reservedBits mdioRow (BitVec.ofNat 64 (mdioValue value.toNat op)) = 0 := reservedBits_nil _ _ rfl
  have busy := rb_regWrite_w1s s row allowed 31 (by decide) (by decide) rfl go
  have phy := (rf_regWrite_rw s row allowed 4 0 dword (by decide) (by decide) rfl).trans phy
  have dev := (rf_regWrite_rw s row allowed 9 5 dword (by decide) (by decide) rfl).trans dev
  have addresses := (rf_regWrite_rw s row allowed 9 0 dword (by decide) (by decide) rfl).trans addresses
  have operation := (rf_regWrite_rw s row allowed 11 10 dword (by decide) (by decide) rfl).trans operation
  have cl22 := rb_regWrite_rw s row allowed 12 (by decide) (by decide) (by decide) rfl
  have only := (regWrite_only (s := s) row allowed).2
  have data := only.regs (Reg.PORT_MDIOm_DATA m) (by simpa using mdioData_ne_cmd m)
  rw [kind, ← getLsbD_eq_decide] at cl22
  generalize written : regWrite s (Reg.PORT_MDIOm_CMD m) (BitVec.ofNat 64 (mdioValue value.toNat op)) = u at *
  have frame : mdioFrame u m = mdioAsked s m op value := by
    rw [mdioFrame, cl22, operation, phy, dev, rf, data, ← rf, mdioAsked]
  rw [mdioStarted, written, frame]
  exact ⟨busy, operation, addresses, cl22, only.emit _⟩

/-- A command that writes the dword of an MDIO operation is ignored while BUSY, and otherwise starts its frame. -/
theorem mdioCommand_spec (bus : Fin 4) (value : BitVec 32) (s : State) {op : Nat} (hop : op < 4) {c : Instr}
    (hc : exec c s = .next (mdioCommand s bus.val (mdioValue value.toNat op))) :
    let m := bus.val
    let cmd := Reg.PORT_MDIOm_CMD m
    (rb s cmd 31 = true → exec c s = .next s) ∧
    (rb s cmd 31 = false → ∃ t, exec c s = .next t ∧ rb t cmd 31 = true ∧ rf t cmd 11 10 = op ∧
      rf t cmd 9 0 = value.toNat % 1024 ∧ rb t cmd 12 = value.getLsbD 12 ∧
      Only s t [cmd] [] [mdioAsked s m op value]) := by
  intro m cmd
  obtain ⟨-, go, -⟩ := mdioValue_fields value.toNat hop
  refine ⟨fun busy => ?_, fun idle => ⟨_, ?_, mdioStarted_spec (findRow_mdioCmd bus) value s hop⟩⟩
  · rw [hc, mdioCommand_busy go busy]
  · rw [hc, mdioCommand_idle go idle]

/-- The state after the end of an MDIO transaction. -/
def mdioEnded (s : State) (m : Nat) (data : Option Nat) : State :=
  let u := wf s (Reg.PORT_MDIOm_CMD m) 31 31 0
  if 2 ≤ rf s (Reg.PORT_MDIOm_CMD m) 11 10 then wrn u (Reg.PORT_MDIOm_DATA m) (data.getD 0xFFFF) else u

theorem mdioDone_busy {s : State} {m : Nat} (data : Option Nat) (busy : rb s (Reg.PORT_MDIOm_CMD m) 31 = true) :
    mdioDone s m data = mdioEnded s m data := by
  have op : rf (wf s (Reg.PORT_MDIOm_CMD m) 31 31 0) (Reg.PORT_MDIOm_CMD m) 11 10 = rf s (Reg.PORT_MDIOm_CMD m) 11 10 :=
    rf_wf_ne 0 (.inr (.inl (by decide)))
  simp only [mdioDone, busy, if_true, op, mdioEnded]

theorem mdioEnded_only (s : State) (m : Nat) (data : Option Nat) :
    Only s (mdioEnded s m data) [Reg.PORT_MDIOm_CMD m, Reg.PORT_MDIOm_DATA m] [] [] := by
  have done : Only s (wf s (Reg.PORT_MDIOm_CMD m) 31 31 0) [Reg.PORT_MDIOm_CMD m, Reg.PORT_MDIOm_DATA m] [] [] :=
    ((Only.refl s).mono (by simp)).wr _ (by simp)
  rw [mdioEnded]
  split
  · exact done.wr _ (by simp)
  · exact done

theorem rd_mdioEnded_cmd (s : State) (m : Nat) (data : Option Nat) :
    rd (mdioEnded s m data) (Reg.PORT_MDIOm_CMD m) = setFld (rd s (Reg.PORT_MDIOm_CMD m)) 31 31 0 := by
  rw [mdioEnded]
  split
  · rw [rd_wrn_ne _ (mdioData_ne_cmd m).symm, rd_wf_same]
  · rw [rd_wf_same]

theorem rdn_mdioEnded_data (s : State) (m : Nat) {data : Option Nat} (hd : data.getD 0xFFFF < 2 ^ 64) :
    rdn (mdioEnded s m data) (Reg.PORT_MDIOm_DATA m) =
      if 2 ≤ rf s (Reg.PORT_MDIOm_CMD m) 11 10 then data.getD 0xFFFF else rdn s (Reg.PORT_MDIOm_DATA m) := by
  rw [mdioEnded]
  split
  · rw [rdn_wrn_same, Nat.mod_eq_of_lt hd]
  · rw [rdn, rd_wf_ne _ _ _ (mdioData_ne_cmd m), ← rdn]

/-- The data of an MDIO read are 16 bits. -/
theorem mdioRead_lt (data : Option (BitVec 16)) : (data.map (·.toNat)).getD 0xFFFF < 2 ^ 64 := by
  cases data with
  | none => decide
  | some d => exact Nat.lt_of_lt_of_le d.isLt (by decide)

/-! ### I2C -/

/-- The row of PORT_I2Cq_CMD (R95). -/
def i2cRow : RegRow :=
  { base := 0x500104, dims := [(16, 0x40)], rw := 0x13fffff, w1s := 0x80000000, valid := [(21, 16, [(1, 32)])] }

theorem findRow_i2cCmd : ∀ bus : Fin 16, findRow (Reg.PORT_I2Cq_CMD bus.val) = some i2cRow := by decide

/-- 1 to 32 bytes are no reserved length (R91). -/
theorem reservedBits_i2cRow {v : Nat} (dword : v < 2 ^ 32) (low : 1 ≤ v / 2 ^ 16 % 64) (high : v / 2 ^ 16 % 64 ≤ 32) :
    reservedBits i2cRow (BitVec.ofNat 64 v) = 0 := by
  have len : fld (BitVec.ofNat 64 v) 21 16 = v / 2 ^ 16 % 64 := fld_ofNat 21 16 dword
  have listed : [(1, 32)].any (fun g : Nat × Nat => g.1 ≤ v / 2 ^ 16 % 64 && v / 2 ^ 16 % 64 ≤ g.2) = true := by
    rw [List.any_cons, decide_eq_true low, decide_eq_true high]; rfl
  simp only [reservedBits, i2cRow, List.foldl_cons, List.foldl_nil, len, listed, if_true]

theorem i2cData_ne_cmd (q n : Nat) : Reg.PORT_I2Cq_DATAn q n ≠ Reg.PORT_I2Cq_CMD q := by
  simp only [Reg.PORT_I2Cq_DATAn, Reg.PORT_I2Cq_CMD]; omega

theorem i2cStatus_ne_cmd (q : Nat) : Reg.PORT_I2Cq_STATUS q ≠ Reg.PORT_I2Cq_CMD q := by
  simp only [Reg.PORT_I2Cq_STATUS, Reg.PORT_I2Cq_CMD]; omega

theorem i2cBuffer_congr {s t : State} {q : Nat} (h : ∀ n, rd t (Reg.PORT_I2Cq_DATAn q n) = rd s (Reg.PORT_I2Cq_DATAn q n)) :
    i2cBuffer t q = i2cBuffer s q := by
  simp only [i2cBuffer, rdn, h]

/-- The dword of an I2C row sets BUSY and names the row's direction and the written address, register and length. -/
theorem i2cValue_fields (value : Nat) (read : Bool) :
    let v := i2cValue value read
    v < 2 ^ 32 ∧ v / 2 ^ 31 % 2 = 1 ∧ v / 2 ^ 0 % 2 ^ 7 = value % 128 ∧ v / 2 ^ 7 % 2 = b2n read ∧
      v / 2 ^ 8 % 2 ^ 8 = value / 256 % 256 ∧ v / 2 ^ 16 % 2 ^ 6 = value / 2 ^ 16 % 64 ∧
      v / 2 ^ 24 % 2 = value / 2 ^ 24 % 2 := by
  have one : b2n read ≤ 1 := by cases read <;> decide
  intro v
  simp only [v, i2cValue]
  generalize b2n read = direction at one ⊢
  refine ⟨?_, ?_, ?_, ?_, ?_, ?_, ?_⟩ <;> omega

/-- The I2C transfer of len bytes that a written dword asks for. -/
def i2cAsked (s : State) (q len : Nat) (value : BitVec 32) (read : Bool) : Out :=
  .i2c q (value.toNat % 128) read (if value.getLsbD 24 then none else some (value.toNat / 256 % 256))
    (if read then [] else (i2cBuffer s q).take len) len

/-- The I2C transfer that PORT_I2Cq_CMD and the buffer ask for (R91). -/
def i2cTransfer (s : State) (q : Nat) : Out :=
  let cmd := Reg.PORT_I2Cq_CMD q
  .i2c q (rf s cmd 6 0) (rb s cmd 7) (if rb s cmd 24 then none else some (rf s cmd 15 8))
    (if rb s cmd 7 then [] else (i2cBuffer s q).take (rf s cmd 21 16)) (rf s cmd 21 16)

/-- The state after a dword with BUSY starts an I2C transfer. -/
def i2cStarted (s : State) (q v : Nat) : State :=
  let u := regWrite s (Reg.PORT_I2Cq_CMD q) (BitVec.ofNat 64 v)
  emit u (i2cTransfer u q)

theorem i2cCommand_busy {s : State} {q v : Nat} (go : v / 2 ^ 31 % 2 = 1) (busy : rb s (Reg.PORT_I2Cq_CMD q) 31 = true) :
    i2cCommand s q v = s := by
  rw [i2cCommand, if_pos ⟨go, busy⟩]

theorem i2cCommand_idle {s : State} {q v : Nat} (go : v / 2 ^ 31 % 2 = 1) (idle : rb s (Reg.PORT_I2Cq_CMD q) 31 = false) :
    i2cCommand s q v = i2cStarted s q v := by
  rw [i2cCommand, if_neg (by simp [idle]), if_pos go]
  rfl

/-- What an I2C transfer that starts leaves: BUSY in the command register, and the transfer sent. -/
theorem i2cStarted_spec {q : Nat} (row : findRow (Reg.PORT_I2Cq_CMD q) = some i2cRow) (value : BitVec 32) (read : Bool)
    (s : State) {len : Nat} (hlen : len = value.toNat / 2 ^ 16 % 64) (low : 1 ≤ len) (high : len ≤ 32) :
    let t := i2cStarted s q (i2cValue value.toNat read)
    rb t (Reg.PORT_I2Cq_CMD q) 31 = true ∧
      Only s t [Reg.PORT_I2Cq_CMD q] [] [i2cAsked s q len value read] := by
  obtain ⟨dword, go, device, direction, register, length, noReg⟩ := i2cValue_fields value.toNat read
  rw [← hlen] at length
  have allowed := reservedBits_i2cRow dword (length ▸ low) (length ▸ high)
  have busy := rb_regWrite_w1s s row allowed 31 (by decide) (by decide) rfl go
  have address := (rf_regWrite_rw s row allowed 6 0 dword (by decide) (by decide) rfl).trans device
  have reading := rb_regWrite_rw s row allowed 7 (by decide) (by decide) (by decide) rfl
  have register := (rf_regWrite_rw s row allowed 15 8 dword (by decide) (by decide) rfl).trans register
  have bytes := (rf_regWrite_rw s row allowed 21 16 dword (by decide) (by decide) rfl).trans length
  have bare := rb_regWrite_rw s row allowed 24 (by decide) (by decide) (by decide) rfl
  have only := (regWrite_only (s := s) row allowed).2
  have buffer : i2cBuffer _ q = i2cBuffer s q := i2cBuffer_congr fun n => only.regs _ (by simpa using i2cData_ne_cmd q n)
  have asked : decide (b2n read = 1) = read := by cases read <;> rfl
  rw [direction, asked] at reading
  rw [noReg, ← getLsbD_eq_decide] at bare
  generalize written : regWrite s (Reg.PORT_I2Cq_CMD q) (BitVec.ofNat 64 (i2cValue value.toNat read)) = u at *
  have transfer : i2cTransfer u q = i2cAsked s q len value read := by
    rw [i2cTransfer, address, reading, register, bytes, bare, buffer, i2cAsked]
  rw [i2cStarted, written, transfer]
  exact ⟨busy, only.emit _⟩

/-- A command that writes the dword of an I2C transfer is ignored while BUSY, and otherwise starts it. -/
theorem i2cCommand_spec (bus : Fin 16) (value : BitVec 32) (read : Bool) (s : State) {c : Instr}
    (hc : exec c s = .next (i2cCommand s bus.val (i2cValue value.toNat read))) :
    let q := bus.val
    let cmd := Reg.PORT_I2Cq_CMD q
    let len := value.toNat / 2 ^ 16 % 64
    (rb s cmd 31 = true → exec c s = .next s) ∧
    (rb s cmd 31 = false → 1 ≤ len → len ≤ 32 → ∃ t, exec c s = .next t ∧ rb t cmd 31 = true ∧
      Only s t [cmd] [] [i2cAsked s q len value read]) := by
  intro q cmd len
  obtain ⟨-, go, -⟩ := i2cValue_fields value.toNat read
  refine ⟨fun busy => ?_, fun idle low high => ⟨_, ?_, i2cStarted_spec (findRow_i2cCmd bus) value read s rfl low high⟩⟩
  · rw [hc, i2cCommand_busy go busy]
  · rw [hc, i2cCommand_idle go idle]

/-! ### The end of an I2C transfer -/

theorem leNat_lt (bs : List Byte) : leNat bs < 256 ^ bs.length := by
  induction bs with
  | nil => decide
  | cons b bs ih =>
    have cons : leNat (b :: bs) = b.toNat + 256 * leNat bs := rfl
    have byte : b.toNat < 256 := b.isLt
    rw [cons, List.length_cons, Nat.pow_succ]
    omega

theorem leAt_lt (bs : List Byte) (off len : Nat) : leAt bs off len < 256 ^ len :=
  Nat.lt_of_lt_of_le (leNat_lt _) (Nat.pow_le_pow_right (by decide) (List.length_take_le ..))

/-- Writing one named register after another. -/
theorem Only.foldl_wrn {s : State} {as : List Nat} {occ : List (Nat × Nat × Nat)} {outs : List Out} (a v : Nat → Nat) :
    ∀ (l : List Nat), (∀ n ∈ l, a n ∈ as) → ∀ {t : State}, Only s t as occ outs →
      Only s (l.foldl (fun u n => wrn u (a n) (v n)) t) as occ outs
  | [], _, _, h => h
  | n :: l, named, _, h =>
    Only.foldl_wrn a v l (fun m hm => named m (List.mem_cons_of_mem _ hm)) (h.wr _ (named n List.mem_cons_self))

/-- The buffer's 32 bytes put into its eight registers. -/
def i2cPut (s : State) (q : Nat) (buf : List Byte) : State :=
  (List.range 8).foldl (fun u n => wrn u (Reg.PORT_I2Cq_DATAn q n) (leAt buf (4 * n) 4)) s

theorem rd_i2cPut_cmd (s : State) (q : Nat) (buf : List Byte) :
    rd (i2cPut s q buf) (Reg.PORT_I2Cq_CMD q) = rd s (Reg.PORT_I2Cq_CMD q) :=
  foldl_view (rd · (Reg.PORT_I2Cq_CMD q)) _ _ fun n _ _ => rd_wrn_ne _ (i2cData_ne_cmd q n).symm

theorem rdn_i2cPut_data (s : State) (q : Nat) (buf : List Byte) {n : Nat} (hn : n < 8) :
    rdn (i2cPut s q buf) (Reg.PORT_I2Cq_DATAn q n) = leAt buf (4 * n) 4 := by
  have apart (m : Nat) (ne : m ≠ n) (u : State) :
      rd (wrn u (Reg.PORT_I2Cq_DATAn q m) (leAt buf (4 * m) 4)) (Reg.PORT_I2Cq_DATAn q n) = rd u (Reg.PORT_I2Cq_DATAn q n) :=
    rd_wrn_ne _ (by simp only [Reg.PORT_I2Cq_DATAn]; omega)
  obtain ⟨u, -, put⟩ := foldl_range_view (rd · (Reg.PORT_I2Cq_DATAn q n)) apart hn s
  rw [rdn, i2cPut, put, ← rdn, rdn_wrn_same]
  exact Nat.mod_eq_of_lt (Nat.lt_trans (leAt_lt ..) (by decide))

theorem i2cDone_nack {s : State} {q : Nat} (data : List Byte) (busy : rb s (Reg.PORT_I2Cq_CMD q) 31 = true) :
    i2cDone s q true data = wf (wf s (Reg.PORT_I2Cq_CMD q) 31 31 0) (Reg.PORT_I2Cq_STATUS q) 0 0 1 := by
  rw [i2cDone, if_neg (by simp [busy]), if_pos rfl]

theorem i2cDone_written {s : State} {q : Nat} (data : List Byte) (busy : rb s (Reg.PORT_I2Cq_CMD q) 31 = true)
    (writing : rb s (Reg.PORT_I2Cq_CMD q) 7 = false) : i2cDone s q false data = wf s (Reg.PORT_I2Cq_CMD q) 31 31 0 := by
  simp [i2cDone, busy, writing]

theorem i2cDone_read {s : State} {q : Nat} (data : List Byte) (busy : rb s (Reg.PORT_I2Cq_CMD q) 31 = true)
    (reading : rb s (Reg.PORT_I2Cq_CMD q) 7 = true) :
    i2cDone s q false data = i2cPut (wf s (Reg.PORT_I2Cq_CMD q) 31 31 0) q
      (overwrite (i2cBuffer s q) 0 (data.take (rf s (Reg.PORT_I2Cq_CMD q) 21 16))) := by
  have len : rf (wf s (Reg.PORT_I2Cq_CMD q) 31 31 0) (Reg.PORT_I2Cq_CMD q) 21 16 = rf s (Reg.PORT_I2Cq_CMD q) 21 16 :=
    rf_wf_ne 0 (.inr (.inl (by decide)))
  have buffer : i2cBuffer (wf s (Reg.PORT_I2Cq_CMD q) 31 31 0) q = i2cBuffer s q :=
    i2cBuffer_congr fun n => rd_wf_ne _ _ _ (i2cData_ne_cmd q n)
  simp [i2cDone, busy, reading, len, buffer, i2cPut]

theorem exec_i2cTimeout_busy {bus : Fin 16} {s : State} (busy : rb s (Reg.PORT_I2Cq_CMD bus.val) 31 = true) :
    exec (.i2cTimeout bus) s =
      .next (wf (wf s (Reg.PORT_I2Cq_CMD bus.val) 31 31 0) (Reg.PORT_I2Cq_STATUS bus.val) 1 1 1) := by
  rw [exec, execI2cTimeout, if_pos busy]

/-- A transfer that ends with bit i of its STATUS: BUSY clear, the bit set, and nothing else. -/
theorem i2cEnded_spec (s : State) (q : Nat) {i : Nat} (hi : i < 64) :
    let cmd := Reg.PORT_I2Cq_CMD q
    let t := wf (wf s cmd 31 31 0) (Reg.PORT_I2Cq_STATUS q) i i 1
    rd t cmd = setFld (rd s cmd) 31 31 0 ∧ rb t (Reg.PORT_I2Cq_STATUS q) i = true ∧
      Only s t [cmd, Reg.PORT_I2Cq_STATUS q] [] [] := by
  intro cmd t
  refine ⟨?_, ?_, ?_⟩
  · rw [rd_wf_ne _ _ _ (i2cStatus_ne_cmd q).symm, rd_wf_same]
  · rw [rb_wf_same, if_pos ⟨Nat.le_refl i, Nat.le_refl i, hi⟩, Nat.sub_self]
    rfl
  · exact (((Only.refl s).mono (by simp)).wr _ (by simp)).wr _ (by simp)

/-- Settles O24: the dword of a row reads back in its command register's fields, from which the frame or transfer is formed; an
end writes BUSY, STATUS and the data alone. -/
theorem managementBuses : Obligations.ManagementBuses := by
  unfold Obligations.ManagementBuses
  refine ⟨?mdio, ?mdioEnd, ?i2c, ?i2cEnd⟩
  case mdio =>
    intro bus value s
    exact ⟨mdioCommand_spec bus value s (by decide) rfl, mdioCommand_spec bus value s (by decide) rfl,
      mdioCommand_spec bus value s (by decide) rfl, mdioCommand_spec bus value s (by decide) rfl⟩
  case mdioEnd =>
    intro bus data s cmd busy
    exact ⟨_, congrArg Host.Outcome.next (mdioDone_busy _ busy), rd_mdioEnded_cmd .., rdn_mdioEnded_data s _ (mdioRead_lt data),
      mdioEnded_only ..⟩
  case i2c =>
    intro bus value s
    exact ⟨i2cCommand_spec bus value true s rfl, i2cCommand_spec bus value false s rfl⟩
  case i2cEnd =>
    intro bus s q cmd busy
    refine ⟨fun nack data => ⟨i2cDone s q nack data, rfl, ?_⟩, _, exec_i2cTimeout_busy busy, i2cEnded_spec s q (by decide)⟩
    cases nack with
    | true =>
      obtain ⟨idle, shown, only⟩ := i2cEnded_spec s q (i := 0) (by decide)
      rw [i2cDone_nack data busy]
      exact ⟨idle, fun _ => ⟨shown, only⟩, nofun, nofun⟩
    | false =>
      have done (as : List Nat) : Only s (wf s cmd 31 31 0) (cmd :: as) [] [] := ((Only.refl s).mono (by simp)).wr _ (by simp)
      cases direction : rb s cmd 7 with
      | false =>
        rw [i2cDone_written data busy direction]
        exact ⟨rd_wf_same .., nofun, fun _ _ => done [], nofun⟩
      | true =>
        rw [i2cDone_read data busy direction]
        refine ⟨?_, nofun, nofun, fun _ _ => ⟨fun n hn => rdn_i2cPut_data _ _ _ hn, ?_⟩⟩
        · rw [rd_i2cPut_cmd, rd_wf_same]
        · exact Only.foldl_wrn _ _ _ (fun n hn => List.mem_cons_of_mem _ (List.mem_map_of_mem hn)) (done _)

end Sys2Proof.Machine
end

section
/-! SUPPORT. The parser's hashes and class selection (05_grist_parser.md), dword accesses of BAR0 in an awake hummock, and what the
writes that have rows of their own leave: MERE_Qq_EGRESS_CELLS, PORT_LANEl_CTRL and DEEP_CHc_CMD, and the read of a MIB counter. -/
namespace Sys2Proof.Machine

/-! ### The hashes of a flow key -/

theorem toBE_four (v : Nat) :
    toBE 4 v = [BitVec.ofNat 8 (v / 256 / 256 / 256), BitVec.ofNat 8 (v / 256 / 256), BitVec.ofNat 8 (v / 256),
      BitVec.ofNat 8 v] := rfl

/-- Settles O8: the seed's four bytes, most significant first, stand before the input string of the second hash. -/
theorem hashesAreCrc32c : Obligations.HashesAreCrc32c := by
  unfold Obligations.HashesAreCrc32c
  intro seed k dword
  refine ⟨rfl, _, _, _, _, ?_, by rw [keyHash, toBE_four]; rfl⟩
  simp only [BitVec.toNat_ofNat]
  omega

/-! ### GRIST_CLSEL_WRITE -/

theorem natFld_eq_div_mod (v hi lo : Nat) : natFld v hi lo = v / 2 ^ lo % 2 ^ (hi + 1 - lo) := by
  rw [natFld, Nat.shiftRight_eq_div_pow]

/-- A field of a register that a dword was put into. -/
theorem rf_wrn_same (s : State) (a hi lo : Nat) {n : Nat} (dword : n < 2 ^ 32) :
    rf (wrn s a n) a hi lo = n / 2 ^ lo % 2 ^ (hi + 1 - lo) := by
  rw [rf, rd_wrn_same, fld_ofNat hi lo dword]

/-- What GRIST_CLSELi stores of a dword: CLASS, ADD_PRIO and bits [10:8]. -/
def clselStored (v : Nat) : Nat := v % 64 + v / 64 % 2 * 64 + v / 256 % 8 * 256

theorem clselWrite_allowed (s : State) (i : Nat) {v : Nat} (h : ¬ (v / 64 % 2 = 1 ∧ 57 ≤ v % 64)) :
    clselWrite s i v = wrn s (Reg.GRIST_CLSELi i) (clselStored v) := by
  have cls : natFld v 5 0 = v % 64 := by rw [natFld_eq_div_mod]; omega
  have add : natFld v 6 6 = v / 64 % 2 := natFld_eq_div_mod ..
  have high : natFld v 10 8 = v / 256 % 8 := natFld_eq_div_mod ..
  have pair : ¬ (v / 64 % 2 = 1 ∧ 57 ≤ v % 64 ∧ 57 ≤ v % 64) := fun ⟨one, big, _⟩ => h ⟨one, big⟩
  rw [clselWrite]
  simp only [cls, add, high, if_neg h, if_neg pair]
  rfl

theorem wrn_clselStored_spec (s : State) (a v : Nat) :
    let t := wrn s a (clselStored v)
    rf t a 6 0 = v % 128 ∧ rf t a 10 8 = v / 256 % 8 ∧ Only s t [a] [] [] := by
  have dword : clselStored v < 2 ^ 32 := by rw [clselStored]; omega
  refine ⟨?_, ?_, ((Only.refl s).mono (by simp)).wr _ (by simp)⟩
  · rw [rf_wrn_same s a 6 0 dword, clselStored]; omega
  · rw [rf_wrn_same s a 10 8 dword, clselStored]; omega

/-! ### Dwords in byte order, and the map's arrays -/

theorem length_toLE (n v : Nat) : (toLE n v).length = n := by
  induction n generalizing v with
  | zero => rfl
  | succ n ih => rw [toLE, List.length_cons, ih]

theorem leNat_toLE (n v : Nat) : leNat (toLE n v) = v % 256 ^ n := by
  induction n generalizing v with
  | zero => rw [Nat.pow_zero, Nat.mod_one]; rfl
  | succ n ih =>
    have cons : leNat (toLE (n + 1) v) = (BitVec.ofNat 8 v).toNat + 256 * leNat (toLE n (v / 256)) := rfl
    have byte : (BitVec.ofNat 8 v).toNat = v % 256 := BitVec.toNat_ofNat ..
    rw [cons, byte, ih, Nat.pow_succ, Nat.mul_comm (256 ^ n), Nat.mod_mul]

theorem arrayIdx_some {first stride count a i : Nat} (ha : a = first + stride * i) (hs : 0 < stride) (hi : i < count) :
    arrayIdx first stride count a = some i := by
  have off : a - first = stride * i := by omega
  rw [arrayIdx, off, Nat.mul_mod_right, Nat.mul_div_cancel_left _ hs, if_pos ⟨by omega, rfl, hi⟩]

/-! ### Rows of the register map -/

theorem findRow_port {a : Nat} (low : 0x400000 ≤ a) (high : a ≤ 0x7fffff) : findRow a = rowOf rowsPort a := by
  have found : regMap.find? (fun b => decide (b.1 ≤ a ∧ a ≤ b.2.1)) = some (0x400000, 0x7fffff, rowsPort) := by
    have chip : ¬ a ≤ 0xfffff := by omega
    have bill : ¬ a ≤ 0x1fffff := by omega
    have core : ¬ a ≤ 0x3fffff := by omega
    simp [regMap, low, high, chip, bill, core]
  rw [findRow, found]

theorem rowOf_miss {r : RegRow} {t : List RegRow} {a : Nat} (h : dimsHit r.dims (a - r.base) = false) :
    rowOf (r :: t) a = rowOf t a := by
  rw [rowOf, h, Bool.and_false, if_neg Bool.false_ne_true]

theorem rowOf_hit {r : RegRow} {t : List RegRow} {a : Nat} (low : r.base ≤ a) (h : dimsHit r.dims (a - r.base) = true) :
    rowOf (r :: t) a = some r := by
  rw [rowOf, h, decide_eq_true low, Bool.and_self, if_pos rfl]

/-- The row of PORT_LANEl_CNTk (R95). -/
def mibRow : RegRow :=
  { base := 0x400800, dims := [(16, 0x10000), (4, 0x100), (22, 0x8)], width := 8, ro := 0xffffffffffffffff }

/-- None of the rows before it has a register at the place of a counter. -/
theorem findRow_mib {l k : Nat} (hl : l < 64) (hk : k < 22) : findRow (Reg.PORT_LANEl_CNTk l k) = some mibRow := by
  have place : Reg.PORT_LANEl_CNTk l k = 0x400800 + (0x10000 * (l / 4) + 0x100 * (l % 4) + 8 * k) := by
    simp only [Reg.PORT_LANEl_CNTk]; omega
  rw [findRow_port (by omega) (by omega), place, rowsPort]
  iterate 11
    refine (rowOf_miss ?_).trans ?_
    · simp only [dimsHit, Bool.and_eq_false_iff, decide_eq_false_iff_not, beq_eq_false_iff_ne]; omega
  refine rowOf_hit (Nat.le_add_right ..) ?_
  simp only [dimsHit, Bool.and_eq_true, decide_eq_true_iff, beq_iff_eq]
  omega

/-- The row of PORT_LANEl_CTRL (R95). -/
def laneCtrlRow : RegRow := { base := 0x400100, dims := [(16, 0x10000), (4, 0x100)], rw := 0x77, w1s := 0x8 }

theorem findRow_laneCtrl : ∀ lane : Fin 64, findRow (Reg.PORT_LANEl_CTRL lane.val) = some laneCtrlRow := by decide

/-- The row of MERE_Qq_EGRESS_CELLS (R325). -/
def egressCellsRow : RegRow :=
  { base := 0x1c01000, dims := [(16, 0x100)], reset := 0x1800, rw := 0x3fff, valid := [(13, 0, [(2048, 8192)])] }

theorem findRow_egressCells : ∀ quad : Fin 16, findRow (Reg.MERE_Qq_EGRESS_CELLS quad.val) = some egressCellsRow := by decide

/-- The row of DEEP_CHc_CMD (R248). -/
def deepCmdRow : RegRow :=
  { base := 0x1400004, dims := [(64, 0x10000)], rw := 0x3f0f, w1s := 0x80000000, valid := [(2, 0, [(0, 3)])] }

theorem findRow_deepCmd : ∀ ch : Fin 64, findRow (Reg.DEEP_CHc_CMD ch.val) = some deepCmdRow := by decide

/-! ### The hummocks of the rows -/

/-- The 64 KiB of quad q in the PORT block lie in hummock q (R95). -/
theorem bar0Hummock_quad {a q : Nat} (low : 0x400000 + 0x10000 * q ≤ a) (high : a < 0x400000 + 0x10000 * (q + 1)) (hq : q < 16) :
    bar0Hummock a = some q := by
  have port : decide (0x00400000 ≤ a ∧ a < 0x00400000 + 0x100000) = true := decide_eq_true (by omega)
  have quad : (a - 0x00400000) / 0x10000 = q := by omega
  simp only [bar0Hummock, port, if_true, quad]

theorem bar0Hummock_egressCells : ∀ quad : Fin 16, bar0Hummock (Reg.MERE_Qq_EGRESS_CELLS quad.val) = some quad.val := by decide

theorem bar0Hummock_deepCmd : ∀ ch : Fin 64, bar0Hummock (Reg.DEEP_CHc_CMD ch.val) = some (20 + ch.val / 8) := by decide

/-! ### Activity in a hummock -/

section
variable {s t : State} {as : List Nat} {occ : List (Nat × Nat × Nat)} {outs : List Out}

theorem Only.hummocks (only : Only s t as occ outs) : t.hummocks = s.hummocks := by
  have rest := congrArg State.hummocks only.rest
  exact rest

theorem Only.bill (only : Only s t as occ outs) : t.bill = s.bill := by
  have rest := congrArg State.bill only.rest
  exact rest

/-- Activity changes the idle timer of the hummock alone. -/
theorem Only.of_touch {h : Nat} (only : Only (touch s h) t as occ outs) :
    Only { s with hummocks := t.hummocks } t as occ outs := by
  rw [only.hummocks]
  exact only

end

theorem reach_awake {s : State} {h : Nat} (awake : humState s h = 0) : reach s h = (.serve, touch s h) := by
  simp only [reach, awake]

/-! ### A dword written to a register of an awake hummock -/

theorem regAt_row {a : Nat} {r : RegRow} (row : findRow a = some r) : regAt a = some (a, r, 0) := by
  rw [regAt, row]

theorem bar0Write_dword {s : State} {a v h : Nat} {r : RegRow} (x : Around) (row : findRow a = some r) (width : r.width = 4)
    (aligned : a % 4 = 0) (home : bar0Hummock a = some h) (awake : humState s h = 0) (dword : v < 2 ^ 32) :
    bar0Write s x a (toLE 4 v) true = regSet (touch s h) x a (BitVec.ofNat 64 v) := by
  have value : leNat (toLE 4 v) = v := (leNat_toLE 4 v).trans (Nat.mod_eq_of_lt dword)
  simp [bar0Write, bar0Put, length_toLE, aligned, regAt_row row, shapeBad, width, home, reach_awake awake, regPut, value]

/-! ### EGRESS_CELLS_WRITE -/

theorem regSet_egressCells (s : State) (x : Around) {q : Nat} (v : W64) (hq : q < 16) :
    regSet s x (Reg.MERE_Qq_EGRESS_CELLS q) v = egressCells s q v.toNat (billDrained s) := by
  have place : Reg.MERE_Qq_EGRESS_CELLS q = 0x01C01000 + 0x100 * q := rfl
  have block : regSet s x (Reg.MERE_Qq_EGRESS_CELLS q) v = writeMereEgress s (Reg.MERE_Qq_EGRESS_CELLS q) v := by
    rw [regSet, place, if_neg (by omega), if_neg (by omega), if_neg (by omega), if_neg (by omega), if_neg (by omega),
      if_neg (by omega), if_pos (by omega)]
  have index : arrayIdx (Reg.MERE_Qq_EGRESS_CELLS 0) 0x100 16 (Reg.MERE_Qq_EGRESS_CELLS q) = some q :=
    arrayIdx_some rfl (by decide) hq
  rw [block, writeMereEgress, index]

theorem exec_egressCellsWrite {quad : Fin 16} {s : State} (v : BitVec 32) (awake : humState s quad.val = 0) :
    exec (.egressCellsWrite quad v) s =
      .next (pump (egressCells (touch s quad.val) quad.val v.toNat (billDrained (touch s quad.val)))) := by
  have aligned : Reg.MERE_Qq_EGRESS_CELLS quad.val % 4 = 0 := by simp only [Reg.MERE_Qq_EGRESS_CELLS]; omega
  have value : (BitVec.ofNat 64 v.toNat).toNat = v.toNat := by rw [BitVec.toNat_ofNat]; omega
  rw [exec, execEgressCellsWrite, rowWrite, bar0Write_dword _ (findRow_egressCells quad) rfl aligned
    (bar0Hummock_egressCells quad) awake v.isLt, regSet_egressCells _ _ _ quad.isLt, value]

theorem egressCells_allowed {s : State} {q n : Nat} (low : 2048 ≤ n % 2 ^ 14) (high : n % 2 ^ 14 ≤ 8192)
    (room : 1024 ≤ sharedCells s q (n % 2 ^ 14)) :
    egressCells s q n true = wf s (Reg.MERE_Qq_EGRESS_CELLS q) 13 0 n := by
  rw [egressCells, if_neg (by decide), if_neg (by omega)]

theorem egressCells_undrained (s : State) (q n : Nat) :
    egressCells s q n false = accReport s 6 0 true (Reg.MERE_Qq_EGRESS_CELLS q) := if_pos rfl

/-! ### A MIB counter's low word -/

theorem shown_port {s : State} {a : Nat} (low : 0x400000 ≤ a) (high : a < 0x800000) : shown s a = rd s a := by
  rw [shown, viewOf, if_neg (by omega), if_neg (by omega), if_pos high, Option.getD_none]

theorem regShown_mib {s : State} {l k : Nat} (hl : l < 64) (hk : k < 22) :
    regShown s (Reg.PORT_LANEl_CNTk l k) mibRow = rdn s (Reg.PORT_LANEl_CNTk l k) := by
  have readable : BitVec.ofNat 64 (mibRow.rw ||| mibRow.ro ||| mibRow.rc ||| mibRow.w1s ||| mibRow.w1c) = BitVec.allOnes 64 := by
    decide
  rw [regShown, if_neg (by decide), readable, BitVec.and_allOnes, shown_port _ _, rdn] <;>
    simp only [Reg.PORT_LANEl_CNTk] <;> omega

theorem mibAt_cnt {l k : Nat} (hl : l < 64) (hk : k < 22) : mibAt (Reg.PORT_LANEl_CNTk l k) = some (l, k) := by
  have place : Reg.PORT_LANEl_CNTk l k = 0x400800 + (0x10000 * (l / 4) + 0x100 * (l % 4) + 8 * k) := by
    simp only [Reg.PORT_LANEl_CNTk]; omega
  rw [mibAt, place, if_pos (by omega)]
  congr 2 <;> omega

/-- The low word leaves, and the high word is latched (R93). -/
theorem bar0Read_mib {s : State} {l k : Nat} (hl : l < 64) (hk : k < 22) (awake : humState s (l / 4) = 0) :
    bar0Read s (Reg.PORT_LANEl_CNTk l k) 4 =
      emit (latchCounter (touch s (l / 4)) l k) (.readData (toLE 4 (rdn s (Reg.PORT_LANEl_CNTk l k) % 2 ^ 32))) := by
  have aligned : Reg.PORT_LANEl_CNTk l k % 4 = 0 := by simp only [Reg.PORT_LANEl_CNTk]; omega
  have home : bar0Hummock (Reg.PORT_LANEl_CNTk l k) = some (l / 4) := by
    refine bar0Hummock_quad ?_ ?_ (by omega) <;> simp only [Reg.PORT_LANEl_CNTk] <;> omega
  have value : regShown (touch s (l / 4)) (Reg.PORT_LANEl_CNTk l k) mibRow = rdn s (Reg.PORT_LANEl_CNTk l k) := regShown_mib hl hk
  simp [bar0Read, bar0Fetch, aligned, regAt_row (findRow_mib hl hk), shapeBad, home, reach_awake awake, mibAt_cnt hl hk, mibRead,
    value]

theorem latch_latchCounter (s : State) (l k : Nat) :
    tabFind (laneOf (latchCounter s l k) l).latch k = some (rdn s (Reg.PORT_LANEl_CNTk l k) / 2 ^ 32) := by
  rw [latchCounter, laneOf_lanePut, if_pos rfl, tabFind_tabSet, if_pos rfl]

/-! ### What the loss of a link leaves in the registers -/

theorem frameCheck_regs (s : State) (f : Nat) : (frameCheck s f).regs = s.regs := by
  unfold frameCheck
  split
  · rfl
  · split
    · rfl
    · extract_lets cs crossed u ended
      have kept : u.regs = s.regs := by
        unfold u
        split <;> rfl
      split <;> exact kept

theorem copyGone_regs (s : State) (n : Nat) : (copyGone s n).regs = s.regs := by
  unfold copyGone
  split
  · rfl
  · extract_lets mere u shared mereBefore w
    have kept : w.regs = s.regs := by
      unfold w
      split <;> rfl
    rw [frameCheck_regs, kept]

@[simp] theorem rd_copyGone (s : State) (n a : Nat) : rd (copyGone s n) a = rd s a := by
  rw [rd, copyGone_regs, ← rd]

@[simp] theorem rd_noteDown (s : State) (l a : Nat) : rd (noteDown s l) a = rd s a := by
  rw [noteDown]
  split <;> rfl

/-- The registers that count at the loss of port p's link, but for its STATUS. -/
def lossRegs (p : Nat) : List Nat :=
  [Reg.PORT_LANEl_CNTk p 11, Reg.PORT_LANEl_CNTk p 17, Reg.PORT_LANEl_CNTk p 21, Reg.EGRESS_PORTp_DOWN_DROPS p]

@[simp] theorem rd_eportPut (s : State) (p : Nat) (x : EgressPort) (a : Nat) : rd (eportPut s p x) a = rd s a := rfl

theorem rd_mib {s : State} {p k n a : Nat} (ha : a ≠ Reg.PORT_LANEl_CNTk p k) : rd (mib s p k n) a = rd s a := rd_wrn_ne _ ha

section
variable {s : State} {p a : Nat} (ha : a ∉ lossRegs p)
include ha

theorem rd_downOn : rd (downOn s p) a = rd s a := by
  unfold downOn
  split
  · rfl
  · split
    · rfl
    · extract_lets cs
      split
      · rfl
      · rw [rd_raise]
        refine foldl_view (rd · a) _ _ fun c _ u => ?_
        rw [rd_copyGone, rd_cnt_ne _ fun e => ha (by simp [lossRegs, e])]

theorem rd_cutOff (sent : Nat) : rd (cutOff s p sent) a = rd s a := by
  have sentBytes : a ≠ Reg.PORT_LANEl_CNTk p 11 := fun e => ha (by simp [lossRegs, e])
  have cutFrames : a ≠ Reg.PORT_LANEl_CNTk p 17 := fun e => ha (by simp [lossRegs, e])
  unfold cutOff
  extract_lets x u
  have current : rd u a = rd s a := by
    unfold u
    split
    · rfl
    · split
      · rfl
      · rw [rd_copyGone, rd_eportPut, rd_mib cutFrames, rd_emit, rd_mib sentBytes]
  split
  · exact current
  · rw [rd_copyGone, rd_eportPut, rd_mib cutFrames, current]

theorem rd_portDown (sent : Nat) : rd (portDown s p sent) a = rd s a := by
  have cut : rd (cutOff (noteDown s p) p sent) a = rd s a := by rw [rd_cutOff ha, rd_noteDown]
  unfold portDown
  extract_lets u
  split
  · rw [rd_downOn ha, cut]
  · exact cut

end

/-- Port p with its link lost, before what it was sending is cut off: LINK and AN_DONE clear, the event and the count (R79, R83). -/
def lossNoted (s : State) (p : Nat) : State :=
  let st := Reg.PORT_LANEl_STATUS p
  mib (laneEvent (wf (wf s st 0 0 0) st 3 3 0) p 1 (rdn s st)) p 21 1

theorem linkDownOn_cases (s : State) (p sent : Nat) :
    linkDownOn s p sent = s ∨ linkDownOn s p sent = portDown (lossNoted s p) p sent := by
  unfold linkDownOn
  extract_lets st
  split
  · exact .inl rfl
  · exact .inr rfl

theorem rd_lossNoted {s : State} {p a : Nat} (ha : a ∉ lossRegs p) :
    rd (lossNoted s p) a = rd (wf (wf s (Reg.PORT_LANEl_STATUS p) 0 0 0) (Reg.PORT_LANEl_STATUS p) 3 3 0) a := by
  rw [lossNoted, rd_mib fun e => ha (by simp [lossRegs, e]), laneEvent, rd_raise]

theorem laneCtrl_ne_status (l : Nat) : Reg.PORT_LANEl_CTRL l ≠ Reg.PORT_LANEl_STATUS l := by
  simp only [Reg.PORT_LANEl_CTRL, Reg.PORT_LANEl_STATUS]; omega

theorem notMem_lossRegs (l : Nat) :
    Reg.PORT_LANEl_CTRL l ∉ lossRegs l ∧ Reg.PORT_LANEl_STATUS l ∉ lossRegs l := by
  simp only [lossRegs, List.mem_cons, List.not_mem_nil, or_false, Reg.PORT_LANEl_CTRL, Reg.PORT_LANEl_STATUS, Reg.PORT_LANEl_CNTk,
    Reg.EGRESS_PORTp_DOWN_DROPS]
  omega

theorem rd_linkDownOn_ctrl (s : State) (l sent : Nat) :
    rd (linkDownOn s l sent) (Reg.PORT_LANEl_CTRL l) = rd s (Reg.PORT_LANEl_CTRL l) := by
  have away := (notMem_lossRegs l).1
  rcases linkDownOn_cases s l sent with h | h
  · rw [h]
  · rw [h, rd_portDown away, rd_lossNoted away, rd_wf_ne _ _ _ (laneCtrl_ne_status l), rd_wf_ne _ _ _ (laneCtrl_ne_status l)]

/-- The loss of a link does not set AN_DONE. -/
theorem anDone_linkDownOn {s : State} {l : Nat} (sent : Nat) (h : rb s (Reg.PORT_LANEl_STATUS l) 3 = false) :
    rb (linkDownOn s l sent) (Reg.PORT_LANEl_STATUS l) 3 = false := by
  have away := (notMem_lossRegs l).2
  rcases linkDownOn_cases s l sent with e | e
  · rw [e, h]
  · rw [e, rb, rd_portDown away, rd_lossNoted away, ← rb, rb_wf_same]
    rfl

/-! ### A write of PORT_LANEl_CTRL, in the order of `laneCtrl` -/

/-- The fields of CTRL are set; AN_RESTART reads 0. -/
def laneWritten (s : State) (l value : Nat) : State :=
  wf (regWrite s (Reg.PORT_LANEl_CTRL l) (BitVec.ofNat 64 value)) (Reg.PORT_LANEl_CTRL l) 3 3 0

/-- AN_RESTART of a port that negotiates clears AN_DONE. -/
def laneRestarted (s : State) (l value : Nat) : State :=
  if decide (value / 8 % 2 = 1) && isPort s l && laneNegotiates s l then wf s (Reg.PORT_LANEl_STATUS l) 3 3 0 else s

/-- The link and the port follow the enables (R79). -/
def laneFollowed (s : State) (l sent : Nat) : State :=
  if !isPort s l then s
  else if rf s (Reg.PORT_LANEl_CTRL l) 1 0 = 0 then wf (linkDownOn s l sent) (Reg.PORT_LANEl_STATUS l) 2 2 0
  else
    let s := noteDown s l
    if !portUp s l && rf s Reg.EGRESS_DOWN_TIMEOUT 15 0 == 0 then downOn s l else s

theorem laneCtrl_eq {s : State} {l : Nat} (value sent : Nat) (mode : portMode s l ≠ 7) :
    laneCtrl s l value sent = laneFollowed (laneRestarted (laneWritten s l value) l value) l sent := by
  rw [laneCtrl, if_neg mode]
  rfl

theorem rd_laneFollowed_ctrl (s : State) (l sent : Nat) :
    rd (laneFollowed s l sent) (Reg.PORT_LANEl_CTRL l) = rd s (Reg.PORT_LANEl_CTRL l) := by
  unfold laneFollowed
  split
  · rfl
  · split
    · rw [rd_wf_ne _ _ _ (laneCtrl_ne_status l), rd_linkDownOn_ctrl]
    · extract_lets u
      split
      · rw [rd_downOn (notMem_lossRegs l).1, rd_noteDown]
      · exact rd_noteDown ..

theorem anDone_laneFollowed {s : State} {l : Nat} (sent : Nat) (h : rb s (Reg.PORT_LANEl_STATUS l) 3 = false) :
    rb (laneFollowed s l sent) (Reg.PORT_LANEl_STATUS l) 3 = false := by
  unfold laneFollowed
  split
  · exact h
  · split
    · rw [rb_wf_same, if_neg (by decide), anDone_linkDownOn sent h]
    · extract_lets u
      split
      · rw [rb, rd_downOn (notMem_lossRegs l).2, rd_noteDown, ← rb, h]
      · rw [rb, rd_noteDown, ← rb, h]

theorem rd_laneRestarted_ctrl (s : State) (l value : Nat) :
    rd (laneRestarted s l value) (Reg.PORT_LANEl_CTRL l) = rd s (Reg.PORT_LANEl_CTRL l) := by
  rw [laneRestarted]
  split
  · exact rd_wf_ne _ _ _ (laneCtrl_ne_status l)
  · rfl

theorem anDone_laneRestarted {s : State} {l value : Nat} (restart : value / 8 % 2 = 1) (port : isPort s l = true)
    (negotiates : laneNegotiates s l = true) : rb (laneRestarted s l value) (Reg.PORT_LANEl_STATUS l) 3 = false := by
  rw [laneRestarted, if_pos (by simp [restart, port, negotiates]), rb_wf_same]
  rfl

theorem laneWritten_only {s : State} (lane : Fin 64) (value : Nat) :
    Only s (laneWritten s lane.val value) [Reg.PORT_LANEl_CTRL lane.val] [] [] :=
  (regWrite_only (findRow_laneCtrl lane) (reservedBits_nil _ _ rfl)).2.wr _ (by simp)

theorem laneWritten_fields (s : State) (lane : Fin 64) {value : Nat} (dword : value < 2 ^ 32) :
    let t := laneWritten s lane.val value
    let a := Reg.PORT_LANEl_CTRL lane.val
    rf t a 1 0 = value % 4 ∧ rf t a 2 0 = value % 8 ∧ rb t a 3 = false := by
  have allowed : reservedBits laneCtrlRow (BitVec.ofNat 64 value) = 0 := reservedBits_nil _ _ rfl
  have enables := rf_regWrite_rw s (findRow_laneCtrl lane) allowed 1 0 dword (by decide) (by decide) rfl
  have low := rf_regWrite_rw s (findRow_laneCtrl lane) allowed 2 0 dword (by decide) (by decide) rfl
  refine ⟨?_, ?_, ?_⟩
  · rw [laneWritten, rf_wf_ne 0 (.inr (.inl (by decide))), enables]; omega
  · rw [laneWritten, rf_wf_ne 0 (.inr (.inl (by decide))), low]; omega
  · rw [laneWritten, rb_wf_same]; rfl

/-- What a port is and whether it negotiates do not depend on CTRL. -/
theorem port_laneWritten (s : State) (lane : Fin 64) (value : Nat) :
    isPort (laneWritten s lane.val value) lane.val = isPort s lane.val ∧
      laneNegotiates (laneWritten s lane.val value) lane.val = laneNegotiates s lane.val := by
  have only := laneWritten_only (s := s) lane value
  have status : rd (laneWritten s lane.val value) (Reg.PORT_LANEl_STATUS lane.val) = rd s (Reg.PORT_LANEl_STATUS lane.val) :=
    only.regs _ (by simpa using (laneCtrl_ne_status lane.val).symm)
  have bill : (laneWritten s lane.val value).bill = s.bill := only.bill
  refine ⟨?_, ?_⟩
  · rw [isPort, portMode, rf, status, ← rf, ← portMode, ← isPort]
  · simp only [laneNegotiates, sec, section_, bill]

theorem laneCtrl_spec {s : State} (lane : Fin 64) {value : Nat} (sent : Nat) (mode : portMode s lane.val ≠ 7)
    (dword : value < 2 ^ 32) :
    let t := laneCtrl s lane.val value sent
    let a := Reg.PORT_LANEl_CTRL lane.val
    rf t a 1 0 = value % 4 ∧ rf t a 2 0 = value % 8 ∧ rb t a 3 = false ∧
      (value / 8 % 2 = 1 → isPort s lane.val = true → laneNegotiates s lane.val = true →
        rb t (Reg.PORT_LANEl_STATUS lane.val) 3 = false) := by
  intro t a
  obtain ⟨enables, low, restart⟩ := laneWritten_fields s lane dword
  obtain ⟨portKept, negotiatesKept⟩ := port_laneWritten s lane value
  have eq : t = laneFollowed (laneRestarted (laneWritten s lane.val value) lane.val value) lane.val sent := laneCtrl_eq _ _ mode
  have ctrl : rd t a = rd (laneWritten s lane.val value) a := by
    rw [eq, rd_laneFollowed_ctrl, rd_laneRestarted_ctrl]
  refine ⟨by rw [rf, ctrl]; exact enables, by rw [rf, ctrl]; exact low, by rw [rb, ctrl]; exact restart, ?_⟩
  intro asked port negotiates
  rw [eq]
  exact anDone_laneFollowed sent
    (anDone_laneRestarted asked (portKept.trans port) (negotiatesKept.trans negotiates))

/-! ### LANE_CTRL_WRITE and AN_RESTART -/

theorem regSet_laneCtrl (s : State) (x : Around) {l : Nat} (v : W64) (hl : l < 64) :
    regSet s x (Reg.PORT_LANEl_CTRL l) v = laneCtrl s l v.toNat (x.sent.getD l 0) := by
  have place : Reg.PORT_LANEl_CTRL l = 0x400000 + (0x10000 * (l / 4) + 0x100 + 0x100 * (l % 4)) := by
    simp only [Reg.PORT_LANEl_CTRL]; omega
  have block : regSet s x (Reg.PORT_LANEl_CTRL l) v = writePort s x (Reg.PORT_LANEl_CTRL l) v := by
    rw [regSet, place, if_neg (by omega), if_neg (by omega), if_pos (by omega)]
  have lane : 4 * ((Reg.PORT_LANEl_CTRL l - 0x400000) / 0x10000) +
      ((Reg.PORT_LANEl_CTRL l - 0x400000) % 0x10000 - 0x100) / 0x100 = l := by rw [place]; omega
  rw [block, writePort, if_pos (by rw [place]; omega), if_pos (by rw [place]; omega), lane]

/-- A dword written to PORT_LANEl_CTRL of an awake quad. -/
theorem bar0Write_laneCtrl {s : State} {lane : Fin 64} {value : Nat} (x : Around) (awake : humState s (lane.val / 4) = 0)
    (dword : value < 2 ^ 32) :
    bar0Write s x (Reg.PORT_LANEl_CTRL lane.val) (toLE 4 value) true =
      laneCtrl (touch s (lane.val / 4)) lane.val value (x.sent.getD lane.val 0) := by
  have aligned : Reg.PORT_LANEl_CTRL lane.val % 4 = 0 := by simp only [Reg.PORT_LANEl_CTRL]; omega
  have home : bar0Hummock (Reg.PORT_LANEl_CTRL lane.val) = some (lane.val / 4) := by
    refine bar0Hummock_quad ?_ ?_ (by omega) <;> simp only [Reg.PORT_LANEl_CTRL] <;> omega
  have number : (BitVec.ofNat 64 value).toNat = value := by rw [BitVec.toNat_ofNat]; omega
  rw [bar0Write_dword x (findRow_laneCtrl lane) rfl aligned home awake dword, regSet_laneCtrl _ _ _ lane.isLt, number]

/-- The dword that AN_RESTART writes: AN_RESTART beside the fields as they are. -/
def restartValue (s : State) (l : Nat) : Nat :=
  rdn s (Reg.PORT_LANEl_CTRL l) % 8 + 8 + rf s (Reg.PORT_LANEl_CTRL l) 6 4 * 16

theorem restartValue_fields (s : State) (l : Nat) :
    restartValue s l < 2 ^ 32 ∧ restartValue s l % 8 = rf s (Reg.PORT_LANEl_CTRL l) 2 0 ∧ restartValue s l / 8 % 2 = 1 := by
  have small : rf s (Reg.PORT_LANEl_CTRL l) 6 4 < 8 := fld_lt ..
  have low : rf s (Reg.PORT_LANEl_CTRL l) 2 0 = rdn s (Reg.PORT_LANEl_CTRL l) % 8 := by
    rw [rf, fld, natFld_eq_div_mod, rdn]; omega
  rw [low, restartValue]
  omega

theorem exec_laneCtrlWrite {lane : Fin 64} {s : State} (v : BitVec 32) (sent : Nat) (awake : humState s (lane.val / 4) = 0) :
    exec (.laneCtrlWrite lane v sent) s =
      .next (pump (laneCtrl (touch s (lane.val / 4)) lane.val v.toNat ((List.replicate 64 sent).getD lane.val 0))) := by
  rw [exec, execLaneCtrlWrite, rowWrite, bar0Write_laneCtrl _ awake v.isLt]

theorem exec_anRestart {lane : Fin 64} {s : State} (awake : humState s (lane.val / 4) = 0) :
    exec (.anRestart lane) s =
      .next (pump (laneCtrl (touch (aroundFree s).2 (lane.val / 4)) lane.val (restartValue s lane.val)
        ((aroundFree s).1.sent.getD lane.val 0))) := by
  have written : exec (.anRestart lane) s = .next (pump (bar0Write (aroundFree s).2 (aroundFree s).1
    (Reg.PORT_LANEl_CTRL lane.val) (toLE 4 (restartValue s lane.val)) true)) := rfl
  rw [written, bar0Write_laneCtrl (s := (aroundFree s).2) _ awake (restartValue_fields s lane.val).1]

/-! ### A command of a deep-memory channel -/

/-- The fields of DEEP_CHc_CMD are set, GO apart. -/
def deepWritten (s : State) (c v : Nat) : State := regWrite s (Reg.DEEP_CHc_CMD c) (BitVec.ofNat 64 (v % 2 ^ 31))

theorem deepCmdStatus_ne_cmd (c : Nat) : Reg.DEEP_CHc_CMD_STATUS c ≠ Reg.DEEP_CHc_CMD c := by
  simp only [Reg.DEEP_CHc_CMD_STATUS, Reg.DEEP_CHc_CMD]; omega

theorem deepStatus_ne_cmdStatus (c : Nat) : Reg.DEEP_CHc_STATUS c ≠ Reg.DEEP_CHc_CMD_STATUS c := by
  simp only [Reg.DEEP_CHc_STATUS, Reg.DEEP_CHc_CMD_STATUS]; omega

section
variable (s : State) (ch : Fin 64) {v : Nat} (named : v % 8 ≤ 3)
include named

/-- The operations 0 to 3 are named (R248). -/
theorem reservedBits_deepCmd : reservedBits deepCmdRow (BitVec.ofNat 64 (v % 2 ^ 31)) = 0 := by
  have op : fld (BitVec.ofNat 64 (v % 2 ^ 31)) 2 0 = v % 8 := by rw [fld_ofNat 2 0 (by omega)]; omega
  have listed : [(0, 3)].any (fun g : Nat × Nat => g.1 ≤ v % 8 && v % 8 ≤ g.2) = true := by simpa using named
  simp only [reservedBits, deepCmdRow, List.foldl_cons, List.foldl_nil, op, listed, if_true]

theorem deepWritten_only : Only s (deepWritten s ch.val v) [Reg.DEEP_CHc_CMD ch.val] [] [] :=
  (regWrite_only (findRow_deepCmd ch) (reservedBits_deepCmd named)).2

theorem deepWritten_fields :
    let t := deepWritten s ch.val v
    let a := Reg.DEEP_CHc_CMD ch.val
    rf t a 2 0 = v % 8 ∧ rf t a 3 3 = v / 8 % 2 ∧ rf t a 13 8 = v / 256 % 64 := by
  have field (hi lo : Nat) := rf_regWrite_rw s (findRow_deepCmd ch) (reservedBits_deepCmd named) hi lo (by omega)
  refine ⟨(field 2 0 (by decide) (by decide) rfl).trans ?_, (field 3 3 (by decide) (by decide) rfl).trans ?_,
    (field 13 8 (by decide) (by decide) rfl).trans ?_⟩ <;> omega

/-- The status of the last command is not touched. -/
theorem rd_deepWritten_cmdStatus :
    rd (deepWritten s ch.val v) (Reg.DEEP_CHc_CMD_STATUS ch.val) = rd s (Reg.DEEP_CHc_CMD_STATUS ch.val) :=
  (deepWritten_only s ch named).regs _ (by simpa using deepCmdStatus_ne_cmd ch.val)

end

theorem deepWritten_out_now (s : State) (ch : Fin 64) {v : Nat} (named : v % 8 ≤ 3) :
    (deepWritten s ch.val v).out = s.out ∧ nowNs (deepWritten s ch.val v) = nowNs s := by
  have only := deepWritten_only s ch named
  refine ⟨only.out, ?_⟩
  rw [nowNs, only.time, nowNs]

/-- ZQ starts on rank r of channel c, with RESULT 0; its latch is due 1 µs later (R242). -/
def zqStarted (s : State) (c r : Nat) : State :=
  let u := wf s (Reg.DEEP_CHc_CMD_STATUS c) 3 1 0
  emit (drankPut u c r { drank u c r with zqDue := some (nowNs u + 1000) }) (.dram c r .zqStart 0 0 0)

/-- The mode register that MR names is read on rank r of channel c, with RESULT 0 and the data (R248). -/
def modeShown (s : State) (c r mr data : Nat) : State :=
  let st := Reg.DEEP_CHc_CMD_STATUS c
  wf (wf (emit s (.dram c r .modeRead 0 mr 0)) st 3 1 0) st 15 8 data

/-- GO, while BUSY reads 0: the operation that the fields name starts. -/
theorem deepCommand_go {s : State} {ch : Fin 64} {v : Nat} (data : Nat) (go : v / 2 ^ 31 % 2 = 1)
    (idle : rb s (Reg.DEEP_CHc_CMD_STATUS ch.val) 0 = false) (named : v % 8 ≤ 3) :
    let w := deepWritten s ch.val v
    (v % 8 = 1 → deepCommand s ch.val v data = retrainAsk w ch.val true) ∧
    (v % 8 = 2 → deepCommand s ch.val v data = zqStarted w ch.val (v / 8 % 2)) ∧
    (v % 8 = 3 → deepCommand s ch.val v data = modeShown w ch.val (v / 8 % 2) (v / 256 % 64) data) := by
  intro w
  obtain ⟨op, rank, mr⟩ := deepWritten_fields s ch named
  have free : ¬ (v / 2 ^ 31 % 2 = 0 ∨ rb w (Reg.DEEP_CHc_CMD_STATUS ch.val) 0 = true) := by
    rw [rb, rd_deepWritten_cmdStatus s ch named, ← rb, idle, go]
    decide
  have mrAfter (o : Out) : rf (emit w o) (Reg.DEEP_CHc_CMD ch.val) 13 8 = v / 256 % 64 := mr
  refine ⟨fun h => ?_, fun h => ?_, fun h => ?_⟩ <;>
    simp only [deepCommand, ← deepWritten.eq_1, w, if_neg free, op, h, rank, mr, zqStarted, modeShown]

theorem drank_drankPut_same (s : State) (c r : Nat) (x : Rank) : drank (drankPut s c r x) c r = x := by
  rw [drank, drankPut, chanOf, chanPut, tabGet_tabPut, if_pos rfl, tabGet_tabPut, if_pos rfl]

theorem zqStarted_spec (s : State) (c r : Nat) :
    let t := zqStarted s c r
    t.out = .dram c r .zqStart 0 0 0 :: s.out ∧ (drank t c r).zqDue = some (nowNs s + 1000) ∧
      rf t (Reg.DEEP_CHc_CMD_STATUS c) 3 1 = 0 := by
  refine ⟨rfl, ?_, rf_wf_same _ _ _ _ _ (by decide)⟩
  exact congrArg Rank.zqDue (drank_drankPut_same (wf s (Reg.DEEP_CHc_CMD_STATUS c) 3 1 0) c r _)

theorem modeShown_spec (s : State) (c r mr : Nat) {data : Nat} (byte : data < 256) :
    let t := modeShown s c r mr data
    let st := Reg.DEEP_CHc_CMD_STATUS c
    t.out = .dram c r .modeRead 0 mr 0 :: s.out ∧ rf t st 3 1 = 0 ∧ rf t st 15 8 = data ∧ rb t st 0 = rb s st 0 := by
  refine ⟨rfl, ?_, ?_, ?_⟩
  · rw [modeShown, rf_wf_ne data (.inr (.inl (by decide))), rf_wf_same _ _ _ _ _ (by decide)]; rfl
  · rw [modeShown, rf_wf_same _ _ _ _ _ (by decide)]; exact Nat.mod_eq_of_lt byte
  · rw [modeShown, rb_wf_same, if_neg (by decide), rb_wf_same, if_neg (by decide)]; rfl

/-- A host's retraining that is not refused: it runs, with BUSY and RETRAINING (R243). -/
theorem retrainAsk_accepted {s : State} {c : Nat} (h : retrainRefusal s c = 0) :
    let t := retrainAsk s c true
    (chanOf t c).retrain = some (nowNs s) ∧ rb t (Reg.DEEP_CHc_CMD_STATUS c) 0 = true ∧
      rb t (Reg.DEEP_CHc_STATUS c) 5 = true := by
  let st := Reg.DEEP_CHc_CMD_STATUS c
  have started : retrainAsk s c true = retrainStart (wf (wf s st 3 1 0) st 0 0 1) c := by
    simp only [retrainAsk, h, if_true, st]
  have rd_start (u : State) (a : Nat) : rd (retrainStart u c) a = rd (wf u (Reg.DEEP_CHc_STATUS c) 5 5 1) a := rfl
  rw [started]
  refine ⟨?_, ?_, ?_⟩
  · rw [retrainStart, chanOf, chanPut, tabGet_tabPut, if_pos rfl]; rfl
  · rw [rb, rd_start, rd_wf_ne _ _ _ (deepStatus_ne_cmdStatus c).symm, ← rb, rb_wf_same]; rfl
  · rw [rb, rd_start, ← rb, rb_wf_same]; rfl

/-! ### The rows of a deep-memory channel -/

theorem regSet_deepCmd (s : State) (x : Around) {c : Nat} (v : W64) (hc : c < 64) :
    regSet s x (Reg.DEEP_CHc_CMD c) v = deepCommand s c v.toNat x.mr := by
  have place : Reg.DEEP_CHc_CMD c = 0x1400004 + 0x10000 * c := rfl
  have block : regSet s x (Reg.DEEP_CHc_CMD c) v = writeDeepFerm s x (Reg.DEEP_CHc_CMD c) v := by
    rw [regSet, place, if_neg (by omega), if_neg (by omega), if_neg (by omega), if_neg (by omega), if_neg (by omega),
      if_pos (by omega)]
  have index : arrayIdx (Reg.DEEP_CHc_CMD 0) 0x10000 64 (Reg.DEEP_CHc_CMD c) = some c := arrayIdx_some rfl (by decide) hc
  rw [block, writeDeepFerm, index]

/-- The dword of a row: what was written, with the row's operation in place of OP. -/
def deepValue (v : BitVec 32) (op : Nat) : Nat := v.toNat / 8 * 8 + op

theorem deepValue_fields (v : BitVec 32) {op : Nat} (hop : op ≤ 3) :
    deepValue v op < 2 ^ 32 ∧ deepValue v op % 8 = op ∧ deepValue v op / 8 % 2 = v.toNat / 8 % 2 ∧
      deepValue v op / 256 % 64 = v.toNat / 256 % 64 ∧ deepValue v op / 2 ^ 31 % 2 = v.toNat / 2 ^ 31 % 2 := by
  have dword := v.isLt
  rw [deepValue]
  omega

theorem deepValue_named (v : BitVec 32) {op : Nat} (hop : op ≤ 3) : deepValue v op % 8 ≤ 3 :=
  (deepValue_fields v hop).2.1.trans_le hop

/-- The dword of a row, written to DEEP_CHc_CMD of an awake block. -/
theorem rowWrite_deepCmd {s : State} {ch : Fin 64} (x : Around) (v : BitVec 32) {op : Nat} (hop : op ≤ 3)
    (awake : humState s (20 + ch.val / 8) = 0) :
    rowWrite s x (Reg.DEEP_CHc_CMD ch.val) (deepValue v op) =
      pump (deepCommand (touch s (20 + ch.val / 8)) ch.val (deepValue v op) x.mr) := by
  have dword := (deepValue_fields v hop).1
  have aligned : Reg.DEEP_CHc_CMD ch.val % 4 = 0 := by simp only [Reg.DEEP_CHc_CMD]; omega
  have number : (BitVec.ofNat 64 (deepValue v op)).toNat = deepValue v op := by rw [BitVec.toNat_ofNat]; omega
  rw [rowWrite, bar0Write_dword x (findRow_deepCmd ch) rfl aligned (bar0Hummock_deepCmd ch) awake dword,
    regSet_deepCmd _ _ _ ch.isLt, number]

section
variable {s : State} {ch : Fin 64} {v : BitVec 32} (awake : humState s (20 + ch.val / 8) = 0)
  (idle : rb s (Reg.DEEP_CHc_CMD_STATUS ch.val) 0 = false) (go : v.getLsbD 31 = true)
include awake idle go

/-- What a row of operation op comes to. -/
theorem rowWrite_deepCmd_go (x : Around) {op : Nat} (hop : op ≤ 3) :
    let row := rowWrite s x (Reg.DEEP_CHc_CMD ch.val) (deepValue v op)
    let w := deepWritten (touch s (20 + ch.val / 8)) ch.val (deepValue v op)
    (op = 1 → row = pump (retrainAsk w ch.val true)) ∧
    (op = 2 → row = pump (zqStarted w ch.val (v.toNat / 8 % 2))) ∧
    (op = 3 → row = pump (modeShown w ch.val (v.toNat / 8 % 2) (v.toNat / 256 % 64) x.mr)) := by
  intro row w
  obtain ⟨-, named, rank, mr, top⟩ := deepValue_fields v hop
  rw [getLsbD_eq_decide, decide_eq_true_iff, ← top] at go
  have started := deepCommand_go (s := touch s (20 + ch.val / 8)) x.mr go idle (named.trans_le hop)
  rw [named, rank, mr] at started
  obtain ⟨retrain, zq, mode⟩ := started
  have command : row = pump (deepCommand (touch s (20 + ch.val / 8)) ch.val (deepValue v op) x.mr) :=
    rowWrite_deepCmd x v hop awake
  exact ⟨fun h => command.trans (congrArg pump (retrain h)), fun h => command.trans (congrArg pump (zq h)),
    fun h => command.trans (congrArg pump (mode h))⟩

theorem exec_deepRetrain :
    exec (.deepRetrain ch v) s =
      .next (pump (retrainAsk (deepWritten (touch s (20 + ch.val / 8)) ch.val (deepValue v 1)) ch.val true)) :=
  congrArg Host.Outcome.next ((rowWrite_deepCmd_go awake idle go { sent := [], mr := 0 } (by decide)).1 rfl)

theorem exec_deepZqNow :
    exec (.deepZqNow ch v) s =
      .next (pump (zqStarted (deepWritten (touch s (20 + ch.val / 8)) ch.val (deepValue v 2)) ch.val (v.toNat / 8 % 2))) :=
  congrArg Host.Outcome.next ((rowWrite_deepCmd_go awake idle go { sent := [], mr := 0 } (by decide)).2.1 rfl)

theorem exec_deepReadMr (data : BitVec 8) :
    exec (.deepReadMr ch v data) s =
      .next (pump (modeShown (deepWritten (touch s (20 + ch.val / 8)) ch.val (deepValue v 3)) ch.val
        (v.toNat / 8 % 2) (v.toNat / 256 % 64) data.toNat)) :=
  congrArg Host.Outcome.next ((rowWrite_deepCmd_go awake idle go { sent := [], mr := data.toNat } (by decide)).2.2 rfl)

end

/-- Settles O38: each row is a dword written to its register in an awake hummock, or a read of one, and then the register's own
operation. -/
theorem rowsOfTheirOwn : Obligations.RowsOfTheirOwn := by
  unfold Obligations.RowsOfTheirOwn
  intro s
  refine ⟨?clsel, ?cells, ?lane, ?counter, ?deep⟩
  case clsel =>
    intro k v allowed
    rw [getLsbD_eq_decide, decide_eq_true_iff] at allowed
    exact ⟨_, congrArg Host.Outcome.next (clselWrite_allowed s k.val allowed), wrn_clselStored_spec ..⟩
  case cells =>
    intro q v n a awake
    refine ⟨fun drained low high room => ⟨wf (touch s q.val) a 13 0 v.toNat, ?_, rf_wf_same _ _ _ _ _ (by decide), ?_⟩,
      fun undrained probe first => ⟨accReport (touch s q.val) 6 0 true a, ?_, ?_⟩⟩
    · have still : billDrained (touch s q.val) = true := drained
      rw [exec_egressCellsWrite v awake, still, egressCells_allowed (s := touch s q.val) low high room]
    · exact (((Only.refl (touch s q.val)).mono (by simp)).wr _ (by simp)).of_touch
    · have still : billDrained (touch s q.val) = false := undrained
      rw [exec_egressCellsWrite v awake, still, egressCells_undrained]
    · obtain ⟨only, status, addr⟩ := accReport_first (s := touch s q.val) 6 0 true a probe first
      have small : a % 2 ^ 64 = a := Nat.mod_eq_of_lt (by simp only [a, Reg.MERE_Qq_EGRESS_CELLS]; omega)
      exact ⟨status, addr.trans small, only.of_touch⟩
  case lane =>
    intro lane l a awake mode
    refine ⟨fun v sent => ⟨_, exec_laneCtrlWrite v sent awake, ?_⟩, _, exec_anRestart awake, ?_⟩
    · obtain ⟨enables, -, restart, negotiated⟩ := laneCtrl_spec (s := touch s (lane.val / 4)) lane
        ((List.replicate 64 sent).getD lane.val 0) mode v.isLt
      refine ⟨enables, restart, fun asked => negotiated ?_⟩
      rwa [getLsbD_eq_decide, decide_eq_true_iff] at asked
    · obtain ⟨dword, low, asked⟩ := restartValue_fields s lane.val
      obtain ⟨-, fields, restart, negotiated⟩ := laneCtrl_spec (s := touch (aroundFree s).2 (lane.val / 4)) lane
        ((aroundFree s).1.sent.getD lane.val 0) mode dword
      exact ⟨fields.trans low, restart, negotiated asked⟩
  case counter =>
    intro lane k awake
    refine ⟨_, congrArg Host.Outcome.next (bar0Read_mib lane.isLt k.isLt awake), rfl, ?_, rfl, rfl⟩
    exact latch_latchCounter (touch s (lane.val / 4)) lane.val k.val
  case deep =>
    intro ch v c h st r awake idle go
    refine ⟨⟨_, _, exec_deepRetrain awake idle go, rfl, ?_⟩, ⟨_, exec_deepZqNow awake idle go, ?_⟩,
      fun data => ⟨_, exec_deepReadMr awake idle go data, ?_⟩⟩
    · have named : deepValue v 1 % 8 ≤ 3 := deepValue_named v (by decide)
      have op := (deepValue_fields v (op := 1) (by decide)).2.1
      have now := (deepWritten_out_now (touch s h) ch named).2
      refine ⟨(deepWritten_fields (touch s h) ch named).1.trans op, fun accepted => ?_,
        (deepWritten_only (touch s h) ch named).of_touch⟩
      obtain ⟨since, busy, running⟩ := retrainAsk_accepted accepted
      exact ⟨since.trans (congrArg some now), busy, running⟩
    · obtain ⟨out, now⟩ := deepWritten_out_now (touch s h) ch (deepValue_named v (op := 2) (by decide))
      obtain ⟨started, due, result⟩ := zqStarted_spec (deepWritten (touch s h) ch.val (deepValue v 2)) c r
      exact ⟨started.trans (congrArg _ out), due.trans (congrArg (fun t => some (t + 1000)) now), result⟩
    · have named : deepValue v 3 % 8 ≤ 3 := deepValue_named v (by decide)
      have out := (deepWritten_out_now (touch s h) ch named).1
      have busy : rb (deepWritten (touch s h) ch.val (deepValue v 3)) st 0 = false := by
        rw [rb, rd_deepWritten_cmdStatus _ ch named]
        exact idle
      obtain ⟨read, result, shown, still⟩ :=
        modeShown_spec (deepWritten (touch s h) ch.val (deepValue v 3)) c r (v.toNat / 256 % 64) data.isLt
      exact ⟨read.trans (congrArg _ out), result, shown, still.trans busy⟩

end Sys2Proof.Machine
end

section
/-! SUPPORT. Slots of the forwarding tables (06_forwarding.md): what putting, mirroring and publishing a slot leave beside it, and
what accesses of the BAR2 window, lock limits and lock timeouts come to; the statement about window slots settled with these. -/
namespace Sys2Proof.Machine

theorem next_pump_congr {u v : State} (h : u = v) :
    (.next (pump u) : Host.Outcome State Fault Refusal) = .next (pump v) := by
  rw [h]

/-! ### What the operations under a slot leave as it was -/

theorem tabFind_tabPut_ne {α : Type} [DecidableEq α] (l : List (Nat × α)) {a b : Nat} (v d : α) (h : a ≠ b) :
    tabFind (tabPut l a v d) b = tabFind l b := by
  rw [tabPut]
  split
  · rw [tabFind_tabDel, if_neg h]
  · rw [tabFind_tabSet, if_neg h]

theorem tabFind_tabPut_same {α : Type} [DecidableEq α] (l : List (Nat × α)) (a : Nat) {v d : α} (h : v ≠ d) :
    tabFind (tabPut l a v d) a = some v := by
  rw [tabPut, if_neg h, tabFind_tabSet, if_pos rfl]

theorem rd_peak_ne {s : State} {a b : Nat} (hi lo n : Nat) (hb : b ≠ a) : rd (peak s a hi lo n) b = rd s b := by
  rw [peak]
  split
  · exact rd_wf_ne _ _ _ hb
  · rfl

theorem Only.fwd {s t : State} {as : List Nat} {occ : List (Nat × Nat × Nat)} {outs : List Out} (h : Only s t as occ outs) :
    t.fwd = s.fwd := by
  have rest := congrArg State.fwd h.rest
  exact rest

/-- A change of a mirrored object leaves the twin's deltas and their peak alone. -/
theorem mirror_cases (s : State) (space addr : Nat) (words : List (Nat × W64)) :
    ∃ x : TwinUnit, mirror s space addr words = { s with twin := x } ∨
      mirror s space addr words = peak { s with twin := x } Reg.TWIN_DSTORE_PEAK 17 0 x.deltas.length := by
  rw [mirror]
  split
  · exact ⟨s.twin, .inl rfl⟩
  · dsimp only
    split
    · exact ⟨_, .inl rfl⟩
    · exact ⟨_, .inr rfl⟩

section
variable (s : State) (space addr : Nat) (words : List (Nat × W64))

@[simp] theorem mirror_fwd : (mirror s space addr words).fwd = s.fwd := by
  obtain ⟨x, e | e⟩ := mirror_cases s space addr words
  · rw [e]
  · rw [e, peak_fwd]

theorem rd_mirror {a : Nat} (ha : a ≠ Reg.TWIN_DSTORE_PEAK) : rd (mirror s space addr words) a = rd s a := by
  obtain ⟨x, e | e⟩ := mirror_cases s space addr words
  · rw [e, rd_with]
  · rw [e, rd_peak_ne _ _ _ ha, rd_with]

end

/-- What an access that is not normal leaves: its registers, and the event, outside a command queue (R510). -/
theorem accReport_only {s : State} (code bar : Nat) (write : Bool) (addr : Nat) (hp : s.host.probe = none) :
    Only s (accReport s code bar write addr) [Reg.HOST_ACC_STATUS, Reg.HOST_ACC_ADDR] [(0xFC8, 0, pack2 code bar)] [] := by
  have same : Only s s [Reg.HOST_ACC_STATUS, Reg.HOST_ACC_ADDR] [] [] := (Only.refl s).mono (by simp)
  simp only [accReport, hp]
  split
  · exact ((same.wr _ (by simp)).wr _ (by simp)).raise _ _ _
  · exact (same.wr _ (by simp)).raise _ _ _

/-! ### Slots -/

theorem slotOf_congr {s u : State} (h : u.fwd.slots = s.fwd.slots) (t i : Nat) : slotOf u t i = slotOf s t i := by
  rw [slotOf, slotOf, h]

@[simp] theorem slotOf_slotPut (s : State) (t i : Nat) (x : Slot) : slotOf (slotPut s t i x) t i = x := by
  rw [slotOf, slotPut, tabGet_tabPut, if_pos rfl]

@[simp] theorem slotOf_wf (s : State) (a hi lo n t i : Nat) : slotOf (wf s a hi lo n) t i = slotOf s t i := rfl

/-- The key of a slot names its table and its index. -/
theorem slotKey_div_mod (k : Nat) : slotKey (k / 2 ^ 20) (k % 2 ^ 20) = k := Nat.div_add_mod' k (2 ^ 20)

/-- Words put into an entry are stored, SUSPECT is cleared, the lock stays, and the change is mirrored. -/
theorem entryPut_eq {s : State} {t : Nat} (i : Nat) (ws : List W64) (ht : t ≠ 5) :
    ∃ space addr, entryPut s t i ws =
      mirror (slotPut s t i { slotOf s t i with words := storeWords ws, suspect := false }) space addr (deltaWords (storeWords ws)) := by
  have plain : ¬ (t = 5 ∧ (i = 0 ∨ i = 4095)) := fun h => ht h.1
  simp only [entryPut, if_neg plain]
  split
  · exact ⟨_, _, rfl⟩
  · exact ⟨_, _, rfl⟩

section
variable {s : State} {t : Nat} (i : Nat) (ws : List W64) (ht : t ≠ 5)
include ht

theorem slotOf_entryPut : slotOf (entryPut s t i ws) t i = { slotOf s t i with words := storeWords ws, suspect := false } := by
  obtain ⟨space, addr, e⟩ := entryPut_eq (s := s) i ws ht
  rw [e]
  exact (slotOf_congr (congrArg FwdUnit.slots (mirror_fwd ..)) t i).trans (slotOf_slotPut ..)

theorem rd_entryPut {a : Nat} (ha : a ≠ Reg.TWIN_DSTORE_PEAK) : rd (entryPut s t i ws) a = rd s a := by
  obtain ⟨space, addr, e⟩ := entryPut_eq (s := s) i ws ht
  rw [e, rd_mirror _ _ _ _ ha]
  rfl

end

/-- A publish puts the entry; beside the slots, it queues a route and reports a duplicate. -/
theorem publish_slots (s : State) (t i : Nat) (ws : List W64) : (publish s t i ws).fwd.slots = (entryPut s t i ws).fwd.slots := by
  simp only [publish]
  split
  · split
    · split <;> rfl
    · rfl
  · split
    · split <;> rfl
    · rfl

theorem slotOf_publish {s : State} {t : Nat} (i : Nat) (ws : List W64) (ht : t ≠ 5) :
    slotOf (publish s t i ws) t i = { slotOf s t i with words := storeWords ws, suspect := false } := by
  rw [slotOf_congr (publish_slots s t i ws), slotOf_entryPut i ws ht]

/-! ### Compare-and-swaps of the window -/

section
variable {s : State} {t i : Nat} (ht : t < 8)
include ht

/-- A slot of tables 0 to 7 has its own lock. -/
theorem govSlot_table : govSlot s t i = i := if_neg (by omega)

/-- The forwarding tables lie in no hummock that sleeps. -/
theorem winReach_table : winReach s t i = (.serve, s) := if_neg (by omega)

theorem winTake_table :
    winTake s t i = slotPut s t i
      { slotOf s t i with lock := some { staged := (List.range 8).map (slotOf s t i).word, since := nowNs s } } := by
  have plain : ¬ (t = 8 ∧ bankWide s (bankOf i) = true) := by omega
  simp only [winTake, if_neg plain, List.append_nil, eight]

/-- A clearing access publishes a staged copy that passes its checks. -/
theorem winClear_published {l : SlotLock} (held : (slotOf s t i).lock = some l) (room : storeFull s = false)
    (check : fld ((l.staged.take 8).getD 7 0) 31 0 = checkOf (l.staged.take 8)) (good : badEntry t i (l.staged.take 8) = none) :
    winClear s t i = publish (slotPut s t i { slotOf s t i with lock := none }) t i (l.staged.take 8) := by
  have table : t ≠ 8 := by omega
  simp only [winClear, held, room, Bool.false_eq_true, if_false, winPublish, if_neg table, check, beq_self_eq_true, Bool.not_true,
    good]

/-- It leaves the staged words in the slot, unlocked. -/
theorem slotOf_winClear_published {x : Slot} {l : SlotLock} (held : x.lock = some l) (room : storeFull s = false) (other : t ≠ 5)
    (check : fld ((l.staged.take 8).getD 7 0) 31 0 = checkOf (l.staged.take 8)) (good : badEntry t i (l.staged.take 8) = none) :
    slotOf (winClear (slotPut s t i x) t i) t i =
      { x with words := storeWords (l.staged.take 8), lock := none, suspect := false } := by
  have locked : (slotOf (slotPut s t i x) t i).lock = some l := by rw [slotOf_slotPut, held]
  have room' : storeFull (slotPut s t i x) = false := room
  rw [winClear_published ht locked room' check good, slotOf_publish _ _ other, slotOf_slotPut, slotOf_slotPut]

theorem bar2Cas_table {a : Nat} (compare swap : W64) (named : slot2 a = .table t i) (word : a % 64 = 0) :
    bar2Cas s a compare swap = winCas s t i compare swap a := by
  simp only [bar2Cas, word, ne_eq, not_true_eq_false, if_false, named, winReach_table ht]

omit ht in
theorem winCas_differs (leads : follower s = false) (swap : W64) (addr : Nat) {compare : W64}
    (differs : compare ≠ (winRead s t i).getD 0 0) :
    winCas s t i compare swap addr = emit s (.readData (toLE 8 ((winRead s t i).getD 0 0).toNat)) := by
  have still (locked : Bool) : casStep locked ((winRead s t i).getD 0 0) compare swap = .nothing := if_pos differs
  simp only [winCas, leads, Bool.false_eq_true, if_false, still]
  split <;> rfl

theorem winCas_take (leads : follower s = false) {swap : W64} (addr : Nat) (set : swap.getLsbD 63 = true)
    (free : (slotOf s t i).lock = none) (rest : (slotOf s t i).inMotion = false) :
    winCas s t i ((winRead s t i).getD 0 0) swap addr =
      emit (slotPut s t i
        { slotOf s t i with lock := some { staged := (List.range 8).map (slotOf s t i).word, since := nowNs s } })
        (.readData (toLE 8 ((winRead s t i).getD 0 0).toNat)) := by
  have take : casStep false ((winRead s t i).getD 0 0) ((winRead s t i).getD 0 0) swap = .take := by
    simp only [casStep, ne_eq, not_true_eq_false, if_false, bitOf, set]
  simp only [winCas, leads, Bool.false_eq_true, if_false, govSlot_table ht, free, take, rest, Bool.not_false, and_self, if_true,
    winTake_table ht]

theorem winCas_clear (leads : follower s = false) {swap : W64} (addr : Nat) {l : SlotLock} (clear : swap.getLsbD 63 = false)
    (held : (slotOf s t i).lock = some l) :
    winCas s t i ((winRead s t i).getD 0 0) swap addr =
      emit (winClear (slotPut s t i { slotOf s t i with lock := some { l with staged := l.staged.set 0 swap, written := true } }) t i)
        (.readData (toLE 8 ((winRead s t i).getD 0 0).toNat)) := by
  have step : casStep true ((winRead s t i).getD 0 0) ((winRead s t i).getD 0 0) swap = .clear := by
    simp only [casStep, ne_eq, not_true_eq_false, if_false, bitOf, clear]
  simp only [winCas, leads, Bool.false_eq_true, if_false, govSlot_table ht, held, step, Nat.sub_self, Nat.mul_zero, if_true]

/-! ### Writes of the window -/

theorem bar2Write_table (leads : follower s = false) {a : Nat} {data : List Byte} (named : slot2 a = .table t i)
    (nonempty : data ≠ []) (whole : data.length % 4 = 0) (aligned : a % 4 = 0) (within : a % 64 + data.length ≤ 64) :
    bar2Write s a data = winWrite s t i (a % 64) data a := by
  have length : data.length ≠ 0 := fun h => nonempty (List.length_eq_zero_iff.mp h)
  have form : ¬ (data.length = 0 ∨ 64 < data.length ∨ data.length % 4 ≠ 0 ∨ a % 4 ≠ 0) := by omega
  simp only [bar2Write, if_neg form, if_neg (Nat.not_lt.mpr within), named, winReach_table ht, leads, Bool.false_eq_true, if_false]

theorem winWrite_locked (addr : Nat) {l : SlotLock} {off : Nat} {data : List Byte} (held : (slotOf s t i).lock = some l)
    (keeps : clearsLock off data = false) :
    winWrite s t i off data addr = slotPut s t i
      { slotOf s t i with lock := some { l with staged := stageBytes l.staged off data, written := true } } := by
  simp [winWrite, govSlot_table ht, held, keeps]

theorem winWrite_unlocked (addr off : Nat) (data : List Byte) (free : (slotOf s t i).lock = none) :
    winWrite s t i off data addr = accReport (cnt s Reg.FWD_UNLOCKED_WR 1) 4 1 true addr := by
  have table : t ≠ 8 := by omega
  simp [winWrite, govSlot_table ht, free, winUnlocked, table]

end

/-! ### The aperture of the casks -/

theorem slot2_aperture (n : Nat) : slot2 (0x80000000 + n) = .cask := if_pos (Nat.le_add_right ..)

theorem caskLine_aperture (s : State) (slot : Nat) {off : Nat} (ho : off < 64) :
    caskLine s (0x80000000 + 64 * slot + off) = rf s Reg.CASK_APERTURE_BASE 31 25 * 2 ^ 25 + slot := by
  rw [caskLine]
  omega

theorem bar2Cas_cask (s : State) (slot : Nat) (compare swap : W64) :
    bar2Cas s (0x80000000 + 64 * slot) compare swap =
      hostOperation s (rf s Reg.CASK_APERTURE_BASE 31 25 * 2 ^ 25 + slot) []
        { kind := 1, addr := 64 * slot, compare := compare, swap := swap } := by
  have word : ¬ (0x80000000 + 64 * slot) % 64 ≠ 0 := by omega
  have line := caskLine_aperture s slot (off := 0) (by decide)
  rw [Nat.add_zero] at line
  simp only [bar2Cas, if_neg word, slot2_aperture, line, Nat.add_sub_cancel_left]

theorem bar2Read_cask (s : State) (slot : Nat) {off len : Nat} (positive : 0 < len) (whole : len % 4 = 0) (aligned : off % 4 = 0)
    (within : off % 64 + len ≤ 64) :
    bar2Read s (0x80000000 + 64 * slot + off % 64) len =
      hostOperation s (rf s Reg.CASK_APERTURE_BASE 31 25 * 2 ^ 25 + slot) [] { kind := 0, addr := off % 64, len := len } := by
  have form : ¬ (len = 0 ∨ 64 < len ∨ len % 4 ≠ 0 ∨ (0x80000000 + 64 * slot + off % 64) % 4 ≠ 0) := by omega
  have aperture : 0x80000000 ≤ 0x80000000 + 64 * slot + off % 64 := by omega
  have place : (0x80000000 + 64 * slot + off % 64) % 64 = off % 64 := by omega
  have once : min len (64 - off % 64) = len := by omega
  have line := caskLine_aperture s slot (Nat.mod_lt off (by decide : 64 > 0))
  simp only [bar2Read, if_neg form, if_pos aperture, place, once, Nat.sub_self, if_true, if_neg positive.ne', line]

/-! ### Locks held past their limit -/

/-- How long a lock of table t may be held, in us (R136, R158). -/
def holdLimit (s : State) (t : Nat) : Nat := rf s (if t = 8 then Reg.LAUTER_LOCK_HOLD_LIMIT else Reg.FWD_LOCK_HOLD_LIMIT) 19 0

/-- A lock that is past its limit (in us) and has not been reported. -/
def holdDue (s : State) (l : SlotLock) (limit : Nat) : Bool := !l.told && elapsed s l.since (limit * 1000)

/-- LOCK_HOLD_LIMIT_EXPIRY at one slot of the tables; s is the state in which the command came. -/
def holdSlot (s u : State) (e : Nat × Slot) : State :=
  match e.2.lock with
  | some l =>
    if holdDue s l (holdLimit s (e.1 / 2 ^ 20)) then
      let u := slotPut u (e.1 / 2 ^ 20) (e.1 % 2 ^ 20) { e.2 with lock := some { l with told := true } }
      if e.1 / 2 ^ 20 = 8 then raise u 0x603 (e.1 % 2 ^ 20) ((nowNs s - l.since) / 1000)
      else raise u 0x519 (pack2 (e.1 / 2 ^ 20) (e.1 % 2 ^ 20)) ((nowNs s - l.since) / 1000)
    else u
  | none => u

/-- LOCK_HOLD_LIMIT_EXPIRY at one locked cask. -/
def holdCask (s u : State) (e : Nat × SlotLock) : State :=
  if holdDue s e.2 (rf s Reg.CASK_LOCK_HOLD_LIMIT 19 0) then
    raise { u with cask := { u.cask with locks := tabSet u.cask.locks e.1 { e.2 with told := true } } } 0x703 e.1
      ((nowNs s - e.2.since) / 1000)
  else u

theorem holdLimits_eq (s : State) : holdLimits s = s.cask.locks.foldl (holdCask s) (s.fwd.slots.foldl (holdSlot s) s) := rfl

/-- Slot k reads x, and a report of event `source` has the time held `us` in its second detail word. -/
def HoldTold (k : Nat) (x : Slot) (source us : Nat) (u : State) : Prop :=
  tabFind u.fwd.slots k = some x ∧ ∃ o ∈ u.ev.occ, o.source = source ∧ o.d1 = us

theorem HoldTold.raise {k : Nat} {x : Slot} {source us : Nat} {u : State} (h : HoldTold k x source us u) (e d0 d1 : Nat) :
    HoldTold k x source us (raise u e d0 d1) := by
  obtain ⟨slot, o, mem, told⟩ := h
  exact ⟨slot, o, List.mem_append_left _ mem, told⟩

theorem HoldTold.slotPut_ne {k : Nat} {x : Slot} {source us : Nat} {u : State} (h : HoldTold k x source us u) {t i : Nat} (y : Slot)
    (ne : slotKey t i ≠ k) : HoldTold k x source us (slotPut u t i y) :=
  ⟨(tabFind_tabPut_ne _ _ _ ne).trans h.1, h.2⟩

/-- A slot due is told and marked. -/
theorem holdSlot_due {s : State} (u : State) {e : Nat × Slot} {l : SlotLock} (held : e.2.lock = some l)
    (due : holdDue s l (holdLimit s (e.1 / 2 ^ 20)) = true) :
    HoldTold e.1 { e.2 with lock := some { l with told := true } } (if e.1 / 2 ^ 20 = 8 then 0x603 else 0x519)
      ((nowNs s - l.since) / 1000) (holdSlot s u e) := by
  have put : tabFind (slotPut u (e.1 / 2 ^ 20) (e.1 % 2 ^ 20) { e.2 with lock := some { l with told := true } }).fwd.slots e.1 =
      some { e.2 with lock := some { l with told := true } } := by
    rw [slotPut, slotKey_div_mod]
    exact tabFind_tabPut_same _ _ (fun h => Option.some_ne_none _ (congrArg Slot.lock h))
  simp only [holdSlot, held, due, if_true]
  split
  · exact ⟨put, _, List.mem_append_right _ (List.mem_singleton_self _), rfl, rfl⟩
  · exact ⟨put, _, List.mem_append_right _ (List.mem_singleton_self _), rfl, rfl⟩

theorem HoldTold.holdSlot {s u : State} {k : Nat} {x : Slot} {source us : Nat} (h : HoldTold k x source us u) {e : Nat × Slot}
    (ne : e.1 ≠ k) : HoldTold k x source us (holdSlot s u e) := by
  have put (y : Slot) : HoldTold k x source us (slotPut u (e.1 / 2 ^ 20) (e.1 % 2 ^ 20) y) :=
    h.slotPut_ne y (by rwa [slotKey_div_mod])
  rw [Machine.holdSlot]
  split
  · split
    · dsimp only
      split
      · exact (put _).raise _ _ _
      · exact (put _).raise _ _ _
    · exact h
  · exact h

theorem HoldTold.holdCask {s u : State} {k : Nat} {x : Slot} {source us : Nat} (h : HoldTold k x source us u) (e : Nat × SlotLock) :
    HoldTold k x source us (holdCask s u e) := by
  rw [Machine.holdCask]
  split
  · exact HoldTold.raise (u := { u with cask := _ }) h _ _ _
  · exact h

/-- Every slot due is told and marked: the slots after it have other keys, and the casks leave the slots alone. -/
theorem holdLimits_due {s : State} (keys : rising s.fwd.slots = true) {e : Nat × Slot} {l : SlotLock} (listed : e ∈ s.fwd.slots)
    (held : e.2.lock = some l) (due : holdDue s l (holdLimit s (e.1 / 2 ^ 20)) = true) :
    HoldTold e.1 { e.2 with lock := some { l with told := true } } (if e.1 / 2 ^ 20 = 8 then 0x603 else 0x519)
      ((nowNs s - l.since) / 1000) (holdLimits s) := by
  obtain ⟨before, after, cut⟩ := List.append_of_mem listed
  have above : ∀ d ∈ after, e.1 < d.1 := by
    have sorted := (rising_iff _).mp keys
    rw [cut] at sorted
    exact (List.pairwise_cons.mp (List.pairwise_append.mp sorted).2.1).1
  rw [holdLimits_eq, cut, List.foldl_append, List.foldl_cons]
  refine List.foldlRecOn _ _ (List.foldlRecOn _ _ (holdSlot_due _ held due) ?slots) ?casks
  case slots => exact fun u told d hd => told.holdSlot (above d hd).ne'
  case casks => exact fun u told d _ => told.holdCask d

/-! ### Lookups that have waited for a lock -/

theorem lockTimedOut_only {s : State} {t : Nat} (i : Nat) (ht : t < 8) :
    rdn (lockTimedOut s t i) Reg.FWD_LOCK_TIMEOUTS = min (rdn s Reg.FWD_LOCK_TIMEOUTS + 1) (2 ^ 32 - 1) ∧
    Only s (lockTimedOut s t i) [Reg.FWD_LOCK_TIMEOUTS] [(0x516, pack2 t i, rf s Reg.FWD_CFG 2 2)] [] := by
  have table : t ≠ 8 := by omega
  rw [lockTimedOut, if_neg table]
  refine ⟨?_, (((Only.refl s).mono (by simp)).wr _ (by simp)).raise _ _ _⟩
  rw [rdn, rd_raise, ← rdn, rdn_cnt_same]

/-- One frame has waited its limit and no node waits: it is told, and its lookup goes on under LOCK_POLICY. -/
theorem lookTimeouts_one {s : State} {f since t i : Nat} {fr : Frame} (ht : t < 8) (waits : fr.waitAt = some (since, t, i))
    (unlooked : fr.looked = false) (only : s.frames = [(f, fr)])
    (late : since + 4 * rf s Reg.FWD_LOCK_TIMEOUT 17 0 ≤ nowNs s) :
    let v := lookFrame (lockTimedOut s t i) f (fwdPolicy (lockTimedOut s t i)) .wait
    v.ferm.runs.flatMap (fun e => e.2.tasks.flatMap (·.looking)) = [] →
    lookTimeouts s false =
      relookNodes v (fun l => (l.2.2 / 2 ^ 20 == 8) == false && elapsed v l.2.1 (4 * rf s Reg.FWD_LOCK_TIMEOUT 17 0)) true := by
  intro v idle
  have table : (t == 8) = false := beq_eq_false_iff_ne.mpr (by omega)
  have unselected (sel : Nat × Nat × Nat → Bool) :
      v.ferm.runs.flatMap (fun e => e.2.tasks.flatMap (fun t => t.looking.filter sel)) = [] := by
    simp only [← List.filter_flatMap, idle, List.filter_nil]
  simp only [lookTimeouts, only, List.filter_cons, List.filter_nil, waits, table, elapsed, late, Bool.false_eq_true, if_false,
    beq_self_eq_true, decide_true, Bool.and_self, if_true, List.foldl_cons, List.foldl_nil, unlooked]
  rw [unselected]
  rfl

/-- Settles O47: a compare-and-swap and a write by the branch of `winCas` and `winWrite` that they take; the aperture's accesses as
ledger operations; the hold limits slot by slot; one frame's timeout. -/
theorem windowSlots : Obligations.WindowSlots := by
  unfold Obligations.WindowSlots
  intro s
  refine ⟨?cas, ?write, ?aperture, ?held, ?timeout⟩
  case cas =>
    intro addr t i cmp swp named ht word leads x word0 back
    have run : exec (.windowCas addr cmp swp) s = .next (pump (winCas s t i cmp swp addr.toNat)) :=
      next_pump_congr (bar2Cas_table ht cmp swp named word)
    refine ⟨fun differs => ?differs, fun same set free rest => ?take, fun l same clear held room other => ?clear⟩
    case differs => rw [run, winCas_differs leads swp _ differs]
    case take =>
      subst same
      refine ⟨_, run.trans (next_pump_congr (winCas_take ht leads _ set free rest)), ?_, rfl⟩
      exact (slotOf_congr rfl _ _).trans (slotOf_slotPut ..)
    case clear =>
      intro ws check good
      subst same
      refine ⟨_, run.trans (next_pump_congr (winCas_clear ht leads _ clear held)), ?_⟩
      have published := slotOf_winClear_published
        (x := { slotOf s t i with lock := some { l with staged := l.staged.set 0 swp, written := true } }) ht rfl room other check good
      exact ⟨congrArg Slot.lock published, congrArg Slot.words published, congrArg Slot.suspect published, List.mem_cons_self⟩
  case write =>
    intro addr t i data named ht leads nonempty whole aligned within
    have run : exec (.windowWrite addr data) s = .next (pump (winWrite s t i (addr.toNat % 64) data addr.toNat)) :=
      next_pump_congr (bar2Write_table ht leads named nonempty whole aligned within)
    refine ⟨fun l held keeps => ?locked, fun free probe => ?unlocked⟩
    case locked =>
      rw [winWrite_locked ht _ held keeps] at run
      exact ⟨_, run, slotOf_slotPut .., rfl⟩
    case unlocked =>
      rw [winWrite_unlocked ht _ _ _ free] at run
      have only := accReport_only (s := cnt s Reg.FWD_UNLOCKED_WR 1) 4 1 true addr.toNat probe
      refine ⟨_, run, only.fwd, ?_, ?_⟩
      · rw [rdn, only.regs _ (by decide), ← rdn, rdn_cnt_same]
      · rw [only.occ]
        exact List.mem_append_right _ (List.mem_singleton_self _)
  case aperture =>
    intro slot cmp swp off len line
    exact ⟨next_pump_congr (bar2Cas_cask s slot.val cmp swp), fun positive whole aligned within =>
      next_pump_congr (bar2Read_cask s slot.val positive whole aligned within)⟩
  case held =>
    intro keys e l listed held untold t limit late
    have due : holdDue s l (holdLimit s (e.1 / 2 ^ 20)) = true := by
      rw [holdDue, untold]
      exact decide_eq_true late
    exact ⟨_, rfl, holdLimits_due keys listed held due⟩
  case timeout =>
    intro f fr since t i ht waits unlooked limit w v only late idle
    exact ⟨next_pump_congr (lookTimeouts_one ht waits unlooked only late idle), lockTimedOut_only i ht⟩

end Sys2Proof.Machine
end

section
/-! SUPPORT. Table commands, ageing, re-announcement, rehash, insertion windows and the parity scan of the forwarding tables
(06_forwarding.md), and the statement about them settled with these. -/
namespace Sys2Proof.Machine

/-! ### Table commands -/

theorem exec_tblGo {op : Nat} {c : Fin 8 → Instr}
    (listed : (op, c) ∈ [(1, Instr.fwdTblRead), (2, .fwdTblWrite), (3, .fwdTblInsert), (4, .fwdTblDelete), (5, .fwdTblSearch)])
    (k : Fin 8) (s : State) : exec (c k) s = .next (tblStart s k.val op) := by
  simp only [List.mem_cons, List.not_mem_nil, or_false, Prod.mk.injEq] at listed
  rcases listed with ⟨rfl, rfl⟩ | ⟨rfl, rfl⟩ | ⟨rfl, rfl⟩ | ⟨rfl, rfl⟩ | ⟨rfl, rfl⟩ <;> rfl

theorem tblStart_busy {s : State} {t : Nat} (op : Nat) (busy : rb s (Reg.FWD_TBLt_STATUS t) 0 = true) : tblStart s t op = s :=
  if_pos busy

/-- GO while BUSY is 0 sets BUSY and holds the command as its registers give it. -/
theorem tblStart_idle {s : State} {t : Nat} (op : Nat) (idle : rb s (Reg.FWD_TBLt_STATUS t) 0 = false) :
    rb (tblStart s t op) (Reg.FWD_TBLt_STATUS t) 0 = true ∧
    tabFind (tblStart s t op).fwd.cmds t = some { op := op, index := rf s (Reg.FWD_TBLt_INDEX t) 19 0, data := tblData s t } ∧
    Only { s with fwd := (tblStart s t op).fwd } (tblStart s t op) [Reg.FWD_TBLt_CMD t, Reg.FWD_TBLt_STATUS t] [] [] := by
  simp only [tblStart, idle, Bool.false_eq_true, if_false]
  refine ⟨?_, ?_, ?_⟩
  · rw [rb, rd_with, ← rb, rb_wf_same]
    rfl
  · rw [tabFind_tabSet, if_pos rfl]
  · exact (((Only.refl { s with fwd := _ }).mono (by simp)).wr _ (by simp)).wr _ (by simp)

/-- The state from which table t's command runs: it is no longer held. -/
def tblTaken (s : State) (t : Nat) : State := { s with fwd := { s.fwd with cmds := tabDel s.fwd.cmds t } }

theorem tblDone_run {s : State} {t : Nat} {c : TblCmd} (waits : tabFind s.fwd.cmds t = some c) (room : storeFull s = false) :
    let w := tblRun (tblTaken s t) t c
    tblDone s t = wf (wf w.2 (Reg.FWD_TBLt_STATUS t) 0 0 0) (Reg.FWD_TBLt_STATUS t) 7 4 w.1 := by
  simp only [tblDone, waits, room, Bool.false_and, Bool.false_eq_true, if_false, tblTaken]

section
variable {s : State} {t : Nat} {c : TblCmd} (inside : c.index < tblSize t)
include inside

/-- READ of an index in the table, with DATA7 = 0 in place of a CHECK, shows the slot. -/
theorem tblRun_read (op : c.op = 1) (zero : c.data.getD 7 0 = 0) :
    tblRun s t c = (0, tblDataPut s t (tblReadWords (slotOf s t c.index))) := by
  have index : decide (tblSize t ≤ c.index) = false := decide_eq_false (Nat.not_le.mpr inside)
  have known : tblOpKnown t 1 = true := rfl
  simp only [tblRun, op, known, zero, index, Nat.reduceBEq, Bool.or_self, Bool.not_true, Bool.and_false, Bool.not_false,
    Bool.true_and, beq_self_eq_true, Bool.or_true, Bool.true_or, Bool.false_eq_true, if_false]

/-- WRITE of an unlocked slot with a good CHECK and no error publishes the data. -/
theorem tblRun_write (op : c.op = 2) (leads : follower s = false) (check : (c.data.getD 7 0).toNat % 2 ^ 32 = checkOf c.data)
    (free : (slotOf s t c.index).lock = none) (good : badEntry t c.index c.data = none) :
    tblRun s t c = (0, publish s t c.index c.data) := by
  have index : decide (tblSize t ≤ c.index) = false := decide_eq_false (Nat.not_le.mpr inside)
  have known : tblOpKnown t 2 = true := rfl
  simp only [tblRun, op, known, leads, check, index, free, good, Nat.reduceBEq, Bool.false_and, Bool.not_true, Bool.and_false,
    beq_self_eq_true, Bool.true_or, Bool.or_true, Bool.false_eq_true, if_false, Option.isSome_none]

end

theorem tblData_ne_status (t d : Nat) : Reg.FWD_TBLt_DATAw t d ≠ Reg.FWD_TBLt_STATUS t := by
  simp only [Reg.FWD_TBLt_DATAw, Reg.FWD_TBLt_STATUS]
  omega

theorem rd_tblDataPut (s : State) (t : Nat) (ws : List W64) {d : Nat} (hd : d < 8) :
    rd (tblDataPut s t ws) (Reg.FWD_TBLt_DATAw t d) = ws.getD d 0 := by
  have apart (m : Nat) (ne : m ≠ d) (u : State) :
      rd (wr u (Reg.FWD_TBLt_DATAw t m) (ws.getD m 0)) (Reg.FWD_TBLt_DATAw t d) = rd u (Reg.FWD_TBLt_DATAw t d) :=
    rd_wr_ne _ (by simp only [Reg.FWD_TBLt_DATAw]; omega)
  obtain ⟨u, -, put⟩ := foldl_range_view (rd · (Reg.FWD_TBLt_DATAw t d)) apart hd s
  rw [tblDataPut, put, rd_wr_same]

/-! ### Ageing -/

/-- An entry past its age is counted, and removed where FWD_FDB_AGE says so. -/
theorem fdbAge_due {s : State} {i : Nat} (ages : rb s Reg.FWD_CFG 1 = true) (leads : follower s = false)
    (valid : (slotOf s 0 i).valid = true) (free : (slotOf s 0 i).lock = none) (dynamic : bitOf ((slotOf s 0 i).word 0) 58 = false)
    (still : s.fen.flush = [])
    (old : rf s Reg.FWD_FDB_AGE 15 0 * 1000000000 ≤ (s.time.tick - ((slotOf s 0 i).word 2).toNat) * tickNs s) :
    fdbAge s i = if rb s Reg.FWD_FDB_AGE 16 then fdbRemove (cnt s Reg.FWD_AGED 1) i else cnt s Reg.FWD_AGED 1 := by
  have removal : rb (cnt s Reg.FWD_AGED 1) Reg.FWD_FDB_AGE 16 = rb s Reg.FWD_FDB_AGE 16 := by rw [rb, rd_cnt_ne _ (by decide), ← rb]
  simp only [fdbAge, ages, leads, valid, free, dynamic, still, Bool.not_true, Option.isSome_none, Bool.or_self, Bool.false_eq_true,
    if_false, List.any_nil, Bool.and_false, old, if_true, removal]

theorem valid_fdbRemove (s : State) (i : Nat) : (slotOf (fdbRemove s i) 0 i).valid = false := by
  have empty : storeWords [] = [] := by decide
  rw [fdbRemove, slotOf_entryPut i [] (by decide), empty]
  exact (by decide : bitOf 0 62 = false)

/-! ### Re-announcement -/

/-- The record that re-announces the entry of slot i. -/
def announcement (s : State) (i : Nat) : Learning :=
  let x := slotOf s 0 i
  { fid := fld (x.word 1) 11 0, mac := fld (x.word 0) 47 0, tick := (x.word 2).toNat, prec := fld (x.word 1) 15 12
    originPort := fld (x.word 1) 35 30, srcDev := fld (x.word 1) 45 36, dest := fld (x.word 1) 29 16 }

/-- The entry of slot i counts as announced now. -/
def announced (s : State) (i : Nat) : State :=
  { s with fwd := { s.fwd with announced := tabSet s.fwd.announced i (nowNs s, tickNo s) } }

/-- An entry of a domain-scope VLAN, learned here and refreshed since it was last announced, is announced again when due. -/
theorem exec_learnReannounce {s : State} {slot : Fin 524288} {ns tick : Nat}
    (known : tabFind s.fwd.announced slot = some (ns, tick)) (valid : (slotOf s 0 slot).valid = true)
    (domain : ∃ e ∈ s.fwd.slots, slotKey 5 0 ≤ e.1 ∧ e.1 < slotKey 6 0 ∧ e.2.valid = true ∧
      fld (e.2.word 0) 11 0 = fld ((slotOf s 0 slot).word 1) 11 0 ∧ fld (e.2.word 0) 55 54 = 1)
    (refreshed : tick < ((slotOf s 0 slot).word 2).toNat) (here : bitOf ((slotOf s 0 slot).word 0) 57 = false)
    (due : ns + rf s Reg.FWD_FDB_AGE 15 0 * 250000000 ≤ nowNs s) :
    exec (.learnReannounce slot) s = .next (fenQueue (announced s slot) (announcement s slot)) := by
  have scope : (s.fwd.slots.find? (fun e => decide (slotKey 5 0 ≤ e.1 ∧ e.1 < slotKey 6 0) && e.2.valid &&
      fld (e.2.word 0) 11 0 == fld ((slotOf s 0 slot).word 1) 11 0 && fld (e.2.word 0) 55 54 == 1)).isSome = true := by
    obtain ⟨e, listed, low, high, on, fid, scope⟩ := domain
    rw [List.find?_isSome]
    exact ⟨e, listed, by simp [low, high, on, fid, scope]⟩
  have late : elapsed s ns (rf s Reg.FWD_FDB_AGE 15 0 * 250000000) = true := decide_eq_true due
  have run : exec (.learnReannounce slot) s = execLearnReannounce slot s := rfl
  rw [run, execLearnReannounce]
  simp only [known, valid, scope, refreshed, here, late, Bool.not_false, decide_true, Bool.and_self, if_true]
  rfl

theorem fenQueue_room {s : State} (l : Learning) (joined : rb s Reg.FEN_CFG 0 = true) (leads : follower s = false)
    (room : s.fen.pendingRecs.length < 4096) :
    fenQueue s l = { s with fen := { s.fen with pendingRecs := s.fen.pendingRecs ++ [{ l with queued := nowNs s }] } } := by
  simp only [fenQueue, joined, leads, Bool.not_true, Bool.or_self, Bool.false_eq_true, if_false, room, if_true]

/-! ### Rehash -/

theorem choose_regs (s : State) (options : List Nat) : (choose s options).2.regs = s.regs := by
  rw [choose]
  split <;> rfl

/-- The search for a path of displacements draws free values alone. -/
theorem cuckooPath_regs (s : State) (n : Nat) (cands path : List Nat) : (cuckooPath s n cands path).2.regs = s.regs := by
  induction n generalizing s cands path with
  | zero =>
    have drawn := choose_regs s (cands.filter (fdbFree s))
    rw [cuckooPath]
    split <;> rename_i e <;> rw [e] at drawn <;> exact drawn
  | succ n ih =>
    have drawn := choose_regs s (cands.filter (fdbFree s))
    rw [cuckooPath]
    split
    · rename_i e
      rwa [e] at drawn
    · rename_i u e
      rw [e] at drawn
      have next := choose_regs u (cands.filter (fun i => (slotOf s 0 i).lock.isNone && !path.contains i))
      split <;> rename_i e' <;> rw [e'] at next
      · exact (ih ..).trans (next.trans drawn)
      · exact next.trans drawn

section
variable {a : Nat} (ha : a ≠ Reg.TWIN_DSTORE_PEAK)
include ha

theorem rd_cuckooMoves (s : State) (ws : List W64) (path : List Nat) : rd (cuckooMoves s ws path) a = rd s a := by
  induction path generalizing ws with
  | nil => rfl
  | cons i rest ih =>
    cases rest with
    | nil => exact rd_entryPut i ws (by decide) ha
    | cons j t =>
      rw [cuckooMoves, rd_entryPut i ws (by decide) ha]
      exact ih _

theorem rd_rehashEntry (s : State) (i : Nat) (stuck : a ≠ Reg.FWD_FDB_REHASH_STUCK) : rd (rehashEntry s i) a = rd s a := by
  have same (u : State) (h : u.regs = s.regs) : rd u a = rd s a := by rw [rd, rd, h]
  have drawn := cuckooPath_regs s 32 (occupantCands s i) [i]
  simp only [rehashEntry]
  split
  · rfl
  split
  · rfl
  split <;> rename_i e <;> rw [e] at drawn
  · rw [rd_with]
    split
    · rw [rd_cuckooMoves ha, same _ drawn]
    · rw [rd_entryPut i [] (by decide) ha, rd_cuckooMoves ha, same _ drawn]
  · rw [rd_cnt_ne _ stuck, same _ drawn]

end

/-- The seeds of the rehash become those of lookups (R130). -/
def seedsTaken (s : State) : State :=
  (List.range 4).foldl (fun s w => wr s (Reg.FWD_FDB_SEED0 + 4 * w) (rd s (Reg.FWD_FDB_SEED_NEXTw w))) s

theorem rd_seedsTaken (s : State) {w : Nat} (hw : w < 4) :
    rd (seedsTaken s) (Reg.FWD_FDB_SEED0 + 4 * w) = rd s (Reg.FWD_FDB_SEED_NEXTw w) := by
  have four : List.range 4 = [0, 1, 2, 3] := rfl
  simp only [seedsTaken, four, List.foldl_cons, List.foldl_nil, rd_wr, Reg.FWD_FDB_SEED0, Reg.FWD_FDB_SEED_NEXTw]
  interval_cases w <;> simp

theorem rehashDone_free {s : State} (runs : rehashing s = true)
    (free : (listedSlots s 0).any (fun i => (slotOf s 0 i).lock.isSome && (slotOf s 0 i).valid && !(occupantCands s i).contains i) =
      false) :
    let u := wf (seedsTaken ((listedSlots s 0).foldl rehashEntry s)) Reg.FWD_FDB_REHASH 1 1 0
    rehashDone s = raise u 0x51B u.fwd.moved (rdn u Reg.FWD_FDB_REHASH_STUCK) := by
  simp only [rehashDone, free, runs, Bool.not_true, Bool.or_self, Bool.false_eq_true, if_false]
  rfl

theorem rehashStart_idle {s : State} (idle : rehashing s = false) :
    rehashStart s =
      { wf (wrn s Reg.FWD_FDB_REHASH_STUCK 0) Reg.FWD_FDB_REHASH 1 1 1 with fwd := { s.fwd with moved := 0 } } := by
  simp only [rehashStart, idle, Bool.false_eq_true, if_false]
  rfl

/-! ### The parity scan -/

/-- The entry of slot i of table t marked SUSPECT and counted. -/
def parityMarked (s : State) (t i : Nat) : State :=
  cnt (slotPut s t i { slotOf s t i with suspect := true }) Reg.FWD_PARITY_ERRS 1

theorem parityMarked_only (s : State) (t i : Nat) :
    Only { s with fwd := (parityMarked s t i).fwd } (parityMarked s t i) [Reg.FWD_PARITY_ERRS] [] [] :=
  ((Only.refl { s with fwd := _ }).mono (by simp)).wr _ (by simp)

theorem slotOf_parityMarked (s : State) (t i : Nat) : slotOf (parityMarked s t i) t i = { slotOf s t i with suspect := true } :=
  (slotOf_congr rfl t i).trans (slotOf_slotPut ..)

/-- A bad entry that is not yet SUSPECT is marked, counted and reported. -/
theorem parityFail_fresh {s : State} {t i : Nat} (words : (slotOf s t i).words ≠ []) (clean : (slotOf s t i).suspect = false) :
    slotOf (parityFail s t i) t i = { slotOf s t i with suspect := true } ∧
    rdn (parityFail s t i) Reg.FWD_PARITY_ERRS = min (rdn s Reg.FWD_PARITY_ERRS + 1) (2 ^ 32 - 1) ∧
    Only { s with fwd := (parityFail s t i).fwd } (parityFail s t i) [Reg.FWD_PARITY_ERRS]
      [if t = 6 then (0x511, i, 0) else (0x518, pack2 t i, rf s Reg.FWD_CFG 3 3)] [] := by
  have bad : ¬ ((slotOf s t i).words = [] ∨ (slotOf s t i).suspect = true) := by simp [words, clean]
  have marked := slotOf_parityMarked s t i
  have counted : rdn (parityMarked s t i) Reg.FWD_PARITY_ERRS = _ := rdn_cnt_same ..
  have only := parityMarked_only s t i
  have policy : rf (parityMarked s t i) Reg.FWD_CFG 3 3 = rf s Reg.FWD_CFG 3 3 := congrArg (fld · 3 3) (only.regs _ (by decide))
  have told : parityFail s t i = if t = 6 then raise (parityMarked s t i) 0x511 i 0
      else raise (parityMarked s t i) 0x518 (pack2 t i) (rf s Reg.FWD_CFG 3 3) := by
    rw [parityFail, if_neg bad, ← policy]
    rfl
  rw [told]
  split
  · exact ⟨marked, counted, only.raise _ _ _⟩
  · exact ⟨marked, counted, only.raise _ _ _⟩

/-- Settles O48: each row by its operation's equation under its conditions. -/
theorem forwardingTables : Obligations.ForwardingTables := by
  unfold Obligations.ForwardingTables
  intro s
  refine ⟨?go, ?complete, ?age, ?route, ?announce, ?start, ?done, ?window, ?parity⟩
  case go =>
    intro k op c listed
    rw [exec_tblGo listed]
    exact ⟨fun idle => ⟨_, rfl, tblStart_idle op idle⟩, fun busy => congrArg Host.Outcome.next (tblStart_busy op busy)⟩
  case complete =>
    intro k c waits room st w
    refine ⟨wf (wf w.2 st 0 0 0) st 7 4 w.1, next_pump_congr (tblDone_run waits room), rfl, ?busy, ?result, fun op inside zero => ?read,
      fun op leads inside check other free good => ?write⟩
    case busy =>
      rw [rb_wf_same, if_neg (by decide), rb_wf_same]
      rfl
    case result => exact rf_wf_same _ _ _ _ _ (by decide)
    case read =>
      have run : w = _ := tblRun_read (s := tblTaken s k) inside op (BitVec.eq_of_toNat_eq zero)
      refine ⟨congrArg Prod.fst run, fun d hd => ?_⟩
      rw [rd_wf_ne _ _ _ (tblData_ne_status k d), rd_wf_ne _ _ _ (tblData_ne_status k d), run, rd_tblDataPut _ _ _ hd]
      rfl
    case write =>
      have run : w = _ := tblRun_write (s := tblTaken s k) inside op leads check free good
      refine ⟨congrArg Prod.fst run, ?_⟩
      rw [slotOf_wf, slotOf_wf, run, slotOf_publish _ _ other]
  case age =>
    intro slot x last ages leads valid free dynamic still old
    refine ⟨_, congrArg Host.Outcome.next (fdbAge_due ages leads valid free dynamic still old), ?_, fun removes => ?_, fun keeps => ?_⟩
    · split
      · rw [rdn, fdbRemove, rd_entryPut _ _ (by decide) (by decide), ← rdn, rdn_cnt_same]
      · rw [rdn_cnt_same]
    · rw [if_pos removes, valid_fdbRemove]
    · rw [if_neg (by rw [keeps]; decide)]
      exact ((Only.refl s).mono (by simp)).wr _ (by simp)
  case route =>
    intro k ws rest waits
    refine ⟨{ s with fwd := { s.fwd with lpmPending := rest, lpm := tabPut s.fwd.lpm k ws [] } }, ?_, rfl, ?_, fun j ne => ?_, rfl⟩
    · exact congrArg Host.Outcome.next (by rw [waits])
    · rw [tabGet_tabPut, if_pos rfl]
    · rw [tabGet_tabPut, if_neg ne.symm]
  case announce =>
    intro slot ns tick x known valid refreshed here due domain joined leads room
    have queued := fenQueue_room (s := announced s slot) (announcement s slot) joined leads room
    have run := exec_learnReannounce known valid domain refreshed here due
    refine ⟨_, _, run.trans (congrArg Host.Outcome.next queued), rfl, rfl, rfl, rfl, ?_, rfl⟩
    rw [announced, tabFind_tabSet, if_pos rfl]
  case start =>
    intro idle
    refine ⟨_, congrArg Host.Outcome.next (rehashStart_idle idle), ?_, ?_, rfl, ?_⟩
    · rw [rehashing, rb, rd_with, ← rb, rb_wf_same]
      rfl
    · rw [rdn, rd_with, rd_wf_ne _ _ _ (by decide), ← rdn, rdn_wrn_same, Nat.zero_mod]
    · exact (((Only.refl { s with fwd := _ }).mono (by simp)).wr _ (by simp)).wr _ (by simp)
  case done =>
    intro runs free
    refine ⟨_, congrArg Host.Outcome.next (rehashDone_free runs free), ?_, fun w hw => ?_, _,
      List.mem_append_right _ (List.mem_singleton_self _), rfl, rfl⟩
    · rw [rehashing, rb_raise, rb_wf_same]
      rfl
    · have seeds : Reg.FWD_FDB_SEED0 + 4 * w ≠ Reg.FWD_FDB_REHASH := by simp only [Reg.FWD_FDB_SEED0, Reg.FWD_FDB_REHASH]; omega
      rw [rd_raise, rd_wf_ne _ _ _ seeds, rd_seedsTaken _ hw]
      exact foldl_view (rd · (Reg.FWD_FDB_SEED_NEXTw w)) _ s fun i _ u =>
        rd_rehashEntry (by simp only [Reg.FWD_FDB_SEED_NEXTw, Reg.TWIN_DSTORE_PEAK]; omega) u i
          (by simp only [Reg.FWD_FDB_SEED_NEXTw, Reg.FWD_FDB_REHASH_STUCK]; omega)
  case window =>
    intro g w opened late
    refine ⟨{ s with fwd := { s.fwd with windows := tabDel s.fwd.windows g } }, congrArg Host.Outcome.next ?_, ?_, rfl⟩
    · rw [opened]
      exact if_pos (decide_eq_true late)
    · rw [tabFind_tabDel, if_pos rfl]
  case parity =>
    intro k slot inside
    refine ⟨fun words clean => ⟨parityFail s k slot, ?_, ?_⟩, rfl⟩
    · exact congrArg Host.Outcome.next (if_pos (decide_eq_true inside))
    · have six : (k = 6) = (k.val = 6) := propext Fin.ext_iff
      simp only [six]
      exact parityFail_fresh words clean

end Sys2Proof.Machine
end

section
/-! SUPPORT. Upkeep of a DRAM channel (09_deep_memory.md): refresh rates and catch-ups, eyes and the margins of the byte lanes,
oscillators, ZQ and training; the statement about them settled with this. -/
namespace Sys2Proof.Machine

/-! ### A channel, its ranks and its eyes -/

theorem chanOf_chanPut_same (s : State) (c : Nat) (x : Chan) : chanOf (chanPut s c x) c = x := by
  rw [chanOf, chanPut, tabGet_tabPut, if_pos rfl]

theorem chanPut_time (s : State) (c : Nat) (x : Chan) : (chanPut s c x).time = s.time := (rfl)

theorem chanPut_out (s : State) (c : Nat) (x : Chan) : (chanPut s c x).out = s.out := (rfl)

theorem rd_chanPut (s : State) (c : Nat) (x : Chan) (a : Nat) : rd (chanPut s c x) a = rd s a := by rw [chanPut, rd_with]

theorem rd_drankPut (s : State) (c r : Nat) (x : Rank) (a : Nat) : rd (drankPut s c r x) a = rd s a := by
  rw [drankPut, rd_chanPut]

theorem chanOf_wrn (s : State) (a n c : Nat) : chanOf (wrn s a n) c = chanOf s c := by rw [chanOf, wrn_deep, chanOf]

theorem chanOf_wf (s : State) (a hi lo n c : Nat) : chanOf (wf s a hi lo n) c = chanOf s c := by rw [chanOf, wf_deep, chanOf]

theorem drank_wf (s : State) (a hi lo n c r : Nat) : drank (wf s a hi lo n) c r = drank s c r := by
  rw [drank, chanOf_wf, drank]

theorem drank_drankPut_ne {s : State} {c m r : Nat} (x : Rank) (h : m ≠ r) : drank (drankPut s c m x) c r = drank s c r := by
  rw [drank, drankPut, chanOf_chanPut_same, tabGet_tabPut, if_neg h, drank]

theorem eyes_drankPut (s : State) (c r : Nat) (x : Rank) : (chanOf (drankPut s c r x) c).eyes = (chanOf s c).eyes := by
  rw [drankPut, chanOf_chanPut_same]

theorem eyeOf_congr {s t : State} {c : Nat} (h : (chanOf t c).eyes = (chanOf s c).eyes) (k : Nat) : eyeOf t c k = eyeOf s c k := by
  rw [eyeOf, h, eyeOf]

theorem drank_congr {s t : State} {c : Nat} (h : (chanOf t c).ranks = (chanOf s c).ranks) (r : Nat) :
    drank t c r = drank s c r := by
  rw [drank, h, drank]

/-- Event k of a channel is appended to those of the tick (R247). -/
theorem occ_chanEvent (s : State) (c k part d1 : Nat) :
    (chanEvent s c k part d1).ev.occ = s.ev.occ ++ [⟨0x900 + k + 16 * c, pack2 c part, d1, tickNo s⟩] := by
  rw [chanEvent, raise_occ, Nat.add_right_comm]

/-- A field that a number fits in reads as that number. -/
theorem rf_wf_fits {s : State} {a hi lo n : Nat} (w : Nat) (width : hi + 1 = lo + w) (inside : hi < 64) (fits : n < 2 ^ w) :
    rf (wf s a hi lo n) a hi lo = n := by
  have bits : hi + 1 - lo = w := by omega
  rw [rf_wf_same _ _ _ _ _ inside, bits, Nat.mod_eq_of_lt fits]

/-- Setting the eye of a pin sets that eye and no other. -/
theorem eyeOf_eyeSet (s : State) (c k m : Nat) (e : Nat × Nat × Nat × Nat) :
    eyeOf (eyeSet s c k e) c m = if k = m then e else eyeOf s c m := by
  have chan : chanOf (eyeSet s c k e) c = { chanOf s c with eyes := tabSet (chanOf s c).eyes k e } := by
    rw [eyeSet]
    split
    · rw [chanOf_wrn, chanOf_chanPut_same]
    · rw [chanOf_chanPut_same]
  rw [eyeOf, chan, tabGet_tabSet, eyeOf]

/-- In channel c, t differs from s only in the eyes; and no register differs but the ones that show them, nor the time, nor
what has left the device. -/
structure EyesOnly (c : Nat) (s t : State) : Prop where
  chan : { chanOf t c with eyes := [] } = { chanOf s c with eyes := [] }
  regs : ∀ a, (∀ i, i < 16 → a ≠ Reg.DEEP_CHc_PINi_EYE c i) → rd t a = rd s a
  time : t.time = s.time
  out : t.out = s.out

theorem EyesOnly.refl (c : Nat) (s : State) : EyesOnly c s s := ⟨rfl, fun _ _ => rfl, rfl, rfl⟩

theorem EyesOnly.eyeSet {c : Nat} {s t : State} (h : EyesOnly c s t) (k : Nat) (e : Nat × Nat × Nat × Nat) :
    EyesOnly c s (eyeSet t c k e) := by
  obtain ⟨chan, regs, time, out⟩ := h
  rw [Machine.eyeSet]
  split
  next shown =>
    refine ⟨?_, fun a ha => ?_, ?_, ?_⟩
    · rw [chanOf_wrn, chanOf_chanPut_same]
      exact chan
    · rw [rd_wrn_ne _ (ha k shown), rd_chanPut, regs a ha]
    · rw [wrn_time, chanPut_time, time]
    · rw [wrn_out, chanPut_out, out]
  next hidden =>
    refine ⟨?_, fun a ha => ?_, ?_, ?_⟩
    · rw [chanOf_chanPut_same]
      exact chan
    · rw [rd_chanPut, regs a ha]
    · rw [chanPut_time, time]
    · rw [chanPut_out, out]

theorem EyesOnly.raise {c : Nat} {s t : State} (h : EyesOnly c s t) (e d0 d1 : Nat) : EyesOnly c s (raise t e d0 d1) :=
  ⟨h.chan, fun a ha => (rd_raise ..).trans (h.regs a ha), (raise_time ..).trans h.time, (raise_out ..).trans h.out⟩

theorem EyesOnly.drank {c : Nat} {s t : State} (h : EyesOnly c s t) (r : Nat) : drank t c r = drank s c r :=
  drank_congr (congrArg Chan.ranks h.chan :) r

theorem EyesOnly.status {c : Nat} {s t : State} (h : EyesOnly c s t) :
    rd t (Reg.DEEP_CHc_STATUS c) = rd s (Reg.DEEP_CHc_STATUS c) :=
  h.regs _ fun i _ => by simp only [Reg.DEEP_CHc_STATUS, Reg.DEEP_CHc_PINi_EYE]; omega

theorem EyesOnly.rankCount {c : Nat} {s t : State} (h : EyesOnly c s t) : rankCount t = rankCount s := by
  have map : rd t Reg.DEEP_MAP = rd s Reg.DEEP_MAP := h.regs _ fun i hi => by simp only [Reg.DEEP_MAP, Reg.DEEP_CHc_PINi_EYE]; omega
  rw [Machine.rankCount, rf, map, ← rf, ← Machine.rankCount]

theorem EyesOnly.now {c : Nat} {s t : State} (h : EyesOnly c s t) : nowNs t = nowNs s := by rw [nowNs, h.time, nowNs]

/-- The eyes that a training gives, from pin 0 of rank 0 on. -/
def eyesPut (s : State) (c : Nat) (eyes : List (Nat × Nat × Nat × Nat)) : State :=
  eyes.zipIdx.foldl (fun s e => eyeSet s c e.2 e.1) s

theorem eyesPut_eyesOnly (s : State) (c : Nat) (eyes : List (Nat × Nat × Nat × Nat)) : EyesOnly c s (eyesPut s c eyes) :=
  List.foldlRecOn eyes.zipIdx _ (EyesOnly.refl c s) fun _ h e _ => h.eyeSet e.2 e.1

theorem eyeOf_eyesPut {s : State} {c k : Nat} {e : Nat × Nat × Nat × Nat} {eyes : List (Nat × Nat × Nat × Nat)}
    (here : eyes[k]? = some e) : eyeOf (eyesPut s c eyes) c k = e := by
  induction eyes using List.reverseRecOn with
  | nil => simp at here
  | append_singleton l last ih =>
    have snoc : eyesPut s c (l ++ [last]) = eyeSet (eyesPut s c l) c l.length last := by simp [eyesPut, List.zipIdx_append]
    rw [snoc, eyeOf_eyeSet]
    split
    next at_ => simpa [← at_] using here
    next other =>
      have bound : k < (l ++ [last]).length := (List.getElem?_eq_some_iff.mp here).1
      rw [List.length_append, List.length_singleton] at bound
      rw [List.getElem?_append_left (by omega)] at here
      exact ih here

/-! ### Refresh rates (R226, R228) -/

/-- The rate that an MR4 value gives. -/
def mr4Rate (v : Nat) : Nat :=
  let op := v % 8
  if op ≤ 3 then 0 else if op = 4 then 1 else if op = 5 then 2 else 3

theorem mr4Rate_lt (v : Nat) : mr4Rate v < 8 := by
  simp only [mr4Rate]
  split_ifs <;> decide

/-- MR4 is stored; event 4 tells a value 0 or 7 that is new. -/
def mr4Stored (s : State) (c r v : Nat) : State :=
  let u := wf s (Reg.DEEP_CHc_MR4 c) (8 * r + 7) (8 * r) v
  if (v % 8 = 0 ∨ v % 8 = 7) ∧ rf s (Reg.DEEP_CHc_MR4 c) (8 * r + 2) (8 * r) ≠ v % 8 then chanEvent u c 4 r v else u

/-- A rank shows a new rate with another interval, and event 2 tells it. -/
def rateTold (s : State) (c r old new : Nat) : State :=
  chanEvent (wf s (Reg.DEEP_CHc_STATUS c) (10 + 3 * r) (8 + 3 * r) new) c 2 r (pack4 old new (unsigned 16 (debt s c r)) 0)

/-- A catch-up of the debt d of a rank begins. -/
def catchupBegun (s : State) (c r lim : Nat) (d : Int) : State :=
  wf (drankPut s c r { drank s c r with catchup := some (nowNs s, (d.toNat + 7) / 8, 0, lim) })
    (Reg.DEEP_CHc_STATUS c) (14 + r) (14 + r) 1

/-- A rank takes a new rate: a faster one with positive debt starts a catch-up. -/
def rateTaken (s : State) (c r old new : Nat) : State :=
  if dueInterval new = dueInterval old then wf s (Reg.DEEP_CHc_STATUS c) (10 + 3 * r) (8 + 3 * r) new
  else
    let d := debt s c r
    let u := rateTold s c r old new
    let lim := limitOf new
    if dueInterval new < dueInterval old then
      if 0 < d then catchupBegun u c r lim d
      else debtSet (debtLimitSet u c r lim) c r (max d (-(lim : Int)))
    else debtLimitSet u c r lim

theorem mr4Poll_eq (s : State) (c r v : Nat) :
    mr4Poll s c r v =
      if mr4Rate v = rateOf s c r then mr4Stored s c r v
      else rateTaken (mr4Stored s c r v) c r (rateOf s c r) (mr4Rate v) := rfl

/-- What a poll of MR4 shows of a rank: the stored value's register, the rate, what has left the device, and the poll's period. -/
def pollView (c r : Nat) (s : State) : W64 × Nat × List Out × Nat :=
  (rd s (Reg.DEEP_CHc_MR4 c), rateOf s c r, s.out, (drank s c r).mr4At)

theorem mr4_ne (c : Nat) : Reg.DEEP_CHc_MR4 c ≠ Reg.DEEP_CHc_STATUS c ∧ Reg.DEEP_CHc_MR4 c ≠ Reg.DEEP_CHc_DEBT c := by
  simp only [Reg.DEEP_CHc_MR4, Reg.DEEP_CHc_STATUS, Reg.DEEP_CHc_DEBT]; omega

theorem deepStatus_ne (c : Nat) :
    Reg.DEEP_CHc_STATUS c ≠ Reg.DEEP_CHc_DEBT c ∧ Reg.DEEP_CHc_STATUS c ≠ Reg.DEEP_CHc_MR4 c ∧
      Reg.DEEP_CHc_STATUS c ≠ Reg.DEEP_CHc_CATCHUPS c := by
  simp only [Reg.DEEP_CHc_MR4, Reg.DEEP_CHc_STATUS, Reg.DEEP_CHc_DEBT, Reg.DEEP_CHc_CATCHUPS]; omega

/-- A write of DEEP_CHc_DEBT shows none of it. -/
theorem pollView_wf_debt (s : State) (c r hi lo n : Nat) : pollView c r (wf s (Reg.DEEP_CHc_DEBT c) hi lo n) = pollView c r s := by
  rw [pollView, rd_wf_ne _ _ _ (mr4_ne c).2, rateOf, rf_wf_ne _ (.inl (deepStatus_ne c).1)]
  rfl

/-- Nor does the start of a catch-up. -/
theorem pollView_catchupBegun (s : State) (c : Nat) {r : Nat} (lim : Nat) (d : Int) (hr : r < 2) :
    pollView c r (catchupBegun s c r lim d) = pollView c r s := by
  rw [pollView, catchupBegun, rd_wf_ne _ _ _ (mr4_ne c).1, rateOf, rf_wf_ne _ (.inr (.inl (by omega))), drank_wf,
    drank_drankPut_same]
  rfl

/-- The rank polled shows the new rate, and beside it what it showed. -/
theorem pollView_rateTaken (s : State) {c r new : Nat} (old : Nat) (hr : r < 2) (rate : new < 8) :
    pollView c r (rateTaken s c r old new) = (rd s (Reg.DEEP_CHc_MR4 c), new, s.out, (drank s c r).mr4At) := by
  have taken : pollView c r (wf s (Reg.DEEP_CHc_STATUS c) (10 + 3 * r) (8 + 3 * r) new) =
      (rd s (Reg.DEEP_CHc_MR4 c), new, s.out, (drank s c r).mr4At) := by
    rw [pollView, rd_wf_ne _ _ _ (mr4_ne c).1, rateOf, rf_wf_fits 3 (by omega) (by omega) rate]
    rfl
  rw [← taken, rateTaken]
  split
  · rfl
  · extract_lets d u lim
    split
    · split
      · exact pollView_catchupBegun _ c _ _ hr
      · exact (pollView_wf_debt ..).trans (pollView_wf_debt ..)
    · exact pollView_wf_debt ..

theorem pollView_mr4Stored (s : State) (c r v : Nat) :
    pollView c r (mr4Stored s c r v) =
      (setFld (rd s (Reg.DEEP_CHc_MR4 c)) (8 * r + 7) (8 * r) v, rateOf s c r, s.out, (drank s c r).mr4At) := by
  have stored : pollView c r (wf s (Reg.DEEP_CHc_MR4 c) (8 * r + 7) (8 * r) v) =
      (setFld (rd s (Reg.DEEP_CHc_MR4 c)) (8 * r + 7) (8 * r) v, rateOf s c r, s.out, (drank s c r).mr4At) := by
    rw [pollView, rd_wf_same, rateOf, rf_wf_ne _ (.inl (deepStatus_ne c).2.1), ← rateOf]
    rfl
  rw [← stored, mr4Stored]
  split <;> rfl

theorem pollView_mr4Poll (s : State) {c r : Nat} (v : Nat) (hr : r < 2) :
    pollView c r (mr4Poll s c r v) =
      (setFld (rd s (Reg.DEEP_CHc_MR4 c)) (8 * r + 7) (8 * r) v, mr4Rate v, s.out, (drank s c r).mr4At) := by
  rw [mr4Poll_eq]
  split
  next same => rw [pollView_mr4Stored, same]
  next other =>
    have stored := pollView_mr4Stored s c r v
    simp only [pollView, Prod.mk.injEq] at stored
    obtain ⟨mr4, -, out, at_⟩ := stored
    rw [pollView_rateTaken _ _ hr (mr4Rate_lt v), mr4, out, at_]

/-- What storing MR4 leaves for the rate that follows. -/
theorem mr4Stored_keeps (s : State) (c r v : Nat) :
    debt (mr4Stored s c r v) c r = debt s c r ∧ nowNs (mr4Stored s c r v) = nowNs s := by
  have stored : debt (wf s (Reg.DEEP_CHc_MR4 c) (8 * r + 7) (8 * r) v) c r = debt s c r := by
    rw [debt, rf_wf_ne _ (.inl (mr4_ne c).2.symm), debt]
  rw [← stored, mr4Stored]
  split <;> exact ⟨rfl, rfl⟩

/-- A faster rate with positive debt starts a catch-up of 8 debts each. -/
theorem mr4Poll_catchup {s : State} {c r v : Nat} (hr : r < 2) (faster : dueInterval (mr4Rate v) < dueInterval (rateOf s c r))
    (owed : 0 < debt s c r) :
    (drank (mr4Poll s c r v) c r).catchup = some (nowNs s, ((debt s c r).toNat + 7) / 8, 0, limitOf (mr4Rate v)) ∧
      rb (mr4Poll s c r v) (Reg.DEEP_CHc_STATUS c) (14 + r) = true := by
  obtain ⟨sameDebt, sameTime⟩ := mr4Stored_keeps s c r v
  have changed : mr4Rate v ≠ rateOf s c r := fun same => by rw [same] at faster; exact Nat.lt_irrefl _ faster
  have begun : mr4Poll s c r v = catchupBegun (rateTold (mr4Stored s c r v) c r (rateOf s c r) (mr4Rate v)) c r
      (limitOf (mr4Rate v)) (debt s c r) := by
    rw [mr4Poll_eq, if_neg changed]
    simp only [rateTaken, if_neg faster.ne, if_pos faster, sameDebt, if_pos owed]
  have told : nowNs (rateTold (mr4Stored s c r v) c r (rateOf s c r) (mr4Rate v)) = nowNs s := sameTime
  refine ⟨?_, ?_⟩
  · rw [begun, catchupBegun, drank_wf, drank_drankPut_same, told]
  · rw [begun, catchupBegun, rb_wf_same, if_pos (by omega), Nat.sub_self]
    rfl

theorem exec_mr4Poll {ch : Fin 64} {rank : Fin 2} {s : State} (v : BitVec 8) (runs : chanRuns s ch.val = true)
    (inUse : rank.val < rankCount s) (due : (drank s ch.val rank.val).mr4At < staggerIndex s ch.val rank.val 4000000) :
    exec (.mr4Poll ch rank v) s =
      .next (mr4Poll (drankPut (emit s (.dram ch.val rank.val .modeRead 0 4 0)) ch.val rank.val
        { drank s ch.val rank.val with mr4At := staggerIndex s ch.val rank.val 4000000 }) ch.val rank.val v.toNat) :=
  congrArg Host.Outcome.next (if_pos (by simp [runs, inUse, due]))

/-! ### Catch-ups (R228) -/

theorem signed_unsigned_byte {d : Int} (low : -128 ≤ d) (high : d ≤ 127) : signed 8 (unsigned 8 d) = d := by
  rw [signed, unsigned]
  split <;> omega

theorem unsigned_lt (d : Int) : unsigned 8 d < 2 ^ 8 := by rw [unsigned]; omega

theorem debt_le (s : State) (c r : Nat) : debt s c r ≤ 127 := by
  rw [debt, signed]
  split <;> omega

theorem debt_debtSet (s : State) (c : Nat) {r : Nat} {d : Int} (hr : r < 2) (low : -128 ≤ d) (high : d ≤ 127) :
    debt (debtSet s c r d) c r = d := by
  rw [debt, debtSet, min_eq_right high, max_eq_right low, rf_wf_fits 8 (by omega) (by omega) (unsigned_lt d),
    signed_unsigned_byte low high]

theorem debtLimit_debtSet (s : State) (c r : Nat) (d : Int) :
    debtLimit (debtSet s c r d) c r = debtLimit s c r := by
  rw [debtLimit, debtSet, rf_wf_ne _ (.inr (.inr (by omega))), debtLimit]

theorem debtLimit_debtLimitSet (s : State) (c : Nat) {r l : Nat} (hr : r < 2) (fits : l ≤ 127) :
    debtLimit (debtLimitSet s c r l) c r = l := by
  rw [debtLimit, debtLimitSet, rf_wf_fits 7 (by omega) (by omega) (by omega)]

/-- The state after the last REFab of a catch-up of n that began at t0: the debt falls by 8 n to no less than the limit that
follows. -/
def caughtUp (s : State) (c r t0 n lim : Nat) : State :=
  let u := drankPut s c r { drank s c r with catchup := none }
  let w := debtSet (debtLimitSet u c r lim) c r (max (debt u c r - 8 * n) (-(lim : Int)))
  let w := cnt (wf w (Reg.DEEP_CHc_STATUS c) (14 + r) (14 + r) 0) (Reg.DEEP_CHc_CATCHUPS c) 1
  chanEvent w c 3 r (pack2 (nowNs w - t0) n)

theorem exec_catchupComplete {ch : Fin 64} {rank : Fin 2} {s : State} {t0 n done lim : Nat}
    (running : (drank s ch.val rank.val).catchup = some (t0, n, done, lim)) (last : n ≤ done) :
    exec (.catchupComplete ch rank) s = .next (caughtUp s ch.val rank.val t0 n lim) := by
  rw [exec, execCatchupComplete, running]
  refine congrArg Host.Outcome.next ?_
  dsimp only
  rw [if_pos last]
  rfl

theorem debt_drankPut (s : State) (c r m : Nat) (x : Rank) : debt (drankPut s c m x) c r = debt s c r := by
  rw [debt, rf, rd_drankPut, ← rf, ← debt]

theorem caughtUp_rank (s : State) {c r n lim : Nat} (t0 : Nat) (hr : r < 2) (fits : lim ≤ 127) :
    let t := caughtUp s c r t0 n lim
    (drank t c r).catchup = none ∧ debt t c r = max (debt s c r - 8 * n) (-(lim : Int)) ∧ debtLimit t c r = lim := by
  have counter : Reg.DEEP_CHc_DEBT c ≠ Reg.DEEP_CHc_CATCHUPS c := by simp only [Reg.DEEP_CHc_DEBT, Reg.DEEP_CHc_CATCHUPS]; omega
  have bound := debt_le s c r
  have shown (hi lo : Nat) : rf (caughtUp s c r t0 n lim) (Reg.DEEP_CHc_DEBT c) hi lo =
      rf (debtSet (debtLimitSet (drankPut s c r { drank s c r with catchup := none }) c r lim) c r
        (max (debt s c r - 8 * n) (-(lim : Int)))) (Reg.DEEP_CHc_DEBT c) hi lo := by
    rw [caughtUp, chanEvent, rf, rd_raise, rd_cnt_ne _ counter, ← rf, rf_wf_ne _ (.inl (deepStatus_ne c).1.symm), debt_drankPut]
  refine ⟨?_, ?_, ?_⟩
  · have rank : drank (caughtUp s c r t0 n lim) c r = { drank s c r with catchup := none } := drank_drankPut_same ..
    rw [rank]
  · rw [debt, shown, ← debt, debt_debtSet _ _ hr (by omega) (by omega)]
  · rw [debtLimit, shown, ← debtLimit, debtLimit_debtSet, debtLimit_debtLimitSet _ _ hr fits]

theorem caughtUp_shown (s : State) {c r n lim : Nat} (t0 : Nat) (hr : r < 2) :
    let t := caughtUp s c r t0 n lim
    rb t (Reg.DEEP_CHc_STATUS c) (14 + r) = false ∧
      rdn t (Reg.DEEP_CHc_CATCHUPS c) = min (rdn s (Reg.DEEP_CHc_CATCHUPS c) + 1) (2 ^ 32 - 1) ∧
      t.ev.occ = s.ev.occ ++ [⟨0x903 + 16 * c, pack2 c r, pack2 (nowNs s - t0) n, tickNo s⟩] := by
  have owed : Reg.DEEP_CHc_CATCHUPS c ≠ Reg.DEEP_CHc_DEBT c := by simp only [Reg.DEEP_CHc_DEBT, Reg.DEEP_CHc_CATCHUPS]; omega
  obtain ⟨-, -, status⟩ := deepStatus_ne c
  refine ⟨?_, ?_, ?_⟩
  · rw [caughtUp, chanEvent, rb, rd_raise, rd_cnt_ne _ status, ← rb, rb_wf_same, if_pos (by omega), Nat.zero_testBit]
  · rw [caughtUp, chanEvent, rdn, rd_raise, ← rdn, rdn_cnt_same, rdn, rd_wf_ne _ _ _ status.symm, debtSet, rd_wf_ne _ _ _ owed,
      debtLimitSet, rd_wf_ne _ _ _ owed, rd_drankPut, ← rdn]
  · exact occ_chanEvent ..

/-! ### Oscillators and ZQ (R238, R242) -/

/-- The write delay of an eye moves by a shift, within 0 to 127. -/
def delayMoved (e : Nat × Nat × Nat × Nat) (shift : Int) : Nat × Nat × Nat × Nat :=
  (e.1, e.2.1, e.2.2.1, (max 0 (min 127 ((e.2.2.2 : Int) + shift))).toNat)

/-- The write delay of pin p of rank r moves. -/
def pinMoved (c r : Nat) (shift : Int) (s : State) (p : Nat) : State :=
  eyeSet s c (16 * r + p) (delayMoved (eyeOf s c (16 * r + p)) shift)

/-- The oscillator of rank r has been read: its count is stored, for its staggered period. -/
def oscRead (s : State) (c r count : Nat) : State :=
  drankPut (wf (emit s (.dram c r .modeRead 0 18 0)) (Reg.DEEP_CHc_DQSOSC c) (16 * r + 15) (16 * r) count) c r
    { drank s c r with oscAt := staggerIndex s c r 1000000 }

theorem exec_dqsOscRead {ch : Fin 64} {rank : Fin 2} {s : State} (count : BitVec 16) (shift : Int)
    (runs : chanRuns s ch.val = true) (inUse : rank.val < rankCount s)
    (due : (drank s ch.val rank.val).oscAt < staggerIndex s ch.val rank.val 1000000) :
    exec (.dqsOscRead ch rank count shift) s =
      .next ((List.range 16).foldl (pinMoved ch.val rank.val shift) (oscRead s ch.val rank.val count.toNat)) :=
  congrArg Host.Outcome.next (if_pos (by simp [runs, inUse, due]))

theorem pinsMoved_eyesOnly (s : State) (c r : Nat) (shift : Int) (k : Nat) :
    EyesOnly c s ((List.range k).foldl (pinMoved c r shift) s) :=
  List.foldlRecOn (List.range k) _ (EyesOnly.refl c s) fun _ h _ _ => h.eyeSet ..

/-- Each pin's delay moves from where it was. -/
theorem eyeOf_pinsMoved (s : State) (c r : Nat) (shift : Int) {p : Nat} (hp : p < 16) :
    eyeOf ((List.range 16).foldl (pinMoved c r shift) s) c (16 * r + p) = delayMoved (eyeOf s c (16 * r + p)) shift := by
  have apart : ∀ q ≠ p, ∀ u, eyeOf (pinMoved c r shift u q) c (16 * r + p) = eyeOf u c (16 * r + p) := fun q ne u => by
    rw [pinMoved, eyeOf_eyeSet, if_neg (by omega)]
  obtain ⟨u, before, after⟩ := foldl_range_view (eyeOf · c (16 * r + p)) apart hp s
  rw [after, pinMoved, eyeOf_eyeSet, if_pos rfl, before]

theorem oscRead_spec (s : State) {c r count : Nat} (hr : r < 2) (fits : count < 2 ^ 16) :
    let t := oscRead s c r count
    rf t (Reg.DEEP_CHc_DQSOSC c) (16 * r + 15) (16 * r) = count ∧ (∀ k, eyeOf t c k = eyeOf s c k) ∧
      (drank t c r).oscAt = staggerIndex s c r 1000000 ∧ t.out = .dram c r .modeRead 0 18 0 :: s.out := by
  refine ⟨?_, fun k => eyeOf_congr ?_ k, ?_, rfl⟩
  · rw [oscRead, rf, rd_drankPut, ← rf, rf_wf_fits 16 (by omega) (by omega) fits]
  · rw [oscRead, eyes_drankPut, chanOf_wf]
    rfl
  · rw [oscRead, drank_drankPut_same]

theorem exec_zqStart {ch : Fin 64} {rank : Fin 2} {s : State} (on : rb s Reg.DEEP_CFG 9 = true)
    (runs : chanRuns s ch.val = true) (inUse : rank.val < rankCount s)
    (due : (drank s ch.val rank.val).zqAt < staggerIndex s ch.val rank.val 128000000) :
    exec (.zqStart ch rank) s =
      .next (emit (drankPut s ch.val rank.val { drank s ch.val rank.val with
        zqAt := staggerIndex s ch.val rank.val 128000000, zqDue := some (nowNs s + 1000) })
        (.dram ch.val rank.val .zqStart 0 0 0)) :=
  congrArg Host.Outcome.next (if_pos (by simp [on, runs, inUse, due]))

theorem exec_zqLatch {ch : Fin 64} {rank : Fin 2} {s : State} {at_ : Nat}
    (started : (drank s ch.val rank.val).zqDue = some at_) (due : at_ ≤ nowNs s) :
    exec (.zqLatch ch rank) s =
      .next (emit (drankPut s ch.val rank.val { drank s ch.val rank.val with zqDue := none })
        (.dram ch.val rank.val .zqLatch 0 0 0)) := by
  rw [exec, execZqLatch, started]
  exact congrArg Host.Outcome.next (if_pos due)

/-! ### Margins of the byte lanes (R241, R243) -/

/-- The registers that a look at the margins of channel c may write. -/
def marginRegs (c : Nat) : List Nat :=
  [Reg.DEEP_CHc_STATUS c, Reg.DEEP_CHc_CMD_STATUS c, Reg.DEEP_CHc_EYEl c 0, Reg.DEEP_CHc_EYEl c 1, Reg.CORE_SLACKd 1]

/-- What a look at the margins of channel c keeps: of the channel all but the lanes told, the retraining and when AUTO_RETRAIN
last asked; the registers but its own, and of STATUS all but RETRAINING; the time; and the events of the tick. With no standing
order it starts no retraining. -/
structure MarginsOnly (c : Nat) (s t : State) : Prop where
  chan : { chanOf t c with below := [], autoAt := none, retrain := none } =
    { chanOf s c with below := [], autoAt := none, retrain := none }
  regs : ∀ a, a ∉ marginRegs c → rd t a = rd s a
  status : ∀ i, i ≠ 5 → rb t (Reg.DEEP_CHc_STATUS c) i = rb s (Reg.DEEP_CHc_STATUS c) i
  time : t.time = s.time
  occ : ∀ o ∈ s.ev.occ, o ∈ t.ev.occ
  unordered : rb s Reg.DEEP_ORDER 0 = false → (chanOf t c).retrain = (chanOf s c).retrain ∧
    rd t (Reg.DEEP_CHc_STATUS c) = rd s (Reg.DEEP_CHc_STATUS c) ∧
    rd t (Reg.DEEP_CHc_CMD_STATUS c) = rd s (Reg.DEEP_CHc_CMD_STATUS c)

theorem order_notMem (c : Nat) : Reg.DEEP_ORDER ∉ marginRegs c := by
  simp only [marginRegs, List.mem_cons, List.not_mem_nil, or_false, Reg.DEEP_ORDER, Reg.DEEP_CHc_STATUS,
    Reg.DEEP_CHc_CMD_STATUS, Reg.DEEP_CHc_EYEl, Reg.CORE_SLACKd]
  omega

theorem debt_notMem (c : Nat) : Reg.DEEP_CHc_DEBT c ∉ marginRegs c := by
  simp only [marginRegs, List.mem_cons, List.not_mem_nil, or_false, Reg.DEEP_CHc_DEBT, Reg.DEEP_CHc_STATUS,
    Reg.DEEP_CHc_CMD_STATUS, Reg.DEEP_CHc_EYEl, Reg.CORE_SLACKd]
  omega

namespace MarginsOnly
variable {c : Nat} {s t u : State}

theorem refl (c : Nat) (s : State) : MarginsOnly c s s :=
  ⟨rfl, fun _ _ => rfl, fun _ _ => rfl, rfl, fun _ h => h, fun _ => ⟨rfl, rfl, rfl⟩⟩

theorem trans (h : MarginsOnly c s t) (k : MarginsOnly c t u) : MarginsOnly c s u where
  chan := k.chan.trans h.chan
  regs a ha := (k.regs a ha).trans (h.regs a ha)
  status i hi := (k.status i hi).trans (h.status i hi)
  time := k.time.trans h.time
  occ o ho := k.occ o (h.occ o ho)
  unordered off := by
    have still : rb t Reg.DEEP_ORDER 0 = false := by rw [rb, h.regs _ (order_notMem c), ← rb, off]
    obtain ⟨retrain, status, command⟩ := h.unordered off
    obtain ⟨retrain', status', command'⟩ := k.unordered still
    exact ⟨retrain'.trans retrain, status'.trans status, command'.trans command⟩

/-- A state that differs only in more events of the tick and in the registers that show the margins. -/
theorem of_shown (deep : t.deep = s.deep) (time : t.time = s.time) (occ : ∀ o ∈ s.ev.occ, o ∈ t.ev.occ)
    (regs : ∀ a, a ≠ Reg.DEEP_CHc_EYEl c 0 → a ≠ Reg.DEEP_CHc_EYEl c 1 → a ≠ Reg.CORE_SLACKd 1 → rd t a = rd s a) :
    MarginsOnly c s t := by
  have chan : chanOf t c = chanOf s c := by rw [chanOf, deep, chanOf]
  have status : rd t (Reg.DEEP_CHc_STATUS c) = rd s (Reg.DEEP_CHc_STATUS c) := by
    refine regs _ ?_ ?_ ?_ <;> simp only [Reg.DEEP_CHc_STATUS, Reg.DEEP_CHc_EYEl, Reg.CORE_SLACKd] <;> omega
  have command : rd t (Reg.DEEP_CHc_CMD_STATUS c) = rd s (Reg.DEEP_CHc_CMD_STATUS c) := by
    refine regs _ ?_ ?_ ?_ <;> simp only [Reg.DEEP_CHc_CMD_STATUS, Reg.DEEP_CHc_EYEl, Reg.CORE_SLACKd] <;> omega
  refine ⟨by rw [chan], fun a ha => ?_, fun i _ => by rw [rb, status, rb], time, occ,
    fun _ => ⟨by rw [chan], status, command⟩⟩
  simp only [marginRegs, List.mem_cons, List.not_mem_nil, or_false, not_or] at ha
  obtain ⟨-, -, lane0, lane1, slack⟩ := ha
  exact regs a lane0 lane1 slack

theorem raise (h : MarginsOnly c s t) (e d0 d1 : Nat) : MarginsOnly c s (raise t e d0 d1) :=
  h.trans (.of_shown rfl rfl (fun o ho => by rw [raise_occ]; exact List.mem_append_left _ ho) fun a _ _ _ => rd_raise ..)

/-- The lanes told and the time of AUTO_RETRAIN may change. -/
theorem put (h : MarginsOnly c s t) (lanes : List Nat) (asked : Option Nat) :
    MarginsOnly c s (chanPut t c { chanOf t c with below := lanes, autoAt := asked }) := by
  refine h.trans ⟨?_, fun a _ => rd_chanPut .., fun i _ => by rw [rb, rd_chanPut, rb], chanPut_time .., fun o ho => ho,
    fun _ => ⟨?_, rd_chanPut .., rd_chanPut ..⟩⟩
  · rw [chanOf_chanPut_same]
  · rw [chanOf_chanPut_same]

theorem eyes (h : MarginsOnly c s t) (k : Nat) : eyeOf t c k = eyeOf s c k := eyeOf_congr (congrArg Chan.eyes h.chan :) k

theorem drank (h : MarginsOnly c s t) (r : Nat) : drank t c r = drank s c r := drank_congr (congrArg Chan.ranks h.chan :) r

end MarginsOnly

/-- The slack monitor keeps the channels and the events of the tick. -/
theorem slackLook_deep_occ (s : State) (d : Nat) :
    (slackLook s d).deep = s.deep ∧ ∀ o ∈ s.ev.occ, o ∈ (slackLook s d).ev.occ := by
  obtain ⟨v, h | ⟨e, d0, d1, h⟩⟩ := slackLook_cases s d
  · rw [h, wrn_deep, wrn_ev]
    exact ⟨rfl, fun _ ho => ho⟩
  · rw [h, raise_deep, wrn_deep, raise_occ, wrn_ev]
    exact ⟨rfl, fun _ ho => List.mem_append_left _ ho⟩

theorem slackReport_deep_occ (s : State) (d unit margin threshold : Nat) :
    (slackReport s d unit margin threshold).deep = s.deep ∧
      ∀ o ∈ s.ev.occ, o ∈ (slackReport s d unit margin threshold).ev.occ := by
  rw [slackReport]
  generalize ({ s.core with slack := tabSet s.core.slack (d * 65536 + unit) (margin, threshold) } : CoreCal) = core
  exact slackLook_deep_occ { s with core := core } d

/-- The margin m of byte lane l in its register, and in slack domain 1. -/
def marginShown (s : State) (c l m threshold : Nat) : State :=
  slackReport (wrn s (Reg.DEEP_CHc_EYEl c l) (m + b2n (decide (m < threshold)) * 2 ^ 31)) 1 (2 * c + l) m threshold

theorem marginShown_deep (s : State) (c l m threshold : Nat) : (marginShown s c l m threshold).deep = s.deep := by
  rw [marginShown, (slackReport_deep_occ ..).1, wrn_deep]

theorem marginShown_marginsOnly (s : State) (c m threshold : Nat) {l : Nat} (hl : l < 2) :
    MarginsOnly c s (marginShown s c l m threshold) := by
  refine .of_shown (marginShown_deep ..) ?_ (fun o ho => ?_) fun a lane0 lane1 slack => ?_
  · rw [marginShown, (slackReport_lanes_time ..).2, wrn_time]
  · rw [marginShown]
    exact (slackReport_deep_occ ..).2 o (by rwa [wrn_ev])
  · have lane : a ≠ Reg.DEEP_CHc_EYEl c l := by interval_cases l <;> assumption
    rw [marginShown, rd_slackReport _ _ _ slack, rd_wrn_ne _ lane]

/-- The standing order asks for a retraining: it starts or is refused. -/
theorem retrainAsk_marginsOnly {s : State} (c : Nat) (order : rb s Reg.DEEP_ORDER 0 = true) :
    MarginsOnly c s (retrainAsk s c false) := by
  have ordered {p : Prop} (off : rb s Reg.DEEP_ORDER 0 = false) : p := by simp [order] at off
  rw [retrainAsk]
  split
  · have chan : chanOf (retrainStart s c) c = { chanOf s c with retrain := some (nowNs s) } := chanOf_chanPut_same ..
    have read (a : Nat) : rd (retrainStart s c) a = rd (wf s (Reg.DEEP_CHc_STATUS c) 5 5 1) a := rd_chanPut ..
    refine ⟨?_, fun a ha => ?_, fun i hi => ?_, ?_, fun _ ho => ho, ordered⟩
    · exact congrArg (fun y : Chan => { y with below := [], autoAt := none, retrain := none }) chan
    · exact (read a).trans (rd_wf_ne _ _ _ fun e => ha (by simp [marginRegs, e]))
    · refine (congrArg (bitOf · i) (read _)).trans ((rb_wf_same ..).trans (if_neg (by omega)))
    · exact (chanPut_time ..).trans (wf_time ..)
  · have refused : MarginsOnly c s (wf s (Reg.DEEP_CHc_CMD_STATUS c) 3 1 (retrainRefusal s c)) := by
      refine ⟨?_, fun a ha => ?_, fun i _ => ?_, wf_time .., fun _ ho => ho, ordered⟩
      · rw [chanOf_wf]
      · exact rd_wf_ne _ _ _ fun e => ha (by simp [marginRegs, e])
      · exact rb_wf_ne _ _ _ _ (deepStatus_ne_cmdStatus c)
    exact refused.raise ..

/-- The event of a lane below the threshold is raised while it is armed, and armed again at the threshold plus 2; under the
standing order it asks for a retraining. -/
def marginJudged (s : State) (c l m threshold : Nat) (x : Chan) : State :=
  if x.below.contains l then
    if threshold + 2 ≤ m then chanPut s c { x with below := x.below.filter (· != l) } else s
  else if m < threshold then
    let u := chanEvent (chanPut s c { x with below := l :: x.below }) c 5 l m
    let ready := match x.autoAt with
      | some t => elapsed u t 100000000
      | none => true
    if rb u Reg.DEEP_ORDER 0 && ready then
      retrainAsk (chanPut u c { chanOf u c with autoAt := some (nowNs u) }) c false
    else u
  else s

theorem marginJudged_marginsOnly {s : State} {c : Nat} {x : Chan} (l m threshold : Nat) (here : chanOf s c = x) :
    MarginsOnly c s (marginJudged s c l m threshold x) := by
  subst here
  rw [marginJudged]
  split
  · split
    · exact (MarginsOnly.refl c s).put _ _
    · exact .refl c s
  · split
    · have told : MarginsOnly c s (chanEvent (chanPut s c { chanOf s c with below := l :: (chanOf s c).below }) c 5 l m) :=
        ((MarginsOnly.refl c s).put _ _).raise ..
      extract_lets u ready
      split
      next asks =>
        have order : rb (chanPut u c { chanOf u c with autoAt := some (nowNs u) }) Reg.DEEP_ORDER 0 = true := by
          rw [rb, rd_chanPut, ← rb]
          exact (Bool.and_eq_true_iff.mp asks).1
        exact (told.put _ _).trans (retrainAsk_marginsOnly c order)
      next => exact told
    · exact .refl c s

/-- The look at byte lane l. -/
def laneLooked (c threshold : Nat) (s : State) (l : Nat) : State :=
  marginJudged (marginShown s c l (laneMargin s c l) threshold) c l (laneMargin s c l) threshold (chanOf s c)

theorem laneLook_eq (s : State) (c : Nat) :
    laneLook s c = (List.range 2).foldl (laneLooked c (rf s Reg.DEEP_EYE_THRESH 5 0)) s := rfl

theorem laneLook_marginsOnly (s : State) (c : Nat) : MarginsOnly c s (laneLook s c) := by
  rw [laneLook_eq]
  refine List.foldlRecOn (List.range 2) _ (MarginsOnly.refl c s) fun u h l hl => h.trans ?_
  have chan : chanOf (marginShown u c l (laneMargin u c l) (rf s Reg.DEEP_EYE_THRESH 5 0)) c = chanOf u c := by
    rw [chanOf, marginShown_deep, chanOf]
  exact (marginShown_marginsOnly u c _ _ (List.mem_range.mp hl)).trans (marginJudged_marginsOnly l _ _ chan)

/-! ### The window of corrected lines (R217) -/

/-- A new window begins; event 1 tells the lines corrected in the old one when they reach the threshold. -/
def corrWindowEnd (s : State) (c : Nat) : State :=
  let x := chanOf s c
  let u := chanPut s c { x with corrected := 0, corrAt := nowNs s }
  if rf u Reg.DEEP_CORR_THRESH 19 0 ≤ x.corrected then chanEvent u c 1 0 x.corrected else u

theorem exec_deepCorrWindow {ch : Fin 64} {s : State} (due : (chanOf s ch.val).corrAt + 1000000 ≤ nowNs s) :
    exec (.deepCorrWindow ch) s = .next (corrWindowEnd s ch.val) :=
  congrArg Host.Outcome.next (if_pos (decide_eq_true due))

theorem corrWindowEnd_spec (s : State) (c : Nat) :
    let t := corrWindowEnd s c
    let x := chanOf s c
    chanOf t c = { x with corrected := 0, corrAt := nowNs s } ∧ t.regs = s.regs ∧
      t.ev.occ = s.ev.occ ++ (if rf s Reg.DEEP_CORR_THRESH 19 0 ≤ x.corrected then
        [⟨0x901 + 16 * c, pack2 c 0, x.corrected, tickNo s⟩] else []) := by
  have chan := chanOf_chanPut_same s c { chanOf s c with corrected := 0, corrAt := nowNs s }
  have threshold : rf (chanPut s c { chanOf s c with corrected := 0, corrAt := nowNs s }) Reg.DEEP_CORR_THRESH 19 0 =
      rf s Reg.DEEP_CORR_THRESH 19 0 := by rw [rf, rd_chanPut, ← rf]
  simp only [corrWindowEnd, threshold]
  split
  · exact ⟨chan, rfl, occ_chanEvent ..⟩
  · exact ⟨chan, rfl, (List.append_nil _).symm⟩

/-! ### The read-eye probe (R239) -/

theorem chanOf_showProbe (s : State) (c : Nat) : chanOf (showProbe s c) c = chanOf s c := by
  rw [showProbe, chanOf_wf, chanOf_wf]

theorem rd_showProbe {s : State} {c a : Nat} (ha : a ≠ Reg.DEEP_CHc_STATUS c) : rd (showProbe s c) a = rd s a := by
  rw [showProbe, rd_wf_ne _ _ _ ha, rd_wf_ne _ _ _ ha]

/-- The eye of the probed pin after its window: both estimates move, and the read centre towards the wider side. -/
def probedEye (s : State) (c : Nat) : Nat × Nat × Nat × Nat :=
  let e := eyeOf s c (chanOf s c).probe
  let n := (chanOf s c).probeCount
  let l := estNext e.1 n.1 n.2.1
  let r := estNext e.2.1 n.2.2.1 n.2.2.2
  (l, r, if l + 2 ≤ r then min 127 (e.2.2.1 + 1) else if r + 2 ≤ l then e.2.2.1 - 1 else e.2.2.1, e.2.2.2)

/-- The probed pin has its new eye; event 6 tells a centre that comes to an end of its range. -/
def eyeProbed (s : State) (c : Nat) : State :=
  let p := (chanOf s c).probe
  let centre := (eyeOf s c p).2.2.1
  let e := probedEye s c
  let u := eyeSet s c p e
  if e.2.2.1 ≠ centre ∧ (e.2.2.1 = 0 ∨ e.2.2.1 = 127) then chanEvent u c 6 (p % 16 / 8) (p % 16) else u

/-- The window of the next pin begins. -/
def probeTurned (s : State) (c next : Nat) : State :=
  chanPut s c { chanOf s c with probe := next, probeAt := nowNs s, probeCount := (0, 0, 0, 0) }

theorem exec_probeWindowEnd {ch : Fin 64} {s : State} (on : rb s Reg.DEEP_CFG 8 = true) (runs : chanRuns s ch.val = true)
    (due : (chanOf s ch.val).probeAt + 64000 ≤ nowNs s) :
    let u := eyeProbed s ch.val
    exec (.probeWindowEnd ch) s = .next (laneLook (showProbe (probeTurned u ch.val
      (((chanOf s ch.val).probe + 1) % (16 * rankCount u))) ch.val) ch.val) :=
  congrArg Host.Outcome.next (if_neg (by simp [on, runs, elapsed, due]))

theorem eyeProbed_eyesOnly (s : State) (c : Nat) : EyesOnly c s (eyeProbed s c) := by
  have eye := (EyesOnly.refl c s).eyeSet (chanOf s c).probe (probedEye s c)
  rw [eyeProbed]
  split
  · exact eye.raise ..
  · exact eye

theorem eyeOf_eyeProbed (s : State) (c : Nat) : eyeOf (eyeProbed s c) c (chanOf s c).probe = probedEye s c := by
  have eye : eyeOf (eyeSet s c (chanOf s c).probe (probedEye s c)) c (chanOf s c).probe = probedEye s c := by
    rw [eyeOf_eyeSet, if_pos rfl]
  rw [eyeProbed]
  split <;> exact eye

/-! ### Training (R237, R244) -/

/-- A retraining that began at t0 ends: requests resume, and event 7 tells how long it took. -/
def retrained (s : State) (c t0 : Nat) : State :=
  let u := wf (chanPut (wf s (Reg.DEEP_CHc_STATUS c) 5 5 0) c { chanOf s c with retrain := none })
    (Reg.DEEP_CHc_CMD_STATUS c) 0 0 0
  chanEvent u c 7 0 (nowNs u - t0)

theorem exec_retrainComplete {ch : Fin 64} {s : State} {t0 : Nat} (eyes : List (Nat × Nat × Nat × Nat))
    (running : (chanOf s ch.val).retrain = some t0) :
    exec (.retrainComplete ch eyes) s = .next (laneLook (retrained (eyesPut s ch.val eyes) ch.val t0) ch.val) := by
  rw [exec, execRetrainComplete, running]
  rfl

theorem retrained_spec (s : State) (c t0 : Nat) :
    let t := retrained s c t0
    (∀ k, eyeOf t c k = eyeOf s c k) ∧
      ⟨0x907 + 16 * c, pack2 c 0, nowNs s - t0, tickNo s⟩ ∈ t.ev.occ ∧ rb t (Reg.DEEP_CHc_STATUS c) 5 = false ∧
      (chanOf t c).retrain = none ∧ rb t (Reg.DEEP_CHc_CMD_STATUS c) 0 = false ∧
      rb t Reg.DEEP_ORDER 0 = rb s Reg.DEEP_ORDER 0 := by
  have chan : chanOf (retrained s c t0) c = { chanOf s c with retrain := none } := chanOf_chanPut_same ..
  have order : Reg.DEEP_ORDER ≠ Reg.DEEP_CHc_STATUS c ∧ Reg.DEEP_ORDER ≠ Reg.DEEP_CHc_CMD_STATUS c := by
    simp only [Reg.DEEP_ORDER, Reg.DEEP_CHc_STATUS, Reg.DEEP_CHc_CMD_STATUS]; omega
  refine ⟨fun k => eyeOf_congr (by rw [chan]) k, ?_, ?_, by rw [chan], ?_, ?_⟩
  · rw [retrained, occ_chanEvent]
    exact List.mem_append_right _ (List.mem_singleton_self _)
  · rw [retrained, chanEvent, rb, rd_raise, rd_wf_ne _ _ _ (deepStatus_ne_cmdStatus c), rd_chanPut, ← rb, rb_wf_same]
    rfl
  · rw [retrained, chanEvent, rb, rd_raise, ← rb, rb_wf_same]
    rfl
  · rw [retrained, chanEvent, rb, rd_raise, rd_wf_ne _ _ _ order.2, rd_chanPut, rd_wf_ne _ _ _ order.1, ← rb]

/-- Rank r of a trained channel: its debt limit, its oscillator's baseline, and refresh from now on. -/
def rankBegun (c : Nat) (counts : List (BitVec 16)) (s : State) (r : Nat) : State :=
  drankPut (debtLimitSet s c r 64) c r { drank s c r with oscBase := (counts[r]?).map (·.toNat), dueAt := nowNs s }

def ranksBegun (s : State) (c : Nat) (counts : List (BitVec 16)) : State := (ranksOf s).foldl (rankBegun c counts) s

/-- The windows and the seed's time of a trained channel begin. -/
def windowsBegun (s : State) (c : Nat) : State :=
  chanPut s c { chanOf s c with probeAt := nowNs s, corrAt := nowNs s, seededAt := nowNs s }

/-- A channel in use that is neither trained nor FAILED. -/
theorem exec_trained {ch : Fin 64} {s : State} (eyes : List (Nat × Nat × Nat × Nat)) (counts : List (BitVec 16))
    (untrained : rb s (Reg.DEEP_CHc_STATUS ch.val) 0 = false) (works : chanFailed s ch.val = false)
    (inUse : ch.val < 2 ^ chanBits s) :
    exec (.initialTrainingComplete ch none eyes counts) s =
      .next (laneLook (showProbe (windowsBegun (ranksBegun (eyesPut (wf s (Reg.DEEP_CHc_STATUS ch.val) 0 0 1) ch.val eyes)
        ch.val counts) ch.val) ch.val) ch.val) :=
  congrArg Host.Outcome.next (if_neg (by simp [untrained, works, inUse]))

theorem exec_trainingFailed {ch : Fin 64} {s : State} (step : Fin 9) (pin : Fin 16) (eyes : List (Nat × Nat × Nat × Nat))
    (counts : List (BitVec 16)) (untrained : rb s (Reg.DEEP_CHc_STATUS ch.val) 0 = false) (works : chanFailed s ch.val = false)
    (inUse : ch.val < 2 ^ chanBits s) :
    exec (.initialTrainingComplete ch (some (step, pin)) eyes counts) s =
      .next (chanEvent (wf (wf s (Reg.DEEP_CHc_STATUS ch.val) 1 1 1) Reg.DEEP_FAILED ch.val ch.val 1) ch.val 13 0
        (pack2 step.val pin.val)) :=
  congrArg Host.Outcome.next (if_neg (by simp [untrained, works, inUse]))

/-- The debt limit of a rank, since when its refresh is counted, and the time. -/
def rankView (c r : Nat) (s : State) : Nat × Nat × Nat := (debtLimit s c r, (drank s c r).dueAt, nowNs s)

theorem debtLimit_rankBegun (s : State) (c : Nat) (counts : List (BitVec 16)) (q r : Nat) :
    debtLimit (rankBegun c counts s q) c r = debtLimit (debtLimitSet s c q 64) c r := by
  rw [rankBegun, debtLimit, rf, rd_drankPut, ← rf, ← debtLimit]

theorem rankView_rankBegun_ne {c q r : Nat} (counts : List (BitVec 16)) (s : State) (ne : q ≠ r) :
    rankView c r (rankBegun c counts s q) = rankView c r s := by
  have limit : debtLimit (rankBegun c counts s q) c r = debtLimit s c r := by
    rw [debtLimit_rankBegun, debtLimit, debtLimitSet, rf_wf_ne _ (.inr (by omega)), debtLimit]
  have rank : drank (rankBegun c counts s q) c r = drank s c r := by
    rw [rankBegun, drank_drankPut_ne _ ne, debtLimitSet, drank_wf]
  rw [rankView, limit, rank]
  rfl

theorem rankView_rankBegun_same (c : Nat) {r : Nat} (counts : List (BitVec 16)) (s : State) (hr : r < 2) :
    rankView c r (rankBegun c counts s r) = (64, nowNs s, nowNs s) := by
  rw [rankView, debtLimit_rankBegun, debtLimit_debtLimitSet _ _ hr (by decide), rankBegun, drank_drankPut_same]
  rfl

/-- Each rank in use begins by itself. -/
theorem ranksBegun_rank (s : State) (c : Nat) (counts : List (BitVec 16)) {r : Nat} (inUse : r < rankCount s) (hr : r < 2) :
    debtLimit (ranksBegun s c counts) c r = 64 ∧ (drank (ranksBegun s c counts) c r).dueAt = nowNs s := by
  obtain ⟨u, before, after⟩ := foldl_range_view (rankView c r) (fun q ne u => rankView_rankBegun_ne counts u ne) inUse s
  have now : nowNs u = nowNs s := congrArg (fun v : Nat × Nat × Nat => v.2.2) before
  rw [rankView_rankBegun_same c counts u hr, now] at after
  exact ⟨congrArg Prod.fst after, congrArg (fun v : Nat × Nat × Nat => v.2.1) after⟩

/-- The ranks' begin touches of the channel only the ranks, and of the registers only DEEP_CHc_DEBT. -/
theorem ranksBegun_keeps (s : State) (c : Nat) (counts : List (BitVec 16)) :
    (chanOf (ranksBegun s c counts) c).eyes = (chanOf s c).eyes ∧
      rd (ranksBegun s c counts) (Reg.DEEP_CHc_STATUS c) = rd s (Reg.DEEP_CHc_STATUS c) := by
  refine ⟨foldl_view (fun u => (chanOf u c).eyes) _ s fun r _ u => ?_,
    foldl_view (rd · (Reg.DEEP_CHc_STATUS c)) _ s fun r _ u => ?_⟩
  · rw [rankBegun, eyes_drankPut, debtLimitSet, chanOf_wf]
  · rw [rankBegun, rd_drankPut, debtLimitSet, rd_wf_ne _ _ _ (deepStatus_ne c).1]

/-! ### The statement -/

theorem rankCount_le (s : State) : rankCount s ≤ 2 := by
  have bit := fld_lt (rd s Reg.DEEP_MAP) 2 2
  rw [rankCount, rf]
  omega

/-- MR4_POLL of a running channel whose time has come. -/
theorem mr4Poll_spec {ch : Fin 64} {rank : Fin 2} {s : State} (v : BitVec 8) (runs : chanRuns s ch.val = true)
    (inUse : rank.val < rankCount s) (due : (drank s ch.val rank.val).mr4At < staggerIndex s ch.val rank.val 4000000) :
    let c := ch.val
    let r := rank.val
    ∃ t, exec (.mr4Poll ch rank v) s = .next t ∧ rf t (Reg.DEEP_CHc_MR4 c) (8 * r + 7) (8 * r) = v.toNat ∧
      rateOf t c r = mr4Rate v.toNat ∧ t.out = .dram c r .modeRead 0 4 0 :: s.out ∧
      (drank t c r).mr4At = staggerIndex s c r 4000000 ∧
      (dueInterval (mr4Rate v.toNat) < dueInterval (rateOf s c r) → 0 < debt s c r →
        (drank t c r).catchup = some (nowNs s, ((debt s c r).toNat + 7) / 8, 0, limitOf (mr4Rate v.toNat)) ∧
        rb t (Reg.DEEP_CHc_STATUS c) (14 + r) = true) := by
  intro c r
  let polled := drankPut (emit s (.dram c r .modeRead 0 4 0)) c r { drank s c r with mr4At := staggerIndex s c r 4000000 }
  have rate : rateOf polled c r = rateOf s c r := by rw [rateOf, rf, rd_drankPut, rd_emit, ← rf, ← rateOf]
  have owes : debt polled c r = debt s c r := by rw [debt_drankPut, debt, rf, rd_emit, ← rf, ← debt]
  have shown := pollView_mr4Poll polled (c := c) v.toNat rank.isLt
  simp only [pollView, Prod.mk.injEq] at shown
  obtain ⟨mr4, new, out, at_⟩ := shown
  refine ⟨_, exec_mr4Poll v runs inUse due, ?_, new, out, ?_, fun faster owed => ?_⟩
  · have bits : 8 * r + 7 + 1 - 8 * r = 8 := by omega
    rw [rf, mr4, fld_setFld_same _ _ _ _ (by omega), bits, Nat.mod_eq_of_lt v.isLt]
  · rw [at_, drank_drankPut_same]
  · rw [← rate] at faster
    rw [← owes] at owed ⊢
    exact mr4Poll_catchup rank.isLt faster owed

/-- DQS_OSC_READ of a running channel whose time has come. -/
theorem dqsOscRead_spec {ch : Fin 64} {rank : Fin 2} {s : State} (count : BitVec 16) (shift : Int)
    (runs : chanRuns s ch.val = true) (inUse : rank.val < rankCount s)
    (due : (drank s ch.val rank.val).oscAt < staggerIndex s ch.val rank.val 1000000) :
    let c := ch.val
    let r := rank.val
    ∃ t, exec (.dqsOscRead ch rank count shift) s = .next t ∧
      rf t (Reg.DEEP_CHc_DQSOSC c) (16 * r + 15) (16 * r) = count.toNat ∧
      (∀ p, p < 16 → eyeOf t c (16 * r + p) = delayMoved (eyeOf s c (16 * r + p)) shift) ∧
      (drank t c r).oscAt = staggerIndex s c r 1000000 ∧ t.out = .dram c r .modeRead 0 18 0 :: s.out := by
  intro c r
  obtain ⟨stored, eyes, at_, out⟩ := oscRead_spec s (c := c) rank.isLt count.isLt
  have moved := pinsMoved_eyesOnly (oscRead s c r count.toNat) c r shift 16
  refine ⟨_, exec_dqsOscRead count shift runs inUse due, ?_, fun p hp => ?_, ?_, moved.out.trans out⟩
  · rw [rf, moved.regs _ fun i _ => by simp only [Reg.DEEP_CHc_DQSOSC, Reg.DEEP_CHc_PINi_EYE]; omega, ← rf, stored]
  · rw [eyeOf_pinsMoved _ _ _ _ hp, eyes]
  · rw [moved.drank, at_]

/-- PROBE_WINDOW_END of a running channel after 64 µs. -/
theorem probeWindowEnd_spec {ch : Fin 64} {s : State} (on : rb s Reg.DEEP_CFG 8 = true) (runs : chanRuns s ch.val = true)
    (due : (chanOf s ch.val).probeAt + 64000 ≤ nowNs s) :
    let c := ch.val
    let x := chanOf s c
    ∃ t, exec (.probeWindowEnd ch) s = .next t ∧ eyeOf t c x.probe = probedEye s c ∧
      (chanOf t c).probe = (x.probe + 1) % (16 * rankCount s) ∧ (chanOf t c).probeCount = (0, 0, 0, 0) ∧
      (chanOf t c).probeAt = nowNs s := by
  intro c x
  have eyes := eyeProbed_eyesOnly s c
  have turned (next : Nat) : chanOf (showProbe (probeTurned (eyeProbed s c) c next) c) c =
      { chanOf (eyeProbed s c) c with probe := next, probeAt := nowNs (eyeProbed s c), probeCount := (0, 0, 0, 0) } := by
    rw [chanOf_showProbe, probeTurned, chanOf_chanPut_same]
  have margins (next : Nat) := laneLook_marginsOnly (showProbe (probeTurned (eyeProbed s c) c next) c) c
  refine ⟨_, exec_probeWindowEnd on runs due, ?_, ?_, ?_, ?_⟩
  · rw [(margins _).eyes, eyeOf_congr (s := eyeProbed s c) (by rw [turned]), eyeOf_eyeProbed]
  · rw [(congrArg Chan.probe (margins _).chan :), turned, eyes.rankCount]
  · rw [(congrArg Chan.probeCount (margins _).chan :), turned]
  · rw [(congrArg Chan.probeAt (margins _).chan :), turned, eyes.now]

/-- RETRAIN_COMPLETE of a retraining that began at t0. -/
theorem retrainComplete_spec {ch : Fin 64} {s : State} {t0 : Nat} (eyes : List (Nat × Nat × Nat × Nat))
    (running : (chanOf s ch.val).retrain = some t0) :
    let c := ch.val
    ∃ t, exec (.retrainComplete ch eyes) s = .next t ∧ (∀ k e, eyes[k]? = some e → eyeOf t c k = e) ∧
      (∃ o ∈ t.ev.occ, o.source = 0x907 + 16 * c ∧ o.d0 = pack2 c 0 ∧ o.d1 = nowNs s - t0) ∧
      (rb s Reg.DEEP_ORDER 0 = false → rb t (Reg.DEEP_CHc_STATUS c) 5 = false ∧ (chanOf t c).retrain = none ∧
        rb t (Reg.DEEP_CHc_CMD_STATUS c) 0 = false) := by
  intro c
  have put := eyesPut_eyesOnly s c eyes
  obtain ⟨kept, told, status, retrain, busy, order⟩ := retrained_spec (eyesPut s c eyes) c t0
  have margins := laneLook_marginsOnly (retrained (eyesPut s c eyes) c t0) c
  refine ⟨_, exec_retrainComplete eyes running, fun k e here => ?_,
    ⟨_, margins.occ _ told, rfl, rfl, congrArg (· - t0) put.now⟩, fun off => ?_⟩
  · rw [margins.eyes, kept, eyeOf_eyesPut here]
  · have same : rd (eyesPut s c eyes) Reg.DEEP_ORDER = rd s Reg.DEEP_ORDER :=
      put.regs _ fun i hi => by simp only [Reg.DEEP_ORDER, Reg.DEEP_CHc_PINi_EYE]; omega
    obtain ⟨retrain', status', busy'⟩ := margins.unordered (by rw [order, rb, same, ← rb, off])
    exact ⟨by rw [rb, status', ← rb, status], retrain'.trans retrain, by rw [rb, busy', ← rb, busy]⟩

/-- INITIAL_TRAINING_COMPLETE of a channel in use that is neither trained nor FAILED, when it succeeds. -/
theorem initialTrainingComplete_spec {ch : Fin 64} {s : State} (eyes : List (Nat × Nat × Nat × Nat))
    (counts : List (BitVec 16)) (untrained : rb s (Reg.DEEP_CHc_STATUS ch.val) 0 = false) (works : chanFailed s ch.val = false)
    (inUse : ch.val < 2 ^ chanBits s) :
    let c := ch.val
    ∃ t, exec (.initialTrainingComplete ch none eyes counts) s = .next t ∧ rb t (Reg.DEEP_CHc_STATUS c) 0 = true ∧
      (∀ k e, eyes[k]? = some e → eyeOf t c k = e) ∧
      ∀ r, r < rankCount s → debtLimit t c r = 64 ∧ (drank t c r).dueAt = nowNs s := by
  intro c
  let trained := wf s (Reg.DEEP_CHc_STATUS c) 0 0 1
  let begun := ranksBegun (eyesPut trained c eyes) c counts
  have put := eyesPut_eyesOnly trained c eyes
  obtain ⟨keptEyes, keptStatus⟩ := ranksBegun_keeps (eyesPut trained c eyes) c counts
  have chan : chanOf (showProbe (windowsBegun begun c) c) c =
      { chanOf begun c with probeAt := nowNs begun, corrAt := nowNs begun, seededAt := nowNs begun } := by
    rw [chanOf_showProbe, windowsBegun, chanOf_chanPut_same]
  have margins := laneLook_marginsOnly (showProbe (windowsBegun begun c) c) c
  refine ⟨_, exec_trained eyes counts untrained works inUse, ?_, fun k e here => ?_, fun r hr => ?_⟩
  · rw [margins.status 0 (by decide), showProbe, rb_wf_same, if_neg (by decide), rb_wf_same, if_neg (by decide), rb, windowsBegun,
      rd_chanPut, keptStatus, put.status, ← rb, rb_wf_same]
    rfl
  · rw [margins.eyes, eyeOf_congr (s := begun) (by rw [chan]), eyeOf_congr keptEyes, eyeOf_eyesPut here]
  · have map : rankCount trained = rankCount s := by
      rw [rankCount, rf_wf_ne _ (.inl (by simp only [Reg.DEEP_MAP, Reg.DEEP_CHc_STATUS]; omega)), ← rankCount]
    have two : r < 2 := hr.trans_le (rankCount_le s)
    have counted : r < rankCount (eyesPut trained c eyes) := by rwa [put.rankCount, map]
    obtain ⟨limit, due⟩ := ranksBegun_rank (eyesPut trained c eyes) c counts counted two
    refine ⟨?_, ?_⟩
    · rw [debtLimit, rf, margins.regs _ (debt_notMem c), rd_showProbe (deepStatus_ne c).1.symm, windowsBegun, rd_chanPut, ← rf,
        ← debtLimit, limit]
    · rw [margins.drank, drank_congr (s := begun) (by rw [chan]), due, put.now]
      rfl

/-- INITIAL_TRAINING_COMPLETE of such a channel, when it fails on a pin. -/
theorem initialTrainingComplete_failed {ch : Fin 64} {s : State} (step : Fin 9) (pin : Fin 16)
    (eyes : List (Nat × Nat × Nat × Nat)) (counts : List (BitVec 16)) (untrained : rb s (Reg.DEEP_CHc_STATUS ch.val) 0 = false)
    (works : chanFailed s ch.val = false) (inUse : ch.val < 2 ^ chanBits s) :
    let c := ch.val
    let st := Reg.DEEP_CHc_STATUS c
    ∃ t, exec (.initialTrainingComplete ch (some (step, pin)) eyes counts) s = .next t ∧ chanFailed t c = true ∧
      rb t Reg.DEEP_FAILED c = true ∧ Only s t [st, Reg.DEEP_FAILED] [(0x90D + 16 * c, pack2 c 0, pack2 step pin)] [] := by
  intro c st
  have apart : Reg.DEEP_CHc_STATUS c ≠ Reg.DEEP_FAILED := by simp only [Reg.DEEP_CHc_STATUS, Reg.DEEP_FAILED]; omega
  refine ⟨_, exec_trainingFailed step pin eyes counts untrained works inUse, ?_, ?_, ?_⟩
  · rw [chanFailed, chanEvent, rb, rd_raise, rd_wf_ne _ _ _ apart, ← rb, rb_wf_same]
    rfl
  · rw [chanEvent, rb, rd_raise, ← rb, rb_wf_same, if_pos ⟨le_rfl, le_rfl, ch.isLt⟩, Nat.sub_self]
    rfl
  · have source : 0x900 + 16 * c + 13 = 0x90D + 16 * c := by omega
    rw [chanEvent, source]
    exact ((((Only.refl s).mono (by simp)).wr _ (by simp [st, c])).wr _ (by simp)).raise ..

/-- Settles O44: each command by its equation under its conditions; a look at the margins of the byte lanes, which three of them
end with, keeps what they have put. -/
theorem deepUpkeep : Obligations.DeepUpkeep := by
  unfold Obligations.DeepUpkeep
  intro ch s c st x
  refine ⟨fun rank => ?ranks, ?reseed, ?window, ?probe, ?retrain, ?training⟩
  case ranks =>
    intro r k
    refine ⟨?mr4, ?catchup, ?osc, ?zqStart, ?zqLatch⟩
    case mr4 =>
      intro v op new runs inUse due
      exact mr4Poll_spec v runs inUse due
    case catchup =>
      intro t0 n done lim running last fits
      obtain ⟨ended, debt, limit⟩ := caughtUp_rank s (c := c) (n := n) t0 rank.isLt fits
      obtain ⟨shown, counted, told⟩ := caughtUp_shown s (c := c) (n := n) (lim := lim) t0 rank.isLt
      exact ⟨_, exec_catchupComplete running last, ended, debt, limit, shown, counted, told⟩
    case osc =>
      intro count shift runs inUse due
      exact dqsOscRead_spec count shift runs inUse due
    case zqStart =>
      intro on runs inUse due
      exact ⟨_, exec_zqStart on runs inUse due, congrArg Rank.zqDue (drank_drankPut_same s c r _), (Only.refl _).emit _⟩
    case zqLatch =>
      intro at_ started due
      exact ⟨_, exec_zqLatch started due, congrArg Rank.zqDue (drank_drankPut_same s c r _), (Only.refl _).emit _⟩
  case reseed =>
    intro due
    exact ⟨_, congrArg Host.Outcome.next (if_pos (decide_eq_true due)), chanOf_chanPut_same .., rfl, rfl⟩
  case window =>
    intro due
    obtain ⟨chan, regs, occ⟩ := corrWindowEnd_spec s c
    exact ⟨_, exec_deepCorrWindow due, chan, regs, occ⟩
  case probe =>
    intro on runs due
    obtain ⟨t, run, eye, next, count, at_⟩ := probeWindowEnd_spec on runs due
    exact ⟨t, run, congrArg Prod.fst eye, congrArg (fun e => e.2.1) eye, next, count, at_⟩
  case retrain =>
    intro eyes t0 running
    exact retrainComplete_spec eyes running
  case training =>
    intro eyes counts untrained works inUse
    exact ⟨initialTrainingComplete_spec eyes counts untrained works inUse,
      fun step pin => initialTrainingComplete_failed step pin eyes counts untrained works inUse⟩

end Sys2Proof.Machine
end

section
/-! SUPPORT. Gate lists of ports and of stream gates (12_egress_and_streams.md R335 to R340, R343): when a list starts, what its
moves put in force and show, and what they leave as it was; the statements about them settled with these. -/
namespace Sys2Proof.Machine

/-! ### One change after another -/

section
variable {r s t : State} {as : List Nat} {occ occ' : List (Nat × Nat × Nat)} {outs outs' : List Out}

theorem Only.ev_eq (only : Only s t as [] outs) : t.ev = s.ev := by
  have rest := congrArg State.ev only.rest
  have same := only.occ
  rw [List.map_nil, List.append_nil] at same
  rw [← same] at rest
  exact rest

theorem Only.egress (only : Only s t as occ outs) : t.egress = s.egress := by
  have rest := congrArg State.egress only.rest
  exact rest

theorem Only.trans (h : Only r s as occ outs) (k : Only s t as occ' outs') : Only r t as (occ ++ occ') (outs ++ outs') := by
  refine ⟨fun a ha => (k.regs a ha).trans (h.regs a ha), ?_, ?_, ?_⟩
  · have tick : tickNo s = tickNo r := by rw [tickNo, h.time, tickNo]
    rw [k.occ, h.occ, tick, List.map_append, List.append_assoc]
  · rw [k.out, h.out, List.reverse_append, List.append_assoc]
  · have rest := congrArg (fun u => { u with regs := r.regs, out := r.out, ev := { u.ev with occ := r.ev.occ } }) k.rest
    exact rest.trans h.rest

/-- A change of the egress unit's own state is left out of account. -/
theorem Only.of_egress {e : EgressUnit} (only : Only { s with egress := e } t as occ outs) :
    Only { s with egress := t.egress } t as occ outs := by
  rw [only.egress]
  exact only

end

/-- A field is made of the bits in its range. -/
theorem rf_congr_bits {s t : State} {a b hi lo : Nat} (same : ∀ i, lo ≤ i → i ≤ hi → rb t b i = rb s a i) :
    rf t b hi lo = rf s a hi lo := by
  refine Nat.eq_of_testBit_eq fun i => ?_
  rw [rf, rf, testBit_fld, testBit_fld]
  by_cases inside : i < hi + 1 - lo
  · have bit : bitOf (rd t b) (lo + i) = bitOf (rd s a) (lo + i) := same (lo + i) (Nat.le_add_right ..) (by omega)
    rw [bit]
  · rw [decide_eq_false inside, Bool.false_and, Bool.false_and]

/-! ### The list machine (R335, R337) -/

theorem gateStart_ahead {now base : Nat} (cycle : Nat) (ahead : now < base) : gateStart now base cycle = base := if_pos ahead

/-- A base time that has passed: the first of base + n cycles that lies ahead. -/
theorem gateStart_passed {now base cycle : Nat} (passed : base ≤ now) (positive : 0 < cycle) :
    now < gateStart now base cycle ∧ gateStart now base cycle ≤ now + cycle ∧ ∃ k, gateStart now base cycle = base + k * cycle := by
  have start : gateStart now base cycle = base + ((now - base) / cycle + 1) * cycle := by
    rw [gateStart, if_neg (Nat.not_lt.mpr passed), Nat.max_eq_right positive]
  have split := Nat.div_add_mod' (now - base) cycle
  have short := Nat.mod_lt (now - base) positive
  have product := Nat.add_one_mul ((now - base) / cycle) cycle
  rw [start]
  exact ⟨by omega, by omega, _, rfl⟩

theorem move_entry_next {g : GateList} {ext : Nat} (interval : Nat → Nat) (more : g.entry + 1 < g.len) :
    (g.move ext interval).entry = g.entry + 1 ∧ (g.move ext interval).cycleStart = g.cycleStart ∧
      (g.move ext interval).running = g.running := by
  rw [GateList.move, if_pos more]
  exact ⟨rfl, rfl, rfl⟩

theorem move_cycle_next {g : GateList} {ext : Nat} (interval : Nat → Nat) (last : g.len ≤ g.entry + 1)
    (unasked : g.pending = none) :
    (g.move ext interval).entry = 0 ∧ (g.move ext interval).cycleStart = g.cycleStart + g.cycle ∧
      (g.move ext interval).running = g.running := by
  simp only [GateList.move, if_neg (Nat.not_lt.mpr last), unasked]
  exact ⟨rfl, rfl, rfl⟩

/-! ### Hold (R340) -/

@[simp] theorem eport_eportPut (s : State) (p : Nat) (x : EgressPort) : eport (eportPut s p x) p = x := by
  rw [eport, eportPut, tabGet_tabPut, if_pos rfl]

theorem holds_ne_status (p : Nat) : Reg.EGRESS_PORTp_HOLDS p ≠ Reg.EGRESS_PORTp_STATUS p := by
  simp only [Reg.EGRESS_PORTp_HOLDS, Reg.EGRESS_PORTp_STATUS]; omega

theorem oper_ne_status (p i : Nat) : Reg.EGRESS_PORTp_OPERi p i ≠ Reg.EGRESS_PORTp_STATUS p := by
  simp only [Reg.EGRESS_PORTp_OPERi, Reg.EGRESS_PORTp_STATUS]; omega

theorem oper_ne_holds (p i : Nat) : Reg.EGRESS_PORTp_OPERi p i ≠ Reg.EGRESS_PORTp_HOLDS p := by
  simp only [Reg.EGRESS_PORTp_OPERi, Reg.EGRESS_PORTp_HOLDS]; omega

/-- t differs from s only in HOLD (bit 11 of STATUS) and in EGRESS_PORTp_HOLDS of port p. -/
structure HoldOnly (p : Nat) (s t : State) : Prop where
  only : Only s t [Reg.EGRESS_PORTp_STATUS p, Reg.EGRESS_PORTp_HOLDS p] [] []
  bits : ∀ i, i ≠ 11 → rb t (Reg.EGRESS_PORTp_STATUS p) i = rb s (Reg.EGRESS_PORTp_STATUS p) i

theorem HoldOnly.refl (p : Nat) (s : State) : HoldOnly p s s := ⟨(Only.refl s).mono (by simp), fun _ _ => rfl⟩

theorem HoldOnly.field {p : Nat} {s t : State} (h : HoldOnly p s t) {hi lo : Nat} (beside : hi < 11 ∨ 11 < lo) :
    rf t (Reg.EGRESS_PORTp_STATUS p) hi lo = rf s (Reg.EGRESS_PORTp_STATUS p) hi lo :=
  rf_congr_bits fun i low high => h.bits i (by omega)

/-- HOLD put on or off, before the change is counted. -/
def holdSet (s : State) (p : Nat) (on : Bool) : State := wf s (Reg.EGRESS_PORTp_STATUS p) 11 11 (b2n on)

theorem setHold_eq (s : State) (p : Nat) (on : Bool) :
    setHold s p on = if on && !held s p then cnt (holdSet s p on) (Reg.EGRESS_PORTp_HOLDS p) 1 else holdSet s p on := by
  rw [setHold]
  split
  · next asserted =>
    rw [Bool.and_eq_true] at asserted
    rw [holdSet, asserted.1, b2n, if_pos rfl]
  · rfl

theorem rb_holdSet (s : State) (p : Nat) (on : Bool) (i : Nat) :
    rb (holdSet s p on) (Reg.EGRESS_PORTp_STATUS p) i = if i = 11 then on else rb s (Reg.EGRESS_PORTp_STATUS p) i := by
  rw [holdSet, rb_wf_same]
  by_cases here : i = 11
  · subst here
    cases on <;> rfl
  · rw [if_neg (by omega), if_neg here]

theorem rb_setHold (s : State) (p : Nat) (on : Bool) (i : Nat) :
    rb (setHold s p on) (Reg.EGRESS_PORTp_STATUS p) i = if i = 11 then on else rb s (Reg.EGRESS_PORTp_STATUS p) i := by
  rw [setHold_eq]
  split
  · rw [rb, rd_cnt_ne _ (holds_ne_status p).symm, ← rb, rb_holdSet]
  · exact rb_holdSet s p on i

theorem setHold_holdOnly (s : State) (p : Nat) (on : Bool) : HoldOnly p s (setHold s p on) := by
  refine ⟨?_, fun i other => by rw [rb_setHold, if_neg other]⟩
  have put : Only s (holdSet s p on) [Reg.EGRESS_PORTp_STATUS p, Reg.EGRESS_PORTp_HOLDS p] [] [] :=
    (HoldOnly.refl p s).only.wr _ (by simp)
  rw [setHold_eq]
  split
  · exact put.wr _ (by simp)
  · exact put

/-- An assertion that was not in force is counted. -/
theorem rdn_setHold_holds {s : State} {p : Nat} (released : held s p = false) :
    rdn (setHold s p true) (Reg.EGRESS_PORTp_HOLDS p) = min (rdn s (Reg.EGRESS_PORTp_HOLDS p) + 1) (2 ^ 32 - 1) := by
  have counts : (true && !held s p) = true := by rw [released]; rfl
  rw [setHold_eq, if_pos counts, rdn_cnt_same, rdn, holdSet, rd_wf_ne _ _ _ (holds_ne_status p), ← rdn]

/-- What the OP of an entry makes of hold. -/
def holdAfter (op : Nat) (was : Bool) : Bool := if op = 1 then true else if op = 2 then false else was

/-- The entry in force: OP 1 asserts hold, OP 2 releases it, and no other bit of STATUS moves. -/
theorem entryHold_spec (s : State) (p : Nat) : HoldOnly p s (entryHold s p) ∧
    rb (entryHold s p) (Reg.EGRESS_PORTp_STATUS p) 11 =
      holdAfter (operOp s p (eport s p).gates.entry) (rb s (Reg.EGRESS_PORTp_STATUS p) 11) := by
  unfold entryHold
  split
  · next asserts => exact ⟨setHold_holdOnly s p true, by rw [rb_setHold, asserts]; rfl⟩
  · next releases => exact ⟨setHold_holdOnly s p false, by rw [rb_setHold, releases]; rfl⟩
  · next keeps releases => exact ⟨HoldOnly.refl p s, by rw [holdAfter, if_neg keeps, if_neg releases]⟩

/-! ### An entry of a port's list comes into force (R335) -/

/-- The list of port p in operation goes over to g. -/
def gatesPut (s : State) (p : Nat) (g : GateList) : State := eportPut s p { eport s p with gates := g }

@[simp] theorem gates_gatesPut (s : State) (p : Nat) (g : GateList) : (eport (gatesPut s p g) p).gates = g := by
  rw [gatesPut, eport_eportPut]

/-- Entry e is in force in t: its gate states and its index show, its OP has acted on hold, and nothing else has moved but the
egress unit's own state. -/
def EntryInForce (s : State) (p e : Nat) (t : State) : Prop :=
  let st := Reg.EGRESS_PORTp_STATUS p
  (eport t p).gates.entry = e ∧ rf t st 7 0 = operStates s p e ∧ rf t st 25 16 = e % 1024 ∧
    rb t st 11 = holdAfter (operOp s p e) (rb s st 11) ∧
    Only { s with egress := t.egress } t [st, Reg.EGRESS_PORTp_HOLDS p] [] []

theorem gateStates_running {s : State} {p : Nat} (enabled : rb s (Reg.EGRESS_PORTp_CFG p) 4 = true)
    (runs : (eport s p).gates.running = true) : gateStates s p = operStates s p (eport s p).gates.entry := by
  rw [gateStates, if_pos]
  rw [gated, enabled, runs]
  rfl

/-- The gate states and the entry put in force, with no copy in transmission. -/
theorem showGates_idle (s : State) (p was : Nat) :
    showGates s p none was =
      wf (wf s (Reg.EGRESS_PORTp_STATUS p) 7 0 (gateStates s p)) (Reg.EGRESS_PORTp_STATUS p) 25 16 (eport s p).gates.entry := rfl

section
variable {s : State} {p : Nat} {was : Nat}

theorem rd_showGates_ne {a : Nat} (other : a ≠ Reg.EGRESS_PORTp_STATUS p) : rd (showGates s p none was) a = rd s a := by
  rw [showGates_idle, rd_wf_ne _ _ _ other, rd_wf_ne _ _ _ other]

theorem rb_showGates {i : Nat} (low : 7 < i) (apart : i < 16 ∨ 25 < i) :
    rb (showGates s p none was) (Reg.EGRESS_PORTp_STATUS p) i = rb s (Reg.EGRESS_PORTp_STATUS p) i := by
  rw [showGates_idle, rb_wf_same, if_neg (by omega), rb_wf_same, if_neg (by omega)]

theorem rf_showGates_states :
    rf (showGates s p none was) (Reg.EGRESS_PORTp_STATUS p) 7 0 = gateStates s p % 2 ^ 8 := by
  rw [showGates_idle, rf_wf_ne _ (.inr (by omega)), rf_wf_same _ _ _ _ _ (by omega)]

theorem rf_showGates_entry :
    rf (showGates s p none was) (Reg.EGRESS_PORTp_STATUS p) 25 16 = (eport s p).gates.entry % 1024 :=
  rf_wf_same _ _ _ _ _ (by omega)

end

theorem entryInForce_shown {s : State} {p was : Nat} {g : GateList} (enabled : rb s (Reg.EGRESS_PORTp_CFG p) 4 = true)
    (runs : g.running = true) :
    let t := entryHold (showGates (gatesPut s p g) p none was) p
    EntryInForce s p g.entry t ∧ (eport t p).gates = g := by
  intro t
  let shown := showGates (gatesPut s p g) p none was
  have port : (eport shown p).gates = g := gates_gatesPut s p g
  have oper (i : Nat) : rd shown (Reg.EGRESS_PORTp_OPERi p i) = rd s (Reg.EGRESS_PORTp_OPERi p i) :=
    rd_showGates_ne (oper_ne_status p i)
  obtain ⟨hold, on⟩ := entryHold_spec shown p
  have gates : (eport t p).gates = g := by rw [eport, hold.only.egress, ← eport, port]
  have states : gateStates (gatesPut s p g) p = operStates s p g.entry := by
    rw [gateStates_running (s := gatesPut s p g) enabled (by rw [gates_gatesPut, runs]), gates_gatesPut]
    rfl
  refine ⟨⟨by rw [gates], ?_, ?_, ?_, ?_⟩, gates⟩
  · rw [hold.field (.inl (by omega)), rf_showGates_states, states]
    exact Nat.mod_eq_of_lt (fld_lt ..)
  · rw [hold.field (.inr (by omega)), rf_showGates_entry, gates_gatesPut]
  · rw [on, port, operOp, rf, oper, ← rf, ← operOp, rb_showGates (by omega) (by omega)]
    rfl
  · have put : Only (gatesPut s p g) shown [Reg.EGRESS_PORTp_STATUS p, Reg.EGRESS_PORTp_HOLDS p] [] [] :=
      ((HoldOnly.refl p _).only.wr _ (by simp)).wr _ (by simp)
    exact Only.of_egress (put.trans hold.only)

/-! ### The commands of a port's list -/

theorem gateMove_due {s : State} {p : Nat} (enabled : rb s (Reg.EGRESS_PORTp_CFG p) 4 = true)
    (runs : (eport s p).gates.running = true) (due : (eport s p).gates.nextAt ≤ timeN s) :
    gateMove s p none = entryHold (showGates (gatesPut s p
      ((eport s p).gates.move (rdn s (Reg.EGRESS_PORTp_GCL_EXT p)) (operInterval s p))) p none (gateStates s p)) p := by
  have on : gated s p = true := by rw [gated, enabled, runs]; rfl
  rw [gateMove, if_neg (by simp [on, Nat.not_lt.mpr due])]
  rfl

theorem gateMove_early {s : State} {p : Nat} {queue : Option Nat} (early : timeN s < (eport s p).gates.nextAt) :
    gateMove s p queue = s := by
  rw [gateMove, if_pos (by simp [early])]

/-- GATE_ENTRY_CHANGE when its time has come, with no copy in transmission: the list that the move leaves is in force. -/
theorem exec_gateEntryChange {port : Fin 64} {s : State} (enabled : rb s (Reg.EGRESS_PORTp_CFG port.val) 4 = true)
    (runs : (eport s port.val).gates.running = true) (idle : curQueue s port.val = none)
    (due : (eport s port.val).gates.nextAt ≤ timeN s) {e start : Nat}
    (goes : let g := (eport s port.val).gates.move (rdn s (Reg.EGRESS_PORTp_GCL_EXT port.val)) (operInterval s port.val)
      g.entry = e ∧ g.cycleStart = start ∧ g.running = (eport s port.val).gates.running) :
    ∃ t, exec (.gateEntryChange port) s = .next t ∧ EntryInForce s port.val e t ∧ (eport t port.val).gates.cycleStart = start := by
  obtain ⟨entry, cycle, running⟩ := goes
  obtain ⟨force, gates⟩ := entryInForce_shown (was := gateStates s port.val) enabled (running.trans runs)
  refine ⟨_, congrArg Host.Outcome.next ((congrArg _ idle).trans (gateMove_due enabled runs due)), ?_, ?_⟩
  · rw [← entry]
    exact force
  · rw [gates, cycle]

/-- GCL_CONFIG_CHANGE with a list that fits its cycle (R337). -/
theorem exec_gclConfigChange_taken {port : Fin 64} {s : State}
    (listed : rf s (Reg.EGRESS_PORTp_GCL_LEN port.val) 10 0 ≠ 0)
    (fits : (List.range (rf s (Reg.EGRESS_PORTp_GCL_LEN port.val) 10 0)).foldl
      (fun t i => t + rf s (Reg.EGRESS_PORTp_ADMINi port.val i) 31 0) 0 ≤ rdn s (Reg.EGRESS_PORTp_GCL_CYCLE port.val)) :
    let p := port.val
    let st := Reg.EGRESS_PORTp_STATUS p
    let at_ := gateStart (timeN s)
      (rf s (Reg.EGRESS_PORTp_GCL_BASE_S p) 47 0 * 1000000000 + rf s (Reg.EGRESS_PORTp_GCL_BASE_NS p) 29 0)
      (rdn s (Reg.EGRESS_PORTp_GCL_CYCLE p))
    ∃ t, exec (.gclConfigChange port) s = .next t ∧ (eport t p).gates = { (eport s p).gates with pending := some at_ } ∧
      rb t st 12 = true ∧ Only { s with egress := t.egress } t [st] [] [] := by
  intro p st at_
  let put := gatesPut s p { (eport s p).gates with pending := some at_ }
  refine ⟨wf put st 12 12 1, ?_, gates_gatesPut .., ?_, Only.of_egress (((Only.refl put).mono (by simp)).wr _ (by simp))⟩
  · refine congrArg Host.Outcome.next ?_
    rw [gateConfig, if_neg listed, if_neg (Nat.not_lt.mpr fits)]
    rfl
  · rw [rb_wf_same, if_pos ⟨le_rfl, le_rfl, by omega⟩, Nat.sub_self]
    rfl

/-- Entry i of the admin list of port p copied to its operational list. -/
def operCopied (p : Nat) (s : State) (i : Nat) : State :=
  wr s (Reg.EGRESS_PORTp_OPERi p i) (rd s (Reg.EGRESS_PORTp_ADMINi p i))

/-- The admin list copied. -/
def operLoaded (s : State) (p len : Nat) : State := (List.range len).foldl (operCopied p) s

/-- The entries of the operational list lie beyond the 1024 of the admin list. -/
theorem admin_ne_oper (p : Nat) {k : Nat} (i : Nat) (inside : k < 1024) :
    Reg.EGRESS_PORTp_ADMINi p k ≠ Reg.EGRESS_PORTp_OPERi p i := by
  simp only [Reg.EGRESS_PORTp_ADMINi, Reg.EGRESS_PORTp_OPERi]; omega

theorem rd_operLoaded (s : State) {p len k : Nat} (listed : k < len) (inside : k < 1024) :
    rd (operLoaded s p len) (Reg.EGRESS_PORTp_OPERi p k) = rd s (Reg.EGRESS_PORTp_ADMINi p k) := by
  obtain ⟨u, before, after⟩ := foldl_range_view
    (fun u => (rd u (Reg.EGRESS_PORTp_OPERi p k), rd u (Reg.EGRESS_PORTp_ADMINi p k))) (f := operCopied p)
    (fun m other u => Prod.ext (rd_wr_ne _ (by simp only [Reg.EGRESS_PORTp_OPERi]; omega)) (rd_wr_ne _ (admin_ne_oper p m inside)))
    listed s
  calc rd (operLoaded s p len) (Reg.EGRESS_PORTp_OPERi p k)
      = rd (operCopied p u k) (Reg.EGRESS_PORTp_OPERi p k) := congrArg Prod.fst after
    _ = rd u (Reg.EGRESS_PORTp_ADMINi p k) := rd_wr_same ..
    _ = rd s (Reg.EGRESS_PORTp_ADMINi p k) := congrArg Prod.snd before

theorem rd_operLoaded_ne (s : State) {p a : Nat} (len : Nat) (other : ∀ i, a ≠ Reg.EGRESS_PORTp_OPERi p i) :
    rd (operLoaded s p len) a = rd s a :=
  foldl_view (rd · a) _ s fun i _ _ => rd_wr_ne _ (other i)

/-- The copy writes registers alone. -/
theorem operLoaded_rest (s : State) (p len : Nat) : { operLoaded s p len with regs := s.regs } = s :=
  foldl_view (fun u => { u with regs := s.regs }) (f := operCopied p) _ s fun _ _ _ => rfl

/-- The admin list of port p as it starts at a time. -/
def listStarted (s : State) (p at_ : Nat) : GateList :=
  let len := rf s (Reg.EGRESS_PORTp_GCL_LEN p) 10 0
  let u := operLoaded s p len
  GateList.start at_ (rdn u (Reg.EGRESS_PORTp_GCL_CYCLE p)) len (operInterval u p)

/-- The admin list in operation from its start on, before hold follows the first entry. -/
def gatesBegun (s : State) (p at_ : Nat) : State :=
  let u := operLoaded s p (rf s (Reg.EGRESS_PORTp_GCL_LEN p) 10 0)
  let v := wf (eportPut u p { eport s p with gates := listStarted s p at_ }) (Reg.EGRESS_PORTp_STATUS p) 12 12 0
  raise (showGates v p none (gateStates s p)) 0xE40 p (at_ % 1000000000)

theorem gateBegin_due {s : State} {p at_ : Nat} (waits : (eport s p).gates.pending = some at_) (due : at_ ≤ timeN s) :
    gateBegin s p none = entryHold (gatesBegun s p at_) p := by
  simp only [gateBegin, waits, if_neg (Nat.not_lt.mpr due)]
  rfl

theorem listStarted_eq (s : State) (p at_ : Nat) : ∃ nextAt, listStarted s p at_ =
    { running := true, cycle := rdn s (Reg.EGRESS_PORTp_GCL_CYCLE p), len := rf s (Reg.EGRESS_PORTp_GCL_LEN p) 10 0
      cycleStart := at_, nextAt := nextAt } := by
  have cycle : rdn (operLoaded s p (rf s (Reg.EGRESS_PORTp_GCL_LEN p) 10 0)) (Reg.EGRESS_PORTp_GCL_CYCLE p) =
      rdn s (Reg.EGRESS_PORTp_GCL_CYCLE p) := by
    rw [rdn, rd_operLoaded_ne, ← rdn]
    intro i
    simp only [Reg.EGRESS_PORTp_GCL_CYCLE, Reg.EGRESS_PORTp_OPERi]; omega
  rw [← cycle]
  exact ⟨_, rfl⟩

theorem gates_gatesBegun (s : State) (p at_ : Nat) : (eport (gatesBegun s p at_) p).gates = listStarted s p at_ := by
  rw [gatesBegun, eport, raise_egress, showGates_idle, wf_egress, wf_egress, wf_egress, ← eport, eport_eportPut]

theorem rd_gatesBegun_oper (s : State) {p k : Nat} (at_ : Nat) (listed : k < rf s (Reg.EGRESS_PORTp_GCL_LEN p) 10 0)
    (inside : k < 1024) :
    rd (gatesBegun s p at_) (Reg.EGRESS_PORTp_OPERi p k) = rd s (Reg.EGRESS_PORTp_ADMINi p k) := by
  rw [gatesBegun, rd_raise, rd_showGates_ne (oper_ne_status p k), rd_wf_ne _ _ _ (oper_ne_status p k), rd_eportPut,
    rd_operLoaded s listed inside]

theorem rb_gatesBegun_pending (s : State) (p at_ : Nat) :
    rb (gatesBegun s p at_) (Reg.EGRESS_PORTp_STATUS p) 12 = false := by
  rw [gatesBegun, rb_raise, rb_showGates (by omega) (by omega), rb_wf_same, if_pos ⟨le_rfl, le_rfl, by omega⟩]
  exact Nat.zero_testBit _

theorem occ_gatesBegun (s : State) (p at_ : Nat) :
    (gatesBegun s p at_).ev.occ = s.ev.occ ++ [⟨0xE40, p, at_ % 1000000000, tickNo s⟩] := by
  have rest := operLoaded_rest s p (rf s (Reg.EGRESS_PORTp_GCL_LEN p) 10 0)
  have ev := congrArg State.ev rest
  have time := congrArg State.time rest
  exact congrArg₂ (fun (e : EventUnit) (t : TimeUnit) => e.occ ++ [⟨0xE40, p, at_ % 1000000000, t.tick % 2 ^ 64⟩]) ev time

/-- GCL_CONFIG_START at the time of a pending list, with no copy in transmission (R337). -/
theorem exec_gclConfigStart_due {port : Fin 64} {s : State} {at_ : Nat}
    (waits : (eport s port.val).gates.pending = some at_) (due : at_ ≤ timeN s) (idle : curQueue s port.val = none) :
    exec (.gclConfigStart port) s = .next (entryHold (gatesBegun s port.val at_) port.val) :=
  congrArg Host.Outcome.next ((congrArg _ idle).trans (gateBegin_due waits due))

/-- SET_AND_HOLD_ASSERT in time for a Set-And-Hold entry (R340). -/
theorem exec_setAndHoldAssert_due {port : Fin 64} {s : State}
    (due : let p := port.val
      let g := (eport s p).gates
      gated s p = true ∧ operOp s p (if g.entry + 1 < g.len then g.entry + 1 else 0) = 1 ∧
        g.nextAt ≤ timeN s + (143 + 64 * rf s (Reg.EGRESS_PORTp_CFG p) 7 6) * 8000 / max 1 (portRate s p)) :
    exec (.setAndHoldAssert port) s = .next (setHold s port.val true) := by
  obtain ⟨on, asserts, soon⟩ := due
  refine congrArg Host.Outcome.next ?_
  rw [gateHold, if_pos]
  simp only [on, asserts, soon, beq_self_eq_true, decide_true, Bool.and_true]

/-- PREEMPT_VERIFY_DONE where verify is on: the result and PREEMPT_ACTIVE, before the event (R338). -/
def verifyShown (s : State) (p : Nat) (ok : Bool) : State :=
  let st := Reg.EGRESS_PORTp_STATUS p
  wf (wf s st 10 9 (if ok then 2 else 3)) st 8 8 (b2n ok)

theorem exec_preemptVerifyDone_on {port : Fin 64} {s : State} (ok : Bool) (enabled : rb s (Reg.EGRESS_PORTp_CFG port.val) 5 = true)
    (verifies : rb s (Reg.EGRESS_PORTp_CFG port.val) 8 = false) (carries : isPort s port.val = true)
    (fast : 1000 ≤ portRate s port.val) :
    exec (.preemptVerifyDone port ok) s =
      .next (raise (verifyShown s port.val ok) 0xE43 port.val (if ok = true then 2 else 3)) := by
  rw [rb] at enabled verifies
  refine congrArg Host.Outcome.next ?_
  rw [verifyDone, if_neg (by simp [enabled, verifies, carries, fast])]
  rfl

theorem verifyShown_spec (s : State) (p : Nat) (ok : Bool) :
    let st := Reg.EGRESS_PORTp_STATUS p
    rf (verifyShown s p ok) st 10 9 = (if ok = true then 2 else 3) ∧ rb (verifyShown s p ok) st 8 = ok ∧
      Only s (verifyShown s p ok) [st] [] [] := by
  intro st
  refine ⟨?_, ?_, (((Only.refl s).mono (by simp)).wr _ (by simp [st])).wr _ (by simp [st])⟩
  · rw [verifyShown, rf_wf_ne _ (.inr (by omega)), rf_wf_same _ _ _ _ _ (by omega)]
    cases ok <;> rfl
  · rw [verifyShown, rb_wf_same, if_pos ⟨le_rfl, le_rfl, by omega⟩]
    cases ok <;> rfl

/-- Settles O33: each command by its equation under its conditions; the start of a list and a move both end by putting an entry
in force. -/
theorem portGateLists : Obligations.PortGateLists := by
  unfold Obligations.PortGateLists
  intro port s p st holds g len cycle sum base moved
  refine ⟨?empty, ?long, ?taken, ?start, ?move, ?early, ?assert, ?verify⟩
  case empty => exact fun empty => congrArg Host.Outcome.next (if_pos empty)
  case long => exact fun listed long => congrArg Host.Outcome.next ((if_neg listed).trans (if_pos long))
  case taken =>
    intro listed fits positive
    obtain ⟨t, run, gates, pending, only⟩ := exec_gclConfigChange_taken listed fits
    exact ⟨t, _, run, gates, gateStart_ahead cycle, fun passed => gateStart_passed passed positive, pending, only⟩
  case start =>
    intro at_ waits due idle inside
    obtain ⟨nextAt, list⟩ := listStarted_eq s p at_
    obtain ⟨hold, -⟩ := entryHold_spec (gatesBegun s p at_) p
    have inForce : (eport (entryHold (gatesBegun s p at_) p) p).gates = listStarted s p at_ := by
      rw [eport, hold.only.egress, ← eport, gates_gatesBegun]
    refine ⟨_, exec_gclConfigStart_due waits due idle, fun k listed => ?_, ?_⟩
    · rw [hold.only.regs _ (by simp [oper_ne_status, oper_ne_holds])]
      exact rd_gatesBegun_oper s at_ listed (listed.trans_le inside)
    · rw [inForce, list, hold.only.ev_eq, hold.bits 12 (by decide)]
      exact ⟨rfl, rfl, rfl, rfl, rfl, rfl, rb_gatesBegun_pending s p at_, occ_gatesBegun s p at_⟩
  case move =>
    intro enabled runs idle due
    exact ⟨fun more => exec_gateEntryChange enabled runs idle due (move_entry_next _ more),
      fun last unasked => exec_gateEntryChange enabled runs idle due (move_cycle_next _ last unasked)⟩
  case early => exact fun early => congrArg Host.Outcome.next (gateMove_early early)
  case assert =>
    intro enabled runs asserts soon
    have on : gated s p = true := by rw [gated, enabled, Bool.true_and]; exact runs
    exact ⟨_, exec_setAndHoldAssert_due ⟨on, asserts, soon⟩, by rw [rb_setHold, if_pos rfl], (setHold_holdOnly s p true).only,
      rdn_setHold_holds⟩
  case verify =>
    intro ok enabled verifies carries fast
    obtain ⟨shown, active, only⟩ := verifyShown_spec s p ok
    exact ⟨_, exec_preemptVerifyDone_on ok enabled verifies carries fast, shown, active, only.raise ..⟩

/-! ### Stream gates (R343) -/

@[simp] theorem sgate_sgatePut (s : State) (g : Nat) (x : GateList) : sgate (sgatePut s g x) g = x := by
  have put : tabGet (tabPut s.egress.sgates g x {}) g {} = x := by rw [tabGet_tabPut, if_pos rfl]
  rw [sgate, sgatePut]
  split <;> exact put

theorem rd_sgatePut {s : State} {g a : Nat} (x : GateList) (other : a ≠ Reg.EGRESS_SGg_CMD g) : rd (sgatePut s g x) a = rd s a := by
  rw [sgatePut]
  split
  · rfl
  · rw [rd_wf_ne _ _ _ other, rd_wf_ne _ _ _ other]
    rfl

theorem soper_sgatePut (s : State) (g : Nat) (x : GateList) : (sgatePut s g x).egress.soper = s.egress.soper := by
  rw [sgatePut]
  split <;> rfl

/-- OPEN and IPV of stream gate g are those of the entry word e in t, and nothing else has moved but the egress unit's own state. -/
def GateShown (s : State) (g : Nat) (e : W64) (t : State) : Prop :=
  let cmd := Reg.EGRESS_SGg_CMD g
  rb t cmd 8 = bitOf e 32 ∧ rf t cmd 11 9 = fld e 35 33 ∧ Only { s with egress := t.egress } t [cmd] [] []

theorem testBit_fld_one (v : W64) (i : Nat) : (fld v i i).testBit 0 = bitOf v i := by
  rw [testBit_fld, Nat.add_sub_cancel_left, decide_eq_true Nat.one_pos, Bool.true_and, Nat.add_zero]

/-- A list in operation shows its entry in force. -/
theorem gateShown_sgatePut (s : State) (g : Nat) {x : GateList} (runs : x.running = true) :
    GateShown s g (sgateEntry s g x.entry) (sgatePut s g x) := by
  let cmd := Reg.EGRESS_SGg_CMD g
  let e := sgateEntry s g x.entry
  let put : State := { s with egress := { s.egress with sgates := tabPut s.egress.sgates g x {} } }
  have shown : sgatePut s g x = wf (wf put cmd 8 8 (fld e 32 32)) cmd 11 9 (fld e 35 33) := by
    rw [sgatePut, runs]
    rfl
  rw [shown]
  refine ⟨?_, ?_, Only.of_egress ((((Only.refl put).mono (by simp)).wr _ (by simp [cmd])).wr _ (by simp [cmd]))⟩
  · rw [rb_wf_same, if_neg (by omega), rb_wf_same, if_pos ⟨le_rfl, le_rfl, by omega⟩, testBit_fld_one]
  · rw [rf_wf_same _ _ _ _ _ (by omega)]
    exact Nat.mod_eq_of_lt (fld_lt ..)

/-- What is shown does not depend on the egress unit's state before. -/
theorem GateShown.of_egress {s t : State} {g : Nat} {e : W64} {u : EgressUnit} (h : GateShown { s with egress := u } g e t) :
    GateShown s g e t := h

theorem sgateConfig_taken {s : State} {g : Nat} (listed : 0 < rdn s (Reg.EGRESS_SGg_LEN g))
    (inside : rdn s (Reg.EGRESS_SGg_LEN g) ≤ 64)
    (fits : (List.range (rdn s (Reg.EGRESS_SGg_LEN g))).foldl (fun t i => t + rf s (Reg.EGRESS_SGg_ENTRYi g i) 31 0) 0 ≤
      rdn s (Reg.EGRESS_SGg_CYCLE g)) :
    sgateConfig s g = sgatePut s g { sgate s g with pending := some (gateStart (timeN s)
      (rf s (Reg.EGRESS_SGg_BASE_S g) 47 0 * 1000000000 + rf s (Reg.EGRESS_SGg_BASE_NS g) 29 0)
      (rdn s (Reg.EGRESS_SGg_CYCLE g))) } := by
  rw [sgateConfig, if_neg (by omega)]

/-- Entry i of the list in the registers of stream gate g copied to its operational list. -/
def soperCopied (g : Nat) (s : State) (i : Nat) : State :=
  { s with egress := { s.egress with soper := tabPut s.egress.soper (64 * g + i) (rd s (Reg.EGRESS_SGg_ENTRYi g i)) 0 } }

/-- The list copied. -/
def soperLoaded (s : State) (g len : Nat) : State := (List.range len).foldl (soperCopied g) s

theorem sgateEntry_soperLoaded (s : State) (g : Nat) {len k : Nat} (listed : k < len) :
    sgateEntry (soperLoaded s g len) g k = rd s (Reg.EGRESS_SGg_ENTRYi g k) := by
  obtain ⟨u, before, after⟩ := foldl_range_view (fun u => (sgateEntry u g k, rd u (Reg.EGRESS_SGg_ENTRYi g k))) (f := soperCopied g)
    (fun m other u => Prod.ext ((tabGet_tabPut ..).trans (if_neg (by omega))) rfl) listed s
  calc sgateEntry (soperLoaded s g len) g k
      = sgateEntry (soperCopied g u k) g k := congrArg Prod.fst after
    _ = rd u (Reg.EGRESS_SGg_ENTRYi g k) := (tabGet_tabPut ..).trans (if_pos rfl)
    _ = rd s (Reg.EGRESS_SGg_ENTRYi g k) := congrArg Prod.snd before

/-- The copy writes the egress unit's own state alone. -/
theorem soperLoaded_rest (s : State) (g len : Nat) : { s with egress := (soperLoaded s g len).egress } = soperLoaded s g len :=
  (foldl_view (fun u => { u with egress := (soperLoaded s g len).egress }) (f := soperCopied g) _ s fun _ _ _ => rfl).symm

/-- The list that starts at a time, in operation. -/
def sgateBegun (s : State) (g at_ : Nat) : State :=
  let len := rdn s (Reg.EGRESS_SGg_LEN g)
  let u := soperLoaded s g len
  sgatePut u g (GateList.start at_ (rdn u (Reg.EGRESS_SGg_CYCLE g)) len fun i => fld (sgateEntry u g i) 31 0)

theorem sgateMove_start {s : State} {g at_ : Nat} (waits : (sgate s g).pending = some at_) (due : at_ ≤ timeN s) :
    sgateMove s g = sgateBegun s g at_ := by
  simp only [sgateMove, waits, decide_eq_true due, if_true, Option.getD_some]
  rfl

theorem sgateMove_next {s : State} {g : Nat} (unasked : (sgate s g).pending = none) (runs : (sgate s g).running = true)
    (due : (sgate s g).nextAt ≤ timeN s) :
    sgateMove s g = sgatePut s g ((sgate s g).move 0 fun i => fld (sgateEntry s g i) 31 0) := by
  simp only [sgateMove, unasked, runs, decide_eq_true due, Bool.and_self, if_true, if_neg Bool.false_ne_true]

theorem move_entry {x : GateList} {ext : Nat} (interval : Nat → Nat) (unasked : x.pending = none) :
    (x.move ext interval).entry = (if x.entry + 1 < x.len then x.entry + 1 else 0) ∧
      (x.move ext interval).running = x.running := by
  split
  · next more =>
    obtain ⟨entry, -, running⟩ := move_entry_next (ext := ext) interval more
    exact ⟨entry, running⟩
  · next last =>
    obtain ⟨entry, -, running⟩ := move_cycle_next (ext := ext) interval (Nat.not_lt.mp last) unasked
    exact ⟨entry, running⟩

theorem sgateBegun_spec (s : State) (g at_ : Nat) (listed : 0 < rdn s (Reg.EGRESS_SGg_LEN g)) :
    let t := sgateBegun s g at_
    (∀ k, k < rdn s (Reg.EGRESS_SGg_LEN g) → sgateEntry t g k = rd s (Reg.EGRESS_SGg_ENTRYi g k)) ∧
      (sgate t g).running = true ∧ (sgate t g).entry = 0 ∧ (sgate t g).cycleStart = at_ ∧ (sgate t g).pending = none ∧
      GateShown s g (rd s (Reg.EGRESS_SGg_ENTRYi g 0)) t := by
  intro t
  have rest := soperLoaded_rest s g (rdn s (Reg.EGRESS_SGg_LEN g))
  have list : sgate t g = _ := sgate_sgatePut ..
  rw [list]
  refine ⟨fun k inside => ?_, rfl, rfl, rfl, rfl, ?_⟩
  · rw [sgateEntry, show t.egress.soper = _ from soper_sgatePut .., ← sgateEntry, sgateEntry_soperLoaded s g inside]
  · refine GateShown.of_egress (u := (soperLoaded s g (rdn s (Reg.EGRESS_SGg_LEN g))).egress) ?_
    rw [rest, ← sgateEntry_soperLoaded s g listed]
    exact gateShown_sgatePut _ g rfl

/-- Settles O34: each command by its equation under its conditions; a list in operation shows its entry in force. -/
theorem streamGateLists : Obligations.StreamGateLists := by
  unfold Obligations.StreamGateLists
  intro gate s g x cmd len cycle sum base shown
  refine ⟨?taken, ?refused, ?start, ?next⟩
  case taken =>
    intro listed inside fits positive
    exact ⟨_, _, congrArg Host.Outcome.next (sgateConfig_taken listed inside fits), sgate_sgatePut .., gateStart_ahead cycle,
      fun passed => gateStart_passed passed positive, fun a other => rd_sgatePut _ other⟩
  case refused => exact fun refused => congrArg Host.Outcome.next (if_pos refused)
  case start =>
    intro at_ waits due listed inside
    exact ⟨_, congrArg Host.Outcome.next (sgateMove_start waits due), sgateBegun_spec s g at_ listed⟩
  case next =>
    intro unasked runs due
    obtain ⟨entry, running⟩ := move_entry (ext := 0) (fun i => fld (sgateEntry s g i) 31 0) unasked
    refine ⟨_, _, congrArg Host.Outcome.next (sgateMove_next unasked runs due), rfl, ?_, ?_, soper_sgatePut .., ?_⟩
    · rw [sgate_sgatePut, entry]
    · rw [sgate_sgatePut, running, runs]
    · rw [← entry]
      exact gateShown_sgatePut s g (running.trans runs)

end Sys2Proof.Machine
end

section
/-! SUPPORT. Transmission (12_egress_and_streams.md R329 to R331, 11_mere_and_lode.md R314, R315): which copy a port takes, what a
start fixes, and what every end of a transmission leaves; the statement about it settled with these. -/
namespace Sys2Proof.Machine

/-! ### The highest strict queue (R329) -/

/-- Of what a function gives along a range, the last is what the highest place with a value gives. -/
theorem getLast?_filterMap_range {α : Type} {f : Nat → Option α} {k : Nat} {a : α} (here : f k = some a) :
    ∀ {n : Nat}, k < n → (∀ j, k < j → j < n → f j = none) → ((List.range n).filterMap f).getLast? = some a
  | n + 1, inside, above => by
    rw [List.range_succ, List.filterMap_append]
    rcases Nat.lt_succ_iff_lt_or_eq.mp inside with lower | rfl
    · have top : [n].filterMap f = [] := by rw [List.filterMap_cons_none (above n lower n.lt_succ_self), List.filterMap_nil]
      rw [top, List.append_nil]
      exact getLast?_filterMap_range here lower fun j high low => above j high (low.trans n.lt_succ_self)
    · rw [List.filterMap_cons_some here, List.filterMap_nil, List.getLast?_concat]

theorem selectCopy_strict {s : State} {p k : Nat} {only : Copy → Bool} {x : Nat × Copy} (inside : k < 8)
    (strict : rb s (Reg.EGRESS_PORTp_SCHED p) k = true) (head : queueHead s p k only = some x)
    (above : ∀ j, k < j → j < 8 → rb s (Reg.EGRESS_PORTp_SCHED p) j = true → queueHead s p j only = none) :
    selectCopy s p only = (some x, s) := by
  let place (j : Nat) : Option (Nat × (Nat × Copy)) := (queueHead s p j only).map fun c => (j, c)
  have last : (((List.range 8).filterMap place).filter fun h => rb s (Reg.EGRESS_PORTp_SCHED p) h.1).getLast? = some (k, x) := by
    rw [List.filter_filterMap]
    refine getLast?_filterMap_range ?_ inside fun j high low => ?_
    · simp [place, head, strict]
    · cases served : rb s (Reg.EGRESS_PORTp_SCHED p) j with
      | true => simp [place, above j high low served]
      | false => cases queued : queueHead s p j only <;> simp [place, queued, served]
  simp only [selectCopy]
  rw [last]

/-! ### What leaves copies and the clock alone -/

/-- t has the copies of s, and no time has passed. -/
structure CopiesKept (s t : State) : Prop where
  mere : t.mere = s.mere
  cycles : t.time.cycles = s.time.cycles

theorem CopiesKept.refl (s : State) : CopiesKept s s := ⟨rfl, rfl⟩

theorem CopiesKept.trans {r s t : State} (h : CopiesKept r s) (k : CopiesKept s t) : CopiesKept r t :=
  ⟨k.mere.trans h.mere, k.cycles.trans h.cycles⟩

theorem selectCopy_copiesKept (s : State) (p : Nat) (only : Copy → Bool) : CopiesKept s (selectCopy s p only).2 := by
  unfold selectCopy
  extract_lets heads strict
  split
  · exact .refl s
  · next ks quantum rounds x u pos _ _ =>
    have added : CopiesKept s u := by
      unfold u
      split
      · exact .refl s
      · exact ⟨rfl, rfl⟩
    split <;> exact added

theorem recordResidence_copiesKept (s : State) (r : Residence) : CopiesKept s (recordResidence s r) := by
  rw [recordResidence]
  split <;> exact ⟨rfl, rfl⟩

theorem takeResidence_copiesKept (s : State) (port : Nat) (identity : List Byte) (domain seqId : Nat) :
    CopiesKept s (takeResidence s port identity domain seqId).2 := by
  rw [takeResidence]
  split <;> exact ⟨rfl, rfl⟩

theorem recordStamp_copiesKept (s : State) (port cookie stamp : Nat) : CopiesKept s (recordStamp s port cookie stamp) := by
  rw [recordStamp]
  split <;> exact ⟨rfl, rfl⟩

theorem ptpPlan_copiesKept (s : State) (fr : Frame) (p stamp : Nat) : CopiesKept s (ptpPlan s fr p stamp).2 := by
  unfold ptpPlan
  split
  · exact .refl s
  · extract_lets b kind twoFlag domain ident seqId p2p two r l down up add skip record use
    have added (v : Int) : CopiesKept s (add v s).2 := ⟨rfl, rfl⟩
    have skipped : CopiesKept s skip.2 := ⟨rfl, rfl⟩
    have recorded (port : Nat) (v : Int) : CopiesKept s (record port v).2 := recordResidence_copiesKept ..
    clear_value kind
    have used (id : List Byte) : CopiesKept s (use id).2 := by
      have taken := takeResidence_copiesKept s p id domain seqId
      unfold use
      split
      · next found => rwa [found] at taken
      · next missed =>
        rw [missed] at taken
        exact taken.trans ⟨rfl, rfl⟩
    split
    · split
      · exact added _
      · exact recorded _ _
    · split
      · exact recorded _ _
      · exact added _
    · split
      · exact skipped
      · exact added _
    · split
      · exact skipped
      · exact added _
    · split
      · exact used _
      · exact .refl s
    · split
      · exact used _
      · exact .refl s
    · exact skipped

theorem pnChanged_copiesKept (s : State) (sa old : Nat) : CopiesKept s (pnChanged s sa old) := by
  unfold pnChanged
  extract_lets pn twin u
  have mirrored : CopiesKept s u := by
    unfold u
    split <;> exact ⟨rfl, rfl⟩
  split
  · exact mirrored
  · next left auth v _ =>
    have warned : CopiesKept s v := by
      unfold v
      split
      · exact mirrored.trans ⟨rfl, rfl⟩
      · split
        · exact mirrored
        · exact mirrored.trans ⟨rfl, rfl⟩
    split
    · exact warned.trans ⟨rfl, rfl⟩
    · exact warned

theorem setPn_copiesKept (s : State) (sa pn : Nat) : CopiesKept s (setPn s sa pn) :=
  CopiesKept.trans (s := wrn s (Reg.AUTH_SAs_NEXT_PN sa) pn) ⟨rfl, rfl⟩ (pnChanged_copiesKept ..)

theorem shaperTake_copiesKept (s : State) (p k wire : Nat) : CopiesKept s (shaperTake s p k wire) := by
  unfold shaperTake
  split <;> exact ⟨rfl, rfl⟩

/-! ### A copy starts (R329, R330, R367, R393) -/

/-- The copy n takes port p once its stamp, its one-step term and its PN are fixed. -/
def copyStarted (s : State) (p n : Nat) (c : Copy) (stamp : Nat) (corr : Int) (pn : Option (Nat × Nat)) : State :=
  let wire := copyWire s c
  let s := shaperTake (shaperTake s p c.queue wire) p 8 wire
  let s := copyMod s n (fun c => { c with st := 3, stamp := stamp, correction := corr, pn := pn })
  eportPut s p { eport s p with cur := some n, since := nowNs s }

/-- The one-step term of a frame that carries PTP_ONESTEP, or its drop (R394, R395). -/
def ptpTaken (s : State) (fr : Frame) (p stamp : Nat) : (Bool × Int) × State :=
  if oneStep fr then ptpPlan s fr p stamp else ((false, 0), s)

/-- The SA and PN of a frame that is to be protected (R367). -/
def pnTaken (s : State) (fr : Frame) (sa : Nat) : Option (Nat × Nat) × State :=
  if protects s fr then (some (sa, rdn s (Reg.AUTH_SAs_NEXT_PN sa)), setPn s sa (rdn s (Reg.AUTH_SAs_NEXT_PN sa) + 1))
  else (none, s)

/-- What an injected frame asks for: its stamp recorded, and the correction of its mode (R397, R398). -/
def stampTaken (s : State) (fr : Frame) (p : Nat) (ref corr : Int) : Int × State :=
  match fr.inject with
  | some i =>
    (if i.mode = 2 then ((ref.toNat % 2 ^ 16 : Nat) : Int) else if i.mode = 3 then ref - i.stamp else corr,
      if i.mode = 1 ∨ i.record then recordStamp s p i.cookie ref.toNat else s)
  | none => (corr, s)

theorem startCopy_eq (s : State) (p n : Nat) (c : Copy) (fr : Frame) (stamp : Nat) :
    startCopy s p n c fr stamp =
      let plan := ptpTaken s fr p stamp
      let pn := pnTaken plan.2 fr (rf s (Reg.AUTH_PORTp_TX p) 11 1)
      let ref := egressRef pn.2 p stamp
      let asked := stampTaken pn.2 fr p ref plan.1.2
      if plan.1.1 then none else some (copyStarted asked.2 p n c ref.toNat asked.1 pn.1) := rfl

theorem ptpTaken_copiesKept (s : State) (fr : Frame) (p stamp : Nat) : CopiesKept s (ptpTaken s fr p stamp).2 := by
  unfold ptpTaken
  split
  · exact ptpPlan_copiesKept s fr p stamp
  · exact .refl s

theorem pnTaken_copiesKept (s : State) (fr : Frame) (sa : Nat) : CopiesKept s (pnTaken s fr sa).2 := by
  unfold pnTaken
  split
  · exact setPn_copiesKept ..
  · exact .refl s

theorem stampTaken_copiesKept (s : State) (fr : Frame) (p : Nat) (ref corr : Int) :
    CopiesKept s (stampTaken s fr p ref corr).2 := by
  unfold stampTaken
  split
  · dsimp only
    split
    · exact recordStamp_copiesKept ..
    · exact .refl s
  · exact .refl s

theorem startCopy_some {s v : State} {p n : Nat} {c : Copy} {fr : Frame} {stamp : Nat}
    (starts : startCopy s p n c fr stamp = some v) :
    ∃ u ref corr pn, CopiesKept s u ∧ v = copyStarted u p n c ref corr pn := by
  rw [startCopy_eq] at starts
  extract_lets plan pn ref asked at starts
  split at starts
  · contradiction
  · have kept : CopiesKept s asked.2 :=
      ((ptpTaken_copiesKept ..).trans (pnTaken_copiesKept ..)).trans (stampTaken_copiesKept ..)
    exact ⟨_, _, _, _, kept, (Option.some.inj starts).symm⟩

theorem copyOf_eportPut (s : State) (p n : Nat) (x : EgressPort) : copyOf (eportPut s p x) n = copyOf s n := rfl

theorem copyOf_copyMod {s : State} {n : Nat} {c : Copy} (f : Copy → Copy) (here : copyOf s n = some c) :
    copyOf (copyMod s n f) n = some (f c) := by
  have listed : tabFind s.mere.copies n = some c := here
  rw [copyOf, copyMod, tabMap, listed, tabFind_tabSet, if_pos rfl]

theorem CopiesKept.same {s t : State} (h : CopiesKept s t) (n : Nat) : copyOf t n = copyOf s n := by
  rw [copyOf, h.mere, ← copyOf]

/-- The copy that has started is the one in transmission, from now on. -/
theorem startCopy_spec {s v : State} {p n : Nat} {c : Copy} {fr : Frame} {stamp : Nat} (here : copyOf s n = some c)
    (starts : startCopy s p n c fr stamp = some v) :
    (eport v p).cur = some n ∧ (eport v p).since = nowNs s ∧ (copyOf v n).map (·.st) = some 3 := by
  obtain ⟨u, ref, corr, pn, kept, rfl⟩ := startCopy_some starts
  have paid : CopiesKept s (shaperTake (shaperTake u p c.queue (copyWire u c)) p 8 (copyWire u c)) :=
    (kept.trans (shaperTake_copiesKept ..)).trans (shaperTake_copiesKept ..)
  refine ⟨?_, ?_, ?_⟩
  · rw [copyStarted, eport_eportPut]
  · rw [copyStarted, eport_eportPut]
    exact paid.cycles
  · rw [copyStarted, copyOf_eportPut, copyOf_copyMod _ ((paid.same n).trans here)]
    rfl

/-- A free port whose selected copy is neither refused nor dropped starts it. -/
theorem serveFree_starts {s u v : State} {p stamp n : Nat} {c : Copy} {fr : Frame} (fuel : Nat)
    (whole : (eport s p).preempted = none)
    (selected : selectCopy s p (fun _ => true) = (some (n, c), u)) (framed : frameOf u c.frame = some fr)
    (accepted : refuseStart u n c fr = none) (here : copyOf u n = some c) (starts : startCopy u p n c fr stamp = some v) :
    serveFree (fuel + 1) s p stamp none = v := by
  have every : (fun c : Copy => (eport s p).preempted.isNone || express s p c.queue) = fun _ => true := by
    rw [whole]
    rfl
  simp only [serveFree, every, selected, framed, accepted, here, starts]

theorem exec_transmissionSelect_starts {port : Fin 64} {s u v : State} {sub : BitVec 16} {n : Nat} {c : Copy} {fr : Frame}
    (sent : Nat) (carries : isPort s port.val = true) (awake : humDown s (port.val / 4) = false) (free : (eport s port.val).cur = none)
    (whole : (eport s port.val).preempted = none)
    (selected : selectCopy (touch s (port.val / 4)) port.val (fun _ => true) = (some (n, c), u))
    (framed : frameOf u c.frame = some fr) (accepted : refuseStart u n c fr = none) (here : copyOf u n = some c)
    (starts : startCopy u port.val n c fr (time16 s + sub.toNat + 256 * rf s (Reg.PORT_LANEl_TS_TX port.val) 23 0) = some v) :
    exec (.transmissionSelect port sub sent none) s = .next (heldPeak v) := by
  refine congrArg Host.Outcome.next ?_
  rw [selectOn, if_neg (by simp [carries, awake])]
  simp only [free]
  rw [serveFree_starts (s := touch s (port.val / 4)) _ whole selected framed accepted here starts]

/-! ### A transmission ends (R314, R315, R331) -/

/-- The state but for its frames and their runs. -/
def withoutFrames (s : State) : State := { s with frames := [], ferm := {} }

/-- The state but for its frames, their runs, copies and crossings. -/
def withoutCopies (s : State) : State := { withoutFrames s with mere := {} }

theorem withoutFrames_frameCheck (s : State) (f : Nat) : withoutFrames (frameCheck s f) = withoutFrames s := by
  unfold frameCheck
  split
  · rfl
  · split
    · rfl
    · extract_lets cs crossed u ended
      have kept : withoutFrames u = withoutFrames s := by
        unfold u
        split <;> rfl
      split <;> exact kept

theorem frameCheck_mere (s : State) (f : Nat) : (frameCheck s f).mere = s.mere :=
  (congrArg State.mere (withoutFrames_frameCheck s f) :)

theorem withoutCopies_copyGone (s : State) (n : Nat) : withoutCopies (copyGone s n) = withoutCopies s := by
  unfold copyGone
  split
  · rfl
  · next c _ =>
    extract_lets copies u shared crossings w
    have kept : withoutCopies w = withoutCopies s := by
      unfold w
      split <;> rfl
    exact (congrArg (fun v : State => { v with mere := {} }) (withoutFrames_frameCheck w c.frame)).trans kept

theorem copyGone_shown (s : State) (n : Nat) : (copyGone s n).egress = s.egress ∧ (copyGone s n).out = s.out ∧
    (copyGone s n).ev = s.ev ∧ (copyGone s n).time = s.time := by
  have rest := withoutCopies_copyGone s n
  simp only [withoutCopies, withoutFrames, State.mk.injEq] at rest
  simp only [rest, and_self]

theorem copyOf_copyGone (s : State) (n : Nat) : copyOf (copyGone s n) n = none := by
  unfold copyGone
  split
  · assumption
  · extract_lets copies u shared crossings w
    have deleted : tabFind (tabDel s.mere.copies n) n = none := by rw [tabFind_tabDel, if_pos rfl]
    have gone : copyOf w n = none := by
      unfold w
      split <;> exact deleted
    rw [copyOf, frameCheck_mere, ← copyOf, gone]

/-- A frame or fragment has left on port p, before frames are counted. -/
def bytesLeft (s : State) (p : Nat) (bytes : List Byte) (stomped : Bool) : State :=
  let s := bwCount (mib (emit s (.frame p bytes stomped)) p 11 bytes.length) p bytes.length true
  if rb s (Reg.PORT_LANEl_CTRL p) 2 then lanePut s p { laneOf s p with loop := (laneOf s p).loop ++ [bytes] } else s

theorem sendBytes_eq (s : State) (p : Nat) (bytes : List Byte) (stomped : Bool) :
    sendBytes s p bytes stomped =
      if stomped then mib (bytesLeft s p bytes stomped) p 17 1
      else mib (mib (bytesLeft s p bytes stomped) p 12 1) p (13 + castOf bytes) 1 := rfl

/-- From s to t the frame o has left port p: its counters alone have moved, and bandwidth and loopback with them. -/
structure FrameLeft (p : Nat) (o : Out) (s t : State) : Prop where
  out : t.out = o :: s.out
  ev : t.ev = s.ev
  time : t.time = s.time
  regs : ∀ a, (∀ k, k < 22 → a ≠ Reg.PORT_LANEl_CNTk p k) → rd t a = rd s a

theorem FrameLeft.mib {p : Nat} {o : Out} {s t : State} (h : FrameLeft p o s t) {k : Nat} (n : Nat) (counter : k < 22) :
    FrameLeft p o s (mib t p k n) :=
  ⟨h.out, h.ev, h.time, fun a other => (rd_mib (other k counter)).trans (h.regs a other)⟩

theorem rd_bytesLeft (s : State) (p : Nat) (bytes : List Byte) (stomped : Bool) (a : Nat) :
    rd (bytesLeft s p bytes stomped) a = rd (mib s p 11 bytes.length) a := by
  unfold bytesLeft
  extract_lets u
  split <;> rfl

theorem bytesLeft_frameLeft (s : State) (p : Nat) (bytes : List Byte) (stomped : Bool) :
    FrameLeft p (.frame p bytes stomped) s (bytesLeft s p bytes stomped) := by
  have regs (a : Nat) (other : ∀ k, k < 22 → a ≠ Reg.PORT_LANEl_CNTk p k) :
      rd (bytesLeft s p bytes stomped) a = rd s a := by
    rw [rd_bytesLeft, rd_mib (other 11 (by decide))]
  refine ⟨?_, ?_, ?_, regs⟩
  all_goals
    unfold bytesLeft
    extract_lets u
    split <;> rfl

theorem castOf_le (frame : List Byte) : castOf frame ≤ 2 := by
  rw [castOf]
  split <;> omega

theorem sendBytes_frameLeft (s : State) (p : Nat) (bytes : List Byte) (stomped : Bool) :
    FrameLeft p (.frame p bytes stomped) s (sendBytes s p bytes stomped) := by
  have left := bytesLeft_frameLeft s p bytes stomped
  rw [sendBytes_eq]
  split
  · exact left.mib _ (by decide)
  · exact (left.mib _ (by decide)).mib _ (by have cast := castOf_le bytes; omega)

theorem counter_inj {p k m : Nat} (h : Reg.PORT_LANEl_CNTk p k = Reg.PORT_LANEl_CNTk p m) : k = m := by
  simp only [Reg.PORT_LANEl_CNTk] at h; omega

theorem rdn_mib_same (s : State) (p k n : Nat) :
    rdn (mib s p k n) (Reg.PORT_LANEl_CNTk p k) = (rdn s (Reg.PORT_LANEl_CNTk p k) + n) % 2 ^ 64 := rdn_wrn_same ..

theorem rdn_mib_ne (s : State) (p n : Nat) {k m : Nat} (other : m ≠ k) :
    rdn (mib s p k n) (Reg.PORT_LANEl_CNTk p m) = rdn s (Reg.PORT_LANEl_CNTk p m) :=
  congrArg _ (rd_mib fun e => other (counter_inj e))

/-- A whole frame counts its octets and one frame. -/
theorem rdn_sendBytes_whole (s : State) (p : Nat) (bytes : List Byte) :
    rdn (sendBytes s p bytes false) (Reg.PORT_LANEl_CNTk p 12) = (rdn s (Reg.PORT_LANEl_CNTk p 12) + 1) % 2 ^ 64 ∧
    rdn (sendBytes s p bytes false) (Reg.PORT_LANEl_CNTk p 11) = (rdn s (Reg.PORT_LANEl_CNTk p 11) + bytes.length) % 2 ^ 64 := by
  have octets (k : Nat) : rdn (bytesLeft s p bytes false) k = rdn (mib s p 11 bytes.length) k :=
    congrArg BitVec.toNat (rd_bytesLeft ..)
  rw [sendBytes_eq, if_neg Bool.false_ne_true]
  constructor
  · rw [rdn_mib_ne _ _ _ (by omega), rdn_mib_same, octets, rdn_mib_ne _ _ _ (by decide)]
  · rw [rdn_mib_ne _ _ _ (by omega), rdn_mib_ne _ _ _ (by decide), octets, rdn_mib_same]

/-- The end of a transmission frees the port and lets the copy go; it may move the port's deficits. -/
theorem endTransmission_eq (s : State) (p n wire : Nat) :
    ∃ x : EgressPort, x.cur = none ∧ endTransmission s p n wire = copyGone (eportPut s p x) n := by
  cases here : copyOf s n with
  | none =>
    refine ⟨{ eport s p with cur := none }, rfl, ?_⟩
    simp only [endTransmission, here, copyGone, copyOf_eportPut]
  | some c =>
    simp only [endTransmission, here]
    exact ⟨_, rfl, rfl⟩

/-- The port is free and the copy is gone; nothing else shows. -/
theorem endTransmission_spec (s : State) (p n wire : Nat) :
    let t := endTransmission s p n wire
    (eport t p).cur = none ∧ copyOf t n = none ∧ t.out = s.out ∧ t.ev = s.ev ∧ t.time = s.time ∧ t.regs = s.regs := by
  obtain ⟨x, free, ended⟩ := endTransmission_eq s p n wire
  obtain ⟨egress, out, ev, time⟩ := copyGone_shown (eportPut s p x) n
  rw [ended]
  dsimp only
  rw [eport, egress, ← eport, eport_eportPut, copyOf_copyGone, out, ev, time, copyGone_regs]
  exact ⟨free, rfl, rfl, rfl, rfl, rfl⟩

/-- The frame o has left port p, which is free, and the copy n is gone. -/
structure TransmissionOver (p n : Nat) (o : Out) (s t : State) : Prop extends FrameLeft p o s t where
  free : (eport t p).cur = none
  gone : copyOf t n = none

theorem TransmissionOver.mib {p n : Nat} {o : Out} {s t : State} (h : TransmissionOver p n o s t) {k : Nat} (m : Nat)
    (counter : k < 22) : TransmissionOver p n o s (mib t p k m) :=
  ⟨h.toFrameLeft.mib m counter, h.free, h.gone⟩

/-- An event that the end raises. -/
theorem TransmissionOver.raise {p n : Nat} {o : Out} {s t : State} (h : TransmissionOver p n o s t) (e d0 d1 : Nat) :
    let u := raise t e d0 d1
    ((eport u p).cur = none ∧ copyOf u n = none) ∧ u.out = o :: s.out ∧ u.ev.occ = s.ev.occ ++ [⟨e, d0, d1, tickNo s⟩] := by
  refine ⟨⟨h.free, h.gone⟩, h.out, ?_⟩
  rw [raise_occ, h.ev, tickNo, h.time, ← tickNo]

theorem sendBytes_over (s : State) (p n : Nat) (bytes : List Byte) (stomped : Bool) (wire : Nat) :
    TransmissionOver p n (.frame p bytes stomped) s (endTransmission (sendBytes s p bytes stomped) p n wire) := by
  have left := sendBytes_frameLeft s p bytes stomped
  obtain ⟨free, gone, out, ev, time, regs⟩ := endTransmission_spec (sendBytes s p bytes stomped) p n wire
  refine ⟨⟨out.trans left.out, ev.trans left.ev, time.trans left.time, fun a other => ?_⟩, free, gone⟩
  rw [rd, regs, ← rd, left.regs a other]

/-- What is on the wire leaves with the stomped FCS (R315). -/
theorem cutStomped_over {s : State} {p n : Nat} {c : Copy} (sent : Nat) (here : copyOf s n = some c) :
    TransmissionOver p n
      (.frame p (stompBytes ((copyFinal s c).take (min sent ((copyFinal s c).length - 4)))) true) s (cutStomped s p n sent) := by
  simp only [cutStomped, here]
  exact sendBytes_over ..

/-! ### The commands -/

/-- A copy that is wholly at the output, not stomped, and within MAX_LEN leaves whole. -/
theorem exec_transmitComplete_whole {port : Fin 64} {s : State} {n : Nat} {c : Copy} {x : Crossing} {fr : Frame}
    (sending : (eport s port.val).cur = some n) (here : copyOf s n = some c) (crosses : xingOf s c.xing = some x)
    (framed : frameOf s c.frame = some fr) (crossed : xingCrossed s x = true) (judged : fr.verdict.isSome = true)
    (fits : (copyFinal s c).length ≤ rf s (Reg.PORT_LANEl_MAX_LEN port.val) 13 0) (sound : c.stomp = false) :
    exec (.transmitComplete port) s = .next (endTransmission (sendBytes s port.val ((copyFinal s c).drop c.sent) false) port.val n
      ((copyFinal s c).length + 20)) := by
  refine congrArg Host.Outcome.next ?_
  simp only [completeOn, sending, here, crosses, framed, crossed, judged, sound, if_neg (Nat.not_lt.mpr fits), Bool.and_self,
    Bool.not_true, if_neg Bool.false_ne_true]

/-- A cut-through copy that runs short is cut at what has arrived. -/
theorem exec_ctUnderrun_short {port : Fin 64} {s : State} {n : Nat} {c : Copy} {x : Crossing} (sent : Nat)
    (sending : (eport s port.val).cur = some n) (here : copyOf s n = some c) (crosses : xingOf s c.xing = some x)
    (cutThrough : c.ct = true) (short : xingCrossed s x = false) :
    exec (.ctUnderrun port sent) s = .next (raise (cutStomped (cnt s (Reg.MERE_Qq_CT_UNDERRUN (port.val / 4)) 1) port.val n
      (min sent (x.arrived - 16))) 0xE35 0 port.val) := by
  refine congrArg Host.Outcome.next ?_
  simp only [underrunOn, sending, here, crosses, cutThrough, short, sentLimit, Bool.not_false, Bool.and_self, Bool.not_true,
    if_neg Bool.false_ne_true]

theorem exec_egressFifoUnderrun_sending {port : Fin 64} {s : State} {n : Nat} (sent : Nat)
    (sending : (eport s port.val).cur = some n) :
    exec (.egressFifoUnderrun port sent) s =
      .next (laneEvent (mib (cutStomped s port.val n sent) port.val 18 1) port.val 5 0) := by
  refine congrArg Host.Outcome.next ?_
  simp only [fifoUnderrunOn, sending]

theorem ctUnderrun_ne_counter {p k : Nat} (inside : p < 64) (counter : k < 22) :
    Reg.MERE_Qq_CT_UNDERRUN (p / 4) ≠ Reg.PORT_LANEl_CNTk p k := by
  simp only [Reg.MERE_Qq_CT_UNDERRUN, Reg.PORT_LANEl_CNTk]; omega

theorem laneStatus_ne_counter (p k : Nat) : Reg.PORT_LANEl_STATUS p ≠ Reg.PORT_LANEl_CNTk p k := by
  simp only [Reg.PORT_LANEl_STATUS, Reg.PORT_LANEl_CNTk]; omega

/-- Settles O35: a start and each end by its equation under its conditions; every end sends one frame and frees the port. -/
theorem transmissionStartsAndEnds : Obligations.TransmissionStartsAndEnds := by
  unfold Obligations.TransmissionStartsAndEnds
  refine ⟨fun s p k only x inside strict head above => selectCopy_strict inside strict head above, ?_⟩
  intro port s p ended
  refine ⟨?start, fun n c sending here => ?_⟩
  case start =>
    intro sub sent n c fr u v carries awake free whole selected framed accepted here starts
    obtain ⟨cur, since, begun⟩ := startCopy_spec here starts
    have clock : nowNs u = nowNs s := by
      have kept := selectCopy_copiesKept (touch s (p / 4)) p (fun _ => true)
      rw [selected] at kept
      exact kept.cycles
    refine ⟨_, exec_transmissionSelect_starts sent carries awake free whole selected framed accepted here starts, rfl, ?_⟩
    rw [eport, copyOf, heldPeak, peak_egress, peak_mere, ← eport, ← copyOf]
    exact ⟨cur, since.trans clock, begun⟩
  intro b
  refine ⟨?whole, ?short, ?dry⟩
  case whole =>
    intro x fr crosses framed crossed judged fits sound
    have ends := sendBytes_over s p n (b.drop c.sent) false (b.length + 20)
    obtain ⟨-, -, -, -, -, regs⟩ := endTransmission_spec (sendBytes s p (b.drop c.sent) false) p n (b.length + 20)
    obtain ⟨frames, octets⟩ := rdn_sendBytes_whole s p (b.drop c.sent)
    refine ⟨_, exec_transmitComplete_whole sending here crosses framed crossed judged fits sound, ⟨ends.free, ends.gone⟩, ends.out,
      ?_, ?_, ends.ev⟩
    · rw [rdn, rd, regs, ← rd, ← rdn, frames]
    · rw [rdn, rd, regs, ← rd, ← rdn, octets, List.length_drop]
  case short =>
    intro sent x crosses cutThrough short
    have ends := cutStomped_over (s := cnt s (Reg.MERE_Qq_CT_UNDERRUN (p / 4)) 1) (p := p) (min sent (x.arrived - 16)) here
    obtain ⟨freed, out, occ⟩ := ends.raise 0xE35 0 p
    refine ⟨_, exec_ctUnderrun_short sent sending here crosses cutThrough short, freed, out, ?_, occ⟩
    rw [rdn, rd_raise, ends.regs _ fun k counter => ctUnderrun_ne_counter port.isLt counter, ← rdn, rdn_cnt_same]
  case dry =>
    intro sent
    have ends := (cutStomped_over (p := p) sent here).mib (k := 18) 1 (by decide)
    have mode : portMode (mib (cutStomped s p n sent) p 18 1) p = portMode s p := by
      rw [portMode, rf, ends.regs _ fun k _ => laneStatus_ne_counter p k, ← rf, ← portMode]
    have source : 0x100 + 16 * p + 5 = 0x105 + 16 * p := by omega
    refine ⟨_, exec_egressFifoUnderrun_sending sent sending, ?_⟩
    rw [laneEvent, mode, source]
    exact ends.raise ..

end Sys2Proof.Machine
end

section
/-! SUPPORT. Key commands of the check-value engine (13_authentication.md R371 to R373): what each asks for, what it refuses, and what
the end of its wait leaves in the slot; the statement about them settled with these. -/
namespace Sys2Proof.Machine

/-! ### What a key command asks for -/

/-- OP of AUTH_KEY_CMD is stored. -/
def keyAsked (s : State) (op : Nat) : State := wf s Reg.AUTH_KEY_CMD 2 0 op

/-- The slot that AUTH_KEY_SLOT names. -/
def namedSlot (s : State) : Nat := rf s Reg.AUTH_KEY_SLOT 11 0

/-- The policy that AUTH_KEY_POLICY gives, TYPE to CTX_CLEAR. -/
def namedPolicy (s : State) : Nat := rf s Reg.AUTH_KEY_POLICY 12 0

/-- Bytes of a key of this policy. -/
def keyLength (policy : Nat) : Nat :=
  if policy % 4 = 0 then 16 else if policy % 4 = 1 then 32 else policy / 4 % 128 + 1

/-- The command that waits for the jobs on the named slot. -/
def keyHeld (s : State) (op : Nat) (key : List Byte) : KeyCmd :=
  { op := op, slot := namedSlot s, key := key, policy := namedPolicy s, jobs := jobsOn s (namedSlot s) }

/-- BUSY is set, and the command is held. -/
def keyWaiting (s : State) (op : Nat) (key : List Byte) : State :=
  { wf (keyAsked s op) Reg.AUTH_KEY_STATUS 0 0 1 with auth := { s.auth with cmd := some (keyHeld s op key) } }

theorem keyWaiting_spec (s : State) (op : Nat) (key : List Byte) :
    let t := keyWaiting s op key
    rb t Reg.AUTH_KEY_STATUS 0 = true ∧
    t.auth = { s.auth with cmd := some (keyHeld s op key) } ∧
    Only { s with auth := t.auth } t [Reg.AUTH_KEY_CMD, Reg.AUTH_KEY_STATUS] [] [] := by
  refine ⟨?_, rfl, ?_⟩
  · rw [keyWaiting, rb, rd_with, ← rb, rb_wf_same]
    rfl
  · exact (((Only.refl { s with auth := _ }).mono (by simp)).wr _ (by simp)).wr _ (by simp)

theorem keyResult_spec (s : State) {r : Nat} (code : r < 8) :
    rb (keyResult s r) Reg.AUTH_KEY_STATUS 0 = false ∧ rf (keyResult s r) Reg.AUTH_KEY_STATUS 3 1 = r ∧
    Only s (keyResult s r) [Reg.AUTH_KEY_STATUS] [] [] := by
  refine ⟨?_, ?_, ?_⟩
  · rw [keyResult, rb_wf_same, if_neg (by decide), rb_wf_same]
    rfl
  · rw [keyResult, rf_wf_same _ _ _ _ _ (by decide)]
    exact Nat.mod_eq_of_lt code
  · exact (((Only.refl s).mono (by simp)).wr _ (by simp)).wr _ (by simp)

/-- A refused command stores OP and shows its RESULT. -/
theorem keyRefused_spec (s : State) (op : Nat) {r : Nat} (code : r < 8) :
    let t := keyResult (keyAsked s op) r
    rb t Reg.AUTH_KEY_STATUS 0 = false ∧ rf t Reg.AUTH_KEY_STATUS 3 1 = r ∧
    Only s t [Reg.AUTH_KEY_CMD, Reg.AUTH_KEY_STATUS] [] [] := by
  obtain ⟨busy, result, only⟩ := keyResult_spec (keyAsked s op) code
  have asked : Only s (keyAsked s op) [Reg.AUTH_KEY_CMD, Reg.AUTH_KEY_STATUS] [] [] :=
    ((Only.refl s).mono (by simp)).wr _ (by simp)
  exact ⟨busy, result, asked.trans (only.mono (by simp))⟩

/-! Storing OP leaves what the command reads. -/

section
variable (s : State) (op : Nat)

theorem namedSlot_keyAsked : rf (wf s Reg.AUTH_KEY_CMD 2 0 op) Reg.AUTH_KEY_SLOT 11 0 = namedSlot s :=
  rf_wf_ne _ (.inl (by decide))

theorem namedPolicy_keyAsked : rf (wf s Reg.AUTH_KEY_CMD 2 0 op) Reg.AUTH_KEY_POLICY 12 0 = namedPolicy s :=
  rf_wf_ne _ (.inl (by decide))

theorem wrapAlg_keyAsked : rb (wf s Reg.AUTH_KEY_CMD 2 0 op) Reg.AUTH_CFG 0 = rb s Reg.AUTH_CFG 0 :=
  rb_wf_ne _ _ _ _ (by decide)

theorem keyData_keyAsked : keyData (wf s Reg.AUTH_KEY_CMD 2 0 op) = keyData s := by
  rw [keyData, keyData, List.flatMap_def, List.flatMap_def]
  refine congrArg List.flatten (List.map_congr_left fun w listed => ?_)
  have inside := List.mem_range.mp listed
  have other : Reg.AUTH_KEY_DATAw w ≠ Reg.AUTH_KEY_CMD := by simp only [Reg.AUTH_KEY_DATAw, Reg.AUTH_KEY_CMD]; omega
  rw [rdn, rd_wf_ne _ _ _ other, ← rdn]

end

/-! ### The commands -/

theorem keyCommand_busy {s : State} (op : Nat) (busy : rb s Reg.AUTH_KEY_STATUS 0 = true) : keyCommand s op = s := if_pos busy

/-- What READ_POLICY shows of a slot. -/
def shownPolicy (k : Option KeySlot) : Nat :=
  match k with
  | some k => k.policy + b2n k.suspect * 2 ^ 31
  | none => 0

section
variable {s : State} (idle : rb s Reg.AUTH_KEY_STATUS 0 = false)
include idle

theorem keyCommand_erase : keyCommand s 3 = keyWaiting s 3 [] := by
  simp only [keyCommand, idle, namedSlot_keyAsked, namedPolicy_keyAsked]
  rfl

theorem keyCommand_clear (fits : keyLength (namedPolicy s) ≤ 64 ∨ namedPolicy s % 4 < 2) :
    keyCommand s 1 = keyWaiting s 1 ((keyData s).take (keyLength (namedPolicy s))) := by
  have short : (decide (2 ≤ namedPolicy s % 4) && decide (64 < keyLength (namedPolicy s))) = false := by
    rw [← Bool.decide_and]
    exact decide_eq_false (by omega)
  rw [keyLength] at short
  simp only [keyCommand, idle, namedSlot_keyAsked, namedPolicy_keyAsked, keyData_keyAsked, short]
  rfl

theorem keyCommand_long (hmac : 2 ≤ namedPolicy s % 4) (long : 64 < keyLength (namedPolicy s)) :
    keyCommand s 1 = keyResult (keyAsked s 1) 2 := by
  rw [keyLength] at long
  simp only [keyCommand, idle, namedPolicy_keyAsked, decide_eq_true hmac, decide_eq_true long]
  rfl

theorem keyCommand_readPolicy :
    keyCommand s 4 = keyResult (wrn (keyAsked s 4) Reg.AUTH_KEY_POLICY (shownPolicy (tabFind s.auth.slots (namedSlot s)))) 0 := by
  simp only [keyCommand, idle, namedSlot_keyAsked]
  rfl

/-- The bytes of AUTH_KEY_DATA that hold a key of this policy wrapped by RFC 5649. -/
def wrappedData (s : State) : List Byte := (keyData s).take ((keyLength (namedPolicy s) + 7) / 8 * 8 + 8)

section
variable (fits : keyLength (namedPolicy s) ≤ 64)
include fits

theorem keyCommand_unblown (unblown : wrapKey s = none) : keyCommand s 2 = keyResult (keyAsked s 2) 4 := by
  have short : decide (64 < keyLength (namedPolicy s)) = false := decide_eq_false (Nat.not_lt.mpr fits)
  have key : wrapKey (wf s Reg.AUTH_KEY_CMD 2 0 2) = none := unblown
  rw [keyLength] at short
  simp only [keyCommand, idle, namedPolicy_keyAsked, short, key, Bool.and_false]
  rfl

/-- Under WRAP_ALG 1 a key of the policy's length waits, and any other image is refused. -/
theorem keyCommand_wrapped {kek : List Byte} (blown : wrapKey s = some kek) (alg : rb s Reg.AUTH_CFG 0 = true) {key : Option (List Byte)}
    (unwrapped : unwrap5649 kek (wrappedData s) = key) (whole : ∀ k ∈ key, k.length = keyLength (namedPolicy s)) :
    keyCommand s 2 = key.elim (keyResult (keyAsked s 2) 3) (keyWaiting s 2) := by
  have short : decide (64 < keyLength (namedPolicy s)) = false := decide_eq_false (Nat.not_lt.mpr fits)
  have fused : wrapKey (wf s Reg.AUTH_KEY_CMD 2 0 2) = some kek := blown
  rw [wrappedData, keyLength] at unwrapped
  rw [keyLength] at short whole
  simp only [keyCommand, idle, namedSlot_keyAsked, namedPolicy_keyAsked, wrapAlg_keyAsked, keyData_keyAsked, short, fused, alg,
    unwrapped, Bool.and_false]
  cases key with
  | none => rfl
  | some k => exact if_pos (whole k rfl)

end
end

theorem readPolicy_spec (s : State) (op v : Nat) :
    let t := keyResult (wrn (keyAsked s op) Reg.AUTH_KEY_POLICY v) 0
    rf t Reg.AUTH_KEY_STATUS 3 1 = 0 ∧ t.auth = s.auth ∧ rdn t Reg.AUTH_KEY_POLICY = v % 2 ^ 64 := by
  obtain ⟨-, result, only⟩ := keyResult_spec (wrn (keyAsked s op) Reg.AUTH_KEY_POLICY v) (r := 0) (by decide)
  refine ⟨result, rfl, ?_⟩
  rw [rdn, only.regs _ (by decide), ← rdn, rdn_wrn_same]

/-! ### The end of the wait -/

/-- The slots after the command: a key erased, or put with its policy and without SUSPECT. -/
def slotsAfter (slots : List (Nat × KeySlot)) (c : KeyCmd) : List (Nat × KeySlot) :=
  if c.op = 3 then tabDel slots c.slot else tabSet slots c.slot { key := c.key, policy := c.policy }

/-- The command has taken effect on its slot. -/
def keyEffected (s : State) (c : KeyCmd) : State :=
  { s with auth := { s.auth with cmd := none, slots := slotsAfter s.auth.slots c } }

/-- AUTH_KEY_STATUS at the end: done, with the key check value of a load (R371). -/
def keyShown (s : State) (c : KeyCmd) : State :=
  if c.op = 3 then keyResult s 0 else wf (keyResult s 0) Reg.AUTH_KEY_STATUS 31 8 (beNat (keyCheck c.key c.policy))

section
variable {s : State} {c : KeyCmd} (held : s.auth.cmd = some c)
include held

theorem keyDone_waits (runs : s.auth.jobs.any (fun j => c.jobs.contains j.1) = true) : keyDone s = s := by
  simp only [keyDone, held, runs, if_true]

theorem keyDone_ends (ended : s.auth.jobs.any (fun j => c.jobs.contains j.1) = false) : keyDone s = keyShown (keyEffected s c) c := by
  simp only [keyDone, held, ended, keyShown, keyEffected, slotsAfter, Bool.false_eq_true, if_false]
  by_cases erase : c.op = 3
  · simp only [if_pos erase]
  · simp only [if_neg erase]

end

theorem tabFind_slotsAfter_ne (slots : List (Nat × KeySlot)) (c : KeyCmd) {k : Nat} (other : k ≠ c.slot) :
    tabFind (slotsAfter slots c) k = tabFind slots k := by
  rw [slotsAfter]
  split
  · rw [tabFind_tabDel, if_neg other.symm]
  · rw [tabFind_tabSet, if_neg other.symm]

theorem tabFind_slotsAfter_same (slots : List (Nat × KeySlot)) (c : KeyCmd) :
    tabFind (slotsAfter slots c) c.slot = if c.op = 3 then none else some { key := c.key, policy := c.policy } := by
  rw [slotsAfter]
  split
  · rw [tabFind_tabDel, if_pos rfl]
  · rw [tabFind_tabSet, if_pos rfl]

theorem auth_keyShown (s : State) (c : KeyCmd) : (keyShown s c).auth = s.auth := by
  rw [keyShown]
  split <;> rfl

theorem keyShown_spec (s : State) (c : KeyCmd) :
    rb (keyShown s c) Reg.AUTH_KEY_STATUS 0 = false ∧ rf (keyShown s c) Reg.AUTH_KEY_STATUS 3 1 = 0 ∧
    (c.op ≠ 3 → rf (keyShown s c) Reg.AUTH_KEY_STATUS 31 8 = beNat (keyCheck c.key c.policy) % 2 ^ 24) ∧
    Only s (keyShown s c) [Reg.AUTH_KEY_STATUS] [] [] := by
  obtain ⟨busy, result, only⟩ := keyResult_spec s (r := 0) (by decide)
  rw [keyShown]
  split
  · next erase => exact ⟨busy, result, fun load => absurd erase load, only⟩
  · refine ⟨?_, ?_, fun _ => rf_wf_same _ _ _ _ _ (by decide), only.wr _ (by simp)⟩
    · rw [rb_wf_same, if_neg (by decide), busy]
    · rw [rf_wf_ne _ (.inr (.inl (by decide))), result]

/-- Settles O45: each command by its equation under its conditions; the end of the wait by the slots and the status it leaves. -/
theorem keysAreLoadedAndErased : Obligations.KeysAreLoadedAndErased := by
  unfold Obligations.KeysAreLoadedAndErased
  intro s st slot policy want waits refused
  have start (op : Nat) (key : List Byte) : waits (keyWaiting s op key) op key := keyWaiting_spec s op key
  have refuse (op : Nat) {r : Nat} (code : r < 8) : refused (keyResult (keyAsked s op) r) r := keyRefused_spec s op code
  refine ⟨fun busy => ?busy, fun idle => ⟨?clear, ?long, ?unblown, ?wrapped, ?mangled, ?erase, ?policy⟩, fun c held => ⟨?waits, ?ends⟩⟩
  case busy =>
    have ignored (op : Nat) : (.next (keyCommand s op) : Host.Outcome State Fault Refusal) = .next s :=
      congrArg Host.Outcome.next (keyCommand_busy op busy)
    exact ⟨ignored 1, ignored 2, ignored 3, ignored 4⟩
  case clear => exact fun fits => ⟨_, congrArg Host.Outcome.next (keyCommand_clear idle fits), start 1 _⟩
  case long => exact fun hmac long => ⟨_, congrArg Host.Outcome.next (keyCommand_long idle hmac long), refuse 1 (by decide)⟩
  case unblown => exact fun fits key => ⟨_, congrArg Host.Outcome.next (keyCommand_unblown idle fits key), refuse 2 (by decide)⟩
  case wrapped =>
    intro kek key fits blown alg unwrapped whole
    have taken := keyCommand_wrapped idle fits blown alg unwrapped (by rintro _ ⟨⟩; exact whole)
    exact ⟨_, congrArg Host.Outcome.next taken, start 2 key⟩
  case mangled =>
    intro kek fits blown alg failed
    have refusal := keyCommand_wrapped idle fits blown alg failed (by rintro _ ⟨⟩)
    exact ⟨_, congrArg Host.Outcome.next refusal, refuse 2 (by decide)⟩
  case erase => exact ⟨_, congrArg Host.Outcome.next (keyCommand_erase idle), start 3 []⟩
  case policy =>
    obtain ⟨result, kept, shown⟩ := readPolicy_spec s 4 (shownPolicy (tabFind s.auth.slots slot))
    refine ⟨_, congrArg Host.Outcome.next (keyCommand_readPolicy idle), result, kept, shown.trans ?_⟩
    cases tabFind s.auth.slots slot with
    | none => rfl
    | some k => rw [shownPolicy, b2n, ite_mul, one_mul, zero_mul]
  case waits => exact fun runs => congrArg Host.Outcome.next (keyDone_waits held runs)
  case ends =>
    intro ended
    obtain ⟨busy, result, check, only⟩ := keyShown_spec (keyEffected s c) c
    have auth := auth_keyShown (keyEffected s c) c
    have slots : (keyShown (keyEffected s c) c).auth.slots = slotsAfter s.auth.slots c := by rw [auth]; rfl
    have here := tabFind_slotsAfter_same s.auth.slots c
    refine ⟨_, congrArg Host.Outcome.next (keyDone_ends held ended), by rw [auth]; rfl, busy, result, fun k other => ?_,
      fun erase => ?_, fun load => ⟨?_, check load⟩, ?_⟩
    · rw [slots, tabFind_slotsAfter_ne _ _ other]
    · rw [slots, here, if_pos erase]
    · rw [slots, here, if_neg load]
    · rw [auth]
      exact only

end Sys2Proof.Machine
end

section
/-! SUPPORT. Host jobs of the check-value engine (13_authentication.md R361, R376, R377): what a descriptor that is fetched admits,
and what the end of a job counts and writes; the statement about them settled with these. -/
namespace Sys2Proof.Machine

/-! ### AUTH_HJ_TAIL -/

theorem hjTail_spec (s : State) (v : Nat) :
    rf (hjTail s v) Reg.AUTH_HJ_TAIL 15 0 = v % 2 ^ 16 ∧ rb (hjTail s v) Reg.AUTH_HJ_HEAD 31 = false ∧
    rf (hjTail s v) Reg.AUTH_HJ_HEAD 15 0 = rf s Reg.AUTH_HJ_HEAD 15 0 ∧
    Only s (hjTail s v) [Reg.AUTH_HJ_TAIL, Reg.AUTH_HJ_HEAD] [] [] := by
  refine ⟨?_, ?_, ?_, (((Only.refl s).mono (by simp)).wr _ (by simp)).wr _ (by simp)⟩
  · rw [hjTail, rf_wf_ne _ (.inl (by decide)), rf_wf_same _ _ _ _ _ (by decide)]
  · rw [hjTail, rb_wf_same]
    rfl
  · rw [hjTail, rf_wf_ne _ (.inr (.inl (by decide))), rf_wf_ne _ (.inl (by decide))]

/-! ### Admission (R361) -/

@[simp] theorem rd_touch (s : State) (h a : Nat) : rd (touch s h) a = rd s a := rd_with a

/-- The job at the core that the scheduler picks. -/
def jobPlaced (s : State) (j : Job) : Job := { j with core := pickCore s }

theorem admitJob_spec {s : State} {j : Job} (room : s.auth.jobs.length < 4096) :
    let t := (admitJob s j).2
    tabFind t.auth.jobs s.auth.next = some (jobPlaced s j) ∧ t.auth.next = s.auth.next + 1 ∧ ∀ a, rd t a = rd s a := by
  have marked (h : Nat) : (if pickCore s = 8 then s else touch s h).auth = s.auth ∧
      ∀ a, rd (if pickCore s = 8 then s else touch s h) a = rd s a := by
    split
    · exact ⟨rfl, fun _ => rfl⟩
    · exact ⟨rfl, rd_touch s h⟩
  obtain ⟨auth, regs⟩ := marked (38 + pickCore s / 4)
  rw [admitJob, if_neg (Nat.not_le.mpr room)]
  refine ⟨?_, rfl, regs⟩
  simp only [auth]
  exact (tabFind_tabSet ..).trans (if_pos rfl)

/-! ### A descriptor is fetched (R376) -/

/-- The ring runs and has a descriptor posted, and the queue has room. -/
structure RingReady (s : State) : Prop where
  size : 2 ≤ rf s Reg.AUTH_HJ_SIZE 15 0
  runs : rb s Reg.AUTH_HJ_HEAD 31 = false
  posted : rf s Reg.AUTH_HJ_HEAD 15 0 ≠ rf s Reg.AUTH_HJ_TAIL 15 0
  room : s.auth.jobs.length < 4096

/-- HEAD goes on to the next descriptor. -/
def hjFetched (s : State) : State :=
  wf s Reg.AUTH_HJ_HEAD 15 0 ((rf s Reg.AUTH_HJ_HEAD 15 0 + 1) % rf s Reg.AUTH_HJ_SIZE 15 0)

/-- The ring stops at its descriptor. -/
def hjStopped (s : State) : State := raise (wf s Reg.AUTH_HJ_HEAD 31 31 1) 0xF08 (rf s Reg.AUTH_HJ_HEAD 15 0) 0

/-- The job that a descriptor describes, with the bytes at its ADDR. -/
def hostJobOf (op : Nat) (desc data : List Byte) : HostJob where
  op := op
  flags := byteAt desc 1
  slot := leAt desc 2 2
  ctx := leAt desc 4 2
  tagLen := min (byteAt desc 6) (if op = 5 ∨ op = 6 then 32 else 16)
  addr := leAt desc 8 8
  len := leAt desc 16 4 % 2 ^ 24
  cookie := leAt desc 20 4
  data := (data ++ List.replicate (leAt desc 16 4 % 2 ^ 24 - data.length) 0#8).take (leAt desc 16 4 % 2 ^ 24)

/-- A job of the host before a core is picked. -/
def hostQueued (h : HostJob) : Job := { user := .host, core := 8, slot := h.slot, bytes := h.len, host := some h }

theorem hostJob_ready {s : State} (ready : RingReady s) (op : Nat) {desc : List Byte} (data : List Byte) (whole : desc.length = 32) :
    hostJob s op desc data =
      if crc32c (desc.take 28) ≠ leAt desc 28 4 then hjStopped s
      else if byteAt desc 0 ≠ op then s
      else (admitJob (hjFetched s) (hostQueued (hostJobOf op desc data))).2 := by
  obtain ⟨size, runs, posted, room⟩ := ready
  have goes : (rf s Reg.AUTH_HJ_SIZE 15 0 < 2 || rb s Reg.AUTH_HJ_HEAD 31 ||
      rf s Reg.AUTH_HJ_HEAD 15 0 == rf s Reg.AUTH_HJ_TAIL 15 0 || desc.length != 32 ||
      decide (4096 ≤ s.auth.jobs.length)) = false := by
    simp [Nat.not_lt.mpr size, runs, posted, whole, room]
  simp only [hostJob, goes, Bool.false_eq_true, if_false]
  rfl

theorem hjStopped_spec (s : State) :
    rb (hjStopped s) Reg.AUTH_HJ_HEAD 31 = true ∧ rf (hjStopped s) Reg.AUTH_HJ_HEAD 15 0 = rf s Reg.AUTH_HJ_HEAD 15 0 ∧
    Only s (hjStopped s) [Reg.AUTH_HJ_HEAD] [(0xF08, rf s Reg.AUTH_HJ_HEAD 15 0, 0)] [] := by
  refine ⟨?_, ?_, (((Only.refl s).mono (by simp)).wr _ (by simp)).raise _ _ _⟩
  · rw [hjStopped, rb_raise, rb_wf_same]
    rfl
  · rw [hjStopped, rf_raise, rf_wf_ne _ (.inr (.inl (by decide)))]

theorem hjFetched_spec {s : State} (size : 2 ≤ rf s Reg.AUTH_HJ_SIZE 15 0) :
    rf (hjFetched s) Reg.AUTH_HJ_HEAD 15 0 = (rf s Reg.AUTH_HJ_HEAD 15 0 + 1) % rf s Reg.AUTH_HJ_SIZE 15 0 ∧
    ∀ a, a ≠ Reg.AUTH_HJ_HEAD → rd (hjFetched s) a = rd s a := by
  refine ⟨?_, fun a other => rd_wf_ne _ _ _ other⟩
  have width : rf s Reg.AUTH_HJ_SIZE 15 0 < 2 ^ 16 := fld_lt ..
  rw [hjFetched, rf_wf_same _ _ _ _ _ (by decide)]
  exact Nat.mod_eq_of_lt (Nat.lt_trans (Nat.mod_lt _ (by omega)) width)

theorem hostJobOf_data (op : Nat) (desc data : List Byte) :
    (hostJobOf op desc data).data.length = leAt desc 16 4 % 2 ^ 24 ∧
    (data.length = leAt desc 16 4 % 2 ^ 24 → (hostJobOf op desc data).data = data) := by
  refine ⟨?_, fun whole => ?_⟩
  · rw [hostJobOf, List.length_take, List.length_append, List.length_replicate]
    omega
  · rw [hostJobOf, ← whole, List.take_left]

/-- Each of the eight commands fetches a descriptor of its own OP. -/
theorem exec_hj {op : Nat} {c : List Byte → List Byte → Instr}
    (listed : (op, c) ∈ [(1, Instr.hjGmacGenerate), (2, .hjGmacVerify), (3, .hjCmacGenerate), (4, .hjCmacVerify), (5, .hjHmacGenerate),
      (6, .hjHmacVerify), (7, .hjSave), (8, .hjRestore)])
    (desc data : List Byte) (s : State) : exec (c desc data) s = .next (hostJob s op desc data) := by
  simp only [List.mem_cons, List.not_mem_nil, or_false, Prod.mk.injEq] at listed
  rcases listed with ⟨rfl, rfl⟩ | ⟨rfl, rfl⟩ | ⟨rfl, rfl⟩ | ⟨rfl, rfl⟩ | ⟨rfl, rfl⟩ | ⟨rfl, rfl⟩ | ⟨rfl, rfl⟩ | ⟨rfl, rfl⟩
  all_goals rfl

/-! ### The end of a host job (R377) -/

/-- What a job's work leaves of the state before it: the registers, the jobs and the entry of the next completion. -/
structure WorkKept (s t : State) : Prop where
  regs : t.regs = s.regs
  jobs : t.auth.jobs = s.auth.jobs
  done : t.auth.done = s.auth.done

theorem WorkKept.refl (s : State) : WorkKept s s := ⟨rfl, rfl, rfl⟩

theorem hostMac_workKept (s : State) (h : HostJob) : WorkKept s (hostMac s h).2.2.2 := by
  unfold hostMac
  extract_lets alg first last verify
  split
  · exact .refl s
  · extract_lets start state context t tag
    have work : WorkKept s t := by
      simp only [t]
      split
      · exact .refl s
      · exact ⟨rfl, rfl, rfl⟩
    clear_value last verify t
    split
    · exact work
    · split
      · exact work
      · exact work

theorem hostSave_workKept (s : State) (h : HostJob) : WorkKept s (hostSave s h).2.2 := by
  unfold hostSave
  split
  · exact .refl s
  · split
    · exact ⟨rfl, rfl, rfl⟩
    · split
      · exact .refl s
      · exact ⟨rfl, rfl, rfl⟩

theorem hostRestore_workKept (s : State) (h : HostJob) : WorkKept s (hostRestore s h).2.2 := by
  unfold hostRestore
  extract_lets refuse clear image
  have refused (status : Nat) : WorkKept s (refuse s status).2.2 := ⟨rfl, rfl, rfl⟩
  clear_value refuse image
  split
  · exact refused 4
  · exact refused 7
  · extract_lets slot kcv alg count
    clear_value slot kcv alg count
    split
    · exact refused 7
    · split
      · exact refused 7
      · exact ⟨rfl, rfl, rfl⟩

/-- Status, bytes processed and tag of a job, and the state after its work. -/
def hostWork (s : State) (h : HostJob) : Nat × Nat × List Byte × State :=
  if h.op ≤ 6 then hostMac s h
  else if h.op = 7 then ((hostSave s h).1, (hostSave s h).2.1, [], (hostSave s h).2.2)
  else ((hostRestore s h).1, (hostRestore s h).2.1, [], (hostRestore s h).2.2)

theorem hostWork_workKept (s : State) (h : HostJob) : WorkKept s (hostWork s h).2.2.2 := by
  unfold hostWork
  split
  · exact hostMac_workKept s h
  · split
    · exact hostSave_workKept s h
    · exact hostRestore_workKept s h

/-- Bytes 0 to 59 of a completion. -/
def hostCompletionBody (h : HostJob) (status count : Nat) (tag : List Byte) : List Byte :=
  toLE 4 h.cookie ++ [BitVec.ofNat 8 status, BitVec.ofNat 8 h.op, 0#8, 0#8] ++ toLE 8 count ++
    tag ++ List.replicate (44 - tag.length) 0#8

/-- A completion with its check value. -/
def hostCompletion (h : HostJob) (status count : Nat) (tag : List Byte) : List Byte :=
  hostCompletionBody h status count tag ++ toLE 4 (crc32c (hostCompletionBody h status count tag))

/-- A completion is written to its entry, and the ring goes on. -/
def completionWritten (s : State) (b : List Byte) : State :=
  let t := emit s (.hostWrite (rdn s Reg.AUTH_HC_BASE + 64 * s.auth.done) b)
  { t with auth := { t.auth with done := (t.auth.done + 1) % max 1 (rf s Reg.AUTH_HJ_SIZE 15 0) } }

theorem hostJobEnd_quiet (s : State) {h : HostJob} (quiet : h.flags.testBit 2 = false) :
    hostJobEnd s h =
      let w := hostWork s h
      completionWritten w.2.2.2 (hostCompletion h w.1 w.2.1 w.2.2.1) := by
  simp only [hostJobEnd, quiet, Bool.false_eq_true, if_false]
  rfl

theorem hostCompletion_names_job (h : HostJob) (status count : Nat) (tag : List Byte) :
    slice (hostCompletion h status count tag) 0 4 = toLE 4 h.cookie ∧ byteAt (hostCompletion h status count tag) 5 = h.op % 256 :=
  ⟨rfl, BitVec.toNat_ofNat ..⟩

/-- The end of a job without IRQ: its completion leaves for entry `done`, which goes on; registers and jobs stay. -/
theorem hostJobEnd_spec (s : State) {h : HostJob} (quiet : h.flags.testBit 2 = false) :
    let u := hostJobEnd s h
    (∃ b rest, u.out = .hostWrite (rdn s Reg.AUTH_HC_BASE + 64 * s.auth.done) b :: rest ∧ slice b 0 4 = toLE 4 h.cookie ∧
      byteAt b 5 = h.op % 256) ∧
    u.auth.done = (s.auth.done + 1) % max 1 (rf s Reg.AUTH_HJ_SIZE 15 0) ∧ u.auth.jobs = s.auth.jobs ∧ u.regs = s.regs := by
  obtain ⟨regs, jobs, done⟩ := hostWork_workKept s h
  rw [hostJobEnd_quiet s quiet]
  generalize hostWork s h = w at regs jobs done
  obtain ⟨status, count, tag, t⟩ := w
  have same : ∀ a, rd t a = rd s a := fun a => by rw [rd, regs, ← rd]
  have base : rdn t Reg.AUTH_HC_BASE = rdn s Reg.AUTH_HC_BASE := congrArg BitVec.toNat (same _)
  have size : rf t Reg.AUTH_HJ_SIZE 15 0 = rf s Reg.AUTH_HJ_SIZE 15 0 := congrArg (fld · 15 0) (same _)
  refine ⟨⟨hostCompletion h status count tag, t.out, ?_, hostCompletion_names_job h status count tag⟩, ?_, jobs, regs⟩
  · rw [← base, ← done]
    rfl
  · rw [← size, ← done]
    rfl

/-! ### The job leaves its core -/

/-- The job's end at its core, before its work. -/
def jobLeft (s : State) (core n : Nat) (j : Job) : State := endJob (touch s (38 + core / 4)) n j j.bytes

theorem coreJobs_ne_coreBytes (n : Nat) : Reg.AUTH_COREn_JOBS n ≠ Reg.AUTH_COREn_BYTES n := by
  simp only [Reg.AUTH_COREn_JOBS, Reg.AUTH_COREn_BYTES]; omega

theorem jobLeft_spec (s : State) {core : Nat} (n : Nat) {j : Job} (inside : core < 8) (here : j.core = core) :
    let t := jobLeft s core n j
    tabFind t.auth.jobs n = none ∧ t.auth.done = s.auth.done ∧
    rdn t (Reg.AUTH_COREn_JOBS core) = (rdn s (Reg.AUTH_COREn_JOBS core) + 1) % 2 ^ 64 ∧
    rdn t (Reg.AUTH_COREn_BYTES core) = (rdn s (Reg.AUTH_COREn_BYTES core) + j.bytes) % 2 ^ 64 ∧
    ∀ a, a < Reg.AUTH_COREn_JOBS 0 → rd t a = rd s a := by
  have cored : ¬ core = 8 := by omega
  have left : jobLeft s core n j =
      cntWrap (cntWrap { touch s (38 + core / 4) with auth := { s.auth with jobs := tabDel s.auth.jobs n } }
        (Reg.AUTH_COREn_JOBS core) 1) (Reg.AUTH_COREn_BYTES core) j.bytes := by
    rw [jobLeft, endJob, here, if_neg cored]
    rfl
  rw [left]
  refine ⟨?_, rfl, ?_, ?_, fun a low => ?_⟩
  · rw [cntWrap_auth, cntWrap_auth, tabFind_tabDel, if_pos rfl]
  · rw [cntWrap, rdn, rd_wrn_ne _ (coreJobs_ne_coreBytes core), ← rdn, cntWrap, rdn_wrn_same]
    rfl
  · rw [cntWrap, rdn_wrn_same, cntWrap, rdn, rd_wrn_ne _ (coreJobs_ne_coreBytes core).symm]
    rfl
  · have below : a < 0x2400100 := low
    have jobs : a ≠ Reg.AUTH_COREn_JOBS core := by simp only [Reg.AUTH_COREn_JOBS]; omega
    have bytes : a ≠ Reg.AUTH_COREn_BYTES core := by simp only [Reg.AUTH_COREn_BYTES]; omega
    rw [cntWrap, rd_wrn_ne _ bytes, cntWrap, rd_wrn_ne _ jobs]
    rfl

theorem exec_authJobComplete_host {core : Fin 8} {s : State} {n : Nat} {j : Job} {h : HostJob}
    (next : nextJob s core.val = some (n, j)) (user : j.user = .host) (asked : j.host = some h) :
    exec (.authJobComplete core false) s = .next (pump (hostJobEnd (jobLeft s core.val n j) h)) := by
  refine next_pump_congr (v := hostJobEnd (jobLeft s core.val n j) h) ?_
  simp only [jobEnds, next, user, asked, Bool.false_eq_true, if_false]
  rfl

/-- Settles O46: TAIL, the fetch by its cases under `RingReady`, and the end by the job's leaving, its work and its completion. -/
theorem hostJobsAreServed : Obligations.HostJobsAreServed := by
  unfold Obligations.HostJobsAreServed
  intro s
  refine ⟨fun v => ⟨_, rfl, hjTail_spec s v.toNat⟩, ?fetch, ?complete⟩
  case fetch =>
    intro size head two runs posted room op c listed desc data whole
    have fetch := hostJob_ready ⟨two, runs, posted, room⟩ op data whole
    rw [exec_hj listed, fetch]
    refine ⟨fun good => ⟨fun own => ?own, fun other => ?other⟩, fun bad => ?bad⟩
    case own =>
      rw [if_neg (not_not_intro good), if_neg (not_not_intro own)]
      obtain ⟨moved, others⟩ := hjFetched_spec two
      obtain ⟨admitted, next, regs⟩ := admitJob_spec (s := hjFetched s) (j := hostQueued (hostJobOf op desc data)) room
      refine ⟨_, jobPlaced (hjFetched s) (hostQueued (hostJobOf op desc data)), rfl, admitted, next, ?_, fun a other => ?_, rfl, rfl, rfl,
        hostJobOf op desc data, rfl, rfl, rfl, rfl, rfl, rfl, rfl, hostJobOf_data op desc data⟩
      · rw [rf, regs, ← rf, moved]
      · rw [regs, others a other]
    case other => rw [if_neg (not_not_intro good), if_pos other]
    case bad =>
      rw [if_pos bad]
      exact ⟨_, rfl, hjStopped_spec s⟩
  case complete =>
    intro core n j h next user asked here quiet
    obtain ⟨gone, done, jobs, bytes, regs⟩ := jobLeft_spec s n core.isLt here
    obtain ⟨⟨b, rest, out, cookie, op⟩, wrapped, jobsKept, regsKept⟩ := hostJobEnd_spec (jobLeft s core.val n j) quiet
    have base : rdn (jobLeft s core.val n j) Reg.AUTH_HC_BASE = rdn s Reg.AUTH_HC_BASE := congrArg BitVec.toNat (regs _ (by decide))
    have size : rf (jobLeft s core.val n j) Reg.AUTH_HJ_SIZE 15 0 = rf s Reg.AUTH_HJ_SIZE 15 0 :=
      congrArg (fld · 15 0) (regs _ (by decide))
    refine ⟨_, b, rest, exec_authJobComplete_host next user asked, ?_, ?_, ?_, ?_, cookie, op, ?_⟩
    · rw [jobsKept, gone]
    · rw [rdn, rd, regsKept, ← rd, ← rdn, jobs]
    · rw [rdn, rd, regsKept, ← rd, ← rdn, bytes]
    · rw [out, base, done]
    · rw [wrapped, size, done]

end Sys2Proof.Machine
end

section
/-! SUPPORT. The time unit (14_time_unit.md): timed outputs (R401, R402) and changes of time (R384, R388); the statements about
them settled with these. -/
namespace Sys2Proof.Machine

/-! ### A timed output beside its registers -/

theorem toutOf_toutPut (s : State) (n m : Nat) (x : Tout) : toutOf (toutPut s n x) m = if n = m then x else toutOf s m :=
  tabGet_tabPut ..

@[simp] theorem toutOf_emit (s : State) (o : Out) (n : Nat) : toutOf (emit s o) n = toutOf s n := (rfl)

@[simp] theorem toutOf_toutPut_same (s : State) (n : Nat) (x : Tout) : toutOf (toutPut s n x) n = x := by
  rw [toutOf_toutPut, if_pos rfl]

section
variable {s : State} {n : Nat}

theorem rd_toutPut {a : Nat} (x : Tout) (other : a ≠ Reg.TIME_TOUTn_STATUS n) : rd (toutPut s n x) a = rd s a := by
  rw [toutPut, rd_wf_ne _ _ _ other, rd_wf_ne _ _ _ other, rd_with]

theorem testBit_b2n (b : Bool) : (b2n b).testBit 0 = b := by cases b <;> decide

theorem rb_toutPut_armed (x : Tout) : rb (toutPut s n x) (Reg.TIME_TOUTn_STATUS n) 0 = x.next.isSome := by
  rw [toutPut, rb_wf_same, if_neg (by decide), rb_wf_same, if_pos (by decide), testBit_b2n]

/-- STATUS beyond ARMED and PULSE stays. -/
theorem rb_toutPut_high {i : Nat} (x : Tout) (high : 1 < i) :
    rb (toutPut s n x) (Reg.TIME_TOUTn_STATUS n) i = rb s (Reg.TIME_TOUTn_STATUS n) i := by
  rw [toutPut, rb_wf_same, if_neg (by omega), rb_wf_same, if_neg (by omega), rb, rb, rd_with]

theorem rf_toutPut_high {hi lo : Nat} (x : Tout) (high : 1 < lo) :
    rf (toutPut s n x) (Reg.TIME_TOUTn_STATUS n) hi lo = rf s (Reg.TIME_TOUTn_STATUS n) hi lo :=
  rf_congr_bits fun _ low _ => rb_toutPut_high x (by omega)

@[simp] theorem toutOf_toutMiss (k m : Nat) : toutOf (toutMiss s n k) m = toutOf s m := (rfl)

theorem occ_toutMiss (k : Nat) : (toutMiss s n k).ev.occ = s.ev.occ ++ [⟨0x090 + n, n, k, tickNo s⟩] := (rfl)

theorem rf_toutMiss (k : Nat) : rf (toutMiss s n k) (Reg.TIME_TOUTn_STATUS n) 15 8 =
    min 255 (rf s (Reg.TIME_TOUTn_STATUS n) 15 8 + k) := by
  rw [toutMiss, rf_raise, rf_wf_same _ _ _ _ _ (by decide), satAdd]
  omega

/-- The settings of an output lie in its registers other than STATUS. -/
theorem toutSettings_congr {t : State} (same : ∀ a, a ≠ Reg.TIME_TOUTn_STATUS n → rd t a = rd s a) :
    rf t (Reg.TIME_TOUTn_CFG n) 1 0 = rf s (Reg.TIME_TOUTn_CFG n) 1 0 ∧ toutStart t n = toutStart s n ∧
      toutPeriod t n = toutPeriod s n := by
  have cfg : Reg.TIME_TOUTn_CFG n ≠ Reg.TIME_TOUTn_STATUS n := by simp only [Reg.TIME_TOUTn_CFG, Reg.TIME_TOUTn_STATUS]; omega
  have sec : Reg.TIME_TOUTn_START_S n ≠ Reg.TIME_TOUTn_STATUS n := by
    simp only [Reg.TIME_TOUTn_START_S, Reg.TIME_TOUTn_STATUS]; omega
  have ns : Reg.TIME_TOUTn_START_NS n ≠ Reg.TIME_TOUTn_STATUS n := by
    simp only [Reg.TIME_TOUTn_START_NS, Reg.TIME_TOUTn_STATUS]; omega
  have offset : Reg.TIME_TOUTn_OFFSET n ≠ Reg.TIME_TOUTn_STATUS n := by
    simp only [Reg.TIME_TOUTn_OFFSET, Reg.TIME_TOUTn_STATUS]; omega
  have period : Reg.TIME_TOUTn_PERIOD n ≠ Reg.TIME_TOUTn_STATUS n := by
    simp only [Reg.TIME_TOUTn_PERIOD, Reg.TIME_TOUTn_STATUS]; omega
  simp only [rf, rdn, toutStart, toutPeriod, same _ cfg, same _ sec, same _ ns, same _ offset, same _ period, and_self]

end

/-! ### Arming, and the edges of a periodic output (R401, R402) -/

/-- The edges counted are those before time `t`: one more would not be before it. -/
theorem edgesBefore_spec (e t : Int) {period : Nat} (positive : 0 < period) :
    t ≤ e + (edgesBefore e t period * period : Nat) ∧ ∀ j < edgesBefore e t period, e + (j * period : Nat) < t := by
  by_cases ahead : t ≤ e
  · rw [edgesBefore, if_pos ahead]
    exact ⟨by omega, fun j hj => absurd hj (Nat.not_lt_zero j)⟩
  · have count : (edgesBefore e t period : Int) = (t - e + period - 1) / period := by
      rw [edgesBefore, if_neg ahead, if_neg (by omega), Int.toNat_of_nonneg (Int.ediv_nonneg (by omega) (by omega))]
    have low : (period : Int) * edgesBefore e t period ≤ t - e + period - 1 := by
      rw [count]; exact Int.mul_ediv_self_le (by omega)
    have high : t - e + period - 1 < (period : Int) * edgesBefore e t period + period := by
      rw [count]; exact Int.lt_mul_ediv_self_add (by omega)
    refine ⟨?_, fun j hj => ?_⟩
    · rw [Nat.mul_comm, Nat.cast_mul]; omega
    · have next : (period : Int) * (j + 1) ≤ period * edgesBefore e t period :=
        Int.mul_le_mul_of_nonneg_left (by omega) (by omega)
      rw [Int.mul_add, Int.mul_one] at next
      rw [Nat.mul_comm, Nat.cast_mul]; omega

section
variable {s : State} {n : Nat}

theorem toutArm_waits {e : Nat} (pulse : (toutOf s n).pulseEnd = some e) :
    toutArm s n = wf s (Reg.TIME_TOUTn_STATUS n) 2 2 1 := by
  rw [toutArm, pulse, Option.isSome_some, if_pos rfl]

/-- ARM without a pulse in progress, over the settings of R401. -/
theorem toutArm_now (idle : (toutOf s n).pulseEnd = none) :
    toutArm s n =
      let t := wf s (Reg.TIME_TOUTn_STATUS n) 2 2 0
      if rf s (Reg.TIME_TOUTn_CFG n) 1 0 = 1 then
        if toutStart s n < s.time.acc then toutMiss (toutPut t n { toutOf s n with next := none }) n 1
        else toutPut t n { toutOf s n with next := some (toutStart s n), disarm := false }
      else if rf s (Reg.TIME_TOUTn_CFG n) 1 0 = 2 then
        toutPut t n { toutOf s n with next := some (firstEdgeFrom (toutStart s n) s.time.acc (toutPeriod s n)), disarm := false }
      else toutPut t n { toutOf s n with next := none } := by
  obtain ⟨mode, start, period⟩ :=
    toutSettings_congr (s := s) (n := n) (t := wf s (Reg.TIME_TOUTn_STATUS n) 2 2 0) fun _ other => rd_wf_ne _ _ _ other
  rw [toutArm, idle, Option.isSome_none, if_neg Bool.false_ne_true, toutArmNow]
  simp only [mode, start, period]
  rfl

theorem toutArm_periodic (idle : (toutOf s n).pulseEnd = none) (mode : rf s (Reg.TIME_TOUTn_CFG n) 1 0 = 2) :
    toutArm s n = toutPut (wf s (Reg.TIME_TOUTn_STATUS n) 2 2 0) n { toutOf s n with
      next := some (firstEdgeFrom (toutStart s n) s.time.acc (toutPeriod s n)), disarm := false } := by
  rw [toutArm_now idle, mode]; rfl

theorem toutArm_oneShot (idle : (toutOf s n).pulseEnd = none) (mode : rf s (Reg.TIME_TOUTn_CFG n) 1 0 = 1)
    (ahead : (s.time.acc : Int) ≤ toutStart s n) :
    toutArm s n = toutPut (wf s (Reg.TIME_TOUTn_STATUS n) 2 2 0) n { toutOf s n with
      next := some (toutStart s n), disarm := false } := by
  rw [toutArm_now idle, mode]
  exact (if_pos rfl).trans (if_neg (not_lt.mpr ahead))

theorem toutArm_past (idle : (toutOf s n).pulseEnd = none) (mode : rf s (Reg.TIME_TOUTn_CFG n) 1 0 = 1)
    (past : toutStart s n < s.time.acc) :
    toutArm s n = toutMiss (toutPut (wf s (Reg.TIME_TOUTn_STATUS n) 2 2 0) n { toutOf s n with next := none }) n 1 := by
  rw [toutArm_now idle, mode]
  exact (if_pos rfl).trans (if_pos past)

theorem toutOf_toutDisarm : toutOf (toutDisarm s n) n =
    { toutOf s n with next := none, disarm := (toutOf s n).pulseEnd.isSome } := toutOf_toutPut_same ..

/-! ### A due edge (R401) -/

theorem toutEdge_leading {e : Int} (idle : (toutOf s n).pulseEnd = none) (next : (toutOf s n).next = some e)
    (due : e ≤ s.time.acc) :
    toutEdge s n = emit (toutPut s n { toutOf s n with
        next := if rf s (Reg.TIME_TOUTn_CFG n) 1 0 = 2 then some (e + toutPeriod s n) else none
        pulseEnd := some (nowNs s + rdn s (Reg.TIME_TOUTn_WIDTH n)) }) (.tout n (toutLevel s n true)) := by
  simp only [toutEdge, idle, next]
  exact if_neg (by omega)

theorem toutEdge_pulseEnd {e : Nat} (pulse : (toutOf s n).pulseEnd = some e) (due : e ≤ nowNs s)
    (settled : rb s (Reg.TIME_TOUTn_STATUS n) 2 = false) :
    toutEdge s n =
      emit (toutPut s n { toutOf s n with pulseEnd := none, disarm := false }) (.tout n (toutLevel s n false)) := by
  have waits (o : Out) : rb (emit (toutPut s n { toutOf s n with pulseEnd := none, disarm := false }) o)
      (Reg.TIME_TOUTn_STATUS n) 2 = false := by rw [rb, rd_emit, ← rb, rb_toutPut_high _ (by decide), settled]
  simp only [toutEdge, pulse, if_neg (Nat.not_lt.mpr due), waits]
  rfl

end

/-- Settles O14: ARM by its cases in `toutArm_now`, with the least edge of `edgesBefore_spec`; an edge by the pulse in progress. -/
theorem timedOutputs : Obligations.TimedOutputs := by
  unfold Obligations.TimedOutputs
  intro n s x start mode pol
  refine ⟨fun idle periodic positive => ?periodic, fun idle oneShot ahead => ?ahead, fun idle oneShot past => ?past,
    fun e pulse => ?waits, ⟨_, rfl, ?disarmed, ?kept, rfl⟩, fun e idle next due => ?leading, fun e pulse due settled => ?trailing⟩
  case periodic =>
    obtain ⟨reached, least⟩ := edgesBefore_spec start s.time.acc positive
    refine ⟨_, edgesBefore start s.time.acc (toutPeriod s n), congrArg Host.Outcome.next (toutArm_periodic idle periodic), ?_,
      reached, least, rb_toutPut_armed _⟩
    rw [toutOf_toutPut_same]; rfl
  case ahead =>
    refine ⟨_, congrArg Host.Outcome.next (toutArm_oneShot idle oneShot ahead), ?_, rb_toutPut_armed _⟩
    rw [toutOf_toutPut_same]
  case past =>
    refine ⟨_, congrArg Host.Outcome.next (toutArm_past idle oneShot past), ?_, occ_toutMiss 1, ?_⟩
    · rw [toutOf_toutMiss, toutOf_toutPut_same]
    · rw [rf_toutMiss, rf_toutPut_high _ (by decide), rf_wf_ne _ (by omega)]
  case waits =>
    refine ⟨_, congrArg Host.Outcome.next (toutArm_waits pulse), ?_, ((Only.refl s).mono (by simp)).wr _ (by simp)⟩
    rw [rb_wf_same]; rfl
  case disarmed => rw [toutOf_toutDisarm]
  case kept => rw [toutOf_toutDisarm]
  case leading =>
    refine ⟨_, congrArg Host.Outcome.next (toutEdge_leading idle next due), ?_, ?_, ?_⟩
    · rw [emit_out, toutLevel, Bool.true_bne]; rfl
    · rw [toutOf_emit, toutOf_toutPut_same]
    · rw [toutOf_emit, toutOf_toutPut_same]
  case trailing =>
    refine ⟨_, congrArg Host.Outcome.next (toutEdge_pulseEnd pulse due settled), ?_, ?_, ?_⟩
    · rw [emit_out, toutLevel, Bool.false_bne]; rfl
    · rw [toutOf_emit, toutOf_toutPut_same]
    · rw [toutOf_emit, toutOf_toutPut_same]

/-! ### What a change of time leaves as it was -/

/-- The clock, and what beside the registers no timed output changes. -/
def clockFrame (s : State) : Nat × Nat × Nat × List Out × List (Nat × Frame) × HostUnit × ChipUnit :=
  (s.time.acc, nowNs s, s.time.tick, s.out, s.frames, s.host, s.chip)

/-- t differs from s in the STATUS registers of the timed outputs and in events 0x090 to 0x09F that were added, as far as
registers, events and `clockFrame` go. -/
structure OutputsOnly (s t : State) : Prop where
  regs : ∀ a, (∀ n < 16, a ≠ Reg.TIME_TOUTn_STATUS n) → rd t a = rd s a
  occ : ∃ more, t.ev.occ = s.ev.occ ++ more ∧ ∀ o ∈ more, 0x090 ≤ o.source ∧ o.source ≤ 0x09F
  frame : clockFrame t = clockFrame s

namespace OutputsOnly
variable {r s t : State}

theorem refl (s : State) : OutputsOnly s s :=
  ⟨fun _ _ => rfl, ⟨[], by rw [List.append_nil], fun _ none => absurd none List.not_mem_nil⟩, rfl⟩

theorem trans (h : OutputsOnly r s) (k : OutputsOnly s t) : OutputsOnly r t := by
  obtain ⟨more, occ, sources⟩ := h.occ
  obtain ⟨more', occ', sources'⟩ := k.occ
  exact ⟨fun a other => (k.regs a other).trans (h.regs a other),
    ⟨more ++ more', by rw [occ', occ, List.append_assoc], List.forall_mem_append.mpr ⟨sources, sources'⟩⟩, k.frame.trans h.frame⟩

theorem put {n : Nat} (inside : n < 16) (s : State) (x : Tout) : OutputsOnly s (toutPut s n x) :=
  ⟨fun _ other => rd_toutPut x (other n inside), (OutputsOnly.refl s).occ, rfl⟩

theorem miss {n : Nat} (inside : n < 16) (s : State) (k : Nat) : OutputsOnly s (toutMiss s n k) := by
  refine ⟨fun a other => ?_, ⟨_, occ_toutMiss k, ?_⟩, rfl⟩
  · rw [toutMiss, rd_raise, rd_wf_ne _ _ _ (other n inside)]
  · rw [List.forall_mem_singleton]
    exact ⟨Nat.le_add_right .., Nat.add_le_add_left (Nat.le_of_lt_succ inside) _⟩

/-- What the change does to one output, by its cases (R402). -/
theorem step {n : Nat} (inside : n < 16) (old : Nat) (s : State) : OutputsOnly s (toutStep old s n) := by
  unfold toutStep
  extract_lets x
  split
  · exact .refl s
  · extract_lets passed next
    split
    · split
      · exact .refl s
      · exact (OutputsOnly.put inside s _).trans (.miss inside _ passed)
    · split
      · exact .put inside s _
      · exact .refl s

theorem steps (old : Nat) (s : State) : OutputsOnly s ((List.range 16).foldl (toutStep old) s) :=
  List.foldlRecOn (List.range 16) (toutStep old) (motive := OutputsOnly s) (.refl s)
    fun _ so _ listed => so.trans (.step (List.mem_range.mp listed) old _)

end OutputsOnly

/-! ### A change of time (R384, R388) -/

/-- The new time, its tick and the jumps noted, before the event and the outputs. -/
def timeMoved (s : State) (acc : Nat) (jumps : List (Nat × Nat)) : State :=
  { s with time := { s.time with acc := acc, tick := max s.time.tick (acc / 2 ^ 32 / tickPeriod s), jumps := jumps }
           perf := { s.perf with stepped := true } }

/-- The signed change in 2^-16 ns as event 0x082 holds it. -/
def changeWord (s : State) (acc : Nat) : Nat :=
  unsigned 64 (max (-(2 ^ 63)) (min (2 ^ 63 - 1) (((acc : Int) - s.time.acc) / 2 ^ 16)))

theorem stepTime_eq (s : State) (acc : Nat) (adjust : Bool) : ∃ jumps, stepTime s acc adjust =
    (List.range 16).foldl (toutStep s.time.acc) (raise (timeMoved s acc jumps) 0x082 (b2n adjust) (changeWord s acc)) := by
  unfold stepTime
  extract_lets old change sat was time perf followed time' moved
  have jumps : ∃ jumps, moved = timeMoved s acc jumps := by
    simp only [moved]
    split
    · exact ⟨s.time.jumps ++ [(was, followed.time.tick)], rfl⟩
    · exact ⟨s.time.jumps, rfl⟩
  obtain ⟨jumps, here⟩ := jumps
  exact ⟨jumps, by rw [← here]; rfl⟩

theorem stepTime_spec (s : State) (acc : Nat) (adjust : Bool) :
    let t := stepTime s acc adjust
    t.time.acc = acc ∧ nowNs t = nowNs s ∧ t.time.tick = max s.time.tick (acc / 2 ^ 32 / tickPeriod s) ∧
    (∃ more, t.ev.occ = s.ev.occ ++ ⟨0x082, b2n adjust, changeWord s acc, tickNo t⟩ :: more ∧
      ∀ o ∈ more, 0x090 ≤ o.source ∧ o.source ≤ 0x09F) ∧
    (∀ a, (∀ n < 16, a ≠ Reg.TIME_TOUTn_STATUS n) → rd t a = rd s a) ∧
    t.out = s.out ∧ t.frames = s.frames ∧ t.host = s.host ∧ t.chip = s.chip := by
  obtain ⟨jumps, moved⟩ := stepTime_eq s acc adjust
  have only := OutputsOnly.steps s.time.acc (raise (timeMoved s acc jumps) 0x082 (b2n adjust) (changeWord s acc))
  rw [← moved] at only
  obtain ⟨more, occ, sources⟩ := only.occ
  have frame := only.frame
  simp only [clockFrame, Prod.mk.injEq] at frame
  obtain ⟨time, now, tick, out, frames, host, chip⟩ := frame
  refine ⟨time, now, tick, ⟨more, ?_, sources⟩, only.regs, out, frames, host, chip⟩
  rw [tickNo, tick, occ, raise_occ, List.append_assoc]
  rfl

/-! ### TIME_CMD (R384) -/

/-- A number read as two's complement (R9) is the library's. -/
theorem signed_eq_toInt (w n : Nat) : signed w n = (BitVec.ofNat w n).toInt := by
  have half : n % 2 ^ w < 2 ^ (w - 1) ↔ 2 * (n % 2 ^ w) < 2 ^ w := by
    cases w with
    | zero => omega
    | succ w => rw [Nat.pow_succ, Nat.add_sub_cancel]; omega
  rw [signed, BitVec.toInt_eq_toNat_cond, BitVec.toNat_ofNat]
  simp only [half]

theorem signed_toNat {w : Nat} (v : BitVec w) : signed w v.toNat = v.toInt := by
  rw [signed_eq_toInt, BitVec.ofNat_toNat, BitVec.setWidth_eq]

/-- A bit of a dword that a command carries. -/
theorem bitOf_dword (v : BitVec 32) {i : Nat} (hi : i < 64) : bitOf (v.setWidth 64) i = decide (v.toNat / 2 ^ i % 2 = 1) := by
  rw [← BitVec.ofNat_toNat, bitOf_ofNat _ hi]

section
variable {s : State} {v : Nat}

theorem timeCommand_set (set : v % 2 = 1) (adjust : ¬ v / 2 % 2 = 1) :
    timeCommand s v = stepTime s ((rdn s Reg.TIME_SET_S * 1000000000 + rf s Reg.TIME_SET_NS 29 0) * 2 ^ 32 +
      rf s Reg.TIME_SET_SUBNS 15 0 * 2 ^ 16) false := by
  simp only [timeCommand, set, adjust, and_false, if_true, if_false]

/-- The time that ADJUST asks for. -/
def adjustedTime (s : State) : Int := s.time.acc + (rd s Reg.TIME_ADJ).toInt * 2 ^ 16

theorem timeCommand_adjust (set : ¬ v % 2 = 1) (adjust : v / 2 % 2 = 1) : timeCommand s v =
    if adjustedTime s < 0 ∨ (2 ^ 48 * accPerSec : Nat) ≤ adjustedTime s then accReport s 1 0 true Reg.TIME_CMD
    else stepTime s (adjustedTime s).toNat true := by
  have asked : s.time.acc + signed 64 (rdn s Reg.TIME_ADJ) * 2 ^ 16 = adjustedTime s := by rw [rdn, signed_toNat, adjustedTime]
  simp only [timeCommand, set, adjust, false_and, if_true, if_false, asked]

theorem timeCommand_both (set : v % 2 = 1) (adjust : v / 2 % 2 = 1) :
    timeCommand s v = accReport s 1 0 true Reg.TIME_CMD := if_pos ⟨set, adjust⟩

/-- ADJUST with SET, or with a sum out of range, is refused. -/
theorem timeCommand_refused (adjust : v / 2 % 2 = 1)
    (bad : v % 2 = 1 ∨ adjustedTime s < 0 ∨ (2 ^ 48 * accPerSec : Nat) ≤ adjustedTime s) :
    timeCommand s v = accReport s 1 0 true Reg.TIME_CMD := by
  by_cases set : v % 2 = 1
  · exact timeCommand_both set adjust
  · rw [timeCommand_adjust set adjust, if_pos (bad.resolve_left set)]

end

/-- Settles O11: TIME_CMD by its bits, and the change itself by `stepTime_spec`. -/
theorem timeChangeIsOneStep : Obligations.TimeChangeIsOneStep := by
  unfold Obligations.TimeChangeIsOneStep
  intro v s setTo sum ok
  have bit0 : bitOf (v.setWidth 64) 0 = decide (v.toNat % 2 = 1) := by rw [bitOf_dword v (by decide), Nat.pow_zero, Nat.div_one]
  have bit1 : bitOf (v.setWidth 64) 1 = decide (v.toNat / 2 % 2 = 1) := bitOf_dword v (by decide)
  simp only [bit0, bit1, decide_eq_true_eq, decide_eq_false_iff_not]
  refine ⟨fun set adjust => ?set, fun set adjust low high => ?adjust, fun probe first ⟨adjust, bad⟩ => ?refused⟩
  case set =>
    have stepped : timeCommand s v.toNat = stepTime s setTo false := timeCommand_set set adjust
    exact ⟨stepTime s setTo false, congrArg Host.Outcome.next stepped, stepTime_spec s setTo false⟩
  case adjust =>
    have stepped : timeCommand s v.toNat = stepTime s sum.toNat true :=
      (timeCommand_adjust set adjust).trans (if_neg (not_or.mpr ⟨not_lt.mpr low, not_le.mpr high⟩))
    exact ⟨stepTime s sum.toNat true, congrArg Host.Outcome.next stepped, stepTime_spec s sum.toNat true⟩
  case refused =>
    obtain ⟨only, -, -⟩ := accReport_first 1 0 true Reg.TIME_CMD probe first
    exact ⟨_, congrArg Host.Outcome.next (timeCommand_refused adjust bad),
      rf_accReport_code 0 true Reg.TIME_CMD (by decide) probe first, only⟩

end Sys2Proof.Machine
end

section
/-! SUPPORT. The time unit (14_time_unit.md), continued: one step and an idle cycle, the rate, the watch over the references, and
captures, stamps, residences and the snapshot; the statements about them settled with these. -/
namespace Sys2Proof.Machine

/-! ### One step (R383) -/

theorem step_front (c : Instr) (q : List Instr) (s : State) :
    step { s with pending := c :: q } = exec c { s with pending := q } := rfl

theorem step_idle {s : State} (idle : s.pending = []) : step s = .next (timeCycle s) := by rw [step, idle]

/-- Settles O1: `step` by the queue. -/
theorem stepRunsFront : Obligations.StepRunsFront := by
  unfold Obligations.StepRunsFront
  exact ⟨step_front, fun s idle => ⟨timeCycle s, step_idle idle, idle, rfl, rfl, fun _ => rfl⟩⟩

/-! ### TIME_RATE (R383) -/

section
variable {s : State} {v : BitVec 32}

theorem writeRate_taken (small : v.toInt.natAbs ≤ 2 ^ 22) : writeRate s v.toNat =
    wrn { s with time := { s.time with rateAt := nowNs s, rateTold := false } } Reg.TIME_RATE v.toNat := by
  rw [writeRate]
  simp only [signed_toNat, Nat.mod_eq_of_lt v.isLt]
  exact if_neg (by omega)

theorem writeRate_reserved (large : 2 ^ 22 < v.toInt.natAbs) :
    writeRate s v.toNat = accReport s 1 0 true Reg.TIME_RATE := by
  rw [writeRate]
  simp only [signed_toNat]
  exact if_pos (by omega)

end

/-- Settles O10: a rate in range is stored, a larger one reported. -/
theorem timeRateWriteTakesEffect : Obligations.TimeRateWriteTakesEffect := by
  unfold Obligations.TimeRateWriteTakesEffect
  refine fun v s => ⟨fun small => ?taken, fun large probe first => ?reserved⟩
  case taken =>
    refine ⟨_, congrArg Host.Outcome.next (writeRate_taken small), ?_, ((Only.refl _).mono (by simp)).wr _ (by simp)⟩
    rw [rdn_wrn_same]; omega
  case reserved =>
    obtain ⟨only, -, addr⟩ := accReport_first 1 0 true Reg.TIME_RATE probe first
    exact ⟨_, congrArg Host.Outcome.next (writeRate_reserved large),
      rf_accReport_code 0 true Reg.TIME_RATE (by decide) probe first, addr, only⟩

/-! ### The watch over the references (R386, R399) -/

/-- Bits put into a register and one event raised with it. -/
theorem wf_raise_only (s : State) (a hi lo n e d0 d1 : Nat) : Only s (raise (wf s a hi lo n) e d0 d1) [a] [(e, d0, d1)] [] := by
  have put : Only s (wf s a hi lo n) [a] [] [] := ((Only.refl s).mono (by simp)).wr _ (by simp)
  exact put.raise e d0 d1

theorem elapsed_due {s : State} {start limit : Nat} (due : start + limit ≤ nowNs s) : elapsed s start limit = true :=
  decide_eq_true due

theorem exec_syncTimeout {p : Fin 64} {s : State} (watch : rb s (Reg.TIME_PORTp_CFG p) 3 = true)
    (synced : rb s (Reg.TIME_PORTp_STATUS p) 0 = true)
    (due : tabGet s.time.lastSync p 0 + rf s Reg.TIME_SYNC_TIMEOUT 15 0 * 1000000 ≤ nowNs s) :
    exec (.syncTimeout p) s = .next
      (raise (wf s (Reg.TIME_PORTp_STATUS p) 0 0 0) 0x084 p (rf s (Reg.TIME_PORTp_CFG p) 15 8)) := by
  rw [exec, execSyncTimeout]
  simp only [watched, watch, synced, elapsed_due due, Bool.and_self, if_true]

theorem exec_servoTimeout {s : State}
    (synced : ∃ p < 64, rb s (Reg.TIME_PORTp_CFG p) 3 = true ∧ rb s (Reg.TIME_PORTp_STATUS p) 0 = true)
    (untold : s.time.rateTold = false) (due : s.time.rateAt + rf s Reg.TIME_SERVO_TIMEOUT 15 0 * 1000000 ≤ nowNs s) :
    exec .servoTimeout s = .next (raise { s with time := { s.time with rateTold := true } } 0x083 (rdn s Reg.TIME_RATE)
      ((nowNs s - s.time.rateAt) / 1000000)) := by
  have somePort : (List.range 64).any (fun p => watched s p && rb s (Reg.TIME_PORTp_STATUS p) 0) = true := by
    obtain ⟨p, inside, watch, sync⟩ := synced
    exact List.any_eq_true.mpr ⟨p, List.mem_range.mpr inside, by rw [watched, watch, sync, Bool.and_self]⟩
  rw [exec, execServoTimeout]
  simp only [somePort, untold, elapsed_due due, Bool.not_false, Bool.and_self, if_true]
  rfl

theorem exec_ppsTimeout {s : State} {at_ : Nat} (edge : s.time.ppsAt = some at_) (due : at_ + 1001000000 ≤ nowNs s)
    (ok : rb s Reg.TIME_STATUS 2 = true) :
    exec .ppsTimeout s = .next (raise (wf s Reg.TIME_STATUS 2 2 0) 0x087 0 (rdn s Reg.TIME_PPS_NS)) := by
  rw [exec, execPpsTimeout, edge]
  simp only [elapsed_due due, ok, Bool.and_self, if_true]

/-! ### Captured times (R403) -/

theorem captureTime_eq (s : State) (delay : Int) :
    (captureTime s delay : Int) = max 0 (((s.time.acc : Int) - delay * 2 ^ 24) / 2 ^ 29 * 2 ^ 13) := by
  rw [captureTime]
  omega

/-- A time at a resolution of 0.125 ns, in the parts of the time of day. -/
theorem split16_captureTime (s : State) : split16 (captureTime s 0) =
    (s.time.acc / accPerSec, s.time.acc / 2 ^ 32 % 1000000000, s.time.acc / 2 ^ 16 % 2 ^ 16 / 2 ^ 13 * 2 ^ 13) := by
  have captured : captureTime s 0 = s.time.acc / 2 ^ 29 * 2 ^ 13 := by
    have eq := captureTime_eq s 0
    omega
  rw [captured, split16, accPerSec]
  simp only [Prod.mk.injEq]
  omega

/-- The time of an edge on PPS_IN, shown in its registers. -/
def ppsShown (s : State) : State :=
  wf (wrn (wrn (wrn { s with time := { s.time with ppsAt := some (nowNs s) } }
    Reg.TIME_PPS_S (s.time.acc / accPerSec % 2 ^ 48)) Reg.TIME_PPS_NS (s.time.acc / 2 ^ 32 % 1000000000))
    Reg.TIME_PPS_SUBNS (s.time.acc / 2 ^ 16 % 2 ^ 16 / 2 ^ 13 * 2 ^ 13)) Reg.TIME_STATUS 2 2 1

theorem exec_ppsEdge {s : State} (on : s.time.ppsEn = true) : exec .ppsEdge s = .next (ppsShown s) := by
  rw [exec, execPpsEdge]
  simp only [on, if_true, split16_captureTime]
  rfl

theorem ppsShown_fields (s : State) : let t := ppsShown s
    rb t Reg.TIME_STATUS 2 = true ∧ rdn t Reg.TIME_PPS_S = s.time.acc / accPerSec % 2 ^ 48 ∧
    rdn t Reg.TIME_PPS_NS = s.time.acc / 2 ^ 32 % 1000000000 ∧
    rdn t Reg.TIME_PPS_SUBNS = s.time.acc / 2 ^ 16 % 2 ^ 16 / 2 ^ 13 * 2 ^ 13 := by
  refine ⟨?_, ?_, ?_, ?_⟩ <;> rw [ppsShown]
  · rw [rb_wf_same]; rfl
  · rw [rdn, rd_wf_ne _ _ _ (by decide), rd_wrn_ne _ (by decide), rd_wrn_ne _ (by decide), ← rdn, rdn_wrn_same]; omega
  · rw [rdn, rd_wf_ne _ _ _ (by decide), rd_wrn_ne _ (by decide), ← rdn, rdn_wrn_same]; omega
  · rw [rdn, rd_wf_ne _ _ _ (by decide), ← rdn, rdn_wrn_same]; omega

theorem ppsShown_only (s : State) : Only { s with time := { s.time with ppsAt := some (nowNs s) } } (ppsShown s)
    [Reg.TIME_STATUS, Reg.TIME_PPS_S, Reg.TIME_PPS_NS, Reg.TIME_PPS_SUBNS] [] [] :=
  .wr _ (.wr _ (.wr _ (.wr _ ((Only.refl _).mono (by simp)) (by simp)) (by simp)) (by simp)) (by simp)

/-- Settles O12: each of the six commands by its equation under its conditions. -/
theorem timeReferenceWatch : Obligations.TimeReferenceWatch := by
  unfold Obligations.TimeReferenceWatch
  intro s
  refine ⟨?lost, fun us => ?restored, fun p watch synced due => ?sync, fun synced untold due => ?servo, fun on => ?edge,
    fun at_ edge due ok => ?timeout⟩
  case lost =>
    refine ⟨_, rfl, ?_, ?_, wf_raise_only ..⟩
    · rw [rf_raise, rf_wf_same _ _ _ _ _ (by decide)]; rfl
    · rw [rf_raise, rf_wf_ne _ (by omega)]
  case restored =>
    refine ⟨_, rfl, ?_, ?_, wf_raise_only ..⟩
    · rw [rf_raise, rf_wf_same _ _ _ _ _ (by decide)]; rfl
    · rw [rf_raise, rf_wf_ne _ (by omega)]
  case sync =>
    refine ⟨_, exec_syncTimeout watch synced due, ?_, ?_, wf_raise_only ..⟩
    · rw [rb_raise, rb_wf_same]; rfl
    · rw [rf_raise, rf_wf_ne _ (by omega)]
  case servo => exact ⟨_, exec_servoTimeout synced untold due, (Only.refl _).raise ..⟩
  case edge =>
    obtain ⟨shown, sec, ns, sub⟩ := ppsShown_fields s
    exact ⟨_, exec_ppsEdge on, shown, sec, ns, sub, ppsShown_only s⟩
  case timeout =>
    refine ⟨_, exec_ppsTimeout edge due ok, ?_, wf_raise_only ..⟩
    rw [rb_raise, rb_wf_same]; rfl

/-! ### Capture inputs (R403) -/

section
variable {s : State} {n : Nat} {falling : Bool} (selected : rb s (Reg.TIME_TCAPn_CFG n) (if falling then 1 else 0) = true)
include selected

/-- An edge that CFG selects, by the room in the input's FIFO. -/
theorem capture_selected : capture s n falling =
    if (tabGet s.time.tcap n []).length < 16 then
      { s with time := { s.time with tcap := tabSet s.time.tcap n (tabGet s.time.tcap n [] ++
        [⟨captureTime s (signed 32 (rdn s (Reg.TIME_TCAPn_DELAY n))), falling⟩]) } }
    else raise (cnt s (Reg.TIME_TCAPn_OVF n) 1) (0x0A0 + n) n 0 := by
  rw [capture, rf, fld, natFld_eq_div_mod]
  rw [rb, bitOf, getLsbD_eq_decide, decide_eq_true_iff] at selected
  refine if_pos ?_
  cases falling with
  | false =>
    have rise : (rd s (Reg.TIME_TCAPn_CFG n)).toNat / 2 ^ 0 % 2 ^ (1 + 1 - 0) % 2 = 1 := by
      simp only [Bool.false_eq_true, if_false] at selected
      omega
    rw [rise]; rfl
  | true =>
    have fall : (rd s (Reg.TIME_TCAPn_CFG n)).toNat / 2 ^ 0 % 2 ^ (1 + 1 - 0) / 2 = 1 := by
      simp only [if_true] at selected
      omega
    rw [fall]; rfl

theorem capture_joins (room : (tabGet s.time.tcap n []).length < 16) : capture s n falling =
    { s with time := { s.time with tcap := tabSet s.time.tcap n (tabGet s.time.tcap n [] ++
      [⟨captureTime s (signed 32 (rdn s (Reg.TIME_TCAPn_DELAY n))), falling⟩]) } } :=
  (capture_selected selected).trans (if_pos room)

theorem capture_full (full : 16 ≤ (tabGet s.time.tcap n []).length) :
    capture s n falling = raise (cnt s (Reg.TIME_TCAPn_OVF n) 1) (0x0A0 + n) n 0 :=
  (capture_selected selected).trans (if_neg (not_lt.mpr full))

end

/-! ### The residence table (R395) -/

theorem not_elapsed_iff (s : State) (start limit : Nat) : (!elapsed s start limit) = true ↔ nowNs s < start + limit := by
  rw [elapsed, Bool.not_eq_true', decide_eq_false_iff_not, not_le]

/-! ### The snapshot (R385) -/

/-- The row of TIME_SNAP_NS. -/
def snapRow : RegRow := { base := 0x2600018, ro := 0x3fffffff }

theorem findRow_snap : findRow Reg.TIME_SNAP_NS = some snapRow := by decide

theorem shown_snap (s : State) : shown s Reg.TIME_SNAP_NS = BitVec.ofNat 64 (timeNsec s) := rfl

theorem timeNsec_lt (s : State) : timeNsec s < 1000000000 := Nat.mod_lt _ (by decide)

theorem regShown_snap (s : State) : regShown s Reg.TIME_SNAP_NS snapRow = timeNsec s := by
  have readable : (BitVec.ofNat 64 (snapRow.rw ||| snapRow.ro ||| snapRow.rc ||| snapRow.w1s ||| snapRow.w1c)).toNat = 2 ^ 30 - 1 := by
    decide
  have small := timeNsec_lt s
  rw [regShown, if_neg (by decide), shown_snap, BitVec.toNat_and, readable, Nat.and_two_pow_sub_one_eq_mod, BitVec.toNat_ofNat]
  omega

theorem afterRead_snap (s : State) : afterRead s Reg.TIME_SNAP_NS snapRow = snapTime s := rfl

/-- The nanoseconds leave, and the other parts are latched. -/
theorem bar0Read_snap (s : State) :
    bar0Read s Reg.TIME_SNAP_NS 4 = emit (snapTime s) (.readData (toLE 4 (timeNsec s))) := by
  have home : bar0Hummock Reg.TIME_SNAP_NS = none := by decide
  have other : mibAt Reg.TIME_SNAP_NS = none := by decide
  have aligned : Reg.TIME_SNAP_NS % 4 = 0 := by decide
  simp [bar0Read, bar0Fetch, aligned, regAt_row findRow_snap, shapeBad, home, other, regShown_snap, afterRead_snap]

theorem snapTime_fields (s : State) : let t := snapTime s
    rdn t Reg.TIME_SNAP_S = s.time.acc / accPerSec % 2 ^ 64 ∧ rdn t Reg.TIME_SNAP_SUBNS = s.time.acc / 2 ^ 16 % 2 ^ 16 ∧
    rdn t Reg.TIME_SNAP_TICK = s.time.tick % 2 ^ 64 := by
  refine ⟨?_, ?_, ?_⟩ <;> rw [snapTime]
  · rw [rdn, rd_wrn_ne _ (by decide), rd_wrn_ne _ (by decide), ← rdn, rdn_wrn_same, timeSec]
  · have sub : timeSub (wrn s Reg.TIME_SNAP_S (timeSec s)) = s.time.acc / 2 ^ 16 % 2 ^ 16 := rfl
    rw [rdn, rd_wrn_ne _ (by decide), ← rdn, rdn_wrn_same, sub]; omega
  · rw [rdn_wrn_same]; exact Nat.mod_mod ..

theorem snapTime_only (s : State) : Only s (snapTime s) [Reg.TIME_SNAP_S, Reg.TIME_SNAP_SUBNS, Reg.TIME_SNAP_TICK] [] [] :=
  .wr _ (.wr _ (.wr _ ((Only.refl _).mono (by simp)) (by simp)) (by simp)) (by simp)

/-- Settles O13: the FIFOs by POP and by a selected edge, the residence table by its filter, the snapshot by its read. -/
theorem timeFifosAndTables : Obligations.TimeFifosAndTables := by
  unfold Obligations.TimeFifosAndTables
  intro s
  refine ⟨⟨_, rfl, ?stamp⟩, fun n => ⟨_, rfl, ?head, fun m other => ?others, rfl⟩,
    fun n falling selected => ⟨fun room => ?joins, fun full => ?full⟩, ⟨_, rfl, fun r => ?residence, rfl⟩, ?snapshot⟩
  case stamp => rw [List.drop_one]
  case head => exact (tabGet_tabPut ..).trans ((if_pos rfl).trans List.drop_one)
  case others => exact (tabGet_tabPut ..).trans (if_neg other.symm)
  case joins =>
    refine ⟨_, _, congrArg Host.Outcome.next (capture_joins selected room), (tabGet_tabSet ..).trans (if_pos rfl), rfl, ?_,
      fun m other => (tabGet_tabSet ..).trans (if_neg other.symm), rfl⟩
    rw [captureTime_eq, signed_eq_toInt]
  case full =>
    refine ⟨_, congrArg Host.Outcome.next (capture_full selected full), ?_,
      (((Only.refl s).mono (by simp)).wr _ (by simp)).raise ..⟩
    rw [rdn, rd_raise, ← rdn, rdn_cnt_same]
  case residence => rw [List.mem_filter, not_elapsed_iff]
  case snapshot =>
    obtain ⟨sec, sub, tick⟩ := snapTime_fields s
    exact ⟨_, congrArg Host.Outcome.next (bar0Read_snap s), sec, sub, tick, (snapTime_only s).emit _⟩

end Sys2Proof.Machine
end

section
/-! SUPPORT. Events (16_events.md): the host ring, what EVENT_RECORD_WRITE takes from staging and what EVENT_CFG and EVENT_RING_HEAD do
to the ring (R461, R465, R469); the statement about it settled with this. -/
namespace Sys2Proof.Machine

/-! ### What EVENT_RECORD_WRITE does (R461, R465) -/

/-- The entry after TAIL, modulo the ring's size. -/
def ringNext (s : State) : Nat := (rf s Reg.EVENT_RING_TAIL 19 0 + 1) % ringSize s

/-- PHASE inverts where TAIL wraps to 0. -/
def phaseNext (s : State) : Nat :=
  if ringNext s = 0 then 1 - rf s Reg.EVENT_RING_TAIL 31 31 else rf s Reg.EVENT_RING_TAIL 31 31

/-- The state in which record r has left for host memory and TAIL has advanced. -/
def recordLeft (s : State) (r : Rec) (rest : List Rec) : State :=
  let entry := rdn s Reg.EVENT_RING_BASE + 32 * rf s Reg.EVENT_RING_TAIL 19 0
  let s' := wrn (emit s (.hostWrite entry (recBytes r (rf s Reg.EVENT_RING_TAIL 31 31)))) Reg.EVENT_RING_TAIL
    (ringNext s + phaseNext s * 2 ^ 31)
  { s' with ev := { s'.ev with stage := rest } }

/-- The ring is seen to be full, where it is. -/
def fullNoted (s : State) : State := if ringIsFull s then { s with ev := { s.ev with ringFull := true } } else s

@[simp] theorem rd_fullNoted (s : State) (a : Nat) : rd (fullNoted s) a = rd s a := by
  rw [fullNoted]; split <;> rfl

@[simp] theorem fullNoted_out (s : State) : (fullNoted s).out = s.out := by
  rw [fullNoted]; split <;> rfl

/-- Noting that the ring is full touches one flag. -/
theorem fullNoted_ev (s : State) : ∃ b, (fullNoted s).ev = { s.ev with ringFull := b } := by
  rw [fullNoted]
  split
  · exact ⟨true, rfl⟩
  · exact ⟨s.ev.ringFull, rfl⟩

theorem rd_recordLeft_ne {s : State} {a : Nat} (r : Rec) (rest : List Rec) (other : a ≠ Reg.EVENT_RING_TAIL) :
    rd (recordLeft s r rest) a = rd s a := rd_wrn_ne _ other

theorem ringNext_le (s : State) : ringNext s ≤ 2 ^ 20 := by
  have tail : rf s Reg.EVENT_RING_TAIL 19 0 < 2 ^ 20 := fld_lt ..
  exact Nat.le_trans (Nat.mod_le ..) tail

theorem phaseNext_lt (s : State) : phaseNext s < 2 := by
  have phase : rf s Reg.EVENT_RING_TAIL 31 31 < 2 := fld_lt ..
  rw [phaseNext]
  split <;> omega

/-- TAIL and PHASE share a dword. -/
theorem rf_ringTail (s : State) {position phase : Nat} (hp : position < 2 ^ 31) (hphase : phase < 2) :
    rf (wrn s Reg.EVENT_RING_TAIL (position + phase * 2 ^ 31)) Reg.EVENT_RING_TAIL 19 0 = position % 2 ^ 20 ∧
      rf (wrn s Reg.EVENT_RING_TAIL (position + phase * 2 ^ 31)) Reg.EVENT_RING_TAIL 31 31 = phase := by
  have dword : position + phase * 2 ^ 31 < 2 ^ 32 := by omega
  constructor
  · exact (rf_wrn_same s Reg.EVENT_RING_TAIL 19 0 dword).trans (by omega)
  · exact (rf_wrn_same s Reg.EVENT_RING_TAIL 31 31 dword).trans (by omega)

theorem rf_recordLeft_tail (s : State) (r : Rec) (rest : List Rec) :
    rf (recordLeft s r rest) Reg.EVENT_RING_TAIL 19 0 = ringNext s % 2 ^ 20 ∧
      rf (recordLeft s r rest) Reg.EVENT_RING_TAIL 31 31 = phaseNext s :=
  rf_ringTail _ (Nat.lt_of_le_of_lt (ringNext_le s) (by decide)) (phaseNext_lt s)

/-- Staging that is armed and not above its threshold raises nothing (R466). -/
theorem stageLook_quiet {s : State} (armed : s.ev.stageArmed = true)
    (low : s.ev.stage.length ≤ rf s Reg.EVENT_STAGE_THRESH 13 0) : stageLook s = s := by
  simp only [stageLook, armed, Nat.not_lt.mpr low, and_false, not_true, false_and, if_false]

/-- A bit of a field that starts at bit 0. -/
theorem rb_eq_testBit_rf (s : State) (a : Nat) {hi i : Nat} (inside : i ≤ hi) : rb s a i = (rf s a hi 0).testBit i := by
  rw [rf, testBit_fld, decide_eq_true (by omega), Bool.true_and, Nat.zero_add, rb]

/-- A record that asks for no vector leaves for a ring that asks for no tail write-back. -/
theorem writeRecord_taken {s : State} {r : Rec} {rest : List Rec} (staged : s.ev.stage = r :: rest)
    (cfg : rf s Reg.EVENT_CFG 1 0 = 1) (up : rb s Reg.HOST_LINK 0 = true) (room : ringIsFull s = false) (plain : r.vec = none)
    (low : rest.length ≤ rf s Reg.EVENT_STAGE_THRESH 13 0) (armed : s.ev.stageArmed = true) :
    writeRecord s = fullNoted (recordLeft s r rest) := by
  have enabled : rb s Reg.EVENT_CFG 0 = true := by rw [rb_eq_testBit_rf s _ (Nat.zero_le 1), cfg]; rfl
  have noWriteBack : rb (recordLeft s r rest) Reg.EVENT_CFG 1 = false := by
    rw [rb, rd_recordLeft_ne r rest (by decide), ← rb, rb_eq_testBit_rf s _ (Nat.le_refl 1), cfg]; rfl
  have quiet : stageLook (fullNoted (recordLeft s r rest)) = fullNoted (recordLeft s r rest) := by
    obtain ⟨b, ev⟩ := fullNoted_ev (recordLeft s r rest)
    refine stageLook_quiet (by rw [ev]; exact armed) ?_
    rw [rf, rd_fullNoted, rd_recordLeft_ne r rest (by decide), ev]
    exact low
  rw [writeRecord, staged]
  simp only [enabled, up, room, plain, Bool.not_true, Bool.or_self, Bool.false_eq_true, if_false]
  change stageLook (fullNoted (if rb (recordLeft s r rest) Reg.EVENT_CFG 1 then emit (recordLeft s r rest) _ else
    recordLeft s r rest)) = _
  rw [if_neg (Bool.eq_false_iff.mp noWriteBack), quiet]

/-- The oldest record waits, where there is one. -/
theorem writeRecord_waits {s : State} (h : s.ev.stage = [] ∨ rb s Reg.EVENT_CFG 0 = false ∨ rb s Reg.HOST_LINK 0 = false ∨
    ringIsFull s = true) : writeRecord s = s := by
  rw [writeRecord]
  split
  · rfl
  · rename_i staged
    rw [staged] at h
    rcases h with empty | off | down | full
    · cases empty
    · rw [off, Bool.not_false, Bool.true_or, Bool.true_or, if_pos rfl]
    · rw [down, Bool.not_false, Bool.or_true, Bool.true_or, if_pos rfl]
    · rw [full, Bool.or_true, if_pos rfl]

/-! ### EVENT_CFG and EVENT_RING_HEAD (R465, R469) -/

/-- The row of EVENT_CFG (R473). -/
def eventCfgRow : RegRow := { base := 0x2c00000, rw := 0x3 }

theorem findRow_eventCfg : findRow Reg.EVENT_CFG = some eventCfgRow := by decide

/-- The row of EVENT_RING_HEAD (R473). -/
def ringHeadRow : RegRow := { base := 0x2c00014, rw := 0xfffff }

theorem findRow_ringHead : findRow Reg.EVENT_RING_HEAD = some ringHeadRow := by decide

/-- The state in which the host's EVENT_CFG is stored. -/
def cfgStored (s : State) (v : BitVec 32) : State :=
  wr s Reg.EVENT_CFG (regMerge eventCfgRow (rd s Reg.EVENT_CFG) (v.setWidth 64))

/-- The state in which the host's EVENT_RING_HEAD is stored. -/
def headStored (s : State) (v : BitVec 32) : State :=
  wr s Reg.EVENT_RING_HEAD (regMerge ringHeadRow (rd s Reg.EVENT_RING_HEAD) (v.setWidth 64))

theorem regWrite_eventCfg (s : State) (v : BitVec 32) : regWrite s Reg.EVENT_CFG (v.setWidth 64) = cfgStored s v :=
  regWrite_row findRow_eventCfg (reservedBits_nil _ _ rfl)

theorem regWrite_ringHead (s : State) (v : BitVec 32) : regWrite s Reg.EVENT_RING_HEAD (v.setWidth 64) = headStored s v :=
  regWrite_row findRow_ringHead (reservedBits_nil _ _ rfl)

theorem rb_cfgStored_enabled (s : State) (v : BitVec 32) : rb (cfgStored s v) Reg.EVENT_CFG 0 = v.getLsbD 0 := by
  rw [← regWrite_eventCfg, ← BitVec.ofNat_toNat, getLsbD_eq_decide]
  exact rb_regWrite_rw s findRow_eventCfg (reservedBits_nil _ _ rfl) 0 (by decide) rfl rfl rfl

theorem rf_headStored (s : State) (v : BitVec 32) : rf (headStored s v) Reg.EVENT_RING_HEAD 19 0 = v.toNat % 2 ^ 20 := by
  rw [← regWrite_ringHead, ← BitVec.ofNat_toNat,
    rf_regWrite_rw s findRow_ringHead (reservedBits_nil _ _ rfl) 19 0 v.isLt (by decide) rfl rfl, Nat.pow_zero, Nat.div_one]

/-- Turning RING_EN on puts TAIL at HEAD, in phase 1. -/
theorem eventCfg_enables {s : State} {v : BitVec 32} (off : rb s Reg.EVENT_CFG 0 = false) (on : v.getLsbD 0 = true) :
    eventCfg s (v.setWidth 64) = wrn (cfgStored s v) Reg.EVENT_RING_TAIL (rf s Reg.EVENT_RING_HEAD 19 0 + 1 * 2 ^ 31) := by
  have head : rf (cfgStored s v) Reg.EVENT_RING_HEAD 19 0 = rf s Reg.EVENT_RING_HEAD 19 0 := by
    rw [rf, cfgStored, rd_wr_ne _ (by decide), rf]
  simp only [eventCfg, regWrite_eventCfg, rb_cfgStored_enabled, off, on, head, Bool.not_false, Bool.and_self, if_true, Nat.one_mul]

@[simp] theorem rd_ringUnfull (s : State) (a : Nat) : rd (ringUnfull s) a = rd s a := by
  rw [ringUnfull]; split <;> rfl

/-- A ring that was full is reported with its full ticks and the records staged, and its full ticks start again. -/
theorem ringUnfull_ev {s : State} (was : s.ev.ringFull = true) :
    (ringUnfull s).ev = { s.ev with
      occ := s.ev.occ ++ [⟨0xFC1, s.ev.fullTicks, s.ev.stage.length, tickNo s⟩], ringFull := false, fullTicks := 0 } := by
  rw [ringUnfull, if_pos was]; rfl

theorem eventHead_eq (s : State) (v : BitVec 32) :
    eventHead s (v.setWidth 64) = if ringIsFull (headStored s v) then headStored s v else ringUnfull (headStored s v) := by
  rw [eventHead, regWrite_ringHead]

@[simp] theorem rd_eventHead (s : State) (v : BitVec 32) (a : Nat) : rd (eventHead s (v.setWidth 64)) a = rd (headStored s v) a := by
  rw [eventHead_eq]
  split
  · rfl
  · exact rd_ringUnfull ..

theorem ringIsFull_eventHead (s : State) (v : BitVec 32) :
    ringIsFull (eventHead s (v.setWidth 64)) = ringIsFull (headStored s v) := by
  simp only [ringIsFull, ringSize, rf, rd_eventHead]

/-- Settles O28: the record that leaves, the records that wait, RING_EN turned on, and the host's HEAD. -/
theorem eventRingRules : Obligations.EventRingRules := by
  unfold Obligations.EventRingRules
  intro s
  refine ⟨fun r rest staged cfg up room plain low armed => ?leaves,
    fun waits => congrArg Host.Outcome.next (writeRecord_waits waits), fun v off on => ?enabled, fun v => ?head⟩
  case leaves =>
    obtain ⟨position, phase⟩ := rf_recordLeft_tail s r rest
    obtain ⟨b, ev⟩ := fullNoted_ev (recordLeft s r rest)
    refine ⟨_, congrArg Host.Outcome.next (writeRecord_taken staged cfg up room plain low armed), ?_, ?_, ?_, ?_, fun a other => ?_, ?_⟩
    · rw [ev]; rfl
    · rw [fullNoted_out]; rfl
    · rw [rf, rd_fullNoted]; exact position
    · rw [rf, rd_fullNoted]; exact phase
    · rw [rd_fullNoted, rd_recordLeft_ne r rest other]
    · rw [ev]; rfl
  case enabled =>
    have head : rf s Reg.EVENT_RING_HEAD 19 0 < 2 ^ 20 := fld_lt ..
    obtain ⟨position, phase⟩ := rf_ringTail (cfgStored s v) (Nat.lt_trans head (by decide)) (phase := 1) (by decide)
    refine ⟨_, congrArg Host.Outcome.next (eventCfg_enables off on), ?_, ?_, phase, ?_⟩
    · rw [rb, rd_wrn_ne _ (by decide), ← rb, rb_cfgStored_enabled, on]
    · rw [position, Nat.mod_eq_of_lt head]
    · rw [wrn_ev, cfgStored, wr_ev]
  case head =>
    refine ⟨_, rfl, ?_, fun was unfull => ?_, fun full => ?_, fun a other => ?_⟩
    · rw [rf, rd_eventHead]; exact rf_headStored s v
    · rw [ringIsFull_eventHead] at unfull
      rw [eventHead_eq, if_neg (Bool.eq_false_iff.mp unfull), ringUnfull_ev (s := headStored s v) was]
      exact ⟨rfl, rfl, rfl⟩
    · rw [ringIsFull_eventHead] at full
      rw [eventHead_eq, if_pos full]; rfl
    · rw [rd_eventHead]; exact rd_wr_ne _ other

end Sys2Proof.Machine
end

section
/-! SUPPORT. Events (16_events.md), continued: routes, software events and pending vectors (R464, R471, R472); the statement about them
settled with this. -/
namespace Sys2Proof.Machine

/-! ### Routes (R464) -/

/-- Reporting an access changes no other register. -/
theorem rd_accReport_ne {s : State} {a : Nat} (code bar : Nat) (write : Bool) (addr : Nat) (status : a ≠ Reg.HOST_ACC_STATUS)
    (place : a ≠ Reg.HOST_ACC_ADDR) : rd (accReport s code bar write addr) a = rd s a := by
  cases probe : s.host.probe with
  | none => exact (accReport_only code bar write addr probe).regs a (by simp [status, place])
  | some c => simp only [accReport, probe, rd_with]

theorem accReport_routeHold (s : State) (code bar : Nat) (write : Bool) (addr : Nat) :
    (accReport s code bar write addr).ev.routeHold = s.ev.routeHold := by
  cases probe : s.host.probe with
  | none =>
    have rest := congrArg (fun u : State => u.ev.routeHold) (accReport_only code bar write addr probe).rest
    exact rest
  | some c => simp only [accReport, probe]

theorem regWrite_routeHold (s : State) (a : Nat) (v : W64) : (regWrite s a v).ev.routeHold = s.ev.routeHold := by
  cases row : findRow a with
  | none => simp only [regWrite, row]
  | some r =>
    by_cases named : reservedBits r v = 0
    · rw [regWrite_row row named, wr_ev]
    · rw [regWrite_row_reserved row named, wr_ev, accReport_routeHold]

/-- A write of a register leaves the others as they are, beside those that report accesses. -/
theorem rd_regWrite_ne {s : State} {a b : Nat} (v : W64) (other : b ≠ a) (status : b ≠ Reg.HOST_ACC_STATUS)
    (place : b ≠ Reg.HOST_ACC_ADDR) : rd (regWrite s a v) b = rd s b := by
  cases row : findRow a with
  | none => simp only [regWrite, row]
  | some r =>
    by_cases named : reservedBits r v = 0
    · rw [regWrite_row row named, rd_wr_ne _ other]
    · rw [regWrite_row_reserved row named, rd_wr_ne _ other, rd_accReport_ne _ _ _ _ status place]

/-- A write stores the merge, whether or not it names a reserved value. -/
theorem rd_regWrite_same {s : State} {a : Nat} {r : RegRow} (v : W64) (row : findRow a = some r)
    (status : a ≠ Reg.HOST_ACC_STATUS) (place : a ≠ Reg.HOST_ACC_ADDR) : rd (regWrite s a v) a = regMerge r (rd s a) v := by
  by_cases named : reservedBits r v = 0
  · exact (regWrite_only row named).1
  · rw [regWrite_row_reserved row named, rd_wr_same, rd_accReport_ne _ _ _ _ status place]

/-- The routes lie below the HOST block. -/
theorem route_not_access (k : Fin 4096) :
    Reg.EVENT_SRCs_ROUTE k ≠ Reg.HOST_ACC_STATUS ∧ Reg.EVENT_SRCs_ROUTE k ≠ Reg.HOST_ACC_ADDR := by
  simp only [Reg.EVENT_SRCs_ROUTE, Reg.HOST_ACC_STATUS, Reg.HOST_ACC_ADDR]
  omega

/-- The route a source had before a write in tick n or later, where there was one. -/
def heldRoute (s : State) (n src : Nat) : Option W64 :=
  (s.ev.routeHold.find? (fun h => h.2.1 == src && decide (n ≤ h.1))).map (·.2.2)

theorem routeAt_eq (s : State) (n src : Nat) : routeAt s n src = (heldRoute s n src).getD (rd s (Reg.EVENT_SRCs_ROUTE src)) := by
  rw [routeAt, heldRoute]
  split <;> rename_i found <;> rw [found] <;> rfl

theorem heldRoute_none {s : State} {src : Nat} (free : s.ev.routeHold.all (fun h => h.2.1 != src) = true) (n : Nat) :
    heldRoute s n src = none := by
  rw [heldRoute, Option.map_eq_none_iff, List.find?_eq_none]
  intro h held
  have apart := List.all_eq_true.mp free h held
  simp only [bne_iff_ne] at apart
  simp [apart]

/-- A written route holds the old one in the present tick and in those before it, behind what is held already. -/
theorem heldRoute_eventRoute (s : State) (src : Nat) (v : W64) (n k : Nat) :
    heldRoute (eventRoute s src v) n k =
      (heldRoute s n k).or (if src = k ∧ n ≤ s.time.tick then some (rd s (Reg.EVENT_SRCs_ROUTE src)) else none) := by
  rw [heldRoute, eventRoute, regWrite_routeHold, List.find?_append, Option.map_or, heldRoute]
  by_cases own : src = k ∧ n ≤ s.time.tick <;> simp [own]

theorem rd_eventRoute_ne {s : State} {src : Nat} {k : Fin 4096} (v : W64) (other : (k : Nat) ≠ src) :
    rd (eventRoute s src v) (Reg.EVENT_SRCs_ROUTE k) = rd s (Reg.EVENT_SRCs_ROUTE k) := by
  obtain ⟨status, place⟩ := route_not_access k
  have apart : Reg.EVENT_SRCs_ROUTE k ≠ Reg.EVENT_SRCs_ROUTE src := by simp only [Reg.EVENT_SRCs_ROUTE]; omega
  rw [eventRoute, rd_regWrite_ne _ apart status place, rd_with]

/-! ### Software events (R472) -/

/-- A value written to EVENT_SOFT falls in the ticks after the one of the write. -/
theorem softDue_eventSoft (s : State) (v n : Nat) :
    (softDue (eventSoft s v) n).2 = (softDue s n).2 ++ if s.time.tick < n then [⟨0xFC3, v, 0, n⟩] else [] := by
  by_cases later : s.time.tick < n
  · simp [softDue, eventSoft, later]
  · simp [softDue, eventSoft, later]

/-! ### Pending vectors (R471) -/

/-- Vector v is pending, and its hold-off has passed since the event unit last raised it. -/
def VectorDue (s : State) (v : Nat) : Prop :=
  rb s (Reg.EVENT_VECv_PEND v) 0 = true ∧
    ∀ at_, tabFind s.ev.lastRaise v = some at_ → at_ + 1000 * rf s (Reg.EVENT_VECv_CFG v) 15 0 ≤ nowNs s

/-- The state in which the event unit's message of vector v has left. -/
def vectorSent (s : State) (v : Nat) : State :=
  let s' := wrn (pbaSet s v false) (Reg.EVENT_VECv_PEND v) 0
  emit { s' with ev := { s'.ev with lastRaise := tabSet s'.ev.lastRaise v (nowNs s') } } (msixOf s' v)

theorem eventVector_due {s : State} {v : Nat} (due : VectorDue s v) :
    eventVector s v = if vecMasked s v then pbaSet s v true else vectorSent s v := by
  obtain ⟨pending, passed⟩ := due
  cases last : tabFind s.ev.lastRaise v with
  | none => simp only [eventVector, last, pending, Bool.and_self, if_true]; rfl
  | some at_ =>
    have past : elapsed s at_ (rf s (Reg.EVENT_VECv_CFG v) 15 0 * 1000) = true :=
      elapsed_due (by rw [Nat.mul_comm]; exact passed at_ last)
    simp only [eventVector, last, pending, past, Bool.and_self, if_true]; rfl

theorem eventVector_waits {s : State} {v : Nat} (waits : ¬ VectorDue s v) : eventVector s v = s := by
  cases pending : rb s (Reg.EVENT_VECv_PEND v) 0 with
  | false => simp only [eventVector, pending, Bool.false_and, Bool.false_eq_true, if_false]
  | true =>
    cases last : tabFind s.ev.lastRaise v with
    | none => exact absurd ⟨pending, fun at_ found => by rw [last] at found; cases found⟩ waits
    | some at_ =>
      have within : elapsed s at_ (rf s (Reg.EVENT_VECv_CFG v) 15 0 * 1000) = false := by
        refine decide_eq_false fun past => waits ⟨pending, fun at' found => ?_⟩
        rw [last] at found
        obtain rfl := Option.some.inj found
        omega
      simp only [eventVector, last, within, Bool.and_false, Bool.false_eq_true, if_false]

/-- Clearing a vector leaves the MSI-X table as it was: the PBA lies behind the table, and the EVENT block before it. -/
theorem rd_unpended_table {s : State} (v : Fin 256) {a : Nat} (low : Reg.HOST_MSIXv_ADDR 0 ≤ a) (high : a < Reg.HOST_MSIX_PBAw 0) :
    rd (wrn (pbaSet s v false) (Reg.EVENT_VECv_PEND v) 0) a = rd s a := by
  simp only [Reg.HOST_MSIXv_ADDR, Reg.HOST_MSIX_PBAw] at low high
  rw [rd_wrn_ne, pbaSet, rd_wf_ne]
  · simp only [Reg.HOST_MSIX_PBAw]; omega
  · simp only [Reg.EVENT_VECv_PEND]; omega

theorem msixOf_vectorSent (s : State) (v : Fin 256) :
    msixOf (wrn (pbaSet s v false) (Reg.EVENT_VECv_PEND v) 0) v = msixOf s v := by
  have place := v.isLt
  rw [msixOf, rdn, rdn, rd_unpended_table v, rd_unpended_table v, msixOf, rdn, rdn]
  all_goals simp only [Reg.HOST_MSIXv_ADDR, Reg.HOST_MSIXv_DATA, Reg.HOST_MSIX_PBAw]; omega

/-- Settles O29: the written route and the routes beside it, the software event, and the vector that is due or waits. -/
theorem routesSoftVectors : Obligations.RoutesSoftVectors := by
  unfold Obligations.RoutesSoftVectors
  intro s
  refine ⟨fun src v free => ⟨_, rfl, fun n upTo => ?old, fun n later => ?new, fun r row => ?stored, fun k other n => ?others⟩,
    fun v => ⟨_, rfl, rfl, rfl, fun n upTo => ?now, fun n later => ?falls⟩,
    fun v => ⟨fun due unmasked => ?sent, fun due masked => ?pends, fun waits => congrArg Host.Outcome.next (eventVector_waits waits)⟩⟩
  case old => rw [routeAt_eq, heldRoute_eventRoute, heldRoute_none free, if_pos ⟨rfl, upTo⟩]; rfl
  case new => rw [routeAt_eq, heldRoute_eventRoute, heldRoute_none free, if_neg fun own => Nat.not_le.mpr later own.2]; rfl
  case stored =>
    obtain ⟨status, place⟩ := route_not_access src
    exact rd_regWrite_same _ row status place
  case others =>
    have apart : (k : Nat) ≠ src := fun same => other (Fin.ext same)
    rw [routeAt_eq, heldRoute_eventRoute, if_neg fun own => apart own.1.symm, Option.or_none, rd_eventRoute_ne _ apart, routeAt_eq]
  case now => rw [softDue_eventSoft, if_neg (Nat.not_lt.mpr upTo), List.append_nil]
  case falls => rw [softDue_eventSoft, if_pos later]
  case sent =>
    have raised : eventVector s v = vectorSent s v := (eventVector_due due).trans (if_neg (Bool.eq_false_iff.mp unmasked))
    refine ⟨_, congrArg Host.Outcome.next raised, ?_, ?_, ?_⟩
    · exact congrArg (· :: s.out) (msixOf_vectorSent s v)
    · rw [vectorSent, rb, rd_emit, rd_with, rd_wrn_same]; rfl
    · exact (tabFind_tabSet ..).trans (if_pos rfl)
  case pends =>
    have marked : eventVector s v = pbaSet s v true := (eventVector_due due).trans (if_pos masked)
    have bit : (v : Nat) % 64 < 64 := Nat.mod_lt _ (by decide)
    refine ⟨_, congrArg Host.Outcome.next marked, rfl, ?_, ?_, rfl⟩
    · rw [pbaSet, rb_wf_same, if_pos ⟨Nat.le_refl _, Nat.le_refl _, bit⟩, Nat.sub_self]; rfl
    · have apart : Reg.EVENT_VECv_PEND v ≠ Reg.HOST_MSIX_PBAw (v / 64) := by
        simp only [Reg.EVENT_VECv_PEND, Reg.HOST_MSIX_PBAw]; omega
      rw [pbaSet, rb_wf_ne _ _ _ _ apart]; exact due.1

end Sys2Proof.Machine
end

section
/-! SUPPORT. Counters, bandwidth windows and the sample ring (17_counters.md R478, R481, R482, R484, R485); the statements about
them settled with these. -/
namespace Sys2Proof.Machine

/-! ### PERF_CMD and counter control (R478, R479) -/

/-- Bit 0 asks for the snapshot alone. -/
theorem perfCmd_snap (s : State) : perfCmd s 1 = { s with perf := { s.perf with snap := true } } := by
  simp [perfCmd]

/-- Bit 1 asks for the clearing alone. -/
theorem perfCmd_clear (s : State) : perfCmd s 2 = { s with perf := { s.perf with clear := true } } := by
  simp [perfCmd]

/-- The state in which the merge of v stands in PERF_CNTi_CTL, and the old control is held for the tick now open. -/
def controlStored (s : State) (i : Nat) (r : RegRow) (v : W64) : State :=
  let held := s.perf.ctlHold ++ [(s.time.tick, i, rd s (Reg.PERF_CNTi_CTL i))]
  wr { s with perf := { s.perf with ctlHold := held } } (Reg.PERF_CNTi_CTL i) (regMerge r (rd s (Reg.PERF_CNTi_CTL i)) v)

/-- A defined selector is stored as it is written; counter 1,023 differs in CHAIN. -/
theorem counterCtl_defined {s : State} {i : Nat} {r : RegRow} {v : W64} (row : findRow (Reg.PERF_CNTi_CTL i) = some r)
    (named : reservedBits r v = 0) (below : i < 1023) (defined : selOccurrence (fld v 15 0) || selCondition (fld v 15 0)) :
    counterCtl s i v = controlStored s i r v := by
  simp only [counterCtl, defined, if_true, if_neg (Nat.ne_of_lt below), regWrite_row row named, controlStored, rd_with]

/-- The old control stays in force up to the tick now open, where no older one is held. -/
theorem ctlAt_controlStored {s : State} {i : Nat} (free : s.perf.ctlHold.all (fun h => h.2.1 != i) = true) (r : RegRow)
    (v : W64) (n : Nat) : ctlAt (controlStored s i r v) n i =
      if n ≤ s.time.tick then rd s (Reg.PERF_CNTi_CTL i) else rd (controlStored s i r v) (Reg.PERF_CNTi_CTL i) := by
  have unheld : s.perf.ctlHold.find? (fun h => h.2.1 == i && decide (n ≤ h.1)) = none := by
    refine List.find?_eq_none.mpr fun h held => ?_
    have apart := List.all_eq_true.mp free h held
    simp only [bne_iff_ne] at apart
    simp [apart]
  have found : (controlStored s i r v).perf.ctlHold.find? (fun h => h.2.1 == i && decide (n ≤ h.1)) =
      if n ≤ s.time.tick then some (s.time.tick, i, rd s (Reg.PERF_CNTi_CTL i)) else none := by
    rw [controlStored, wr_perf, List.find?_append, unheld, Option.none_or]
    by_cases upTo : n ≤ s.time.tick <;> simp [upTo]
  rw [ctlAt, found]
  by_cases upTo : n ≤ s.time.tick
  · rw [if_pos upTo, if_pos upTo]
  · rw [if_neg upTo, if_neg upTo]

/-- The selector of a written dword. -/
theorem fld_dword_low (v : BitVec 32) : fld (v.setWidth 64) 15 0 = v.toNat % 2 ^ 16 := by
  rw [fld, BitVec.toNat_setWidth_of_le (by decide), natFld_eq_div_mod, Nat.pow_zero, Nat.div_one]

/-! ### Bandwidth windows (R481, R482) -/

/-- The registers of port p's result, in the order of the statement. -/
def bwRegs (p : Nat) : List Nat :=
  [Reg.PERF_BWp_RX_BYTES p, Reg.PERF_BWp_TX_BYTES p, Reg.PERF_BWp_RX_FRAMES p, Reg.PERF_BWp_TX_FRAMES p,
    Reg.PERF_BWp_END_NS p, Reg.PERF_BWp_FLAGS p, Reg.PERF_BWp_WINDOW_NO p]

/-- The result of port p for the window that ends, register by register. -/
def bwValues (asleep : Nat → Bool) (s : State) (p : Nat) : List Nat :=
  let c := if asleep (p / 4) then {} else tabGet s.perf.bw p {}
  let w := rdn s Reg.PERF_BW_WINDOW
  [c.rxBytes % 2 ^ 64, c.txBytes % 2 ^ 64, c.rxFrames % 2 ^ 64, c.txFrames % 2 ^ 64, timeN s / w * w % 2 ^ 64,
    if s.perf.stepped then 1 else 0, (rdn s (Reg.PERF_BWp_WINDOW_NO p) + 1) % 2 ^ 32]

/-- What port p's result depends on, and the result. -/
def bwView (p : Nat) (s : State) : List Nat × Nat × Perf × TimeUnit :=
  ((bwRegs p).map (rdn s), rdn s Reg.PERF_BW_WINDOW, s.perf, s.time)

theorem bwRegs_block {p a : Nat} (own : a ∈ bwRegs p) : Reg.PERF_BWp_CFG p < a ∧ a < Reg.PERF_BWp_CFG (p + 1) := by
  simp only [bwRegs, List.mem_cons, List.not_mem_nil, or_false, Reg.PERF_BWp_RX_BYTES, Reg.PERF_BWp_TX_BYTES,
    Reg.PERF_BWp_RX_FRAMES, Reg.PERF_BWp_TX_FRAMES, Reg.PERF_BWp_END_NS, Reg.PERF_BWp_FLAGS, Reg.PERF_BWp_WINDOW_NO] at own
  simp only [Reg.PERF_BWp_CFG]
  omega

theorem bwRegs_apart {p m a : Nat} (other : m ≠ p) (own : a ∈ bwRegs p) : a ∉ bwRegs m := by
  intro also
  obtain ⟨low, high⟩ := bwRegs_block own
  obtain ⟨low', high'⟩ := bwRegs_block also
  simp only [Reg.PERF_BWp_CFG] at low high low' high'
  omega

theorem window_notMem_bwRegs (p : Nat) : Reg.PERF_BW_WINDOW ∉ bwRegs p := fun own => by
  obtain ⟨low, -⟩ := bwRegs_block own
  simp only [Reg.PERF_BWp_CFG, Reg.PERF_BW_WINDOW] at low
  omega

theorem Only.perf {s t : State} {as : List Nat} {occ : List (Nat × Nat × Nat)} {outs : List Out} (only : Only s t as occ outs) :
    t.perf = s.perf := by
  have rest := congrArg State.perf only.rest
  exact rest

theorem bwResult_only (asleep : Nat → Bool) (s : State) (p : Nat) : Only s (bwResult asleep s p) (bwRegs p) [] [] := by
  have same : Only s s (bwRegs p) [] [] := (Only.refl s).mono (by simp)
  exact (((((((same.wr _ (by simp [bwRegs])).wr _ (by simp [bwRegs])).wr _ (by simp [bwRegs])).wr _ (by simp [bwRegs])).wr _
    (by simp [bwRegs])).wr _ (by simp [bwRegs])).wr _ (by simp [bwRegs]))

/-- The seven results lie apart, so each reads as it was written. -/
theorem map_bwResult (asleep : Nat → Bool) (s : State) (p : Nat) :
    (bwRegs p).map (rdn (bwResult asleep s p)) = bwValues asleep s p := by
  have stepped : (if s.perf.stepped then 1 else 0) < 2 ^ 64 := by split <;> decide
  have number : (rdn s (Reg.PERF_BWp_WINDOW_NO p) + 1) % 2 ^ 32 < 2 ^ 64 :=
    Nat.lt_of_lt_of_le (Nat.mod_lt _ (by decide)) (by decide)
  simpa [bwRegs, bwValues, bwResult, rdn, wrn, rd_wr, timeN, b2n, Reg.PERF_BWp_RX_BYTES, Reg.PERF_BWp_TX_BYTES,
    Reg.PERF_BWp_RX_FRAMES, Reg.PERF_BWp_TX_FRAMES, Reg.PERF_BWp_END_NS, Reg.PERF_BWp_FLAGS, Reg.PERF_BWp_WINDOW_NO]
    using And.intro stepped number

theorem bwValues_congr {p : Nat} {s u : State} (asleep : Nat → Bool) (same : bwView p u = bwView p s) :
    bwValues asleep u p = bwValues asleep s p := by
  simp only [bwView, bwRegs, List.map_cons, Prod.mk.injEq, List.cons.injEq] at same
  obtain ⟨⟨-, -, -, -, -, -, number, -⟩, window, perf, time⟩ := same
  simp only [bwValues, timeN, number, window, perf, time]

/-- The result of one port is nothing to another. -/
theorem bwView_bwResult_ne {p m : Nat} (asleep : Nat → Bool) (other : m ≠ p) (s : State) :
    bwView p (bwResult asleep s m) = bwView p s := by
  have only := bwResult_only asleep s m
  have results : (bwRegs p).map (rdn (bwResult asleep s m)) = (bwRegs p).map (rdn s) :=
    List.map_congr_left fun a own => congrArg BitVec.toNat (only.regs a (bwRegs_apart other own))
  have window : rdn (bwResult asleep s m) Reg.PERF_BW_WINDOW = rdn s Reg.PERF_BW_WINDOW :=
    congrArg BitVec.toNat (only.regs _ (window_notMem_bwRegs m))
  rw [bwView, results, window, only.perf, only.time, bwView]

/-- The state in which every port's result has been replaced. -/
def bwReplaced (asleep : Nat → Bool) (s : State) : State := (List.range 64).foldl (bwResult asleep) s

theorem map_bwReplaced (asleep : Nat → Bool) (s : State) {p : Nat} (inside : p < 64) :
    (bwRegs p).map (rdn (bwReplaced asleep s)) = bwValues asleep s p := by
  obtain ⟨u, before, after⟩ := foldl_range_view (bwView p) (f := bwResult asleep)
    (fun m other u => bwView_bwResult_ne asleep other u) inside s
  calc (bwRegs p).map (rdn (bwReplaced asleep s))
      = (bwRegs p).map (rdn (bwResult asleep u p)) := congrArg Prod.fst after
    _ = bwValues asleep u p := map_bwResult asleep u p
    _ = bwValues asleep s p := bwValues_congr asleep before

theorem bwWindowEnd_ended {asleep : Nat → Bool} {s : State} (ended : s.perf.bwIndex < timeN s / rdn s Reg.PERF_BW_WINDOW) :
    bwWindowEnd asleep s = { bwReplaced asleep s with perf :=
      { (bwReplaced asleep s).perf with bw := [], stepped := false, bwIndex := timeN s / rdn s Reg.PERF_BW_WINDOW } } :=
  if_pos ended

theorem bwWindowEnd_early {asleep : Nat → Bool} {s : State} (early : timeN s / rdn s Reg.PERF_BW_WINDOW ≤ s.perf.bwIndex) :
    bwWindowEnd asleep s = { s with perf := { s.perf with bwIndex := timeN s / rdn s Reg.PERF_BW_WINDOW } } :=
  if_neg (Nat.not_lt.mpr early)

theorem accReport_time (s : State) (code bar : Nat) (write : Bool) (addr : Nat) :
    (accReport s code bar write addr).time = s.time := by
  cases probe : s.host.probe with
  | none => exact (accReport_only code bar write addr probe).time
  | some c => simp only [accReport, probe]

theorem regWrite_time (s : State) (a : Nat) (v : W64) : (regWrite s a v).time = s.time := by
  cases row : findRow a with
  | none => simp only [regWrite, row]
  | some r =>
    by_cases named : reservedBits r v = 0
    · exact (regWrite_only row named).2.time
    · rw [regWrite_row_reserved row named, wr_time, accReport_time]

/-- The windows begin again under the window length that is stored. -/
theorem bwWindowWrite_spec (s : State) (v : W64) : let t := bwWindowWrite s v
    t.perf.bw = [] ∧ t.perf.stepped = false ∧ t.perf.bwIndex = timeN s / rdn t Reg.PERF_BW_WINDOW ∧
      ⟨0xFF2, 64, rdn t Reg.PERF_BW_WINDOW, tickNo s⟩ ∈ t.ev.occ := by
  have time : (regWrite s Reg.PERF_BW_WINDOW v).time = s.time := regWrite_time ..
  refine ⟨rfl, rfl, ?_, ?_⟩
  · rw [timeN, ← time]; rfl
  · rw [bwWindowWrite, raise_occ, tickNo, tickNo, ← time]
    exact List.mem_append_right _ List.mem_cons_self

/-- Settles O30: the commands that wait for the tick, the control in force, and the window that ends or is discarded. -/
theorem countersAndWindows : Obligations.CountersAndWindows := by
  unfold Obligations.CountersAndWindows
  intro s
  refine ⟨?snap, ?clear, fun k v => ⟨_, rfl, ?value, fun j other => ?values, rfl⟩,
    fun k v r row below named defined free => ?control,
    ⟨fun ended => ⟨_, congrArg Host.Outcome.next (bwWindowEnd_ended ended), rfl, rfl, fun p inside => ?results⟩,
      fun early => ⟨_, congrArg Host.Outcome.next (bwWindowEnd_early early), rfl, rfl⟩⟩,
    fun v => ⟨_, rfl, bwWindowWrite_spec s _⟩⟩
  case snap => exact congrArg Host.Outcome.next (perfCmd_snap s)
  case clear => exact congrArg Host.Outcome.next (perfCmd_clear s)
  case value => exact (tabFind_tabSet ..).trans (if_pos rfl)
  case values => exact (tabFind_tabSet ..).trans (if_neg other.symm)
  case control =>
    have stored := counterCtl_defined (s := s) row named below (by rw [fld_dword_low, Bool.or_eq_true]; exact defined)
    have inForce := ctlAt_controlStored free r (v.setWidth 64)
    exact ⟨_, congrArg Host.Outcome.next stored, rd_wr_same .., fun n upTo => (inForce n).trans (if_pos upTo),
      fun n later => (inForce n).trans (if_neg (Nat.not_le.mpr later)), fun a other => rd_wr_ne _ other⟩
  case results =>
    have shown := map_bwReplaced (rb s Reg.POWER_ASLEEP) s inside
    simpa only [bwRegs, bwValues, List.map_cons, List.map_nil, List.cons.injEq, and_true, rdn, rd_with] using shown

/-! ### The sample ring (R484, R485) -/

/-- The entry after TAIL, modulo the ring's size. -/
def sampleNext (s : State) : Nat := (rf s Reg.PERF_PS_RING_TAIL 19 0 + 1) % 2 ^ rf s Reg.PERF_PS_RING_SIZE 4 0

/-- PHASE inverts where TAIL wraps to 0. -/
def samplePhaseNext (s : State) : Nat :=
  if sampleNext s = 0 then 1 - rf s Reg.PERF_PS_RING_TAIL 31 31 else rf s Reg.PERF_PS_RING_TAIL 31 31

/-- The sample as it leaves for the entry at TAIL. -/
def sampleWrite (s : State) (r : Sample) : Out :=
  .hostWrite (rdn s Reg.PERF_PS_RING_BASE + 32 * rf s Reg.PERF_PS_RING_TAIL 19 0)
    (sampleBytes r (rf s Reg.PERF_PS_RING_TAIL 31 31))

/-- The state in which sample r has left and TAIL has advanced. -/
def sampleSent (s : State) (r : Sample) : State :=
  wrn (emit s (sampleWrite s r)) Reg.PERF_PS_RING_TAIL (sampleNext s + samplePhaseNext s * 2 ^ 31)

/-- The ring is full, or the link is down. -/
def SampleHeld (s : State) : Prop :=
  sampleNext s = rf s Reg.PERF_PS_RING_HEAD 19 0 % 2 ^ rf s Reg.PERF_PS_RING_SIZE 4 0 ∨ rb s Reg.HOST_LINK 0 = false

/-- What a tail write-back leaves the device, where an address is set for it. -/
def tailBack (s t : State) : List Out :=
  if rdn s Reg.PERF_PS_TAIL_WB_ADDR = 0 then []
  else [.hostWrite (rdn s Reg.PERF_PS_TAIL_WB_ADDR) (toLE 4 (rdn t Reg.PERF_PS_RING_TAIL))]

theorem writeSample_held {s : State} (held : SampleHeld s) : writeSample s = s := by
  rw [writeSample]
  split
  · rfl
  · exact if_pos held

theorem rdn_sampleSent (s : State) (r : Sample) : rdn (sampleSent s r) Reg.PERF_PS_RING_TAIL =
    (sampleNext s + samplePhaseNext s * 2 ^ 31) % 2 ^ 64 := rdn_wrn_same ..

theorem sampleSent_only (s : State) (r : Sample) :
    Only s (sampleSent s r) [Reg.PERF_PS_RING_TAIL] [] [sampleWrite s r] :=
  Only.wr _ (((Only.refl s).mono (by simp)).emit _) (by simp)

/-- The oldest sample leaves, and behind it the tail write-back. -/
theorem writeSample_sent {s : State} {r : Sample} {rest : List Sample} (oldest : s.perf.psBuf = r :: rest)
    (free : ¬ SampleHeld s) : writeSample s = { sampleSent s r with
      perf := { s.perf with psBuf := rest }
      out := (tailBack s (sampleSent s r)).reverse ++ (sampleSent s r).out } := by
  have address : rdn (sampleSent s r) Reg.PERF_PS_TAIL_WB_ADDR = rdn s Reg.PERF_PS_TAIL_WB_ADDR :=
    congrArg BitVec.toNat ((sampleSent_only s r).regs _ (by decide))
  rw [writeSample, oldest]
  refine (if_neg free).trans ?_
  by_cases unset : rdn s Reg.PERF_PS_TAIL_WB_ADDR = 0
  · refine (if_pos (address.trans unset)).trans ?_
    rw [tailBack, if_pos unset]; rfl
  · refine (if_neg fun zero => unset (address.symm.trans zero)).trans ?_
    rw [tailBack, if_neg unset, ← address]; rfl

theorem Only.outs {s t : State} {as : List Nat} {occ : List (Nat × Nat × Nat)} {outs : List Out} (only : Only s t as occ outs)
    (more : List Out) : Only s { t with out := more.reverse ++ t.out } as occ (outs ++ more) := by
  refine ⟨only.regs, only.occ, ?_, only.rest⟩
  simp only [only.out, List.reverse_append, List.append_assoc]

/-- Settles O31: the sample that leaves with the write-back behind it, and the ring that holds it. -/
theorem sampleRing : Obligations.SampleRing := by
  unfold Obligations.SampleRing
  intro s r rest oldest size tail phase next
  refine ⟨fun room up => ?sent, fun held => congrArg Host.Outcome.next (writeSample_held held)⟩
  case sent =>
    have free : ¬ SampleHeld s := fun held => held.elim room fun down => Bool.eq_false_iff.mp down up
    exact ⟨_, congrArg Host.Outcome.next (writeSample_sent oldest free), rfl, rdn_sampleSent s r,
      (sampleSent_only s r).outs (tailBack s (sampleSent s r))⟩

end Sys2Proof.Machine
end

section
/-! SUPPORT. Start-up (20_startup.md): every command answers a next state, what a step keeps of the fuses, the resets, the release of
reset, the fuse requests and the monitored temperature; the statements about them settled with these. -/
namespace Sys2Proof.Machine

/-! ### Commands and steps -/

/-- No command faults or is refused; the one that branches before it answers is FORCED_RECAL_COMPLETE. -/
theorem exec_next (c : Instr) (s : State) : ∃ t, exec c s = .next t := by
  cases c
  case forcedRecalComplete margins =>
    rw [exec, execForcedRecalComplete]
    split <;> exact ⟨_, rfl⟩
  all_goals exact ⟨_, rfl⟩

/-- Settles O2: the answer exists by `exec_next`, and `exec_kept` says what it keeps. -/
theorem commandsComplete : Obligations.CommandsComplete := by
  unfold Obligations.CommandsComplete
  intro c s
  obtain ⟨t, answer⟩ := exec_next c s
  have kept := exec_kept answer
  exact ⟨t, answer, kept.queue, kept.serial, kept.grade⟩

/-- Settles O5: a step is a command on the state with the queue's rest, which has the same fuses, or one cycle of the clock. -/
theorem stepKeepsFuses : Obligations.StepKeepsFuses := by
  unfold Obligations.StepKeepsFuses
  intro s t ok e
  rw [step] at e
  split at e
  case h_1 c rest _ => exact (exec_kept (s := { s with pending := rest }) e).fuses ok
  case h_2 =>
    obtain rfl := Host.Outcome.next.inj e
    exact (timeCycle_kept s (.refl s)).fuses ok

/-! ### Resets (R526, R536, R537) -/

/-- Filtering by key leaves what is under the keys that pass. -/
theorem tabFind_filter_key {α : Type} (keep : Nat → Bool) (a : Nat) :
    ∀ l : List (Nat × α), tabFind (l.filter (fun e => keep e.1)) a = if keep a then tabFind l a else none
  | [] => by simp [tabFind]
  | (k, v) :: t => by
    rw [List.filter_cons]
    by_cases same : k = a
    · subst same
      by_cases passes : keep k = true <;> simp [passes, tabFind, tabFind_filter_key keep k t]
    · by_cases passes : keep k = true <;> simp [passes, tabFind, same, tabFind_filter_key keep a t]

/-- What the end of a frame in transmission does not touch of what a chip reset keeps. -/
def resetKeeps (s : State) : List Instr × Nat × TwinUnit × ChipUnit := (s.pending, s.free, s.twin, s.chip)

theorem resetKeeps_copyGone (s : State) (n : Nat) : resetKeeps (copyGone s n) = resetKeeps s :=
  (congrArg resetKeeps (withoutCopies_copyGone s n) :)

theorem resetKeeps_cutOff (s : State) (p sent : Nat) : resetKeeps (cutOff s p sent) = resetKeeps s := by
  unfold cutOff
  extract_lets x u
  have current : resetKeeps u = resetKeeps s := by
    unfold u
    split
    · rfl
    · split
      · rfl
      · rw [resetKeeps_copyGone]; rfl
  split
  · exact current
  · rw [resetKeeps_copyGone]; exact current

/-- The frames in transmission are cut off (R537). -/
def allCutOff (s : State) (sent : List Nat) : State := (List.range 64).foldl (fun s p => cutOff s p (sent.getD p 0)) s

theorem resetKeeps_allCutOff (s : State) (sent : List Nat) : resetKeeps (allCutOff s sent) = resetKeeps s :=
  foldl_view resetKeeps _ s fun p _ u => resetKeeps_cutOff u p _

theorem rd_allCutOff_chip (s : State) (sent : List Nat) {a : Nat} (chip : a < 0x100000) : rd (allCutOff s sent) a = rd s a := by
  refine foldl_view (rd · a) _ s fun p _ u => rd_cutOff ?_ _
  simp only [lossRegs, Reg.PORT_LANEl_CNTk, Reg.EGRESS_PORTp_DOWN_DROPS, List.mem_cons, List.not_mem_nil, or_false, not_or]
  omega

/-- CHIP_SCRATCH0 to 3 are what a chip reset keeps of the registers (R536). -/
def isScratch (a : Nat) : Bool := decide (Reg.CHIP_SCRATCHn 0 ≤ a ∧ a < Reg.CHIP_SCRATCHn 4)

/-- The device after a chip reset, from what the cut left. -/
def chipCleared (s : State) (pwrgood : Bool) : State :=
  let t := clearBlocks s ((Reg.CHIP_RST_CAUSE, 2) :: s.regs.filter (fun r => isScratch r.1))
  { t with chip := { t.chip with pwrgood := pwrgood } }

theorem chipReset_eq (s : State) (pwrgood : Bool) (sent : List Nat) :
    chipReset s pwrgood sent = chipCleared (allCutOff s sent) pwrgood := by
  unfold chipReset chipCleared isScratch
  rw [← allCutOff]

theorem rd_chipCleared_ne (s : State) (pwrgood : Bool) {a : Nat} (other : a ≠ Reg.CHIP_RST_CAUSE) :
    rd (chipCleared s pwrgood) a = if isScratch a then rd s a else regReset a := by
  have file : (chipCleared s pwrgood).regs = (Reg.CHIP_RST_CAUSE, 2) :: s.regs.filter (fun r => isScratch r.1) := rfl
  rw [rd, file, tabFind, if_neg other.symm, tabFind_filter_key]
  split
  · rfl
  · rfl

theorem isScratch_iff (a : Nat) : isScratch a = true ↔ Reg.CHIP_SCRATCHn 0 ≤ a ∧ a < Reg.CHIP_SCRATCHn 4 := decide_eq_true_iff

/-- CHIP_SCRATCH0 to 3 read as before, the other registers as after power-on. -/
theorem rd_chipReset_ne (s : State) (pwrgood : Bool) (sent : List Nat) {a : Nat} (other : a ≠ Reg.CHIP_RST_CAUSE) :
    rd (chipReset s pwrgood sent) a = if isScratch a then rd s a else regReset a := by
  rw [chipReset_eq, rd_chipCleared_ne _ _ other]
  by_cases scratch : isScratch a = true
  · have chip := (isScratch_iff a).mp scratch
    simp only [Reg.CHIP_SCRATCHn] at chip
    rw [if_pos scratch, if_pos scratch, rd_allCutOff_chip s sent (by omega)]
  · rw [if_neg scratch, if_neg scratch]

theorem rd_powerOn_ne (s : State) {a : Nat} (other : a ≠ Reg.CHIP_RST_CAUSE) : rd (powerOn s) a = regReset a := by
  have file : (powerOn s).regs = [(Reg.CHIP_RST_CAUSE, 1)] := rfl
  rw [rd, file, tabFind, if_neg other.symm, tabFind, Option.getD_none]

/-- The units of the block after a chip reset, but for the registers, the outputs and the chip's own unit. -/
theorem chipReset_units (s : State) (pwrgood : Bool) (sent : List Nat) :
    { chipReset s pwrgood sent with regs := [(Reg.CHIP_RST_CAUSE, 1)], out := [], chip := {} } =
      { State.reset with pending := s.pending, free := s.free, twin := { fenceIn := s.twin.fenceIn } } := by
  have kept := resetKeeps_allCutOff s sent
  simp only [resetKeeps, Prod.mk.injEq] at kept
  obtain ⟨queue, free, twin, -⟩ := kept
  rw [chipReset_eq, ← queue, ← free, ← twin]
  generalize allCutOff s sent = u
  rfl

theorem chipReset_chip (s : State) (pwrgood : Bool) (sent : List Nat) :
    (chipReset s pwrgood sent).chip = { s.chip with rstN := false, tjArmed := true, pwrgood := pwrgood } := by
  have kept : (allCutOff s sent).chip = s.chip := by
    have kept := resetKeeps_allCutOff s sent
    simp only [resetKeeps, Prod.mk.injEq] at kept
    obtain ⟨-, -, -, chip⟩ := kept
    exact chip
  rw [chipReset_eq, ← kept]
  generalize allCutOff s sent = u
  rfl

/-- A reset of the host interface leaves its registers at their reset values but for those of R526. -/
theorem rd_resetHost (s : State) {a : Nat} (host : Reg.HOST_CFG ≤ a) (reset : hostKeeps a = false) :
    rd (resetHost s) a = regReset a := by
  have file : (resetHost s).regs = s.regs.filter (fun r => decide (r.1 < Reg.HOST_CFG) || hostKeeps r.1) := rfl
  rw [rd, file, tabFind_filter_key (fun k => decide (k < Reg.HOST_CFG) || hostKeeps k), reset,
    decide_eq_false (Nat.not_lt.mpr host)]
  rfl

/-- Settles O18: each reset by the register file that it leaves. -/
theorem resetsClear : Obligations.ResetsClear := by
  unfold Obligations.ResetsClear
  intro s
  refine ⟨⟨powerOn s, rfl, rfl, fun a other => rd_powerOn_ne s other, rfl⟩, fun pwrgood sent => ?chip, ?pcie, ⟨_, rfl, rfl⟩⟩
  case chip =>
    refine ⟨chipReset s pwrgood sent, rfl, rfl, fun n four => ?_, fun a other outside => ?_, chipReset_chip s pwrgood sent,
      chipReset_units s pwrgood sent⟩
    · have scratch : isScratch (Reg.CHIP_SCRATCHn n) = true :=
        (isScratch_iff _).mpr (by simp only [Reg.CHIP_SCRATCHn]; omega)
      rw [rd_chipReset_ne s pwrgood sent (by simp only [Reg.CHIP_SCRATCHn, Reg.CHIP_RST_CAUSE]; omega), if_pos scratch]
    · have plain : ¬ isScratch a = true := fun scratch => by have := (isScratch_iff a).mp scratch; omega
      rw [rd_chipReset_ne s pwrgood sent other, if_neg plain]
  case pcie =>
    refine ⟨_, rfl, ?_, ?_, fun a host reset => ?_⟩
    · rw [rb_wf_same]; rfl
    · rw [rdn, rd_wf_ne _ _ _ (by decide), ← rdn, linkLost, rdn_wrn_same, Nat.zero_mod]
    · have link : a ≠ Reg.HOST_LINK := fun e => by rw [e] at reset; exact absurd reset (by decide)
      have cause : a ≠ Reg.CHIP_RST_CAUSE := fun e => by rw [e] at host; exact absurd host (by decide)
      rw [rd_wf_ne _ _ _ cause, linkLost, rd_wrn_ne _ link, rd_resetHost _ host reset]

/-! ### Release of reset (R542) -/

/-- Region n takes the code that its sweep finds (R72). -/
def regionBooted (margins : List (List Nat)) (s : State) (n : Nat) : State :=
  wf (sweptCode s (margins.getD n [])).2 (Reg.CORE_REGn_STATUS n) 5 0 (sweptCode s (margins.getD n [])).1

/-- Fuses and strap are read and the PLL locks, before the regions are calibrated. -/
def strapsRead (s : State) (bootHost tref : Bool) : State :=
  let s := { s with chip := { s.chip with rstN := true, pwrgood := true } }
  let s := wrn (wrn (wrn s Reg.CHIP_ORDER (s.chip.grade % 2)) Reg.CHIP_SERIAL s.chip.serial) Reg.CHIP_STRAPS (b2n bootHost)
  if tref then wf s Reg.TIME_STATUS 1 0 3 else s

theorem resetRelease_held {s : State} (held : s.chip.rstN = false) (bootHost tref : Bool) (margins : List (List Nat)) :
    resetRelease s bootHost tref margins = (List.range 101).foldl (regionBooted margins) (strapsRead s bootHost tref) := by
  rw [resetRelease, held]
  rfl

theorem rd_sweptCode (s : State) (margins : List Nat) (a : Nat) : rd (sweptCode s margins).2 a = rd s a := by
  rw [sweptCode]
  split <;> rfl

theorem sweptCode_chip (s : State) (margins : List Nat) : (sweptCode s margins).2.chip = s.chip := by
  rw [sweptCode]
  split <;> rfl

/-- A sweep that finds a code changes nothing. -/
theorem sweptCode_found {s : State} {margins : List Nat} {c : Nat}
    (found : (margins.take 64).findIdx? (fun m => decide (rf s Reg.CORE_CFG 3 0 ≤ m)) = some c) : sweptCode s margins = (c, s) := by
  rw [sweptCode, found]

theorem rd_regionBooted_ne {margins : List (List Nat)} {s : State} {n a : Nat} (other : a ≠ Reg.CORE_REGn_STATUS n) :
    rd (regionBooted margins s n) a = rd s a := by
  rw [regionBooted, rd_wf_ne _ _ _ other, rd_sweptCode]

theorem cfg_ne_regionStatus (n : Nat) : Reg.CORE_CFG ≠ Reg.CORE_REGn_STATUS n := by
  simp only [Reg.CORE_CFG, Reg.CORE_REGn_STATUS]; omega

theorem regionStatus_inj {m n : Nat} (h : Reg.CORE_REGn_STATUS m = Reg.CORE_REGn_STATUS n) : m = n := by
  simp only [Reg.CORE_REGn_STATUS] at h; omega

section
variable (s : State) (bootHost tref : Bool) (margins : List (List Nat))

/-- Every region booted after the straps. -/
def regionsBooted : State := (List.range 101).foldl (regionBooted margins) (strapsRead s bootHost tref)

theorem rd_regionsBooted {a : Nat} (other : ∀ n < 101, a ≠ Reg.CORE_REGn_STATUS n) :
    rd (regionsBooted s bootHost tref margins) a = rd (strapsRead s bootHost tref) a :=
  foldl_view (rd · a) _ _ fun n hn _ => rd_regionBooted_ne (other n (List.mem_range.mp hn))

theorem regionsBooted_chip : (regionsBooted s bootHost tref margins).chip = { s.chip with rstN := true, pwrgood := true } := by
  have straps : (strapsRead s bootHost tref).chip = { s.chip with rstN := true, pwrgood := true } := by
    unfold strapsRead; cases tref <;> rfl
  rw [← straps]
  exact foldl_view State.chip _ _ fun n _ u => sweptCode_chip u _

theorem rd_strapsRead {a : Nat} (other : a ∉ [Reg.CHIP_STRAPS, Reg.CHIP_ORDER, Reg.CHIP_SERIAL, Reg.TIME_STATUS]) :
    rd (strapsRead s bootHost tref) a = rd s a := by
  simp only [List.mem_cons, List.not_mem_nil, or_false, not_or] at other
  obtain ⟨straps, order, serial, time⟩ := other
  rw [strapsRead]
  split
  · rw [rd_wf_ne _ _ _ time, rd_wrn_ne _ straps, rd_wrn_ne _ serial, rd_wrn_ne _ order, rd_with]
  · rw [rd_wrn_ne _ straps, rd_wrn_ne _ serial, rd_wrn_ne _ order, rd_with]

/-- The three identity registers, which the lock of the PLL leaves. -/
theorem strapsRead_identity : let t := strapsRead s bootHost tref
    rdn t Reg.CHIP_STRAPS = b2n bootHost ∧ rdn t Reg.CHIP_ORDER = s.chip.grade % 2 ∧
    rdn t Reg.CHIP_SERIAL = s.chip.serial % 2 ^ 64 := by
  have strap : b2n bootHost < 2 := by cases bootHost <;> decide
  have pll (u : State) {a : Nat} (ne : a ≠ Reg.TIME_STATUS) : rdn (if tref then wf u Reg.TIME_STATUS 1 0 3 else u) a = rdn u a := by
    split
    · rw [rdn, rd_wf_ne _ _ _ ne, ← rdn]
    · rfl
  refine ⟨?_, ?_, ?_⟩ <;> rw [strapsRead, pll _ (by decide)]
  · rw [rdn_wrn_same]; omega
  · rw [rdn, rd_wrn_ne _ (by decide), rd_wrn_ne _ (by decide), ← rdn, rdn_wrn_same]
    exact Nat.mod_eq_of_lt (Nat.lt_trans (Nat.mod_lt _ (by decide)) (by decide))
  · rw [rdn, rd_wrn_ne _ (by decide), ← rdn, rdn_wrn_same]

/-- A region that a code serves holds the lowest such code. -/
theorem code_regionsBooted {n c : Nat} (region : n < 101)
    (found : ((margins.getD n []).take 64).findIdx? (fun m => decide (rf s Reg.CORE_CFG 3 0 ≤ m)) = some c) :
    rf (regionsBooted s bootHost tref margins) (Reg.CORE_REGn_STATUS n) 5 0 = c := by
  have others (m : Nat) (ne : m ≠ n) (u : State) :
      (rd (regionBooted margins u m) Reg.CORE_CFG, rd (regionBooted margins u m) (Reg.CORE_REGn_STATUS n)) =
        (rd u Reg.CORE_CFG, rd u (Reg.CORE_REGn_STATUS n)) := by
    rw [rd_regionBooted_ne (cfg_ne_regionStatus m), rd_regionBooted_ne fun e => ne (regionStatus_inj e).symm]
  obtain ⟨u, before, after⟩ := foldl_range_view (fun u => (rd u Reg.CORE_CFG, rd u (Reg.CORE_REGn_STATUS n))) others region
    (strapsRead s bootHost tref)
  have cfg : rd u Reg.CORE_CFG = rd s Reg.CORE_CFG :=
    (Prod.mk.inj before).1.trans (rd_strapsRead s bootHost tref (by decide))
  have status := (Prod.mk.inj after).2
  have target : rf u Reg.CORE_CFG 3 0 = rf s Reg.CORE_CFG 3 0 := by rw [rf, cfg, ← rf]
  rw [← target] at found
  have small : c < 64 := by
    have := (List.findIdx?_eq_some_iff_getElem.mp found).1
    rw [List.length_take] at this
    omega
  rw [regionsBooted, rf, status, ← rf, regionBooted, sweptCode_found found, rf_wf_same _ _ _ _ _ (by decide)]
  exact Nat.mod_eq_of_lt small

end

/-- Settles O19: the straps and fuses first, then the regions, each of which writes its own status alone. -/
theorem resetReleased : Obligations.ResetReleased := by
  unfold Obligations.ResetReleased
  intro bootHost tref margins s
  refine ⟨fun high => ?high, fun low => ?low⟩
  case high => rw [exec, execResetRelease, resetRelease, if_pos high]
  case low =>
    have fixed {a : Nat} (chip : a < Reg.CORE_REGn_STATUS 0 ∨ Reg.CORE_REGn_STATUS 101 ≤ a) :
        rd (regionsBooted s bootHost tref margins) a = rd (strapsRead s bootHost tref) a :=
      rd_regionsBooted s bootHost tref margins fun n hn => by simp only [Reg.CORE_REGn_STATUS] at chip ⊢; omega
    obtain ⟨straps, order, serial⟩ := strapsRead_identity s bootHost tref
    refine ⟨regionsBooted s bootHost tref margins,
      congrArg Host.Outcome.next (resetRelease_held low bootHost tref margins), regionsBooted_chip s bootHost tref margins,
      ?_, ?_, ?_, fun lock => ?_, fun n region c found => code_regionsBooted s bootHost tref margins region found,
      fun a named other => (rd_regionsBooted s bootHost tref margins other).trans (rd_strapsRead s bootHost tref named)⟩
    · rw [rdn, fixed (.inl (by decide)), ← rdn, straps]
    · rw [rdn, fixed (.inl (by decide)), ← rdn, order]
    · rw [rdn, fixed (.inl (by decide)), ← rdn, serial]
    · rw [rf, fixed (.inr (by decide)), ← rf, strapsRead, if_pos lock, rf_wf_same _ _ _ _ _ (by decide)]
      rfl

/-! ### Fuses (R539, R540) -/

/-- R540 refuses a request: pins, temperature, field, key value, or programming under way. -/
def FuseRefused (s : State) (f v : Nat) (tj : Int) : Prop :=
  s.chip.rstN = true ∨ s.chip.pwrgood = false ∨ tj < 0 ∨ 400 < tj ∨ f = 0 ∨ 5 < f ∨
    ((f = 1 ∨ f = 3 ∨ f = 5) ∧ fuseValue f v = 0) ∨ s.chip.prog ≠ none

/-- The test that `fuseRequest` makes, in the terms of R540. -/
theorem fuseRefused_iff (s : State) (f v : Nat) (tj : Int) :
    (s.chip.rstN || !s.chip.pwrgood || decide (tj < 0 ∨ 400 < tj) || decide (f = 0 ∨ 5 < f) ||
      ((f == 1 || f == 3 || f == 5) && fuseValue f v == 0) || s.chip.prog.isSome) = true ↔ FuseRefused s f v tj := by
  simp only [FuseRefused, Bool.or_eq_true, Bool.and_eq_true, Bool.not_eq_true', decide_eq_true_eq, beq_iff_eq,
    Option.isSome_iff_ne_none, or_assoc]

theorem fuseRequest_refused {s : State} {f v : Nat} {tj : Int} (refused : FuseRefused s f v tj) :
    fuseRequest s f v tj = { s with chip := { s.chip with tap := some 0x3A, fuseAgain := false, fuseRefused := true } } :=
  if_pos ((fuseRefused_iff s f v tj).mpr refused)

theorem fuseRequest_again {s : State} {f v : Nat} {tj : Int} (accepted : ¬ FuseRefused s f v tj)
    (set : (tabFind s.chip.fuses f).isSome = true) :
    fuseRequest s f v tj = { s with chip := { s.chip with tap := some 0x3A, fuseAgain := true, fuseRefused := false } } :=
  (if_neg fun refused => accepted ((fuseRefused_iff s f v tj).mp refused)).trans (if_pos set)

theorem fuseRequest_starts {s : State} {f v : Nat} {tj : Int} (accepted : ¬ FuseRefused s f v tj)
    (unset : ¬ (tabFind s.chip.fuses f).isSome = true) :
    fuseRequest s f v tj = { s with chip := { s.chip with
      tap := some 0x3A, prog := some (f, fuseValue f v), fuseAgain := false, fuseRefused := false } } :=
  (if_neg fun refused => accepted ((fuseRefused_iff s f v tj).mp refused)).trans (if_neg unset)

/-- Bit i of a status byte that puts one flag per bit. -/
theorem statusByte_bits : ∀ b0 b1 b2 b3 b4 b5 b6 b7 : Bool,
    let n := b2n b0 + b2n b1 * 2 + b2n b2 * 4 + b2n b3 * 8 + b2n b4 * 16 + b2n b5 * 32 + b2n b6 * 64 + b2n b7 * 128
    n < 256 ∧ n.testBit 0 = b0 ∧ n.testBit 1 = b1 ∧ n.testBit 2 = b2 ∧ n.testBit 3 = b3 ∧ n.testBit 4 = b4 ∧
      n.testBit 5 = b5 ∧ n.testBit 6 = b6 ∧ n.testBit 7 = b7 := by decide

theorem fuseStatus_eq (s : State) :
    let set (f : Nat) := b2n (tabFind s.chip.fuses f).isSome
    fuseStatus s = set 1 + set 2 * 2 + set 3 * 4 + set 4 * 8 + set 5 * 16 + b2n s.chip.prog.isSome * 32 +
      b2n s.chip.fuseAgain * 64 + b2n s.chip.fuseRefused * 128 := by
  simp [fuseStatus, List.range, List.range.loop]

/-- The programmed fields, BUSY and the last answer, bit by bit. -/
theorem fuseStatus_bits (s : State) : fuseStatus s < 256 ∧
    (∀ f, 1 ≤ f → f ≤ 5 → (fuseStatus s).testBit (f - 1) = (tabFind s.chip.fuses f).isSome) ∧
    (fuseStatus s).testBit 5 = s.chip.prog.isSome ∧ (fuseStatus s).testBit 6 = s.chip.fuseAgain ∧
    (fuseStatus s).testBit 7 = s.chip.fuseRefused := by
  rw [fuseStatus_eq]
  obtain ⟨small, f1, f2, f3, f4, f5, busy, again, refused⟩ := statusByte_bits (tabFind s.chip.fuses 1).isSome
    (tabFind s.chip.fuses 2).isSome (tabFind s.chip.fuses 3).isSome (tabFind s.chip.fuses 4).isSome (tabFind s.chip.fuses 5).isSome
    s.chip.prog.isSome s.chip.fuseAgain s.chip.fuseRefused
  refine ⟨small, fun f low high => ?_, busy, again, refused⟩
  obtain rfl | rfl | rfl | rfl | rfl : f = 1 ∨ f = 2 ∨ f = 3 ∨ f = 4 ∨ f = 5 := by omega
  · exact f1
  · exact f2
  · exact f3
  · exact f4
  · exact f5

theorem fuseDone_programmed {s : State} {f v : Nat} (under : s.chip.prog = some (f, v)) :
    fuseDone s = { s with chip := { s.chip with
      prog := none, fuses := if v = 0 then s.chip.fuses else tabSet s.chip.fuses f v } } := by
  rw [fuseDone, under]
  by_cases zero : v = 0
  · simp only [if_pos zero]
  · simp only [if_neg zero]

/-! ### Temperature (R570) -/

/-- CHIP_TJ and TJ_OVER show a sample. -/
def tjShown (s : State) (tj : Nat) (hot : Bool) : State := wf (wrn s Reg.CHIP_TJ tj) Reg.CHIP_ALERT 1 1 (b2n hot)

theorem tjShown_only (s : State) (tj : Nat) (hot : Bool) : Only s (tjShown s tj hot) [Reg.CHIP_TJ, Reg.CHIP_ALERT] [] [] :=
  .wr _ (.wr _ ((Only.refl s).mono (by simp)) (by simp)) (by simp)

/-- A sample x against the limit l: event 0x032 where it is armed, and armed again 2 °C below the limit. -/
def tjTaken (s : State) (tj limit : Nat) (l x : Int) : State :=
  let shown := tjShown s tj (decide (l ≤ x))
  if decide (l ≤ x) && s.chip.tjArmed then raise { shown with chip := { s.chip with tjArmed := false } } 0x032 tj limit
  else if x ≤ l - 8 then { shown with chip := { s.chip with tjArmed := true } }
  else shown

theorem tjSample_eq (s : State) (tj : BitVec 12) : tjSample s tj.toNat = tjTaken s tj.toNat (rf s Reg.CHIP_TJ_LIMIT 11 0)
    (BitVec.ofNat 12 (rf s Reg.CHIP_TJ_LIMIT 11 0)).toInt tj.toInt := by
  simp only [tjSample, signed_eq_toInt, BitVec.ofNat_toNat, BitVec.setWidth_eq]
  rfl

theorem tjTaken_regs (s : State) (tj limit : Nat) (l x : Int) :
    (tjTaken s tj limit l x).regs = (tjShown s tj (decide (l ≤ x))).regs := by
  unfold tjTaken
  extract_lets shown
  split
  · rfl
  · split <;> rfl

theorem tjTaken_reads (s : State) {tj : Nat} (limit : Nat) (l x : Int) (small : tj < 2 ^ 12) :
    rdn (tjTaken s tj limit l x) Reg.CHIP_TJ = tj ∧ rb (tjTaken s tj limit l x) Reg.CHIP_ALERT 1 = decide (l ≤ x) := by
  have reads (a : Nat) : rd (tjTaken s tj limit l x) a = rd (tjShown s tj (decide (l ≤ x))) a := by rw [rd, tjTaken_regs, ← rd]
  refine ⟨?_, ?_⟩
  · rw [rdn, reads, tjShown, rd_wf_ne _ _ _ (by decide), ← rdn, rdn_wrn_same]
    exact Nat.mod_eq_of_lt (by omega)
  · rw [rb, reads, ← rb, tjShown, rb_wf_same, if_pos (by decide), Nat.sub_self, testBit_b2n]

theorem tjTaken_only (s : State) (tj limit : Nat) (l x : Int) : let t := tjTaken s tj limit l x
    Only s { t with chip := s.chip } [Reg.CHIP_TJ, Reg.CHIP_ALERT]
      (if l ≤ x ∧ s.chip.tjArmed = true then [(0x032, tj, limit)] else []) [] ∧
    t.chip = { s.chip with tjArmed := if l ≤ x then false else if x ≤ l - 8 then true else s.chip.tjArmed } := by
  have only := tjShown_only s tj (decide (l ≤ x))
  by_cases hot : l ≤ x
  · cases armed : s.chip.tjArmed
    · rw [tjTaken, if_neg (by simp [armed]), if_neg (by omega), if_neg (by simp), if_pos hot]
      exact ⟨only, by rw [← armed]; rfl⟩
    · rw [tjTaken, if_pos (by simp [hot, armed]), if_pos ⟨hot, rfl⟩, if_pos hot]
      exact ⟨only.raise _ _ _, rfl⟩
  · rw [tjTaken, if_neg (by simp [hot]), if_neg (show ¬ (l ≤ x ∧ s.chip.tjArmed = true) from fun both => hot both.1),
      if_neg hot]
    by_cases cool : x ≤ l - 8
    · rw [if_pos cool, if_pos cool]
      exact ⟨only, rfl⟩
    · rw [if_neg cool, if_neg cool]
      exact ⟨only, rfl⟩

/-- Settles O20: a request by whether R540 refuses it, the status bit by bit, and a sample by `tjTaken`. -/
theorem fusesProgram : Obligations.FusesProgram := by
  unfold Obligations.FusesProgram
  refine ⟨fun field value tj s => ?request, fun s => ⟨?status, fun f v under => ?done, fun tj => ?sample⟩⟩
  case request =>
    have whole : fuseValue field.toNat value.toNat = if field.toNat = 2 ∨ field.toNat = 4 then value.toNat % 2
        else if field.toNat = 5 then value.toNat else value.toNat % 2 ^ 128 := by
      rw [fuseValue, Nat.mod_eq_of_lt value.isLt]
    by_cases refused : FuseRefused s field.toNat value.toNat tj.toInt
    · refine ⟨_, congrArg Host.Outcome.next (fuseRequest_refused refused), rfl, rfl, rfl, ?_⟩
      rw [FuseRefused, whole] at refused
      exact (if_pos refused).mpr (And.intro rfl ⟨rfl, rfl⟩)
    · have idle : s.chip.prog = none := by
        by_contra busy
        exact refused (by simp [FuseRefused, busy])
      by_cases set : (tabFind s.chip.fuses field.toNat).isSome = true
      · refine ⟨_, congrArg Host.Outcome.next (fuseRequest_again refused set), rfl, rfl, rfl, ?_⟩
        rw [FuseRefused, whole] at refused
        exact ((if_neg refused).trans (if_pos set)).mpr (And.intro rfl ⟨rfl, idle⟩)
      · refine ⟨_, congrArg Host.Outcome.next (fuseRequest_starts refused set), rfl, rfl, rfl, ?_⟩
        rw [FuseRefused, whole] at refused
        exact ((if_neg refused).trans (if_neg set)).mpr (And.intro rfl ⟨rfl, congrArg (fun v => some (field.toNat, v)) whole⟩)
  case status =>
    obtain ⟨small, fields, busy, again, refused⟩ := fuseStatus_bits s
    exact ⟨_, fuseStatus s, rfl, rfl, small, fields, busy, again, refused, rfl, rfl⟩
  case done =>
    refine ⟨_, congrArg Host.Outcome.next (fuseDone_programmed under), rfl, fun blown => ?_, fun g other => ?_, rfl⟩
    · show tabFind (if v = 0 then _ else _) f = some v
      rw [if_neg blown, tabFind_tabSet, if_pos rfl]
    · show tabFind (if v = 0 then _ else _) g = _
      split
      · rfl
      · rw [tabFind_tabSet, if_neg other.symm]
  case sample =>
    obtain ⟨value, bit⟩ := tjTaken_reads s (rf s Reg.CHIP_TJ_LIMIT 11 0) (BitVec.ofNat 12 (rf s Reg.CHIP_TJ_LIMIT 11 0)).toInt
      tj.toInt tj.isLt
    exact ⟨_, congrArg Host.Outcome.next (tjSample_eq s tj), value, bit, tjTaken_only s ..⟩

end Sys2Proof.Machine
end

section
/-! SUPPORT. Sleep and wake (18_power.md R491, R493, R494, R497): what is asked of a hummock, what arrives in COMMIT, the votes of PREPARE
and the rollback; the statements about them settled with these. -/
namespace Sys2Proof.Machine

/-! ### A hummock's registers and its state beside them -/

theorem powerStatus_ne_asleep (h : Nat) : Reg.POWER_Hh_STATUS h ≠ Reg.POWER_ASLEEP := by
  simp only [Reg.POWER_Hh_STATUS, Reg.POWER_ASLEEP]; omega

theorem powerStatus_ne_lastRefuser (h : Nat) : Reg.POWER_Hh_STATUS h ≠ Reg.POWER_LAST_REFUSER := by
  simp only [Reg.POWER_Hh_STATUS, Reg.POWER_LAST_REFUSER]; omega

theorem powerStatus_inj {h k : Nat} (same : Reg.POWER_Hh_STATUS h = Reg.POWER_Hh_STATUS k) : h = k := by
  simp only [Reg.POWER_Hh_STATUS] at same; omega

@[simp] theorem hum_humPut_same (s : State) (h : Nat) (x : Hummock) : hum (humPut s h x) h = x := by
  simp only [hum, humPut, tabGet_tabPut, if_true]

theorem hum_humPut_ne (s : State) {h k : Nat} (x : Hummock) (other : k ≠ h) : hum (humPut s h x) k = hum s k := by
  simp only [hum, humPut, tabGet_tabPut, if_neg other.symm]

@[simp] theorem humState_humPut (s : State) (h k : Nat) (x : Hummock) : humState (humPut s h x) k = humState s k := (rfl)
@[simp] theorem rd_humPut (s : State) (h : Nat) (x : Hummock) (a : Nat) : rd (humPut s h x) a = rd s a := (rfl)
@[simp] theorem rdn_humPut (s : State) (h : Nat) (x : Hummock) (a : Nat) : rdn (humPut s h x) a = rdn s a := (rfl)
@[simp] theorem humPut_ev (s : State) (h : Nat) (x : Hummock) : (humPut s h x).ev = s.ev := (rfl)
@[simp] theorem hum_wf (s : State) (a hi lo n k : Nat) : hum (wf s a hi lo n) k = hum s k := (rfl)
@[simp] theorem hum_humEnter (s : State) (h st k : Nat) : hum (humEnter s h st) k = hum s k := (rfl)

theorem humState_congr {s t : State} {h : Nat} (same : rd t (Reg.POWER_Hh_STATUS h) = rd s (Reg.POWER_Hh_STATUS h)) :
    humState t h = humState s h := by rw [humState, rf, same, ← rf, ← humState]

/-- RESULT and the refuser stand beside STATE. -/
theorem humState_wf_high (s : State) (h n : Nat) {hi lo : Nat} (high : 2 < lo) (k : Nat) :
    humState (wf s (Reg.POWER_Hh_STATUS h) hi lo n) k = humState s k := rf_wf_ne n (.inr (.inl high))

theorem humState_humEnter (s : State) (h st : Nat) : humState (humEnter s h st) h = st % 8 := by
  rw [humEnter, humState, rf_wf_ne _ (.inl (powerStatus_ne_asleep h)), rf_wf_same _ _ _ _ _ (by decide)]
  rfl

theorem rb_humEnter_asleep (s : State) {h : Nat} (st : Nat) (inside : h < 64) :
    rb (humEnter s h st) Reg.POWER_ASLEEP h = (st == 3 || st == 4) := by
  rw [humEnter, rb_wf_same, if_pos ⟨le_refl h, le_refl h, inside⟩, Nat.sub_self, testBit_b2n]

theorem humEnter_only (s : State) (h st : Nat) :
    Only s (humEnter s h st) [Reg.POWER_Hh_STATUS h, Reg.POWER_ASLEEP] [] [] :=
  .wr _ (.wr _ ((Only.refl s).mono (by simp)) (by simp)) (by simp)

/-- A result given alone. -/
theorem result_spec (s : State) (h : Nat) {r : Nat} (code : r < 8) :
    let st := Reg.POWER_Hh_STATUS h
    rf (wf s st 7 5 r) st 7 5 = r ∧ humState (wf s st 7 5 r) h = humState s h ∧ Only s (wf s st 7 5 r) [st] [] [] := by
  refine ⟨?_, humState_wf_high s h r (by decide) h, ((Only.refl s).mono (by simp)).wr _ (by simp)⟩
  rw [rf_wf_same _ _ _ _ _ (by decide)]
  exact Nat.mod_eq_of_lt code

/-! ### Sleep, self-test and wake are asked for (R491, R493, R494, R497) -/

section
variable (s : State) (h : Nat)

/-- The state in which PREPARE begins. -/
theorem startPrepare_spec (test : Bool) : let t := startPrepare s h test
    humState t h = 1 ∧ hum t h = { hum s h with agreed := 0, test := test, asked := nowNs s } ∧ (∀ k, k ≠ h → hum t k = hum s k) ∧
    Only s { t with hummocks := s.hummocks } [Reg.POWER_Hh_STATUS h, Reg.POWER_ASLEEP] [] [] :=
  ⟨humState_humEnter s h 1, hum_humPut_same .., fun _ other => hum_humPut_ne _ _ other, humEnter_only s h 1⟩

/-- What OP = SLEEP and OP = SELFTEST answer: PREPARE from AWAKE, else RESULT 1. -/
def prepareAsked (test : Bool) : State :=
  if humState s h = 0 then wf (startPrepare s h test) (Reg.POWER_Hh_STATUS h) 7 5 0 else wf s (Reg.POWER_Hh_STATUS h) 7 5 1

theorem powerCommand_sleep : powerCommand s h 1 = prepareAsked s h false := rfl
theorem powerCommand_selftest : powerCommand s h 3 = prepareAsked s h true := rfl

variable {s h}

theorem prepareAsked_awake (test : Bool) (awake : humState s h = 0) : let t := prepareAsked s h test
    humState t h = 1 ∧ rf t (Reg.POWER_Hh_STATUS h) 7 5 = 0 ∧
    hum t h = { hum s h with agreed := 0, test := test, asked := nowNs s } ∧ (∀ k, k ≠ h → hum t k = hum s k) ∧
    Only s { t with hummocks := s.hummocks } [Reg.POWER_Hh_STATUS h, Reg.POWER_ASLEEP] [] [] := by
  intro t
  have prepared : t = wf (startPrepare s h test) (Reg.POWER_Hh_STATUS h) 7 5 0 := if_pos awake
  obtain ⟨state, own, others, only⟩ := startPrepare_spec s h test
  obtain ⟨result, same, -⟩ := result_spec (startPrepare s h test) h (r := 0) (by decide)
  rw [prepared]
  exact ⟨same.trans state, result, own, others, only.wr _ (by simp)⟩

theorem prepareAsked_elsewhere (test : Bool) (down : humState s h ≠ 0) : let t := prepareAsked s h test
    humState t h = humState s h ∧ rf t (Reg.POWER_Hh_STATUS h) 7 5 = 1 ∧ Only s t [Reg.POWER_Hh_STATUS h] [] [] := by
  intro t
  have told : t = wf s (Reg.POWER_Hh_STATUS h) 7 5 1 := if_neg down
  obtain ⟨result, same, only⟩ := result_spec s h (r := 1) (by decide)
  rw [told]
  exact ⟨same, result, only⟩

/-- The state in which WAKING begins. -/
theorem startWake_spec {cause : Nat} (asleep : humState s h = 4) (inside : h < 64) : let t := startWake s h cause
    humState t h = 5 ∧ rb t Reg.POWER_ASLEEP h = false ∧ hum t h = { hum s h with cause := cause } ∧
    (∀ k, k ≠ h → hum t k = hum s k) ∧
    Only s { t with hummocks := s.hummocks } [Reg.POWER_Hh_STATUS h, Reg.POWER_ASLEEP] [] [] := by
  intro t
  have woken : t = humPut (humEnter s h 5) h { hum s h with cause := cause } := if_pos asleep
  rw [woken, humState_humPut, rb, rd_humPut, ← rb]
  exact ⟨humState_humEnter s h 5, rb_humEnter_asleep s 5 inside, hum_humPut_same .., fun _ other => hum_humPut_ne _ _ other,
    humEnter_only s h 5⟩

/-- OP = WAKE gives RESULT 0 before it acts by the state that it found. -/
theorem powerCommand_wake_awake (awake : humState s h = 0) : powerCommand s h 2 = wf s (Reg.POWER_Hh_STATUS h) 7 5 0 := by
  simp [powerCommand, awake]

theorem powerCommand_wake_commit (commit : humState s h = 3) : powerCommand s h 2 =
    humPut (wf s (Reg.POWER_Hh_STATUS h) 7 5 0) h { hum s h with wakeNext := true } := by
  simp [powerCommand, commit]

theorem powerCommand_wake_asleep (asleep : humState s h = 4) :
    powerCommand s h 2 = startWake (wf s (Reg.POWER_Hh_STATUS h) 7 5 0) h 0 := by
  simp [powerCommand, asleep]

/-- POWER_WAKE of an AWAKE hummock. -/
theorem exec_powerWake_awake {h : Fin 40} (awake : humState s h = 0) : ∃ t, exec (.powerWake h) s = .next t ∧
    rf t (Reg.POWER_Hh_STATUS h) 7 5 = 0 ∧ humState t h = 0 ∧ Only s t [Reg.POWER_Hh_STATUS h] [] [] := by
  obtain ⟨result, same, only⟩ := result_spec s h (r := 0) (by decide)
  exact ⟨_, congrArg Host.Outcome.next (powerCommand_wake_awake awake), result, same.trans awake, only⟩

/-- POWER_WAKE of a hummock in COMMIT. -/
theorem exec_powerWake_commit {h : Fin 40} (commit : humState s h = 3) : ∃ t, exec (.powerWake h) s = .next t ∧
    rf t (Reg.POWER_Hh_STATUS h) 7 5 = 0 ∧ humState t h = 3 ∧ hum t h = { hum s h with wakeNext := true } ∧
    Only s { t with hummocks := s.hummocks } [Reg.POWER_Hh_STATUS h] [] [] := by
  obtain ⟨result, same, only⟩ := result_spec s h (r := 0) (by decide)
  exact ⟨_, congrArg Host.Outcome.next (powerCommand_wake_commit commit), result, same.trans commit, hum_humPut_same .., only⟩

/-- POWER_WAKE of an ASLEEP hummock. -/
theorem exec_powerWake_asleep {h : Fin 40} (asleep : humState s h = 4) : ∃ t, exec (.powerWake h) s = .next t ∧
    humState t h = 5 ∧ rf t (Reg.POWER_Hh_STATUS h) 7 5 = 0 ∧ rb t Reg.POWER_ASLEEP h = false ∧
    hum t h = { hum s h with cause := 0 } ∧ (∀ k, k ≠ h.val → hum t k = hum s k) ∧
    Only s { t with hummocks := s.hummocks } [Reg.POWER_Hh_STATUS h, Reg.POWER_ASLEEP] [] [] := by
  obtain ⟨result, same, only⟩ := result_spec s h (r := 0) (by decide)
  obtain ⟨state, shown, own, others, woken⟩ :=
    startWake_spec (cause := 0) (same.trans asleep) (Nat.lt_trans h.isLt (by decide))
  have kept : rf (startWake (wf s (Reg.POWER_Hh_STATUS h) 7 5 0) h 0) (Reg.POWER_Hh_STATUS h) 7 5 = 0 := by
    have entered : startWake (wf s (Reg.POWER_Hh_STATUS h) 7 5 0) h 0 = _ := if_pos (same.trans asleep)
    rw [entered, humPut, rf, rd_with, humEnter, ← rf, rf_wf_ne _ (.inl (powerStatus_ne_asleep h)), rf_wf_ne _ (.inr (.inr (by decide))),
      result]
  exact ⟨_, congrArg Host.Outcome.next (powerCommand_wake_asleep asleep), state, kept, shown, own, others,
    (only.mono (by simp)).trans woken⟩

/-- The idle timer of an AWAKE hummock has run out (R491). -/
theorem idleExpired_due (awake : humState s h = 0) (timed : rdn s (Reg.POWER_Hh_IDLE h) ≠ 0)
    (due : (hum s h).idleSince + 1000 * rdn s (Reg.POWER_Hh_IDLE h) ≤ nowNs s) :
    idleExpired s h = if (humBlocks h).any (blockBusy s) then touch s h else startPrepare s h false := by
  refine if_neg fun held => ?_
  rcases held with down | untimed | early
  · exact down awake
  · exact timed untimed
  · rw [elapsed_due due] at early; exact absurd early (by decide)

end

/-- Settles O25: OP = SLEEP and SELFTEST by `prepareAsked`, OP = WAKE by the state that it finds, the idle timer by `idleExpired_due`. -/
theorem sleepIsAsked : Obligations.SleepIsAsked := by
  unfold Obligations.SleepIsAsked
  intro h s n st asks
  have asked {c : Instr} {test : Bool} (answer : exec c s = .next (prepareAsked s n test)) : asks c test :=
    ⟨fun awake => ⟨_, answer, prepareAsked_awake test awake⟩, fun down => ⟨_, answer, prepareAsked_elsewhere test down⟩⟩
  refine ⟨asked (congrArg Host.Outcome.next (powerCommand_sleep s n)), asked (congrArg Host.Outcome.next (powerCommand_selftest s n)),
    fun awake => ?awake, exec_powerWake_asleep, fun commit => ?commit, fun awake timed due => ⟨fun quiet => ?quiet, fun busy => ?busy⟩⟩
  case awake =>
    obtain ⟨t, answer, result, state, only⟩ := exec_powerWake_awake awake
    exact ⟨t, answer, state, result, only⟩
  case commit =>
    obtain ⟨t, answer, result, state, own, only⟩ := exec_powerWake_commit commit
    exact ⟨t, answer, state, result, own, only⟩
  case quiet =>
    obtain ⟨state, own, -, only⟩ := startPrepare_spec s n false
    refine ⟨_, congrArg Host.Outcome.next ((idleExpired_due awake timed due).trans (if_neg ?_)), state, own, only⟩
    rw [quiet]; decide
  case busy =>
    exact ⟨_, congrArg Host.Outcome.next ((idleExpired_due awake timed due).trans (if_pos busy)), hum_humPut_same .., rfl⟩

/-! ### What came in COMMIT (R494) -/

section
variable {s : State} {h : Nat}

theorem accReport_hummocks (s : State) (code bar : Nat) (write : Bool) (addr : Nat) :
    (accReport s code bar write addr).hummocks = s.hummocks := by
  unfold accReport
  split
  · rfl
  · rw [raise_hummocks]
    split <;> rfl

theorem powerStatus_not_access (h : Nat) (inside : h < 64) :
    Reg.POWER_Hh_STATUS h ≠ Reg.HOST_ACC_STATUS ∧ Reg.POWER_Hh_STATUS h ≠ Reg.HOST_ACC_ADDR := by
  simp only [Reg.POWER_Hh_STATUS, Reg.HOST_ACC_STATUS, Reg.HOST_ACC_ADDR]; omega

/-- An access refused while its hummock sleeps leaves the hummock as it is. -/
theorem refuseHeld_hummock (s : State) (x : HeldAccess) (inside : h < 64) :
    humState (refuseHeld h s x) h = humState s h ∧ hum (refuseHeld h s x) h = hum s h := by
  obtain ⟨status, address⟩ := powerStatus_not_access h inside
  have refused (bar addr : Nat) (write : Bool) :
      humState (asleepAccess s h bar write addr) h = humState s h ∧ hum (asleepAccess s h bar write addr) h = hum s h :=
    ⟨humState_congr ((rd_raise ..).trans (rd_accReport_ne _ _ _ _ status address)),
      congrArg (fun l => tabGet l h ({} : Hummock)) (accReport_hummocks s 3 bar write addr)⟩
  unfold refuseHeld
  split <;> exact refused ..

/-- A remembered OP = WAKE. -/
theorem asleepLook_wakeNext (wake : (hum s h).wakeNext = true) :
    asleepLook s h = startWake (humPut s h { hum s h with wakeNext := false }) h 0 := if_pos wake

/-- A held access where WAKE_ON_ACCESS is 1. -/
theorem asleepLook_wakes (unasked : (hum s h).wakeNext = false) (wakes : rb s (Reg.POWER_Hh_CFG h) 0 = true)
    (held : (hum s h).held ≠ []) : asleepLook s h = startWake s h 1 := by
  have some : ((hum s h).held != []) = true := bne_iff_ne.mpr held
  simp only [asleepLook, unasked, wakes, some, Bool.true_or, if_true, Bool.false_eq_true, if_false]

/-- Held accesses where WAKE_ON_ACCESS is 0, and no command of the Lauter array waits. -/
theorem asleepLook_refuses (unasked : (hum s h).wakeNext = false) (idle : s.lauter.cmd = none)
    (stays : rb s (Reg.POWER_Hh_CFG h) 0 = false) :
    asleepLook s h = (hum s h).held.foldl (refuseHeld h) (humPut s h { hum s h with held := [] }) := by
  simp only [asleepLook, unasked, stays, idle, Option.any_none, Bool.false_eq_true, if_false]

end

/-- Settles O9: what came in COMMIT by the branch of `asleepLook` that it takes, and the commands by their results. -/
theorem arrivalsAroundCommit : Obligations.ArrivalsAroundCommit := by
  unfold Obligations.ArrivalsAroundCommit
  intro h s n st
  have inside : n < 64 := Nat.lt_trans h.isLt (by decide)
  refine ⟨fun commit => ?hold, fun asleep wake => ?remembered, fun asleep unasked held wakes => ?wakes,
    fun asleep unasked idle stays => ?refuses, fun down => ?sleep, exec_powerWake_awake, exec_powerWake_commit⟩
  case hold => simp only [reach, commit]
  case remembered =>
    obtain ⟨state, -, own, -, -⟩ := startWake_spec (s := humPut s n { hum s n with wakeNext := false }) (cause := 0) asleep inside
    rw [asleepLook_wakeNext wake, own, hum_humPut_same]
    exact ⟨state, rfl, rfl⟩
  case wakes =>
    obtain ⟨state, -, own, -, -⟩ := startWake_spec (cause := 1) asleep inside
    rw [asleepLook_wakes unasked wakes held, own]
    exact ⟨state, rfl, rfl⟩
  case refuses =>
    have kept := foldl_view (fun u => (humState u n, hum u n)) (hum s n).held (humPut s n { hum s n with held := [] })
      fun x _ u => Prod.ext (refuseHeld_hummock u x inside).1 (refuseHeld_hummock u x inside).2
    obtain ⟨state, own⟩ := Prod.mk.inj kept
    rw [asleepLook_refuses unasked idle stays, state, own, hum_humPut_same]
    exact ⟨asleep, rfl⟩
  case sleep =>
    obtain ⟨state, result, only⟩ := prepareAsked_elsewhere false down
    exact ⟨_, congrArg Host.Outcome.next (powerCommand_sleep s n), result, state, only⟩

/-! ### A sleep entry is given up (R493, R497) -/

/-- The registers of POWER lie above every register of a memory channel. -/
theorem rd_undrain (s : State) (h : Nat) {a : Nat} (power : Reg.POWER_PREPARE_LIMIT ≤ a) : rd (undrain s h) a = rd s a := by
  unfold undrain
  split
  · next deep =>
    refine foldl_view (rd · a) _ _ fun i hi u => ?_
    have channel : a ≠ Reg.DEEP_CHc_STATUS (8 * (h - 20) + i) := by
      have := List.mem_range.mp hi
      simp only [Reg.POWER_PREPARE_LIMIT, Reg.DEEP_CHc_STATUS] at power ⊢
      omega
    dsimp only
    split
    · rw [rd_wf_ne _ _ _ channel]
    · rfl
  · rfl

theorem undrain_units (s : State) (h : Nat) : ((undrain s h).ev, (undrain s h).time) = (s.ev, s.time) := by
  unfold undrain
  split
  · refine foldl_view (fun u : State => (u.ev, u.time)) _ _ fun i _ u => ?_
    dsimp only
    split <;> rfl
  · rfl

/-- A refusal before any block has agreed is counted and reported (R493). -/
def refusalTold (s : State) (h id : Nat) : State :=
  raise (cnt (undrain s h) (Reg.POWER_Hh_REFUSED h) 1) 0x043 (h + id * 2 ^ 16) 0

/-- The hummock is AWAKE again, and the refuser is shown. -/
def awakeAgain (s : State) (h id : Nat) : State := lastRefuser (humEnter s h 0) h id

theorem giveUp_early {s : State} {h : Nat} (id : Nat) (none : (hum s h).agreed = 0) (sleep : (hum s h).test = false) :
    giveUp s h id = humPut (awakeAgain (refusalTold s h id) h id) h
      { hum s h with test := false, idleSince := nowNs (awakeAgain (refusalTold s h id) h id) } := by
  simp only [giveUp, none, sleep, if_true, Bool.false_eq_true, if_false, awakeAgain, refusalTold]

theorem giveUp_late {s : State} {h : Nat} (id : Nat) (some : (hum s h).agreed ≠ 0) : ∃ u, giveUp s h id =
    humPut (humEnter u h 2) h { hum s h with refuser := id, resumed := (hum s h).agreed } := ⟨_, if_neg some⟩

theorem humState_awakeAgain (s : State) (h id : Nat) : humState (awakeAgain s h id) h = 0 := by
  rw [awakeAgain, lastRefuser, humState_congr (rd_wrn_ne _ (powerStatus_ne_lastRefuser h)), humState_wf_high _ _ _ (by decide),
    humState_humEnter]

theorem awakeAgain_only (s : State) (h id : Nat) :
    Only s (awakeAgain s h id) [Reg.POWER_Hh_STATUS h, Reg.POWER_ASLEEP, Reg.POWER_LAST_REFUSER] [] [] :=
  .wr _ (.wr _ ((humEnter_only s h 0).mono (by simp)) (by simp)) (by simp)

theorem rdn_awakeAgain_lastRefuser (s : State) (h id : Nat) :
    rdn (awakeAgain s h id) Reg.POWER_LAST_REFUSER = (h + id * 2 ^ 16) % 2 ^ 64 := rdn_wrn_same ..

/-- What a refusal by `id` leaves of an entry: AWAKE before any block has agreed, ROLLBACK after. -/
def GivenUp (s t : State) (h id : Nat) : Prop :=
  ((hum s h).agreed = 0 → (hum s h).test = false → humState t h = 0 ∧
    rdn t (Reg.POWER_Hh_REFUSED h) = min (rdn s (Reg.POWER_Hh_REFUSED h) + 1) (2 ^ 32 - 1) ∧
    rdn t Reg.POWER_LAST_REFUSER = (h + id * 2 ^ 16) % 2 ^ 64 ∧ ⟨0x043, h + id * 2 ^ 16, 0, tickNo s⟩ ∈ t.ev.occ) ∧
  ((hum s h).agreed ≠ 0 → humState t h = 2 ∧ (hum t h).refuser = id ∧ (hum t h).resumed = (hum s h).agreed)

theorem giveUp_givenUp (s : State) (h id : Nat) : GivenUp s (giveUp s h id) h id := by
  refine ⟨fun none sleep => ?early, fun some => ?late⟩
  case early =>
    have told := awakeAgain_only (refusalTold s h id) h id
    have units := Prod.mk.inj (undrain_units s h)
    rw [giveUp_early id none sleep, humState_humPut, rdn_humPut, rdn_humPut, humPut_ev]
    refine ⟨humState_awakeAgain .., ?_, rdn_awakeAgain_lastRefuser .., ?_⟩
    · have counter : Reg.POWER_Hh_REFUSED h ∉ [Reg.POWER_Hh_STATUS h, Reg.POWER_ASLEEP, Reg.POWER_LAST_REFUSER] := by
        simp only [Reg.POWER_Hh_REFUSED, Reg.POWER_Hh_STATUS, Reg.POWER_ASLEEP, Reg.POWER_LAST_REFUSER, List.mem_cons,
          List.not_mem_nil, or_false, not_or]
        omega
      have before : rdn (undrain s h) (Reg.POWER_Hh_REFUSED h) = rdn s (Reg.POWER_Hh_REFUSED h) := by
        rw [rdn, rd_undrain _ _ (by simp only [Reg.POWER_PREPARE_LIMIT, Reg.POWER_Hh_REFUSED]; omega), ← rdn]
      rw [rdn, told.regs _ counter, refusalTold, rd_raise, ← rdn, rdn_cnt_same, before]
    · have tick : tickNo (undrain s h) = tickNo s := by rw [tickNo, units.2, tickNo]
      rw [told.occ, ← tick]
      simp [refusalTold, tickNo]
  case late =>
    obtain ⟨u, gone⟩ := giveUp_late id some
    rw [gone, hum_humPut_same]
    exact ⟨humState_humEnter u h 2, rfl, rfl⟩

section
variable {s : State} {h k : Nat}

theorem rd_status_humEnter (st : Nat) (other : k ≠ h) :
    rd (humEnter s h st) (Reg.POWER_Hh_STATUS k) = rd s (Reg.POWER_Hh_STATUS k) := by
  rw [humEnter, rd_wf_ne _ _ _ (powerStatus_ne_asleep k), rd_wf_ne _ _ _ fun same => other (powerStatus_inj same)]

theorem rd_status_lastRefuser (id : Nat) (other : k ≠ h) :
    rd (lastRefuser s h id) (Reg.POWER_Hh_STATUS k) = rd s (Reg.POWER_Hh_STATUS k) := by
  rw [lastRefuser, rd_wrn_ne _ (powerStatus_ne_lastRefuser k), rd_wf_ne _ _ _ fun same => other (powerStatus_inj same)]

theorem powerStatus_ne_counters (inside : k < 64) (h : Nat) : Reg.POWER_Hh_STATUS k ≠ Reg.POWER_Hh_TEST_BUSY h ∧
    Reg.POWER_Hh_STATUS k ≠ Reg.POWER_Hh_REFUSED h := by
  simp only [Reg.POWER_Hh_STATUS, Reg.POWER_Hh_TEST_BUSY, Reg.POWER_Hh_REFUSED]; omega

/-- The other hummocks stay in their states. -/
theorem humState_giveUp_ne (id : Nat) (inside : k < 64) (other : k ≠ h) : humState (giveUp s h id) k = humState s k := by
  obtain ⟨busy, refused⟩ := powerStatus_ne_counters inside h
  have own : Reg.POWER_Hh_STATUS k ≠ Reg.POWER_Hh_STATUS h := fun same => other (powerStatus_inj same)
  refine humState_congr ?_
  unfold giveUp
  extract_lets x drained tested counted shown
  have resumed : rd drained (Reg.POWER_Hh_STATUS k) = rd s (Reg.POWER_Hh_STATUS k) :=
    rd_undrain s h (by simp only [Reg.POWER_PREPARE_LIMIT, Reg.POWER_Hh_STATUS]; omega)
  have result : rd tested (Reg.POWER_Hh_STATUS k) = rd s (Reg.POWER_Hh_STATUS k) := by
    unfold tested
    split
    · rw [rd_raise, rd_cnt_ne _ busy, rd_wf_ne _ _ _ own, resumed]
    · exact resumed
  split
  · rw [rd_humPut]
    unfold shown
    rw [rd_status_lastRefuser _ other, rd_status_humEnter _ other]
    unfold counted
    split
    · exact result
    · rw [rd_raise, rd_cnt_ne _ refused, result]
  · rw [rd_humPut, rd_status_humEnter _ other, result]

end

/-! ### The votes of PREPARE and the rollback (R493, R497, R279) -/

section
variable {s : State} {h id : Nat}

theorem prepareVote_refuse {r : Nat} (prep : humState s h = 1) (asked : askedBlock s h = some id)
    (vote : blockVote s id = .refuse r) : prepareVote s h = giveUp s h r := by
  simp only [prepareVote, prep, if_true, asked, vote]

theorem prepareVote_agree (prep : humState s h = 1) (asked : askedBlock s h = some id) (vote : blockVote s id = .agree) :
    prepareVote s h = if (hum s h).agreed + 1 < (humBlocks h).length then
        humPut s h { hum s h with agreed := (hum s h).agreed + 1, asked := nowNs s }
      else humEnter (humPut s h { hum s h with agreed := (hum s h).agreed + 1, asked := nowNs s }) h
        (if (hum s h).test then 6 else 3) := by
  simp only [prepareVote, prep, if_true, asked, vote]

theorem prepareVote_agreed (prep : humState s h = 1) (asked : askedBlock s h = some id) (vote : blockVote s id = .agree) :
    (hum (prepareVote s h) h).agreed = (hum s h).agreed + 1 ∧ humState (prepareVote s h) h =
      if (hum s h).agreed + 1 < (humBlocks h).length then 1 else if (hum s h).test = true then 6 else 3 := by
  rw [prepareVote_agree prep asked vote]
  by_cases more : (hum s h).agreed + 1 < (humBlocks h).length
  · rw [if_pos more, if_pos more, hum_humPut_same]
    exact ⟨rfl, prep⟩
  · rw [if_neg more, if_neg more, hum_humEnter, hum_humPut_same, humState_humEnter]
    refine ⟨rfl, ?_⟩
    split <;> rfl

theorem prepareExpired_due (prep : humState s h = 1) (asked : askedBlock s h = some id)
    (due : (hum s h).asked + 1000 * rf s Reg.POWER_PREPARE_LIMIT 15 0 ≤ nowNs s) : prepareExpired s h = giveUp s h id := by
  simp only [prepareExpired, prep, elapsed_due due, and_self, if_true, asked]

theorem foldl_idle {σ ι : Type} {f : σ → ι → σ} {s : σ} : ∀ {l : List ι}, (∀ i ∈ l, f s i = s) → l.foldl f s = s
  | [], _ => rfl
  | i :: l, idle => by
    rw [List.foldl_cons, idle i List.mem_cons_self, foldl_idle fun j hj => idle j (List.mem_cons_of_mem i hj)]

/-- A fold whose other steps change nothing, before its one step and after it. -/
theorem foldl_range_one {σ : Type} {f : σ → Nat → σ} {n : Nat} {s : σ} :
    ∀ {k : Nat}, n < k → (∀ m < k, m ≠ n → f s m = s) → (∀ m < k, m ≠ n → f (f s n) m = f s n) →
      (List.range k).foldl f s = f s n
  | k + 1, inside, before, after => by
    rw [List.range_succ, List.foldl_concat]
    rcases Nat.lt_succ_iff_lt_or_eq.mp inside with lt | rfl
    · rw [foldl_range_one lt (fun m hm => before m (Nat.lt_succ_of_lt hm)) (fun m hm => after m (Nat.lt_succ_of_lt hm)),
        after k (Nat.lt_succ_self k) (Nat.ne_of_gt lt)]
    · have idle : ∀ m ∈ List.range n, f s m = s := fun m hm =>
        before m (Nat.lt_succ_of_lt (List.mem_range.mp hm)) (Nat.ne_of_lt (List.mem_range.mp hm))
      rw [foldl_idle idle]

/-- FERM_QUIESCE in quarter q. -/
def quiesceLook (s : State) (q : Nat) : State :=
  if humState s (28 + q) = 1 ∧ (hum s (28 + q)).agreed = 0 ∧ 0 < slotsUsed s q ∧
    elapsed s (hum s (28 + q)).asked (1000 * rf s Reg.FERM_QUIESCE 15 0) then giveUp s (28 + q) (0x0500 + q) else s

theorem quiesceTimeout_eq (s : State) : quiesceTimeout s = (List.range 4).foldl quiesceLook s := rfl

/-- FERM_QUIESCE has passed in the one quarter that is in PREPARE (R279). -/
theorem quiesceTimeout_one {q : Nat} (quarter : q < 4) (prep : humState s (28 + q) = 1) (first : (hum s (28 + q)).agreed = 0)
    (others : ∀ m < 4, m ≠ q → humState s (28 + m) ≠ 1) (busy : 0 < slotsUsed s q)
    (due : (hum s (28 + q)).asked + 1000 * rf s Reg.FERM_QUIESCE 15 0 ≤ nowNs s) :
    quiesceTimeout s = giveUp s (28 + q) (0x0500 + q) := by
  have own : quiesceLook s q = giveUp s (28 + q) (0x0500 + q) := if_pos ⟨prep, first, busy, elapsed_due due⟩
  rw [quiesceTimeout_eq, foldl_range_one quarter, own]
  · exact fun m four other => if_neg fun due => others m four other due.1
  · intro m four other
    refine if_neg fun due => others m four other ?_
    rw [own, humState_giveUp_ne _ (by omega) (by omega)] at due
    exact due.1

theorem not_channel (plain : ¬ (20 ≤ h ∧ h < 28)) (p q : Prop) : ¬ (20 ≤ h ∧ h < 28 ∧ p ∧ q) :=
  fun ⟨low, high, _⟩ => plain ⟨low, high⟩

theorem resumeAck_more (rolling : humState s h = 2) (plain : ¬ (20 ≤ h ∧ h < 28)) (more : 1 < (hum s h).agreed) :
    resumeAck s h = humPut s h { hum s h with agreed := (hum s h).agreed - 1 } := by
  simp only [resumeAck, rolling, ne_eq, not_true_eq_false, if_false, not_channel plain, false_and, more, if_true]

/-- No block of the entry has agreed any longer. -/
def allResumed (s : State) (h : Nat) : State := humPut s h { hum s h with agreed := 0, test := false, idleSince := nowNs s }

/-- The rollback has come to its end: AWAKE again, ABORTED counted, event 0x042. -/
def rolledBack (s : State) (h : Nat) : State :=
  raise (cnt (awakeAgain (allResumed s h) h (hum s h).refuser) (Reg.POWER_Hh_ABORTED h) 1)
    0x042 (h + (hum s h).refuser * 2 ^ 16) (hum s h).resumed

theorem resumeAck_last (rolling : humState s h = 2) (plain : ¬ (20 ≤ h ∧ h < 28)) (last : (hum s h).agreed ≤ 1) :
    resumeAck s h = humResume (rolledBack s h) h := by
  simp only [resumeAck, rolling, ne_eq, not_true_eq_false, if_false, not_channel plain, false_and, Nat.not_lt.mpr last,
    rolledBack, allResumed, awakeAgain]

/-- A hummock's own state is left out of account. -/
theorem Only.of_humPut {t : State} {x : Hummock} {as : List Nat} {occ : List (Nat × Nat × Nat)} {outs : List Out}
    (only : Only (humPut s h x) t as occ outs) : Only s { t with hummocks := s.hummocks } as occ outs := by
  have rest := congrArg (fun u : State => { u with hummocks := s.hummocks }) only.rest
  exact ⟨only.regs, only.occ, only.out, rest⟩

theorem rolledBack_spec (s : State) {h : Nat} (inside : h < 64) : let t := rolledBack s h
    humState t h = 0 ∧ (hum t h).agreed = 0 ∧
    rdn t (Reg.POWER_Hh_ABORTED h) = min (rdn s (Reg.POWER_Hh_ABORTED h) + 1) (2 ^ 32 - 1) ∧
    rdn t Reg.POWER_LAST_REFUSER = (h + (hum s h).refuser * 2 ^ 16) % 2 ^ 64 ∧
    Only s { t with hummocks := s.hummocks }
      [Reg.POWER_Hh_STATUS h, Reg.POWER_ASLEEP, Reg.POWER_LAST_REFUSER, Reg.POWER_Hh_ABORTED h]
      [(0x042, h + (hum s h).refuser * 2 ^ 16, (hum s h).resumed)] [] := by
  intro t
  have again := awakeAgain_only (allResumed s h) h (hum s h).refuser
  have aborted : Reg.POWER_Hh_ABORTED h ∉ [Reg.POWER_Hh_STATUS h, Reg.POWER_ASLEEP, Reg.POWER_LAST_REFUSER] := by
    simp only [Reg.POWER_Hh_ABORTED, Reg.POWER_Hh_STATUS, Reg.POWER_ASLEEP, Reg.POWER_LAST_REFUSER, List.mem_cons,
      List.not_mem_nil, or_false, not_or]
    omega
  have counter : rdn (awakeAgain (allResumed s h) h (hum s h).refuser) (Reg.POWER_Hh_ABORTED h) = rdn s (Reg.POWER_Hh_ABORTED h) := by
    rw [rdn, again.regs _ aborted, allResumed, rd_humPut, ← rdn]
  simp only [List.mem_cons, List.not_mem_nil, or_false, not_or] at aborted
  obtain ⟨status, -, shown⟩ := aborted
  have only : Only (allResumed s h) t
      [Reg.POWER_Hh_STATUS h, Reg.POWER_ASLEEP, Reg.POWER_LAST_REFUSER, Reg.POWER_Hh_ABORTED h] _ _ :=
    ((again.mono (by simp)).wr _ (by simp)).raise _ _ _
  refine ⟨?_, ?_, ?_, ?_, Only.of_humPut only⟩
  · exact (humState_congr ((rd_raise ..).trans (rd_cnt_ne 1 (Ne.symm status)))).trans (humState_awakeAgain ..)
  · rw [hum, only.hummocks, ← hum, allResumed, hum_humPut_same]
  · rw [show t = rolledBack s h from rfl, rdn, rolledBack, rd_raise, ← rdn, rdn_cnt_same, counter]
  · rw [show t = rolledBack s h from rfl, rdn, rolledBack, rd_raise, rd_cnt_ne 1 (Ne.symm shown), ← rdn,
      rdn_awakeAgain_lastRefuser]

end

/-- Settles O26: a vote by what the asked block answers, a limit and a refusal by `giveUp_givenUp`, the rollback by what it took back. -/
theorem prepareVotes : Obligations.PrepareVotes := by
  unfold Obligations.PrepareVotes
  intro h s n gaveUp
  have inside : n < 64 := Nat.lt_trans h.isLt (by decide)
  refine ⟨fun prep => ⟨fun id asked => ⟨fun vote => ?agree, fun r vote => ?refuse, fun due => ?limit⟩,
    fun low high first others busy due => ?quiesce⟩, fun rolling plain => ⟨fun more => ?more, fun last => ?last⟩⟩
  case agree => exact ⟨_, rfl, prepareVote_agreed prep asked vote⟩
  case refuse => exact ⟨_, congrArg Host.Outcome.next (prepareVote_refuse prep asked vote), giveUp_givenUp s n r⟩
  case limit => exact ⟨_, congrArg Host.Outcome.next (prepareExpired_due prep asked due), giveUp_givenUp s n id⟩
  case quiesce =>
    obtain ⟨q, quarter⟩ : ∃ q, n = 28 + q := ⟨n - 28, by omega⟩
    have index : n - 28 = q := by omega
    rw [index] at busy ⊢
    have answer := quiesceTimeout_one (s := s) (q := q) (by omega) (quarter ▸ prep) (quarter ▸ first)
      (fun m four other => others (28 + m) (by omega) (by omega) (by omega)) busy (quarter ▸ due)
    rw [← quarter] at answer
    exact ⟨_, congrArg Host.Outcome.next answer, giveUp_givenUp s n (0x0500 + q)⟩
  case more =>
    refine ⟨_, congrArg Host.Outcome.next (resumeAck_more rolling plain more), ?_, rfl⟩
    rw [hum_humPut_same]
  case last =>
    exact ⟨rolledBack s n, congrArg Host.Outcome.next (resumeAck_last rolling plain last), rolledBack_spec s inside⟩

end Sys2Proof.Machine
end

section
/-! SUPPORT. The host's accesses to BAR0 (19_host_interface.md R504 to R510): unassigned offsets, other shapes, the registers outside
the hummocks; the statements about them settled with these. -/
namespace Sys2Proof.Machine

/-! ### What an access is reported with -/

/-- The report of a first access, and what is recorded of it. -/
theorem accReport_record {s : State} {code bar : Nat} (write : Bool) {addr : Nat} (hp : s.host.probe = none)
    (h0 : rf s Reg.HOST_ACC_STATUS 3 0 = 0) (hc : code < 16) (hb : bar < 4) (ha : addr < 2 ^ 32) :
    let t := accReport s code bar write addr
    Only s t [Reg.HOST_ACC_STATUS, Reg.HOST_ACC_ADDR] [(0xFC8, 0, pack2 code bar)] [] ∧
    rdn t Reg.HOST_ACC_STATUS = code + bar * 16 + (if write = true then 64 else 0) ∧ rdn t Reg.HOST_ACC_ADDR = addr := by
  obtain ⟨only, status, address⟩ := accReport_first code bar write addr hp h0
  refine ⟨only, status.trans ?_, address.trans (Nat.mod_eq_of_lt (by omega))⟩
  have flag : b2n write * 64 = if write = true then 64 else 0 := by cases write <;> rfl
  rw [flag]
  split <;> omega

section
variable {a n : Nat} (s : State)

/-- An aligned read at no register. -/
theorem bar0Read_unassigned (unassigned : regAt a = none) (len : n = 4 ∨ n = 8 ∨ n = 16) (aligned : a % n = 0) :
    bar0Read s a n = emit (accReport s 2 0 false a) (.readData (List.replicate n 0)) := by
  have known : (n == 4 || n == 8 || n == 16) = true := by simpa [or_assoc] using len
  simp only [bar0Read, bar0Fetch, known, aligned, unassigned, bne_self_eq_false, Bool.not_true, Bool.or_self, Bool.false_eq_true,
    if_false]
  rfl

/-- A full aligned write at no register. -/
theorem bar0Write_unassigned (x : Around) {data : List Byte} (unassigned : regAt a = none)
    (len : data.length = 4 ∨ data.length = 8) (aligned : a % data.length = 0) :
    bar0Write s x a data true = accReport s 2 0 true a := by
  have known : (data.length == 4 || data.length == 8) = true := by simpa using len
  simp only [bar0Write, bar0Put, known, aligned, unassigned, bne_self_eq_false, Bool.not_true, Bool.or_self, Bool.false_eq_true,
    if_false]

/-- A write without all its byte enables. -/
theorem bar0Write_partial (x : Around) (data : List Byte) : bar0Write s x a data false = accReport s 8 0 true a := by
  simp [bar0Write, bar0Put]

end

/-- Settles O7: the report of an access at no register is the first one, and a read's zeros leave after it. -/
theorem unassignedOffsets : Obligations.UnassignedOffsets := by
  unfold Obligations.UnassignedOffsets
  intro addr s a unassigned hp h0
  have small : a < 2 ^ 32 := addr.isLt
  refine ⟨fun n len aligned => ?read, fun data sent len aligned => ?write⟩
  case read =>
    obtain ⟨only, -, address⟩ := accReport_record (code := 2) (bar := 0) false hp h0 (by decide) (by decide) small
    exact ⟨_, congrArg (fun u => Host.Outcome.next (pump u)) (bar0Read_unassigned s unassigned len aligned),
      rf_accReport_code 0 false a (by decide) hp h0, address, only.emit _⟩
  case write =>
    obtain ⟨only, -, address⟩ := accReport_record (s := (fresh s).2) (code := 2) (bar := 0) true hp h0 (by decide) (by decide) small
    exact ⟨_, congrArg (fun u => Host.Outcome.next (pump u)) (bar0Write_unassigned (fresh s).2 _ unassigned len aligned),
      rf_accReport_code (s := (fresh s).2) 0 true a (by decide) hp h0, address, only⟩

/-! ### A 32-bit register outside the hummocks -/

section
variable {s : State} {a : Nat} {r : RegRow}

theorem bar0Write_plain (x : Around) (v : BitVec 32) (row : findRow a = some r) (width : r.width = 4) (aligned : a % 4 = 0)
    (home : bar0Hummock a = none) : bar0Write s x a (toLE 4 v.toNat) true = regSet s x a (v.setWidth 64) := by
  have value : leNat (toLE 4 v.toNat) = v.toNat := (leNat_toLE 4 _).trans (Nat.mod_eq_of_lt v.isLt)
  simp [bar0Write, bar0Put, length_toLE, aligned, regAt_row row, shapeBad, width, home, regPut, value]

theorem bar0Read_plain (row : findRow a = some r) (aligned : a % 4 = 0) (home : bar0Hummock a = none)
    (other : mibAt a = none) : bar0Read s a 4 = emit (afterRead s a r) (.readData (toLE 4 (regShown s a r))) := by
  simp [bar0Read, bar0Fetch, aligned, regAt_row row, shapeBad, home, other]

theorem afterRead_out (s : State) (a : Nat) (r : RegRow) : (afterRead s a r).out = s.out := by
  unfold afterRead
  extract_lets snapped cleared taken
  have first : cleared.out = s.out := by
    unfold cleared snapped
    split <;> split <;> rfl
  have last : taken.out = s.out := by
    unfold taken
    split <;> exact first
  split <;> exact last

theorem afterRead_rc (s : State) (a : Nat) (clears : r.rc ≠ 0) :
    afterRead s a r = wr (afterRead s a { r with rc := 0 }) a (rd (afterRead s a { r with rc := 0 }) a &&& ~~~ BitVec.ofNat 64 r.rc) :=
  if_neg clears

/-- A read that clears nothing and takes nothing. -/
theorem afterRead_regs (plain : r.rc = 0) (snap : a ≠ Reg.TIME_SNAP_NS) (status : a ≠ Reg.HOST_ACC_STATUS) :
    (afterRead s a r).regs = s.regs := by
  simp only [afterRead, if_neg snap, if_neg status, if_pos plain]
  split <;> rfl

end

/-- A field whose bits are all cleared. -/
theorem fld_cleared (v m : W64) {hi lo : Nat} (high : hi < 64) (covers : ∀ i, lo ≤ i → i ≤ hi → bitOf m i = true) :
    fld (v &&& ~~~ m) hi lo = 0 := by
  refine Nat.eq_of_testBit_eq fun i => ?_
  rw [testBit_fld, Nat.zero_testBit]
  by_cases inside : i < hi + 1 - lo
  · have clear : bitOf (v &&& ~~~ m) (lo + i) = (bitOf v (lo + i) && !bitOf m (lo + i)) := by
      have word : lo + i < 64 := by omega
      simp [bitOf, word]
    rw [clear, covers _ (Nat.le_add_right ..) (by omega), Bool.not_true, Bool.and_false, Bool.and_false]
  · rw [decide_eq_false inside, Bool.false_and]

/-- The row of HOST_ACC_STATUS. -/
def accRow : RegRow := { base := 0x3200010, rc := 0xffff007f }

theorem findRow_acc : findRow Reg.HOST_ACC_STATUS = some accRow := by decide

/-- The record's code, BAR and direction, and its count, are cleared. -/
theorem accRow_clears : ∀ i < 64, (i ≤ 3 ∨ 16 ≤ i ∧ i ≤ 31) → bitOf (BitVec.ofNat 64 accRow.rc) i = true := by decide

theorem afterRead_acc (s : State) : afterRead s Reg.HOST_ACC_STATUS accRow =
    wr (wrn s Reg.HOST_ACC_ADDR 0) Reg.HOST_ACC_STATUS
      (rd (wrn s Reg.HOST_ACC_ADDR 0) Reg.HOST_ACC_STATUS &&& ~~~ BitVec.ofNat 64 accRow.rc) := rfl

theorem bar0Read_acc (s : State) : bar0Read s Reg.HOST_ACC_STATUS 4 =
    emit (afterRead s Reg.HOST_ACC_STATUS accRow) (.readData (toLE 4 (regShown s Reg.HOST_ACC_STATUS accRow))) :=
  bar0Read_plain findRow_acc (by decide) (by decide) (by decide)

theorem afterRead_acc_spec (s : State) : let t := afterRead s Reg.HOST_ACC_STATUS accRow
    rf t Reg.HOST_ACC_STATUS 3 0 = 0 ∧ rf t Reg.HOST_ACC_STATUS 31 16 = 0 ∧ rdn t Reg.HOST_ACC_ADDR = 0 ∧
    Only s t [Reg.HOST_ACC_STATUS, Reg.HOST_ACC_ADDR] [] [] := by
  intro t
  have taken : t = _ := afterRead_acc s
  rw [taken]
  refine ⟨?_, ?_, ?_, .wr _ (.wr _ ((Only.refl s).mono (by simp)) (by simp)) (by simp)⟩
  · rw [rf, rd_wr_same]
    exact fld_cleared _ _ (by decide) fun i _ top => accRow_clears i (by omega) (.inl top)
  · rw [rf, rd_wr_same]
    exact fld_cleared _ _ (by decide) fun i low top => accRow_clears i (by omega) (.inr ⟨low, top⟩)
  · rw [rdn, rd_wr_ne _ (by decide), ← rdn, rdn_wrn_same, Nat.zero_mod]

/-- Settles O37: a register outside the hummocks by its row, and each refused access by the one report that it makes. -/
theorem registerAccesses : Obligations.RegisterAccesses := by
  unfold Obligations.RegisterAccesses
  refine fun s => ⟨fun a v r sent row width aligned home => ?write, fun a r row width aligned home other => ?read, ?status,
    fun hp h0 => ?first⟩
  case write =>
    refine ⟨regSet (fresh s).2 { sent := sent, mr := (fresh s).1 % 256 } a.toNat (v.setWidth 64),
      congrArg (fun u => Host.Outcome.next (pump u)) (bar0Write_plain _ v row width aligned home), rfl, fun chip valid => ?_⟩
    rw [regSet, if_pos chip]
    exact regWrite_only row valid
  case read =>
    refine ⟨_, congrArg (fun u => Host.Outcome.next (pump u)) (bar0Read_plain row aligned home other), ?_, fun clears => ?_,
      fun plain snap status => afterRead_regs plain snap status⟩
    · rw [emit_out, afterRead_out]
    · rw [rd_emit, afterRead_rc s a.toNat clears, rd_wr_same]
  case status =>
    obtain ⟨code, missed, address, only⟩ := afterRead_acc_spec s
    refine ⟨_, accRow, congrArg Host.Outcome.next (bar0Read_acc s), findRow_acc, ?_, code, missed, address, only.emit _⟩
    rw [emit_out, afterRead_out]
  case first =>
    intro a v sent first
    refine ⟨fun unassigned aligned => ⟨?dropped, ?zeros⟩, ?enables, ?bar4, fun bar => ?atomic⟩
    case dropped =>
      exact ⟨_, congrArg (fun u => Host.Outcome.next (pump u)) (bar0Write_unassigned _ _ unassigned (.inl (length_toLE ..))
        (by rw [length_toLE]; exact aligned)), accReport_record true hp h0 (by decide) (by decide) a.isLt⟩
    case zeros =>
      obtain ⟨only, status, address⟩ := accReport_record (code := 2) (bar := 0) false hp h0 (by decide) (by decide) a.isLt
      exact ⟨_, congrArg (fun u => Host.Outcome.next (pump u)) (bar0Read_unassigned s unassigned (.inl rfl) aligned),
        only.emit _, status, address⟩
    case enables =>
      exact ⟨_, congrArg (fun u => Host.Outcome.next (pump u)) (bar0Write_partial _ _ _),
        accReport_record true hp h0 (by decide) (by decide) a.isLt⟩
    case bar4 => exact ⟨_, rfl, accReport_record true hp h0 (by decide) (by decide) a.isLt⟩
    case atomic =>
      obtain ⟨only, status, address⟩ :=
        accReport_record (code := 10) (bar := bar.val) true hp h0 (by decide) (by omega) a.isLt
      exact ⟨_, rfl, only.emit _, status, address⟩

end Sys2Proof.Machine
end

section
/-! SUPPORT. The rings of the host interface (19_host_interface.md R515 to R517): a ring's registers, the admission of commands, a
descriptor taken; the statements about them settled with these. -/
namespace Sys2Proof.Machine

/-! ### A ring's registers -/

/-- The rings' registers lie together, above the host's other registers and below MSI-X. -/
theorem ringRegs_within {e : Nat} (ring : e < 36) : 0x3201000 ≤ ringRegs e ∧ ringRegs e + 0x40 ≤ 0x3203100 := by
  unfold ringRegs
  split
  · simp only [Reg.HOST_TXt_BASE]; omega
  · split
    · simp only [Reg.HOST_RXr_BASE]; omega
    · simp only [Reg.HOST_CQq_BASE]; omega

theorem ringTail_ne_head (e : Nat) : ringTailReg e ≠ ringHeadReg e := by simp [ringTailReg, ringHeadReg]
theorem ringCfg_ne_head (e : Nat) : ringCfgReg e ≠ ringHeadReg e := by simp [ringCfgReg, ringHeadReg]
theorem ringHead_ne_tail (e : Nat) : ringHeadReg e ≠ ringTailReg e := (ringTail_ne_head e).symm

section
variable {s t : State} {e : Nat}

theorem ringHead_congr (same : rd t (ringHeadReg e) = rd s (ringHeadReg e)) : ringHead t e = ringHead s e := by
  rw [ringHead, rf, same, ← rf, ← ringHead]

theorem ringPhase_congr (same : rd t (ringHeadReg e) = rd s (ringHeadReg e)) : ringPhase t e = ringPhase s e := by
  rw [ringPhase, rf, same, ← rf, ← ringPhase]

theorem ringEntries_congr (same : rd t (ringCfgReg e) = rd s (ringCfgReg e)) : ringEntries t e = ringEntries s e := by
  rw [ringEntries, rf, same, ← rf, ← ringEntries]

theorem ringOn_congr (same : rd t (ringCfgReg e) = rd s (ringCfgReg e)) : ringOn t e = ringOn s e := by
  rw [ringOn, rb, same, ← rb, ← ringOn]

end

/-! ### HEAD advances (R515) -/

section
variable (s : State) (e : Nat)

theorem rd_ringAdvance_ne {a : Nat} (other : a ≠ ringHeadReg e) : rd (ringAdvance s e) a = rd s a := by
  unfold ringAdvance
  extract_lets h t
  have phase : rd t a = rd s a := by
    unfold t
    split
    · exact rd_wf_ne _ _ _ other
    · rfl
  rw [rd_wf_ne _ _ _ other, phase]

theorem ringHead_ringAdvance : ringHead (ringAdvance s e) e = (ringHead s e + 1) % ringEntries s e % 2 ^ 16 := by
  rw [ringHead, ringAdvance, rf_wf_same _ _ _ _ _ (by decide)]

theorem ringPhase_ringAdvance : ringPhase (ringAdvance s e) e =
    if (ringHead s e + 1) % ringEntries s e = 0 then 1 - ringPhase s e else ringPhase s e := by
  rw [ringPhase, ringAdvance, rf_wf_ne _ (.inr (.inr (by decide)))]
  split
  · rw [rf_wf_same _ _ _ _ _ (by decide)]
    exact Nat.mod_eq_of_lt (by omega)
  · rfl

/-- Nothing but HEAD and PHASE changes. -/
theorem ringAdvance_rest : { ringAdvance s e with regs := s.regs } = s := by
  simp only [ringAdvance]
  split <;> rfl

theorem ringAdvance_host : (ringAdvance s e).host = s.host := (congrArg State.host (ringAdvance_rest s e) :)
theorem ringAdvance_ev : (ringAdvance s e).ev = s.ev := (congrArg State.ev (ringAdvance_rest s e) :)
theorem ringAdvance_out : (ringAdvance s e).out = s.out := (congrArg State.out (ringAdvance_rest s e) :)

end

/-! ### A vector is raised (R524) -/

section
variable (s : State) (v : Nat)

/-- The pending bits lie above the rings. -/
theorem rd_pbaSet (b : Bool) {a : Nat} (below : a < 0x3301000) : rd (pbaSet s v b) a = rd s a :=
  rd_wf_ne _ _ _ (by simp only [Reg.HOST_MSIX_PBAw]; omega)

theorem rd_raiseVector {a : Nat} (below : a < 0x3301000) : rd (raiseVector s v) a = rd s a := by
  unfold raiseVector
  split
  · exact rd_pbaSet s v true below
  · rw [rd_emit, rd_pbaSet s v false below]

/-- Nothing but a pending bit changes, and what leaves. -/
theorem raiseVector_rest : { raiseVector s v with regs := s.regs, out := s.out } = s := by
  unfold raiseVector
  split <;> rfl

theorem raiseVector_host : (raiseVector s v).host = s.host := (congrArg State.host (raiseVector_rest s v) :)
theorem raiseVector_ev : (raiseVector s v).ev = s.ev := (congrArg State.ev (raiseVector_rest s v) :)

theorem mem_raiseVector_out {o : Out} (left : o ∈ s.out) : o ∈ (raiseVector s v).out := by
  unfold raiseVector
  split
  · exact left
  · exact List.mem_cons_of_mem _ left

theorem raiseVector_masked_out (masked : vecMasked s v = true) : (raiseVector s v).out = s.out := by
  rw [raiseVector, if_pos masked, pbaSet, wf_out]

end

/-! ### A descriptor is taken (R516) -/

section
variable (s : State) {e : Nat} (irq : Bool)

theorem rd_txConsume_ne {a : Nat} (other : a ≠ ringHeadReg e) (below : a < 0x3301000) : rd (txConsume s e irq) a = rd s a := by
  unfold txConsume
  extract_lets t u
  have written : rd u a = rd s a := by
    unfold u
    split <;> exact rd_ringAdvance_ne s e other
  split
  · rw [ringVector, rd_raiseVector _ _ below, written]
  · exact written

theorem rd_txConsume_head (ring : e < 36) : rd (txConsume s e irq) (ringHeadReg e) = rd (ringAdvance s e) (ringHeadReg e) := by
  have within := ringRegs_within ring
  unfold txConsume
  extract_lets t u
  have written : rd u (ringHeadReg e) = rd t (ringHeadReg e) := by
    unfold u
    split <;> rfl
  split
  · rw [ringVector, rd_raiseVector _ _ (by rw [ringHeadReg]; omega), written]
  · exact written

theorem ringHead_txConsume (ring : e < 36) : ringHead (txConsume s e irq) e = (ringHead s e + 1) % ringEntries s e % 2 ^ 16 :=
  (ringHead_congr (rd_txConsume_head s irq ring)).trans (ringHead_ringAdvance s e)

theorem ringPhase_txConsume (ring : e < 36) : ringPhase (txConsume s e irq) e =
    if (ringHead s e + 1) % ringEntries s e = 0 then 1 - ringPhase s e else ringPhase s e :=
  (ringPhase_congr (rd_txConsume_head s irq ring)).trans (ringPhase_ringAdvance s e)

theorem txConsume_units : ((txConsume s e irq).host, (txConsume s e irq).ev) = (s.host, s.ev) := by
  unfold txConsume
  extract_lets t u
  have written : (u.host, u.ev) = (s.host, s.ev) := by
    unfold u
    split <;> exact Prod.ext (ringAdvance_host s e) (ringAdvance_ev s e)
  split
  · rw [ringVector, raiseVector_host, raiseVector_ev, written]
  · exact written

end

/-! ### An injected frame leaves the host interface alone (R516) -/

/-- Copies made or refused change the copies and counters. -/
theorem makeCopies_host (s : State) (f : Nat) (fr : Frame) (dests : List Nat) (k : Nat) :
    (makeCopies s f fr dests k).2.host = s.host := by
  refine foldl_view (fun z : Nat × State => z.2.host) dests (0, s) fun p _ z => ?_
  dsimp only
  split
  · rfl
  · have counted (u : State) : (if p < 64 then cnt u (Reg.MERE_PORTp_COPY_DROPS p) 1
        else if p = 65 then cnt u Reg.MERE_RECIRC_DROPS 1 else u).host = u.host := by
      split
      · rfl
      · split <;> rfl
    cases fr.inject <;> exact counted z.2

theorem frameCheck_host (s : State) (f : Nat) : (frameCheck s f).host = s.host :=
  (congrArg State.host (withoutFrames_frameCheck s f) :)

theorem injectFrame_host (s : State) (x : TxFetch) (data : List Byte) : (injectFrame s x data).host = s.host := by
  unfold injectFrame
  extract_lets
  rw [frameCheck_host, makeCopies_host]
  rfl

/-! ### A write of CFG or TAIL (R515) -/

/-- The rows of CFG put EN whatever value is named beside it. -/
theorem ringCfg_rows : ∀ e : Fin 36, ((findRow (ringCfgReg e.val)).any fun r => decide (r.rw.testBit 0 = true ∧ r.w1c = 0 ∧
    ∀ f ∈ r.valid, 0 < f.2.1)) = true := by decide

/-- The rows of TAIL put every value. -/
theorem ringTail_rows : ∀ e : Fin 36, ((findRow (ringTailReg e.val)).any fun r => decide (r.rw = 0xffff ∧ r.w1c = 0 ∧
    r.valid = [])) = true := by decide

/-- An option that some value of a kind is in. -/
theorem exists_of_any {α : Type} {p : α → Prop} [DecidablePred p] : ∀ {o : Option α}, o.any (fun x => decide (p x)) = true →
    ∃ x, o = some x ∧ p x
  | some x, h => ⟨x, rfl, of_decide_eq_true h⟩

theorem ringCfg_row {e : Nat} (ring : e < 36) : ∃ r, findRow (ringCfgReg e) = some r ∧ r.rw.testBit 0 = true ∧ r.w1c = 0 ∧
    ∀ f ∈ r.valid, 0 < f.2.1 := exists_of_any (ringCfg_rows ⟨e, ring⟩)

theorem ringTail_row {e : Nat} (ring : e < 36) : ∃ r, findRow (ringTailReg e) = some r ∧ r.rw = 0xffff ∧ r.w1c = 0 ∧
    r.valid = [] := exists_of_any (ringTail_rows ⟨e, ring⟩)

/-- A field none of whose reserved ranges lies at bit i. -/
theorem bitOf_reservedBits_clear {r : RegRow} (v : W64) {i : Nat} (above : ∀ f ∈ r.valid, i < f.2.1) :
    bitOf (reservedBits r v) i = false := by
  have fold : bitOf (reservedBits r v) i = bitOf 0 i := by
    refine foldl_view (bitOf · i) r.valid 0 fun f hf m => ?_
    dsimp only
    split
    · rfl
    · have low := above f hf
      rw [bitOf, BitVec.getLsbD_or, getLsbD_maskOf, ← bitOf]
      simp [Nat.not_le.mpr low]
  rw [fold]
  exact BitVec.getLsbD_zero

/-- EN follows a write of CFG. -/
theorem ringOn_regWrite (s : State) {e : Nat} (ring : e < 36) (v : W64) (enables : bitOf v 0 = true) :
    ringOn (regWrite s (ringCfgReg e) v) e = true := by
  have within := ringRegs_within ring
  obtain ⟨r, row, written, kept, above⟩ := ringCfg_row ring
  rw [ringOn, rb, rd_regWrite_same v row (by simp only [ringCfgReg, Reg.HOST_ACC_STATUS]; omega)
    (by simp only [ringCfgReg, Reg.HOST_ACC_ADDR]; omega), bitOf_regMerge_reserved r _ v (by decide), written, kept,
    bitOf_reservedBits_clear v above, enables]
  simp

/-- TAIL reads what was written. -/
theorem tail_regWrite (s : State) {e : Nat} (ring : e < 36) (v : W64) :
    regWrite s (ringTailReg e) v = wr s (ringTailReg e) (rd (regWrite s (ringTailReg e) v) (ringTailReg e)) ∧
    rf (regWrite s (ringTailReg e) v) (ringTailReg e) 15 0 = fld v 15 0 := by
  obtain ⟨r, row, written, kept, every⟩ := ringTail_row ring
  have valid : reservedBits r v = 0 := by rw [reservedBits, every]; rfl
  rw [regWrite_row row valid, rf, rd_wr_same]
  refine ⟨rfl, fld_regMerge r _ v 15 0 valid (by decide) fun i _ high => ⟨?_, by rw [kept, Nat.zero_testBit]⟩⟩
  have bits : ∀ i < 16, (0xffff : Nat).testBit i = true := by decide
  rw [written, bits i (by omega)]

/-! ### Commands are admitted at writes of TAIL (R522) -/

theorem ringPending_cqAdmit (s : State) (q e : Nat) : ringPending (cqAdmit s q) e = ringPending s e := rfl

/-- As many are admitted as are posted. -/
theorem count_cqAdmit (s : State) (q : Nat) : (cqAdmit s q).host.admitted.count q = ringPending s (32 + q) := by
  have same : (s.host.admitted.filter (· == q)).length = s.host.admitted.count q := (List.count_eq_length_filter ..).symm
  simp only [cqAdmit, same]
  split
  · rw [List.count_append, List.count_replicate_self]
    omega
  · have gone : (s.host.admitted.filter (· != q)).count q = 0 := List.count_eq_zero.mpr (by simp)
    rw [List.count_append, gone, List.count_replicate_self, Nat.zero_add]

/-! ### Enabling and posting (R515) -/

section
variable {s : State} {e : Nat}

/-- Admission leaves the registers. -/
theorem rd_admitting (w : State) (q a : Nat) : rd (if 32 ≤ e then cqAdmit w q else w) a = rd w a := by
  split <;> rfl

theorem ringCfg_starts (ring : e < 36) (off : ringOn s e = false) {v : W64} (enables : bitOf v 0 = true) (a : Nat) :
    rd (ringCfg s e v) a = rd (wf (wf (regWrite s (ringCfgReg e) v) (ringHeadReg e) 15 0 0) (ringHeadReg e) 30 30 1) a := by
  simp only [ringCfg]
  rw [rd_admitting, ringOn_regWrite s ring v enables, off]
  rfl

/-- EN from 0 to 1. -/
theorem ringCfg_enables (ring : e < 36) (off : ringOn s e = false) {v : W64} (enables : bitOf v 0 = true) :
    let u := ringCfg s e v
    ringOn u e = true ∧ ringHead u e = 0 ∧ ringPhase u e = 1 := by
  have starts := ringCfg_starts ring off enables
  refine ⟨?_, ?_, ?_⟩
  · refine (ringOn_congr ?_).trans (ringOn_regWrite s ring v enables)
    rw [starts, rd_wf_ne _ _ _ (ringCfg_ne_head e), rd_wf_ne _ _ _ (ringCfg_ne_head e)]
  · rw [ringHead_congr (starts _), ringHead, rf_wf_ne _ (.inr (.inl (by decide))), rf_wf_same _ _ _ _ _ (by decide)]
    rfl
  · rw [ringPhase_congr (starts _), ringPhase, rf_wf_same _ _ _ _ _ (by decide)]
    rfl

theorem rd_ringTail (s : State) (e : Nat) (v : W64) (a : Nat) :
    rd (ringTail s e v) a = rd (wf (regWrite s (ringTailReg e) v) (ringHeadReg e) 31 31 0) a := rd_admitting ..

/-- A descriptor is posted: TAIL, and STOPPED cleared. -/
theorem ringTail_posts (s : State) (ring : e < 36) (v : BitVec 32) : let u := ringTail s e (v.setWidth 64)
    rf u (ringTailReg e) 15 0 = v.toNat % 2 ^ 16 ∧ rb u (ringHeadReg e) 31 = false ∧ ringHead u e = ringHead s e := by
  obtain ⟨alone, tail⟩ := tail_regWrite s ring (v.setWidth 64)
  refine ⟨?_, ?_, ?_⟩
  · rw [rf, rd_ringTail, rd_wf_ne _ _ _ (ringTail_ne_head e), ← rf, tail, ← BitVec.ofNat_toNat, fld_ofNat _ _ v.isLt,
      Nat.pow_zero, Nat.div_one]
  · rw [rb, rd_ringTail, ← rb, rb_wf_same, if_pos (by decide)]
    rfl
  · rw [ringHead_congr (rd_ringTail s e _ _), ringHead, rf_wf_ne _ (.inr (.inl (by decide))), alone, rf,
      rd_wr_ne _ (ringHead_ne_tail e), ← rf, ringHead]

end

/-- The commands admitted of a queue whose TAIL was written. -/
theorem ringTail_admits (s : State) (q : Nat) (v : W64) :
    (ringTail s (32 + q) v).host.admitted.count q = ringPending (ringTail s (32 + q) v) (32 + q) := by
  have admits : ringTail s (32 + q) v = cqAdmit (wf (regWrite s (ringTailReg (32 + q)) v) (ringHeadReg (32 + q)) 31 31 0) q := by
    simp only [ringTail]
    rw [if_pos (Nat.le_add_right 32 q), Nat.add_sub_cancel_left]
  rw [admits, count_cqAdmit, ringPending_cqAdmit]

/-! ### TX descriptors (R516, R517) -/

section
variable {s : State} {e : Nat} {d : List Byte}

/-- The ring takes a descriptor. -/
def TakesDescriptor (s : State) (e : Nat) (d : List Byte) : Prop :=
  ringLive s e = true ∧ ringPending s e ≠ 0 ∧ tabFind s.host.fetch e = none ∧ d.length = 32

theorem txDescriptor_badCheck (takes : TakesDescriptor s e d) (bad : descChecks d 32 = false) :
    txDescriptor s e d = ringBadCheck s e := by
  obtain ⟨live, posted, idle, len⟩ := takes
  simp [txDescriptor, live, posted, idle, len, bad]

theorem txDescriptor_fetch {f : TxFetch} (takes : TakesDescriptor s e d) (good : descChecks d 32 = true) (frame : txParse e d = some f)
    (room : injectUsed s + f.len + (if f.fcsIn = true then 0 else 4) ≤ 524288) :
    txDescriptor s e d = { s with host := { s.host with fetch := tabSet s.host.fetch e f } } := by
  obtain ⟨live, posted, idle, len⟩ := takes
  simp [txDescriptor, live, posted, idle, len, good, frame, Nat.not_lt.mpr room]

theorem txDescriptor_invalid (takes : TakesDescriptor s e d) (good : descChecks d 32 = true) (invalid : txParse e d = none) :
    txDescriptor s e d = txConsume (raise (cnt s (Reg.HOST_TXt_BAD e) 1) 0xFCE 0 e) e ((byteAt d 11).testBit 1) := by
  obtain ⟨live, posted, idle, len⟩ := takes
  simp [txDescriptor, live, posted, idle, len, good, invalid]

theorem ringBadCheck_spec (s : State) (e : Nat) : let t := ringBadCheck s e
    rb t (ringHeadReg e) 31 = true ∧ ringHead t e = ringHead s e ∧ Only s t [ringHeadReg e] [(0xFCB, e, ringHead s e)] [] := by
  refine ⟨?_, ?_, (((Only.refl s).mono (by simp)).wr _ (by simp)).raise _ _ _⟩
  · rw [ringBadCheck, rb_raise, ringStop, rb_wf_same, if_pos (by decide)]
    rfl
  · rw [ringHead, ringBadCheck, rf_raise, ringStop, rf_wf_ne _ (.inr (.inl (by decide))), ringHead]

end

/-- The TX counters are no ring's HEAD or CFG. -/
theorem txCounters_apart (t : Nat) {e : Nat} (tx : e < 16) : Reg.HOST_TXt_BAD t ≠ ringHeadReg e ∧ Reg.HOST_TXt_FRAMES t ≠ ringHeadReg e ∧
    Reg.HOST_TXt_BAD t ≠ ringCfgReg e ∧ Reg.HOST_TXt_FRAMES t ≠ ringCfgReg e := by
  simp only [Reg.HOST_TXt_BAD, Reg.HOST_TXt_FRAMES, ringHeadReg, ringCfgReg, ringRegs, if_pos tx, Reg.HOST_TXt_BASE]
  omega

/-- A descriptor with an invalid field (R517). -/
theorem txInvalid_spec (s : State) {e : Nat} (tx : e < 16) (irq : Bool) :
    let t := txConsume (raise (cnt s (Reg.HOST_TXt_BAD e) 1) 0xFCE 0 e) e irq
    rdn t (Reg.HOST_TXt_BAD e) = min (rdn s (Reg.HOST_TXt_BAD e) + 1) (2 ^ 32 - 1) ∧ ⟨0xFCE, 0, e, tickNo s⟩ ∈ t.ev.occ ∧
    ringHead t e = (ringHead s e + 1) % ringEntries s e % 2 ^ 16 := by
  obtain ⟨head, -, cfg, -⟩ := txCounters_apart e tx
  refine ⟨?_, ?_, ?_⟩
  · rw [rdn, rd_txConsume_ne _ _ head (by simp only [Reg.HOST_TXt_BAD]; omega), rd_raise, ← rdn, rdn_cnt_same]
  · rw [(Prod.mk.inj (txConsume_units _ _)).2, raise_occ]
    exact List.mem_append_right _ (List.mem_singleton.mpr rfl)
  · rw [ringHead_txConsume _ _ (by omega), ringHead_congr ((rd_raise ..).trans (rd_cnt_ne 1 head.symm)),
      ringEntries_congr ((rd_raise ..).trans (rd_cnt_ne 1 cfg.symm))]

/-- The frame in hand is injected. -/
theorem txFrame_injects {s : State} {e : Nat} {x : TxFetch} (data : List Byte) (hand : tabFind s.host.fetch e = some x)
    (live : ringLive s e = true) : txFrame s e data =
      txConsume (cntWrap (injectFrame { s with host := { s.host with fetch := tabDel s.host.fetch e } } x data)
        (Reg.HOST_TXt_FRAMES e) 1) e x.irq := by
  simp [txFrame, hand, live]

theorem txInjected_spec (w : State) {e : Nat} (tx : e < 16) (irq : Bool) : let u := txConsume (cntWrap w (Reg.HOST_TXt_FRAMES e) 1) e irq
    u.host = w.host ∧ ringHead u e = (ringHead w e + 1) % ringEntries w e % 2 ^ 16 ∧
    ringPhase u e = if (ringHead w e + 1) % ringEntries w e = 0 then 1 - ringPhase w e else ringPhase w e := by
  obtain ⟨-, head, -, cfg⟩ := txCounters_apart e tx
  have counted {a : Nat} (ne : Reg.HOST_TXt_FRAMES e ≠ a) : rd (cntWrap w (Reg.HOST_TXt_FRAMES e) 1) a = rd w a := rd_wrn_ne _ ne.symm
  refine ⟨(Prod.mk.inj (txConsume_units _ _)).1, ?_, ?_⟩
  · rw [ringHead_txConsume _ _ (by omega), ringHead_congr (counted head), ringEntries_congr (counted cfg)]
  · rw [ringPhase_txConsume _ _ (by omega), ringHead_congr (counted head), ringEntries_congr (counted cfg),
      ringPhase_congr (counted head)]

/-- Settles O39: EN and TAIL by the rows of their registers, a descriptor by what its CHECK and fields say, a frame by `txFrame_injects`. -/
theorem ringsFollowR515 : Obligations.RingsFollowR515 := by
  unfold Obligations.RingsFollowR515
  refine ⟨fun s ring v off enables => ?enable, fun s v => ?tail, fun s ring => ?tx⟩
  case enable =>
    have bit : bitOf (v.setWidth 64) 0 = true := by simpa [bitOf] using enables
    exact ⟨_, rfl, ringCfg_enables ring.isLt off bit⟩
  case tail =>
    refine ⟨fun r => ⟨_, rfl, ringTail_posts s (by omega) v⟩, fun r => ⟨_, rfl, ringTail_posts s (by omega) v⟩, fun q =>
      ⟨_, rfl, ringTail_posts s (by omega) v, fun _ => ringTail_admits s q.val _⟩⟩
  case tx =>
    have tx : ring.val < 16 := ring.isLt
    refine ⟨fun d live posted idle len => ?_, fun x data hand live => ?_⟩
    · have takes : TakesDescriptor s ring.val d := ⟨live, posted, idle, len⟩
      refine ⟨fun bad => ⟨_, congrArg Host.Outcome.next (txDescriptor_badCheck takes bad), ringBadCheck_spec s ring.val⟩,
        fun f good frame room => ⟨_, congrArg Host.Outcome.next (txDescriptor_fetch takes good frame room), ?_, rfl⟩,
        fun good invalid => ⟨_, congrArg Host.Outcome.next (txDescriptor_invalid takes good invalid), txInvalid_spec s tx _⟩⟩
      rw [tabFind_tabSet, if_pos rfl]
    · obtain ⟨host, head, phase⟩ := txInjected_spec
        (injectFrame { s with host := { s.host with fetch := tabDel s.host.fetch ring.val } } x data) tx x.irq
      refine ⟨_, _, congrArg (fun u => Host.Outcome.next (pump u)) (txFrame_injects data hand live), rfl, rfl, ?_, head, phase⟩
      rw [host, injectFrame_host, tabFind_tabDel, if_pos rfl]

end Sys2Proof.Machine
end

section
/-! SUPPORT. Delivery to the host (19_host_interface.md R518, R519): a frame written into one buffer, or dropped where none is posted;
the statement about it settled with these. -/
namespace Sys2Proof.Machine

/-- The row of a ring's flags: SOF, EOF and PHASE of a frame in one buffer, and whether it is a sample. -/
def wholeMarks (s : State) (r : Nat) (sample : Bool) : Nat :=
  3 + 4 * (if sample = true then 1 else 0) + 128 * ringPhase s (16 + r)

/-- A frame's bytes leave for a buffer, then its completion. -/
def rxWritten (s : State) (r : Nat) (sample : Bool) (d bytes : List Byte) : State :=
  emit (emit s (.hostWrite (leAt d 0 8) bytes)) (.hostWrite (rdn s (Reg.HOST_RXr_CMPL r) + 8 * ringHead s (16 + r))
    (toLE 2 bytes.length ++ toLE 1 (wholeMarks s r sample) ++ toLE 1 r ++ toLE 4 bytes.length))

/-- HEAD advances past a frame's last buffer, and the frame is counted. -/
def rxTaken (s : State) (r : Nat) : State :=
  let s := ringAdvance s (16 + r)
  cntWrap { s with host := { s.host with rxPart := tabDel s.host.rxPart r } } (Reg.HOST_RXr_FRAMES r) 1

section
variable {s : State} {r n : Nat} {c : Copy} {d : List Byte} {descs : List (List Byte)}

/-- What the ring delivers next. -/
def Delivers (s : State) (r n : Nat) (c : Copy) : Prop :=
  tabFind s.host.rxPart r = none ∧ rxNext s r = some (n, c) ∧ ringLive s (16 + r) = true ∧ rxBuffer s r ≠ 0

theorem rxDeliver_few (next : Delivers s r n c)
    (few : ringPending s (16 + r) < ((rxBytes s c).length + rxBuffer s r - 1) / rxBuffer s r) :
    rxDeliver s r descs = if rb s (ringCfgReg (16 + r)) 1 = true then
      copyGone (raise (cnt s (Reg.HOST_RXr_NOBUF r) 1) 0xFCD 0 r) n else s := by
  obtain ⟨whole, copy, live, buffer⟩ := next
  simp [rxDeliver, whole, copy, live, buffer, few]

theorem rxDeliver_fills (next : Delivers s r n c)
    (enough : ((rxBytes s c).length + rxBuffer s r - 1) / rxBuffer s r ≤ ringPending s (16 + r)) :
    rxDeliver s r descs = rxFill r n (rxBytes s c) c.sample.isSome descs s 0 := by
  obtain ⟨whole, copy, live, buffer⟩ := next
  simp [rxDeliver, whole, copy, live, buffer, Nat.not_lt.mpr enough]

theorem rxFill_whole {bytes : List Byte} (sample : Bool) (live : ringLive s (16 + r) = true) (posted : ringPending s (16 + r) ≠ 0)
    (good : descChecks d 16 = true) (some : bytes ≠ []) (fits : bytes.length ≤ rxBuffer s r) :
    rxFill r n bytes sample (d :: descs) s 0 =
      copyGone (ringVector (rxTaken (rxWritten s r sample d bytes) r) (16 + r)) n := by
  have len : ¬ bytes.length ≤ 0 := fun none => some (List.length_eq_zero_iff.mp (Nat.le_zero.mp none))
  have part : slice bytes 0 (rxBuffer s r) = bytes := by rw [slice, List.drop_zero, List.take_of_length_le fits]
  have marks : b2n (0 == 0) + 2 * b2n (decide (bytes.length ≤ 0 + bytes.length)) + 4 * b2n sample + 128 * ringPhase s (16 + r) =
      wholeMarks s r sample := by
    rw [decide_eq_true (by omega)]
    rfl
  have last : decide (bytes.length ≤ 0 + bytes.length) = true := decide_eq_true (by omega)
  simp only [rxFill]
  rw [if_neg (by simp [live, some, posted]), if_neg (by simp [good]), part, if_pos last, marks]
  rfl

end

/-! ### What the delivery of one frame leaves -/

theorem rxCfgReg {r : Nat} (rx : r < 16) : ringCfgReg (16 + r) = Reg.HOST_RXr_CFG r := by
  rw [ringCfgReg, ringRegs, if_neg (by omega), if_pos (by omega), Nat.add_sub_cancel_left]
  simp only [Reg.HOST_RXr_BASE, Reg.HOST_RXr_CFG]
  omega

theorem rxHeadReg {r : Nat} (rx : r < 16) : ringHeadReg (16 + r) = Reg.HOST_RXr_HEAD r := by
  rw [ringHeadReg, ringRegs, if_neg (by omega), if_pos (by omega), Nat.add_sub_cancel_left]
  simp only [Reg.HOST_RXr_BASE, Reg.HOST_RXr_HEAD]
  omega

section
variable (s : State) {r : Nat}

theorem rd_rxTaken_ne {a : Nat} (other : a ≠ Reg.HOST_RXr_FRAMES r) : rd (rxTaken s r) a = rd (ringAdvance s (16 + r)) a :=
  rd_wrn_ne _ other

theorem rxTaken_out : (rxTaken s r).out = s.out := ringAdvance_out s (16 + r)

theorem rdn_rxTaken_frames (rx : r < 16) :
    rdn (rxTaken s r) (Reg.HOST_RXr_FRAMES r) = (rdn s (Reg.HOST_RXr_FRAMES r) + 1) % 2 ^ 64 := by
  have counter : Reg.HOST_RXr_FRAMES r ≠ ringHeadReg (16 + r) := by
    rw [rxHeadReg rx]; simp [Reg.HOST_RXr_FRAMES, Reg.HOST_RXr_HEAD]
  rw [rxTaken, cntWrap, rdn_wrn_same, rdn, rd_with, rd_ringAdvance_ne _ _ counter, ← rdn]

theorem ringHead_rxTaken (rx : r < 16) :
    ringHead (rxTaken s r) (16 + r) = (ringHead s (16 + r) + 1) % ringEntries s (16 + r) % 2 ^ 16 := by
  have counter : ringHeadReg (16 + r) ≠ Reg.HOST_RXr_FRAMES r := by
    rw [rxHeadReg rx]; simp [Reg.HOST_RXr_FRAMES, Reg.HOST_RXr_HEAD]
  rw [ringHead_congr (rd_rxTaken_ne s counter), ringHead_ringAdvance]

/-- The ring's vector is masked after the delivery as before. -/
theorem rxTaken_masked (rx : r < 16) (masked : vecMasked s (rf s (ringCfgReg (16 + r)) 15 8) = true) :
    vecMasked (rxTaken s r) (rf (rxTaken s r) (ringCfgReg (16 + r)) 15 8) = true := by
  have cfg : rd (rxTaken s r) (ringCfgReg (16 + r)) = rd s (ringCfgReg (16 + r)) := by
    rw [rd_rxTaken_ne s (by rw [rxCfgReg rx]; simp only [Reg.HOST_RXr_CFG, Reg.HOST_RXr_FRAMES]; omega),
      rd_ringAdvance_ne _ _ (ringCfg_ne_head _)]
  have control (v : Nat) : rd (rxTaken s r) (Reg.HOST_MSIXv_CTL v) = rd s (Reg.HOST_MSIXv_CTL v) := by
    rw [rd_rxTaken_ne s (by simp only [Reg.HOST_MSIXv_CTL, Reg.HOST_RXr_FRAMES]; omega),
      rd_ringAdvance_ne _ _ (by rw [rxHeadReg rx]; simp only [Reg.HOST_MSIXv_CTL, Reg.HOST_RXr_HEAD]; omega)]
  rw [rf, cfg, ← rf, vecMasked, rb, control, ← rb]
  exact masked

end

/-- Settles O40: a frame that fits its buffer by `rxFill_whole`, one without a buffer by DROP_EN. -/
theorem deliveryToTheHost : Obligations.DeliveryToTheHost := by
  unfold Obligations.DeliveryToTheHost
  intro ring s n c descs r e bytes whole copy live buffer
  have next : Delivers s r n c := ⟨whole, copy, live, buffer⟩
  refine ⟨fun d ds first good some fits posted masked => ?fills, fun few => ⟨fun drops => ?drops, fun waits => ?waits⟩⟩
  case fills =>
    have rx : r < 16 := ring.isLt
    have len : 0 < bytes.length := List.length_pos_iff.mpr some
    have one : (bytes.length + rxBuffer s r - 1) / rxBuffer s r = 1 := by
      rw [Nat.div_eq_iff (Nat.pos_of_ne_zero buffer)]
      omega
    have answer := (rxDeliver_fills (descs := descs) next (by rw [one]; exact Nat.one_le_iff_ne_zero.mpr posted)).trans
      (first ▸ rxFill_whole c.sample.isSome live posted good some fits)
    have written := rxTaken_masked (rxWritten s r c.sample.isSome d bytes) rx masked
    have below : ringHeadReg (16 + r) < 0x3301000 := by rw [rxHeadReg rx]; simp only [Reg.HOST_RXr_HEAD]; omega
    obtain ⟨-, out, -, -⟩ :=
      copyGone_shown (ringVector (rxTaken (rxWritten s r c.sample.isSome d bytes) r) (16 + r)) n
    refine ⟨_, congrArg (fun u => Host.Outcome.next (pump u)) answer, copyOf_copyGone _ n, ?_, ?_, ?_⟩
    · rw [out, ringVector, raiseVector_masked_out _ _ written, rxTaken_out]
      rfl
    · rw [rdn, rd_copyGone, ringVector, rd_raiseVector _ _ (by simp only [Reg.HOST_RXr_FRAMES]; omega), ← rdn,
        rdn_rxTaken_frames _ rx]
      rfl
    · rw [ringHead_congr (rd_copyGone ..), ringVector, ringHead_congr (rd_raiseVector _ _ below), ringHead_rxTaken _ rx]
      rfl
  case drops =>
    obtain ⟨-, -, ev, -⟩ := copyGone_shown (raise (cnt s (Reg.HOST_RXr_NOBUF r) 1) 0xFCD 0 r) n
    refine ⟨_, congrArg (fun u => Host.Outcome.next (pump u)) ((rxDeliver_few next few).trans (if_pos drops)),
      copyOf_copyGone _ n, ?_, ?_⟩
    · rw [rdn, rd_copyGone, rd_raise, ← rdn, rdn_cnt_same]
    · rw [ev, raise_occ]
      exact List.mem_append_right _ (List.mem_singleton.mpr rfl)
  case waits =>
    exact congrArg (fun u => Host.Outcome.next (pump u)) ((rxDeliver_few next few).trans (if_neg (by rw [waits]; decide)))

end Sys2Proof.Machine
end

section
/-! SUPPORT. Command queues (19_host_interface.md R521 to R523): the accesses of a command, the polls of a WAIT, the end written back;
the statement about them settled with these. -/
namespace Sys2Proof.Machine

/-! ### A command's turn -/

section
variable {s : State} {q : Nat} {cmd : List Byte}

/-- The command that begins. -/
def cqBegun (s : State) (q : Nat) (cmd : List Byte) : CqCmd := { queue := q, bytes := cmd, since := nowNs s, polled := nowNs s }

/-- A whole command whose turn has come, and which waits for no fence. -/
def MayBegin (s : State) (q : Nat) (cmd : List Byte) : Prop :=
  s.host.cur = none ∧ cmd.length = 64 ∧ cqTurn s q = true ∧ descChecks cmd 64 = true ∧
    ¬ ((byteAt cmd 1).testBit 1 = true ∧ cqFenced s q = true)

theorem cqCommand_runs {op : Nat} (may : MayBegin s q cmd) (asked : byteAt cmd 0 = op) (known : op = 1 ∨ op = 2)
    (one : 1 ≤ leAt cmd 2 2) (six : leAt cmd 2 2 ≤ 6) :
    cqCommand s q op cmd = cqRun cmd q (op == 1) (leAt cmd 2 2) 8 s (cqBegun s q cmd) := by
  obtain ⟨idle, len, turn, good, unfenced⟩ := may
  simp only [cqCommand, idle]
  rw [if_neg (by simp [len, turn]), if_neg (by simp [good]), if_neg (by simpa using unfenced), if_neg (by omega), if_neg (by omega),
    if_neg (by omega), if_neg (by omega)]
  rfl

theorem cqCommand_polls (may : MayBegin s q cmd) (asked : byteAt cmd 0 = 3) (one : 1 ≤ leAt cmd 20 4) (limit : leAt cmd 20 4 ≤ 65535) :
    cqCommand s q 3 cmd = cqPoll s (cqBegun s q cmd) := by
  obtain ⟨idle, len, turn, good, unfenced⟩ := may
  simp only [cqCommand, idle]
  rw [if_neg (by simp [len, turn]), if_neg (by simp [good]), if_neg (by simpa using unfenced), if_neg (by omega), if_neg (by omega),
    if_pos (by trivial), if_neg (by omega)]
  rfl

theorem cqPollAgain_due {c : CqCmd} (current : s.host.cur = some c) (queue : c.queue = q) (wait : byteAt c.bytes 0 = 3)
    (due : c.polled + 100 ≤ nowNs s) : cqPollAgain s q = cqPoll s c := by
  simp only [cqPollAgain, current]
  exact if_pos ⟨queue, wait, elapsed_due due⟩

end

/-! ### The accesses of a command -/

section
variable {s u : State} {q count fuel : Nat} {cmd : List Byte} {c : CqCmd}

theorem cqRun_done (w : Bool) (all : count ≤ c.done) : cqRun cmd q w count (fuel + 1) s c = cqEnd s q cmd 0 0 0 c.reads := by
  rw [cqRun]
  exact if_pos all

theorem cqRun_read {bs : List Byte} (more : c.done < count)
    (access : cqAccess s (fun s => bar0Fetch s (leAt cmd (8 + 4 * c.done) 4) 4) = (.ok bs, 0, u)) :
    cqRun cmd q false count (fuel + 1) s c = cqRun cmd q false count fuel u { c with done := c.done + 1, reads := c.reads ++ [leNat bs] } := by
  rw [cqRun]
  simp only [Nat.not_le.mpr more, access]
  rfl

theorem cqRun_write (more : c.done < count) (access : cqAccess (aroundFree s).2 (fun t => bar0Put t (aroundFree s).1
      (leAt cmd (8 + 8 * c.done) 4) (slice cmd (12 + 8 * c.done) 4) true) = (none, 0, u)) :
    cqRun cmd q true count (fuel + 1) s c = cqRun cmd q true count fuel u { c with done := c.done + 1 } := by
  rw [cqRun]
  simp only [Nat.not_le.mpr more, access]
  rfl

/-- A poll that reads the register, by whether the value matches and TIMEOUT has passed. -/
theorem cqPoll_read {bs : List Byte} (access : cqAccess s (fun s => bar0Fetch s (leAt c.bytes 8 4) 4) = (.ok bs, 0, u)) :
    cqPoll s c = if leNat bs &&& leAt c.bytes 12 4 = leAt c.bytes 16 4 then cqEnd u c.queue c.bytes 0 0 0 [leNat bs]
      else if elapsed u c.since (1000 * leAt c.bytes 20 4) then cqEnd u c.queue c.bytes 4 0 0 [leNat bs]
      else { u with host := { u.host with cur := some { c with polled := nowNs u } } } := by
  simp only [cqPoll, access]
  rfl

end

/-! ### The end of a command (R523) -/

/-- What is written back. -/
def cqBody (s : State) (q : Nat) (cmd : List Byte) (status code index : Nat) (reads : List Nat) : List Byte :=
  slice cmd 4 4 ++ toLE 1 status ++ toLE 1 code ++ toLE 1 index ++ toLE 1 (ringPhase s (32 + q)) ++
    (List.range 6).flatMap (fun i => toLE 4 (reads.getD i 0))

section
variable (s : State) {q : Nat} {cmd : List Byte} (status code index : Nat) (reads : List Nat)

theorem cqBody_spec (whole : cmd.length = 64) : let b := cqBody s q cmd status code index reads
    b.length = 32 ∧ slice b 0 4 = slice cmd 4 4 ∧ byteAt b 4 = status % 256 ∧ byteAt b 5 = code % 256 := by
  obtain ⟨b0, b1, b2, b3, tag⟩ : ∃ b0 b1 b2 b3, slice cmd 4 4 = [b0, b1, b2, b3] := by
    have len : (slice cmd 4 4).length = 4 := by rw [slice, List.length_take, List.length_drop, whole]; rfl
    match slice cmd 4 4, len with
    | [b0, b1, b2, b3], _ => exact ⟨b0, b1, b2, b3, rfl⟩
  have values : ((List.range 6).flatMap fun i => toLE 4 (reads.getD i 0)).length = 24 := by
    simp [List.length_flatMap, length_toLE]
  rw [cqBody, tag]
  refine ⟨?_, rfl, ?_, ?_⟩
  · simp [length_toLE]
  · exact BitVec.toNat_ofNat status 8
  · exact BitVec.toNat_ofNat code 8

/-- The answer leaves, and the command is counted. -/
def cqAnswered (s : State) (q : Nat) (cmd : List Byte) (status code index : Nat) (reads : List Nat) : State :=
  let s := emit s (.hostWrite (rdn s (Reg.HOST_CQq_CMPL q) + 32 * ringHead s (32 + q)) (cqBody s q cmd status code index reads))
  let s := cntWrap s (Reg.HOST_CQq_CMDS q) 1
  if status = 0 then s else cnt s (Reg.HOST_CQq_FAILS q) 1

/-- HEAD advances, and no command is in progress; the ring's vector is still to be raised. -/
def cqLeft (s : State) (q : Nat) : State :=
  let s := ringAdvance s (32 + q)
  { s with host := { s.host with
    cur := none, last := q, admitted := s.host.admitted.erase q, fenced := s.host.fenced.filter (· != q) } }

theorem cqEnd_eq : cqEnd s q cmd status code index reads = if (byteAt cmd 1).testBit 0 = true then
    ringVector (cqLeft (cqAnswered s q cmd status code index reads) q) (32 + q)
    else cqLeft (cqAnswered s q cmd status code index reads) q := rfl

theorem rd_cqAnswered {a : Nat} (counter : a ≠ Reg.HOST_CQq_CMDS q) (fails : a ≠ Reg.HOST_CQq_FAILS q) :
    rd (cqAnswered s q cmd status code index reads) a = rd s a := by
  simp only [cqAnswered]
  split
  · rw [cntWrap, rd_wrn_ne _ counter, rd_emit]
  · rw [rd_cnt_ne _ fails, cntWrap, rd_wrn_ne _ counter, rd_emit]

theorem rdn_cqAnswered_cmds : rdn (cqAnswered s q cmd status code index reads) (Reg.HOST_CQq_CMDS q) =
    (rdn s (Reg.HOST_CQq_CMDS q) + 1) % 2 ^ 64 := by
  have counters : Reg.HOST_CQq_CMDS q ≠ Reg.HOST_CQq_FAILS q := by simp [Reg.HOST_CQq_CMDS, Reg.HOST_CQq_FAILS]
  simp only [cqAnswered]
  split
  · rw [cntWrap, rdn_wrn_same, rdn, rd_emit, ← rdn]
  · rw [rdn, rd_cnt_ne _ counters, ← rdn, cntWrap, rdn_wrn_same, rdn, rd_emit, ← rdn]

theorem cqAnswered_out : (cqAnswered s q cmd status code index reads).out =
    .hostWrite (rdn s (Reg.HOST_CQq_CMPL q) + 32 * ringHead s (32 + q)) (cqBody s q cmd status code index reads) :: s.out := by
  simp only [cqAnswered]
  split <;> rfl

theorem cqLeft_cur (q : Nat) : (cqLeft s q).host.cur = none := rfl
theorem rd_cqLeft (q a : Nat) : rd (cqLeft s q) a = rd (ringAdvance s (32 + q)) a := rfl
theorem cqLeft_out (q : Nat) : (cqLeft s q).out = s.out := ringAdvance_out s (32 + q)

end

/-- A command queue's counters are not its CFG and HEAD. -/
theorem cqCounters_apart (q : Nat) : ringHeadReg (32 + q) ≠ Reg.HOST_CQq_CMDS q ∧ ringHeadReg (32 + q) ≠ Reg.HOST_CQq_FAILS q ∧
    ringCfgReg (32 + q) ≠ Reg.HOST_CQq_CMDS q ∧ ringCfgReg (32 + q) ≠ Reg.HOST_CQq_FAILS q := by
  rw [ringHeadReg, ringCfgReg, ringRegs, if_neg (by omega), if_neg (by omega), Nat.add_sub_cancel_left]
  simp only [Reg.HOST_CQq_BASE, Reg.HOST_CQq_CMDS, Reg.HOST_CQq_FAILS]
  omega

/-- The vector at the end changes no register of the queue. -/
theorem rd_cqEnd (s : State) {q : Nat} (cmd : List Byte) (status code index : Nat) (reads : List Nat) {a : Nat} (below : a < 0x3301000) :
    rd (cqEnd s q cmd status code index reads) a = rd (cqLeft (cqAnswered s q cmd status code index reads) q) a := by
  rw [cqEnd_eq]
  split
  · rw [ringVector, rd_raiseVector _ _ below]
  · rfl

theorem cqEnd_cur (s : State) {q : Nat} (cmd : List Byte) (status code index : Nat) (reads : List Nat) :
    (cqEnd s q cmd status code index reads).host.cur = none := by
  rw [cqEnd_eq]
  split
  · rw [ringVector, raiseVector_host, cqLeft_cur]
  · exact cqLeft_cur ..

theorem mem_cqEnd_out (s : State) {q : Nat} (cmd : List Byte) (status code index : Nat) (reads : List Nat) :
    .hostWrite (rdn s (Reg.HOST_CQq_CMPL q) + 32 * ringHead s (32 + q)) (cqBody s q cmd status code index reads) ∈
      (cqEnd s q cmd status code index reads).out := by
  have answered : Out.hostWrite (rdn s (Reg.HOST_CQq_CMPL q) + 32 * ringHead s (32 + q)) (cqBody s q cmd status code index reads) ∈
      (cqLeft (cqAnswered s q cmd status code index reads) q).out := by
    rw [cqLeft_out, cqAnswered_out]
    exact List.mem_cons_self
  rw [cqEnd_eq]
  split
  · exact mem_raiseVector_out _ _ answered
  · exact answered

/-- HEAD advances at the end. -/
theorem ringHead_cqEnd (s : State) {q : Nat} (queue : q < 4) (cmd : List Byte) (status code index : Nat) (reads : List Nat) :
    ringHead (cqEnd s q cmd status code index reads) (32 + q) = (ringHead s (32 + q) + 1) % ringEntries s (32 + q) % 2 ^ 16 := by
  obtain ⟨headCmds, headFails, cfgCmds, cfgFails⟩ := cqCounters_apart q
  have within := ringRegs_within (e := 32 + q) (by omega)
  rw [ringHead_congr (rd_cqEnd s cmd status code index reads (by rw [ringHeadReg]; omega)), ringHead_congr (rd_cqLeft ..),
    ringHead_ringAdvance, ringHead_congr (rd_cqAnswered s status code index reads headCmds headFails),
    ringEntries_congr (rd_cqAnswered s status code index reads cfgCmds cfgFails)]

theorem rdn_cqEnd_cmds (s : State) {q : Nat} (queue : q < 4) (cmd : List Byte) (status code index : Nat) (reads : List Nat) :
    rdn (cqEnd s q cmd status code index reads) (Reg.HOST_CQq_CMDS q) = (rdn s (Reg.HOST_CQq_CMDS q) + 1) % 2 ^ 64 := by
  obtain ⟨headCmds, -, -, -⟩ := cqCounters_apart q
  rw [rdn, rd_cqEnd _ _ _ _ _ _ (by simp only [Reg.HOST_CQq_CMDS]; omega), rd_cqLeft, rd_ringAdvance_ne _ _ headCmds.symm, ← rdn,
    rdn_cqAnswered_cmds]

/-- Settles O41: a command's beginning by `cqCommand_runs` and `cqCommand_polls`, each access by what it answered, the end by `cqEnd_eq`. -/
theorem commandQueuesRun : Obligations.CommandQueuesRun := by
  unfold Obligations.CommandQueuesRun
  refine ⟨?begins, fun queue c s current asked wait due =>
      ⟨_, congrArg (fun u => Host.Outcome.next (pump u)) (cqPollAgain_due current asked wait due), rfl⟩,
    fun cmd q count fuel s c all w => cqRun_done w all, fun cmd q count fuel s u c bs more access => cqRun_read more access,
    fun cmd q count fuel s u c more access => cqRun_write more access, ?polls, ?ends⟩
  case begins =>
    intro queue cmd s q c idle len turn good unfenced
    have may : MayBegin s q cmd := ⟨idle, len, turn, good, unfenced⟩
    exact ⟨fun asked one six =>
        ⟨_, congrArg (fun u => Host.Outcome.next (pump u)) (cqCommand_runs may asked (.inl rfl) one six), rfl⟩,
      fun asked one six =>
        ⟨_, congrArg (fun u => Host.Outcome.next (pump u)) (cqCommand_runs may asked (.inr rfl) one six), rfl⟩,
      fun asked one limit => ⟨_, congrArg (fun u => Host.Outcome.next (pump u)) (cqCommand_polls may asked one limit), rfl⟩⟩
  case polls =>
    intro s u c bs access hit
    refine ⟨fun hits => (cqPoll_read access).trans (if_pos hits), fun miss late => ?_, fun miss early => ?_⟩
    · exact (cqPoll_read access).trans ((if_neg miss).trans (if_pos (elapsed_due late)))
    · have waiting : ¬ elapsed u c.since (1000 * leAt c.bytes 20 4) = true := by
        simpa using (not_elapsed_iff u c.since (1000 * leAt c.bytes 20 4)).mpr early
      rw [(cqPoll_read access).trans ((if_neg miss).trans (if_neg waiting))]
  case ends =>
    intro s q cmd status code index reads whole t
    obtain ⟨length, tag, told, which⟩ := cqBody_spec s status code index reads whole
    exact ⟨cqEnd_cur .., ringHead_cqEnd s q.isLt cmd status code index reads, rdn_cqEnd_cmds s q.isLt cmd status code index reads,
      cqBody s q.val cmd status code index reads, length, tag, told, which, mem_cqEnd_out ..⟩

end Sys2Proof.Machine
end
